-- ==== Sys2Proof/Word.lean ====
section
/-! DEFINITION. The word types of the device (18, R267; 00, R3): 32-bit words and registers, 64-bit values,
bytes, 57-bit program counters, and the constants that name the width of a team. -/

namespace Sys2Proof

/-- A byte of memory. -/
abbrev Byte := BitVec 8

/-- A 32-bit register or instruction word. -/
abbrev Word := BitVec 32

/-- A 64-bit value: a register pair, a work identifier, a generic address. -/
abbrev DWord := BitVec 64

/-- A program counter: a 57-bit virtual address (R267). -/
abbrev PC := BitVec 57

/-- The team width W of every Adeska part (R19, R21: WCODE 2). -/
abbrev teamWidth : Nat := 64

end Sys2Proof
end

