-- ==== Sys2Proof/Syntax.lean ====
section
/-! DEFINITION. The syntax: one constructor per row of spec/opcode_table.json. Instruction constructors hold the
fields of the row's word in the order of the word, most significant first (18, R269, R270, R281 to R284), as raw
bits; a prefix holds the word that follows it, because a prefix and that word are one unit (R186). Event
constructors hold what identifies the step: a queue, a core, the sequence number of an operation. -/

namespace Sys2Proof

/-- What system software gives when it registers a context (09 R190, 07 R141, 17 R263, 09 R189, 11 R226, R230). -/
structure CtxReg where
  /-- CTXID -/
  ctx : Nat
  /-- the function through which it is registered -/
  fn : Nat
  /-- physical address of the level-0 page table -/
  root : Nat
  /-- spill area: base virtual address and slots -/
  spillBase : DWord
  spillSlots : Nat
  /-- save area SABASE, SASTRIDE, SANSLOT -/
  saBase : DWord
  saStride : Nat
  saSlots : Nat
  /-- address of the fault record, or none -/
  faultRec : Option DWord
  /-- die-shared granules allocated to it: (die, granule of 128 KiB) -/
  dieShared : List (Nat × Nat)
  /-- device-memory granules (physical address div 131072) the security core tags, for a protected context -/
  granules : List Nat
  /-- key slot of the save key, for a protected context -/
  keySlot : Nat
  deriving DecidableEq, Repr

/-- A request that arrives at a Keystone port for device memory (06 R113; 11 R226). -/
structure HostReq where
  /-- the function that issues it; 32 and above stand for a CXL or fabric agent -/
  fn : Nat
  /-- the context whose IDE stream carries it, or none -/
  ide : Option Nat
  /-- physical address in device memory -/
  pa : Nat
  /-- a write of these bytes; none is a read of `n` bytes -/
  data : Option (List Byte)
  n : Nat
  /-- is it the host's access to its own memory, at its own address there, with no part of the device in it? -/
  host : Bool
  deriving DecidableEq, Repr

/-- The instruction set and the device's steps, one constructor per row of the opcode table. -/
inductive Instr where
  -- the lane set (R281, R282)
  | iadd (g : BitVec 3) (d a b : BitVec 7)
  | isub (g : BitVec 3) (d a b : BitVec 7)
  | imul (g : BitVec 3) (d a b : BitVec 7)
  | imulh (g : BitVec 3) (d a b : BitVec 7)
  | imulhu (g : BitVec 3) (d a b : BitVec 7)
  | imad (g : BitVec 3) (d a b : BitVec 7)
  | imin (g : BitVec 3) (d a b : BitVec 7)
  | imax (g : BitVec 3) (d a b : BitVec 7)
  | iminu (g : BitVec 3) (d a b : BitVec 7)
  | imaxu (g : BitVec 3) (d a b : BitVec 7)
  | isel (n : BitVec 3) (d a b : BitVec 7)
  | iabsd (g : BitVec 3) (d a b : BitVec 7)
  | and (g : BitVec 3) (d a b : BitVec 7)
  | or (g : BitVec 3) (d a b : BitVec 7)
  | xor (g : BitVec 3) (d a b : BitVec 7)
  | andn (g : BitVec 3) (d a b : BitVec 7)
  | shl (g : BitVec 3) (d a b : BitVec 7)
  | shr (g : BitVec 3) (d a b : BitVec 7)
  | shra (g : BitVec 3) (d a b : BitVec 7)
  | rotl (g : BitVec 3) (d a b : BitVec 7)
  | popc (g : BitVec 3) (d a : BitVec 7)
  | clz (g : BitVec 3) (d a : BitVec 7)
  | brev (g : BitVec 3) (d a : BitVec 7)
  | bfx (g : BitVec 3) (d a b : BitVec 7)
  | bfi (g : BitVec 3) (d a b : BitVec 7)
  | icmp (g : BitVec 3) (cond : BitVec 4) (p : BitVec 3) (a b : BitVec 7)
  | fcmp (g : BitVec 3) (cond : BitVec 4) (p : BitVec 3) (a b : BitVec 7)
  | mov (g : BitVec 3) (d a : BitVec 7)
  | fadd (g : BitVec 3) (d a b : BitVec 7)
  | fsub (g : BitVec 3) (d a b : BitVec 7)
  | fmul (g : BitVec 3) (d a b : BitVec 7)
  | ffma (g : BitVec 3) (d a b : BitVec 7)
  | fmin (g : BitVec 3) (d a b : BitVec 7)
  | fmax (g : BitVec 3) (d a b : BitVec 7)
  | frnd (g : BitVec 3) (d a code : BitVec 7)
  | fcvt (g : BitVec 3) (d a code : BitVec 7)
  | hadd2 (g : BitVec 3) (d a b : BitVec 7)
  | hmul2 (g : BitVec 3) (d a b : BitVec 7)
  | hfma2 (g : BitVec 3) (d a b : BitVec 7)
  | hmax2 (g : BitVec 3) (d a b : BitVec 7)
  | badd2 (g : BitVec 3) (d a b : BitVec 7)
  | bmul2 (g : BitVec 3) (d a b : BitVec 7)
  | bfma2 (g : BitVec 3) (d a b : BitVec 7)
  | bmax2 (g : BitVec 3) (d a b : BitVec 7)
  | dadd (g : BitVec 3) (d a b : BitVec 7)
  | dmul (g : BitVec 3) (d a b : BitVec 7)
  | dfma (g : BitVec 3) (d a b : BitVec 7)
  | dcvt (g : BitVec 3) (d a code : BitVec 7)
  | vnbr (g : BitVec 3) (d a code : BitVec 7)
  | vscan (g : BitVec 3) (d a code : BitVec 7)
  | vred (g : BitVec 3) (d a code : BitVec 7)
  | vvote (g : BitVec 3) (d : BitVec 7) (p : BitVec 3) (code : BitVec 7)
  | vqnsE2m1 (g : BitVec 3) (d a b : BitVec 7)
  | vqnsI4h (g : BitVec 3) (d a b : BitVec 7)
  | vqnsI8h (g : BitVec 3) (d a b : BitVec 7)
  | vdq (g : BitVec 3) (d a b : BitVec 7)
  | sfq (g : BitVec 3) (d a code : BitVec 7)
  | sread (g : BitVec 3) (d sel : BitVec 7)
  | will (g : BitVec 3) (a b : BitVec 7)
  | heirq (g : BitVec 3) (d b : BitVec 7)
  | pand (g d a b : BitVec 3)
  | por (g d a b : BitVec 3)
  | pxor (g d a b : BitVec 3)
  | pnand (g d a b : BitVec 3)
  | movi (g : BitVec 3) (d : BitVec 7) (imm : BitVec 16)
  | iaddi (g : BitVec 3) (d a : BitVec 7) (imm : BitVec 9)
  | ldB (g : BitVec 3) (d a sb : BitVec 7)
  | ldSb (g : BitVec 3) (d a sb : BitVec 7)
  | ldH (g : BitVec 3) (d a sb : BitVec 7)
  | ldSh (g : BitVec 3) (d a sb : BitVec 7)
  | ldW (g : BitVec 3) (d a sb : BitVec 7)
  | ldD (g : BitVec 3) (d a sb : BitVec 7)
  | ldQ (g : BitVec 3) (d a sb : BitVec 7)
  | prf (g : BitVec 3) (a sb : BitVec 7)
  | stB (g : BitVec 3) (d a sb : BitVec 7)
  | stH (g : BitVec 3) (d a sb : BitVec 7)
  | stW (g : BitVec 3) (d a sb : BitVec 7)
  | stD (g : BitVec 3) (d a sb : BitVec 7)
  | stQ (g : BitVec 3) (d a sb : BitVec 7)
  | atomAdd (sc : BitVec 2) (d a b : BitVec 7)
  | atomFadd (sc : BitVec 2) (d a b : BitVec 7)
  | atomMin (sc : BitVec 2) (d a b : BitVec 7)
  | atomMax (sc : BitVec 2) (d a b : BitVec 7)
  | atomAnd (sc : BitVec 2) (d a b : BitVec 7)
  | atomOr (sc : BitVec 2) (d a b : BitVec 7)
  | atomXor (sc : BitVec 2) (d a b : BitVec 7)
  | atomExch (sc : BitVec 2) (d a b : BitVec 7)
  | red (sc : BitVec 2) (op : BitVec 3) (a b : BitVec 7)
  | casW (sc : BitVec 2) (d a b : BitVec 7)
  | casD (sc : BitVec 2) (d a b : BitVec 7)
  | bra (g : BitVec 3) (off : BitVec 23)
  | call (g : BitVec 3) (off : BitVec 23)
  | ret (g : BitVec 3)
  | jmpr (g : BitVec 3) (a : BitVec 7)
  | exit (g : BitVec 3)
  | reform (g : BitVec 3)
  | join (g k : BitVec 3)
  | sfwait (g : BitVec 3) (mask : BitVec 16)
  | nop (g : BitVec 3)
  | trapl (g : BitVec 3) (code : BitVec 8)
  | ext (imm : BitVec 25) (w : Word)
  | pat (a b : BitVec 8) (w : Word)
  -- the uniform set (R283, R284)
  | sadd (g : BitVec 3) (d a b : BitVec 7)
  | ssub (g : BitVec 3) (d a b : BitVec 7)
  | smul (g : BitVec 3) (d a b : BitVec 7)
  | smulh (g : BitVec 3) (d a b : BitVec 7)
  | sand (g : BitVec 3) (d a b : BitVec 7)
  | sor (g : BitVec 3) (d a b : BitVec 7)
  | sxor (g : BitVec 3) (d a b : BitVec 7)
  | sshl (g : BitVec 3) (d a b : BitVec 7)
  | sshr (g : BitVec 3) (d a b : BitVec 7)
  | sshra (g : BitVec 3) (d a b : BitVec 7)
  | smin (g : BitVec 3) (d a b : BitVec 7)
  | smax (g : BitVec 3) (d a b : BitVec 7)
  | scmp (g : BitVec 3) (cond : BitVec 4) (q : BitVec 3) (a b : BitVec 7)
  | ssel (n : BitVec 3) (d a b : BitVec 7)
  | smov (g : BitVec 3) (d a : BitVec 7)
  | ssr (g : BitVec 3) (d sel : BitVec 7)
  | smovi (g : BitVec 3) (d : BitVec 7) (imm : BitVec 16)
  | saddi (g : BitVec 3) (d a : BitVec 7) (imm : BitVec 9)
  | sldW (g : BitVec 3) (d a imm : BitVec 7)
  | sldD (g : BitVec 3) (d a imm : BitVec 7)
  | sstW (g : BitVec 3) (d a imm : BitVec 7)
  | sstD (g : BitVec 3) (d a imm : BitVec 7)
  | qand (g d a b : BitVec 3)
  | qor (g d a b : BitVec 3)
  | qxor (g d a b : BitVec 3)
  | qnand (g d a b : BitVec 3)
  | sbra (g : BitVec 3) (off : BitVec 23)
  | barSync (g : BitVec 3) (lvl : BitVec 2) (n : BitVec 5)
  | barArv (g : BitVec 3) (lvl : BitVec 2) (n : BitVec 5)
  | barWait (g : BitVec 3) (lvl : BitVec 2) (n : BitVec 5)
  | barQry (g : BitVec 3) (lvl : BitVec 2) (n : BitVec 5) (d : BitVec 7)
  | kset (g d : BitVec 3)
  | kand (g d a b : BitVec 3)
  | kor (g d a b : BitVec 3)
  | kmov (g d a : BitVec 3)
  | waitc (g : BitVec 3) (ld st cp mx : BitVec 4)
  | fence (g : BitVec 3) (sc k : BitVec 2)
  | smode (g : BitVec 3) (a : BitVec 7)
  | yield (g : BitVec 3)
  | mma (g : BitVec 3) (a : BitVec 7) (acc : BitVec 2)
  | aswap (g : BitVec 3) (a : BitVec 7) (acc : BitVec 2)
  | azero (g : BitVec 3) (a : BitVec 7) (acc : BitVec 2)
  | ald (g : BitVec 3) (a : BitVec 7) (acc : BitVec 2)
  | ast (g : BitVec 3) (a : BitVec 7) (acc : BitVec 2)
  | tcopy (g : BitVec 3) (a : BitVec 7)
  | tqst (g : BitVec 3) (a : BitVec 7)
  | tchain (g : BitVec 3) (a : BitVec 7)
  | trot (g : BitVec 3) (a : BitVec 7)
  | awinit (g : BitVec 3) (a b : BitVec 7)
  | awwait (g : BitVec 3) (a b : BitVec 7)
  | awqry (g : BitVec 3) (a d : BitVec 7)
  | tfetch (g q : BitVec 3)
  | bpost (g : BitVec 3) (d a b : BitVec 7)
  | bqry (g : BitVec 3) (d : BitVec 7)
  | sibchk (g : BitVec 3)
  | waitm (g : BitVec 3) (cond : BitVec 4) (a b : BitVec 7)
  | seal (g : BitVec 3) (a b : BitVec 7)
  | unseal (g : BitVec 3) (a b : BitVec 7)
  | qpushD (g : BitVec 3) (d a : BitVec 7)
  | qpushL (g : BitVec 3) (d a : BitVec 7)
  | qpopD (g : BitVec 3) (d a : BitVec 7)
  | qpopL (g : BitVec 3) (d a : BitVec 7)
  | qtryD (g : BitVec 3) (d a : BitVec 7)
  | qtryL (g : BitVec 3) (d a : BitVec 7)
  | trap (g : BitVec 3) (code : BitVec 8)
  | rett (g : BitVec 3) (a : BitVec 7)
  | brkpt (g : BitVec 3)
  -- the steps and events that have no encoding (89)
  | queueDoorbell (q : Nat) (wptr : Word)
  | queueEnableWrite (q : Nat) (val : Word)
  | withdraw (q : Nat) (tag : Word)
  | wclear (q : Nat)
  | queueReset (q : Nat)
  | queueResume (q : Nat)
  | registerWrite (fn off : Nat) (val : Word)
  | launch (q : Nat)
  | fencePacket (q : Nat)
  | fencePacketPoll (q : Nat)
  | signal (q : Nat)
  | batch (q : Nat)
  | sibopen (q : Nat)
  | lineageClose (q : Nat)
  | save (q : Nat)
  | restore (q : Nat)
  | pierPlace (core : Nat)
  | workgroupBirth (core : Nat)
  | pierStop (core : Nat)
  | saveImageWritten (core : Nat)
  | pierResume (core : Nat)
  | pierDiscard (core : Nat)
  | savedWorkgroupExchange (core : Nat)
  | barrierArrivalCounted (id : Nat)
  | tfetchComplete (core : Nat)
  | reformBinTimeout (core : Nat) (key : PC)
  | starvationPriority (core part : Nat) (unif : Bool)
  | sfqResult (id : Nat) (lane : Nat)
  | estateSettle (id : Nat)
  | lineageCloseFinish (id : Nat)
  | engineCommandBegin (id : Nat)
  | multicastFetch (id : Nat)
  | copyChunkWrite (id len : Nat)
  | tensorCommandComplete (id : Nat)
  | loadSatisfy (id : Nat)
  | storeBufferDrain (id : Nat)
  | writePathLeave (id : Nat)
  | clusterAtomicPathLeave (id : Nat)
  | waitmPoll (core team : Nat)
  | l1ViewDrop (core line : Nat)
  | l1ViewFill (core line : Nat)
  | dieCopyDrop (die line : Nat)
  | gateApply (src dst : Nat)
  | portAcknowledge (id : Nat)
  | fenceComplete (id : Nat)
  | qpushEnterRing (id : Nat)
  | qpopDeliver (id : Nat)
  | sealComplete (id : Nat)
  | unsealComplete (id : Nat)
  | pageWalkComplete (die ctx vpage : Nat)
  | faultPost (id : Nat)
  | faultRespReplay (seq : Word)
  | faultRespFail (seq : Word)
  | redReplayBufferMove (id : Nat)
  | softErrorUncorrectable (pa : Nat)
  | spanFlitCrcFail (src dst : Nat)
  | spanLinkDown (src dst : Nat)
  | ballotPostAccept (id : Nat)
  | siblingCancelNotify (slot : Nat)
  | bpostStatusDeliver (id : Nat)
  | bqryResultDeliver (id : Nat)
  | pageReleaseWalk (slot : Nat)
  | accountingRecordWrite (slot : Nat)
  | sibclose (fn : Nat) (handle : Word)
  | lockInterfaceRequest (fn : Nat)
  | startInterfaceRequest (fn : Nat) (respond : Bool)
  | stopInterfaceRequest (fn : Nat)
  | ideStreamFailure (fn : Nat)
  | functionLevelReset (fn : Nat)
  | keyKillAck (slot engine : Nat)
  | keyExchange (fn : Nat)
  | contextRegistration (r : CtxReg)
  | contextEnd (ctx : Nat)
  | hardwareQueueRegistration (ctx : Nat) (desc : DWord)
  | hostRequest (r : HostReq)
  -- the steps with nothing to name, or whose cluster, port or launch is the turn's choice (log 1, DESIGN CHOICE)
  | coreAssign
  | invalidateGo
  | tlbInvalidationDone
  | powerOn
  | recoveryCommit
  | recoveryReboot
  | powerLimitExceeded
  | powerLoss
  | getMeasurements
  | clockStepUp
  | clearSequenceComplete
  | timeSliceEnd
  | viaductLinkDown
  | launchComplete
  deriving DecidableEq, Repr

end Sys2Proof
end

