-- ==== Sys2Proof/Decode.lean ====
section
/-! DEFINITION. The decoder, total on every word and every list of bytes, and the encoder (18, R267 to R284).
A word whose set, group, function or sub-function is reserved, or that has a nonzero reserved bit, is no
instruction; the step raises ILLEGAL_INSN for it. Fields that name registers or codes come out raw: their checks
(R272, R280 steps 3 and 5) belong to the meaning, because a thread whose guard is false makes none of them. -/

namespace Sys2Proof

/-- Bits [lo + len - 1 : lo] of a word as a number. -/
def fld (w lo len : Nat) : Nat := w / 2 ^ lo % 2 ^ len

/-- Bits [lo + len - 1 : lo] of a word as a bit vector. -/
def bits (w lo len : Nat) : BitVec len := BitVec.ofNat len (fld w lo len)

/-- A 32-bit little-endian word at the head of a list of bytes (R3, R267). -/
def takeWord : List Byte → Option (Nat × List Byte)
  | b0 :: b1 :: b2 :: b3 :: rest =>
    some (b0.toNat + b1.toNat * 256 + b2.toNat * 65536 + b3.toNat * 16777216, rest)
  | _ => none

/-- What decoding a list of bytes gives. -/
inductive Decoded where
  /-- a unit, and the bytes after it -/
  | unit (i : Instr) (rest : List Byte)
  /-- no instruction has this word -/
  | reserved (w : Word)
  /-- fewer bytes than the unit needs -/
  | short
  deriving DecidableEq, Repr

/-- Lane group 0x00. -/
def decodeLane00 (w : Nat) : Option Instr :=
  if fld w 0 2 = 0 then some (.iadd (bits w 23 3) (bits w 16 7) (bits w 9 7) (bits w 2 7)) else
  if fld w 0 2 = 1 then some (.isub (bits w 23 3) (bits w 16 7) (bits w 9 7) (bits w 2 7)) else
  if fld w 0 2 = 2 then some (.imul (bits w 23 3) (bits w 16 7) (bits w 9 7) (bits w 2 7)) else
  if fld w 0 2 = 3 then some (.imulh (bits w 23 3) (bits w 16 7) (bits w 9 7) (bits w 2 7)) else
  none

/-- Lane group 0x01. -/
def decodeLane01 (w : Nat) : Option Instr :=
  if fld w 0 2 = 0 then some (.imulhu (bits w 23 3) (bits w 16 7) (bits w 9 7) (bits w 2 7)) else
  if fld w 0 2 = 1 then some (.imad (bits w 23 3) (bits w 16 7) (bits w 9 7) (bits w 2 7)) else
  if fld w 0 2 = 2 then some (.imin (bits w 23 3) (bits w 16 7) (bits w 9 7) (bits w 2 7)) else
  if fld w 0 2 = 3 then some (.imax (bits w 23 3) (bits w 16 7) (bits w 9 7) (bits w 2 7)) else
  none

/-- Lane group 0x02. -/
def decodeLane02 (w : Nat) : Option Instr :=
  if fld w 0 2 = 0 then some (.iminu (bits w 23 3) (bits w 16 7) (bits w 9 7) (bits w 2 7)) else
  if fld w 0 2 = 1 then some (.imaxu (bits w 23 3) (bits w 16 7) (bits w 9 7) (bits w 2 7)) else
  if fld w 0 2 = 2 then some (.isel (bits w 23 3) (bits w 16 7) (bits w 9 7) (bits w 2 7)) else
  if fld w 0 2 = 3 then some (.iabsd (bits w 23 3) (bits w 16 7) (bits w 9 7) (bits w 2 7)) else
  none

/-- Lane group 0x03. -/
def decodeLane03 (w : Nat) : Option Instr :=
  if fld w 0 2 = 0 then some (.and (bits w 23 3) (bits w 16 7) (bits w 9 7) (bits w 2 7)) else
  if fld w 0 2 = 1 then some (.or (bits w 23 3) (bits w 16 7) (bits w 9 7) (bits w 2 7)) else
  if fld w 0 2 = 2 then some (.xor (bits w 23 3) (bits w 16 7) (bits w 9 7) (bits w 2 7)) else
  if fld w 0 2 = 3 then some (.andn (bits w 23 3) (bits w 16 7) (bits w 9 7) (bits w 2 7)) else
  none

/-- Lane group 0x04. -/
def decodeLane04 (w : Nat) : Option Instr :=
  if fld w 0 2 = 0 then some (.shl (bits w 23 3) (bits w 16 7) (bits w 9 7) (bits w 2 7)) else
  if fld w 0 2 = 1 then some (.shr (bits w 23 3) (bits w 16 7) (bits w 9 7) (bits w 2 7)) else
  if fld w 0 2 = 2 then some (.shra (bits w 23 3) (bits w 16 7) (bits w 9 7) (bits w 2 7)) else
  if fld w 0 2 = 3 then some (.rotl (bits w 23 3) (bits w 16 7) (bits w 9 7) (bits w 2 7)) else
  none

/-- Lane group 0x05. -/
def decodeLane05 (w : Nat) : Option Instr :=
  if fld w 0 9 = 0 then some (.popc (bits w 23 3) (bits w 16 7) (bits w 9 7)) else
  if fld w 0 9 = 1 then some (.clz (bits w 23 3) (bits w 16 7) (bits w 9 7)) else
  if fld w 0 9 = 2 then some (.brev (bits w 23 3) (bits w 16 7) (bits w 9 7)) else
  if fld w 0 2 = 3 then some (.bfx (bits w 23 3) (bits w 16 7) (bits w 9 7) (bits w 2 7)) else
  none

/-- Lane group 0x06. -/
def decodeLane06 (w : Nat) : Option Instr :=
  if fld w 0 2 = 0 then some (.bfi (bits w 23 3) (bits w 16 7) (bits w 9 7) (bits w 2 7)) else
  if fld w 0 2 = 1 then some (.icmp (bits w 23 3) (bits w 19 4) (bits w 16 3) (bits w 9 7) (bits w 2 7)) else
  if fld w 0 2 = 2 then some (.fcmp (bits w 23 3) (bits w 19 4) (bits w 16 3) (bits w 9 7) (bits w 2 7)) else
  if fld w 0 9 = 3 then some (.mov (bits w 23 3) (bits w 16 7) (bits w 9 7)) else
  none

/-- Lane group 0x07. -/
def decodeLane07 (w : Nat) : Option Instr :=
  if fld w 0 2 = 0 then some (.fadd (bits w 23 3) (bits w 16 7) (bits w 9 7) (bits w 2 7)) else
  if fld w 0 2 = 1 then some (.fsub (bits w 23 3) (bits w 16 7) (bits w 9 7) (bits w 2 7)) else
  if fld w 0 2 = 2 then some (.fmul (bits w 23 3) (bits w 16 7) (bits w 9 7) (bits w 2 7)) else
  if fld w 0 2 = 3 then some (.ffma (bits w 23 3) (bits w 16 7) (bits w 9 7) (bits w 2 7)) else
  none

/-- Lane group 0x08. -/
def decodeLane08 (w : Nat) : Option Instr :=
  if fld w 0 2 = 0 then some (.fmin (bits w 23 3) (bits w 16 7) (bits w 9 7) (bits w 2 7)) else
  if fld w 0 2 = 1 then some (.fmax (bits w 23 3) (bits w 16 7) (bits w 9 7) (bits w 2 7)) else
  if fld w 0 2 = 2 then some (.frnd (bits w 23 3) (bits w 16 7) (bits w 9 7) (bits w 2 7)) else
  if fld w 0 2 = 3 then some (.fcvt (bits w 23 3) (bits w 16 7) (bits w 9 7) (bits w 2 7)) else
  none

/-- Lane group 0x09. -/
def decodeLane09 (w : Nat) : Option Instr :=
  if fld w 0 2 = 0 then some (.hadd2 (bits w 23 3) (bits w 16 7) (bits w 9 7) (bits w 2 7)) else
  if fld w 0 2 = 1 then some (.hmul2 (bits w 23 3) (bits w 16 7) (bits w 9 7) (bits w 2 7)) else
  if fld w 0 2 = 2 then some (.hfma2 (bits w 23 3) (bits w 16 7) (bits w 9 7) (bits w 2 7)) else
  if fld w 0 2 = 3 then some (.hmax2 (bits w 23 3) (bits w 16 7) (bits w 9 7) (bits w 2 7)) else
  none

/-- Lane group 0x0A. -/
def decodeLane0A (w : Nat) : Option Instr :=
  if fld w 0 2 = 0 then some (.badd2 (bits w 23 3) (bits w 16 7) (bits w 9 7) (bits w 2 7)) else
  if fld w 0 2 = 1 then some (.bmul2 (bits w 23 3) (bits w 16 7) (bits w 9 7) (bits w 2 7)) else
  if fld w 0 2 = 2 then some (.bfma2 (bits w 23 3) (bits w 16 7) (bits w 9 7) (bits w 2 7)) else
  if fld w 0 2 = 3 then some (.bmax2 (bits w 23 3) (bits w 16 7) (bits w 9 7) (bits w 2 7)) else
  none

/-- Lane group 0x0B. -/
def decodeLane0B (w : Nat) : Option Instr :=
  if fld w 0 2 = 0 then some (.dadd (bits w 23 3) (bits w 16 7) (bits w 9 7) (bits w 2 7)) else
  if fld w 0 2 = 1 then some (.dmul (bits w 23 3) (bits w 16 7) (bits w 9 7) (bits w 2 7)) else
  if fld w 0 2 = 2 then some (.dfma (bits w 23 3) (bits w 16 7) (bits w 9 7) (bits w 2 7)) else
  if fld w 0 2 = 3 then some (.dcvt (bits w 23 3) (bits w 16 7) (bits w 9 7) (bits w 2 7)) else
  none

/-- Lane group 0x0C. -/
def decodeLane0C (w : Nat) : Option Instr :=
  if fld w 0 2 = 0 then some (.vnbr (bits w 23 3) (bits w 16 7) (bits w 9 7) (bits w 2 7)) else
  if fld w 0 2 = 1 then some (.vscan (bits w 23 3) (bits w 16 7) (bits w 9 7) (bits w 2 7)) else
  if fld w 0 2 = 2 then some (.vred (bits w 23 3) (bits w 16 7) (bits w 9 7) (bits w 2 7)) else
  if fld w 0 2 = 3 ∧ fld w 12 4 = 0 then some (.vvote (bits w 23 3) (bits w 16 7) (bits w 9 3) (bits w 2 7)) else
  none

/-- Lane group 0x0D. -/
def decodeLane0D (w : Nat) : Option Instr :=
  if fld w 0 2 = 0 then some (.vqnsE2m1 (bits w 23 3) (bits w 16 7) (bits w 9 7) (bits w 2 7)) else
  if fld w 0 2 = 1 then some (.vqnsI4h (bits w 23 3) (bits w 16 7) (bits w 9 7) (bits w 2 7)) else
  if fld w 0 2 = 2 then some (.vqnsI8h (bits w 23 3) (bits w 16 7) (bits w 9 7) (bits w 2 7)) else
  if fld w 0 2 = 3 then some (.vdq (bits w 23 3) (bits w 16 7) (bits w 9 7) (bits w 2 7)) else
  none

/-- Lane group 0x0E. -/
def decodeLane0E (w : Nat) : Option Instr :=
  if fld w 0 2 = 0 then some (.sfq (bits w 23 3) (bits w 16 7) (bits w 9 7) (bits w 2 7)) else
  if fld w 0 9 = 1 then some (.sread (bits w 23 3) (bits w 16 7) (bits w 9 7)) else
  if fld w 0 2 = 2 ∧ fld w 16 7 = 0 then some (.will (bits w 23 3) (bits w 9 7) (bits w 2 7)) else
  if fld w 0 2 = 3 ∧ fld w 9 7 = 0 then some (.heirq (bits w 23 3) (bits w 16 7) (bits w 2 7)) else
  none

/-- Lane group 0x0F. -/
def decodeLane0F (w : Nat) : Option Instr :=
  if fld w 0 2 = 0 ∧ fld w 5 4 = 0 ∧ fld w 12 4 = 0 ∧ fld w 19 4 = 0 then some (.pand (bits w 23 3) (bits w 16 3) (bits w 9 3) (bits w 2 3)) else
  if fld w 0 2 = 1 ∧ fld w 5 4 = 0 ∧ fld w 12 4 = 0 ∧ fld w 19 4 = 0 then some (.por (bits w 23 3) (bits w 16 3) (bits w 9 3) (bits w 2 3)) else
  if fld w 0 2 = 2 ∧ fld w 5 4 = 0 ∧ fld w 12 4 = 0 ∧ fld w 19 4 = 0 then some (.pxor (bits w 23 3) (bits w 16 3) (bits w 9 3) (bits w 2 3)) else
  if fld w 0 2 = 3 ∧ fld w 5 4 = 0 ∧ fld w 12 4 = 0 ∧ fld w 19 4 = 0 then some (.pnand (bits w 23 3) (bits w 16 3) (bits w 9 3) (bits w 2 3)) else
  none

/-- Lane group 0x10. -/
def decodeLane10 (w : Nat) : Option Instr :=
  some (.movi (bits w 23 3) (bits w 16 7) (bits w 0 16))

/-- Lane group 0x11. -/
def decodeLane11 (w : Nat) : Option Instr :=
  some (.iaddi (bits w 23 3) (bits w 16 7) (bits w 9 7) (bits w 0 9))

/-- Lane group 0x12. -/
def decodeLane12 (w : Nat) : Option Instr :=
  if fld w 0 2 = 0 then some (.ldB (bits w 23 3) (bits w 16 7) (bits w 9 7) (bits w 2 7)) else
  if fld w 0 2 = 1 then some (.ldSb (bits w 23 3) (bits w 16 7) (bits w 9 7) (bits w 2 7)) else
  if fld w 0 2 = 2 then some (.ldH (bits w 23 3) (bits w 16 7) (bits w 9 7) (bits w 2 7)) else
  if fld w 0 2 = 3 then some (.ldSh (bits w 23 3) (bits w 16 7) (bits w 9 7) (bits w 2 7)) else
  none

/-- Lane group 0x13. -/
def decodeLane13 (w : Nat) : Option Instr :=
  if fld w 0 2 = 0 then some (.ldW (bits w 23 3) (bits w 16 7) (bits w 9 7) (bits w 2 7)) else
  if fld w 0 2 = 1 then some (.ldD (bits w 23 3) (bits w 16 7) (bits w 9 7) (bits w 2 7)) else
  if fld w 0 2 = 2 then some (.ldQ (bits w 23 3) (bits w 16 7) (bits w 9 7) (bits w 2 7)) else
  if fld w 0 2 = 3 ∧ fld w 16 7 = 0 then some (.prf (bits w 23 3) (bits w 9 7) (bits w 2 7)) else
  none

/-- Lane group 0x14. -/
def decodeLane14 (w : Nat) : Option Instr :=
  if fld w 0 2 = 0 then some (.stB (bits w 23 3) (bits w 16 7) (bits w 9 7) (bits w 2 7)) else
  if fld w 0 2 = 1 then some (.stH (bits w 23 3) (bits w 16 7) (bits w 9 7) (bits w 2 7)) else
  if fld w 0 2 = 2 then some (.stW (bits w 23 3) (bits w 16 7) (bits w 9 7) (bits w 2 7)) else
  if fld w 0 2 = 3 then some (.stD (bits w 23 3) (bits w 16 7) (bits w 9 7) (bits w 2 7)) else
  none

/-- Lane group 0x15. -/
def decodeLane15 (w : Nat) : Option Instr :=
  if fld w 0 2 = 0 then some (.stQ (bits w 23 3) (bits w 16 7) (bits w 9 7) (bits w 2 7)) else
  none

/-- Lane group 0x16. -/
def decodeLane16 (w : Nat) : Option Instr :=
  if fld w 0 2 = 0 ∧ fld w 23 1 = 0 then some (.atomAdd (bits w 24 2) (bits w 16 7) (bits w 9 7) (bits w 2 7)) else
  if fld w 0 2 = 1 ∧ fld w 23 1 = 0 then some (.atomFadd (bits w 24 2) (bits w 16 7) (bits w 9 7) (bits w 2 7)) else
  if fld w 0 2 = 2 ∧ fld w 23 1 = 0 then some (.atomMin (bits w 24 2) (bits w 16 7) (bits w 9 7) (bits w 2 7)) else
  if fld w 0 2 = 3 ∧ fld w 23 1 = 0 then some (.atomMax (bits w 24 2) (bits w 16 7) (bits w 9 7) (bits w 2 7)) else
  none

/-- Lane group 0x17. -/
def decodeLane17 (w : Nat) : Option Instr :=
  if fld w 0 2 = 0 ∧ fld w 23 1 = 0 then some (.atomAnd (bits w 24 2) (bits w 16 7) (bits w 9 7) (bits w 2 7)) else
  if fld w 0 2 = 1 ∧ fld w 23 1 = 0 then some (.atomOr (bits w 24 2) (bits w 16 7) (bits w 9 7) (bits w 2 7)) else
  if fld w 0 2 = 2 ∧ fld w 23 1 = 0 then some (.atomXor (bits w 24 2) (bits w 16 7) (bits w 9 7) (bits w 2 7)) else
  if fld w 0 2 = 3 ∧ fld w 23 1 = 0 then some (.atomExch (bits w 24 2) (bits w 16 7) (bits w 9 7) (bits w 2 7)) else
  none

/-- Lane group 0x18. -/
def decodeLane18 (w : Nat) : Option Instr :=
  if fld w 0 2 = 0 ∧ fld w 16 4 = 0 ∧ fld w 23 1 = 0 then some (.red (bits w 24 2) (bits w 20 3) (bits w 9 7) (bits w 2 7)) else
  none

/-- Lane group 0x19. -/
def decodeLane19 (w : Nat) : Option Instr :=
  if fld w 0 2 = 0 ∧ fld w 23 1 = 0 then some (.casW (bits w 24 2) (bits w 16 7) (bits w 9 7) (bits w 2 7)) else
  if fld w 0 2 = 1 ∧ fld w 23 1 = 0 then some (.casD (bits w 24 2) (bits w 16 7) (bits w 9 7) (bits w 2 7)) else
  none

/-- Lane group 0x1C. -/
def decodeLane1C (w : Nat) : Option Instr :=
  some (.bra (bits w 23 3) (bits w 0 23))

/-- Lane group 0x1D. -/
def decodeLane1D (w : Nat) : Option Instr :=
  some (.call (bits w 23 3) (bits w 0 23))

/-- Lane group 0x1E. -/
def decodeLane1E (w : Nat) : Option Instr :=
  if fld w 0 23 = 0 then some (.ret (bits w 23 3)) else
  if fld w 0 9 = 0 ∧ fld w 16 7 = 8 then some (.jmpr (bits w 23 3) (bits w 9 7)) else
  if fld w 0 23 = 1048576 then some (.exit (bits w 23 3)) else
  if fld w 0 23 = 1572864 then some (.reform (bits w 23 3)) else
  if fld w 3 20 = 262144 then some (.join (bits w 23 3) (bits w 0 3)) else
  if fld w 16 7 = 40 then some (.sfwait (bits w 23 3) (bits w 0 16)) else
  if fld w 0 23 = 3145728 then some (.nop (bits w 23 3)) else
  if fld w 8 15 = 14336 then some (.trapl (bits w 23 3) (bits w 0 8)) else
  none

/-- Lane group 0x1F. -/
def decodeLane1F (w : Nat) : Option Instr :=
  if fld w 25 1 = 0 then some (.ext (bits w 0 25) 0) else
  if fld w 0 9 = 0 ∧ fld w 25 1 = 1 then some (.pat (bits w 17 8) (bits w 9 8) 0) else
  none

/-- Uniform group 0x00. -/
def decodeUnif00 (w : Nat) : Option Instr :=
  if fld w 0 2 = 0 then some (.sadd (bits w 23 3) (bits w 16 7) (bits w 9 7) (bits w 2 7)) else
  if fld w 0 2 = 1 then some (.ssub (bits w 23 3) (bits w 16 7) (bits w 9 7) (bits w 2 7)) else
  if fld w 0 2 = 2 then some (.smul (bits w 23 3) (bits w 16 7) (bits w 9 7) (bits w 2 7)) else
  if fld w 0 2 = 3 then some (.smulh (bits w 23 3) (bits w 16 7) (bits w 9 7) (bits w 2 7)) else
  none

/-- Uniform group 0x01. -/
def decodeUnif01 (w : Nat) : Option Instr :=
  if fld w 0 2 = 0 then some (.sand (bits w 23 3) (bits w 16 7) (bits w 9 7) (bits w 2 7)) else
  if fld w 0 2 = 1 then some (.sor (bits w 23 3) (bits w 16 7) (bits w 9 7) (bits w 2 7)) else
  if fld w 0 2 = 2 then some (.sxor (bits w 23 3) (bits w 16 7) (bits w 9 7) (bits w 2 7)) else
  if fld w 0 2 = 3 then some (.sshl (bits w 23 3) (bits w 16 7) (bits w 9 7) (bits w 2 7)) else
  none

/-- Uniform group 0x02. -/
def decodeUnif02 (w : Nat) : Option Instr :=
  if fld w 0 2 = 0 then some (.sshr (bits w 23 3) (bits w 16 7) (bits w 9 7) (bits w 2 7)) else
  if fld w 0 2 = 1 then some (.sshra (bits w 23 3) (bits w 16 7) (bits w 9 7) (bits w 2 7)) else
  if fld w 0 2 = 2 then some (.smin (bits w 23 3) (bits w 16 7) (bits w 9 7) (bits w 2 7)) else
  if fld w 0 2 = 3 then some (.smax (bits w 23 3) (bits w 16 7) (bits w 9 7) (bits w 2 7)) else
  none

/-- Uniform group 0x03. -/
def decodeUnif03 (w : Nat) : Option Instr :=
  if fld w 0 2 = 0 then some (.scmp (bits w 23 3) (bits w 19 4) (bits w 16 3) (bits w 9 7) (bits w 2 7)) else
  if fld w 0 2 = 1 then some (.ssel (bits w 23 3) (bits w 16 7) (bits w 9 7) (bits w 2 7)) else
  if fld w 0 9 = 2 then some (.smov (bits w 23 3) (bits w 16 7) (bits w 9 7)) else
  if fld w 0 9 = 3 then some (.ssr (bits w 23 3) (bits w 16 7) (bits w 9 7)) else
  none

/-- Uniform group 0x04. -/
def decodeUnif04 (w : Nat) : Option Instr :=
  some (.smovi (bits w 23 3) (bits w 16 7) (bits w 0 16))

/-- Uniform group 0x05. -/
def decodeUnif05 (w : Nat) : Option Instr :=
  some (.saddi (bits w 23 3) (bits w 16 7) (bits w 9 7) (bits w 0 9))

/-- Uniform group 0x06. -/
def decodeUnif06 (w : Nat) : Option Instr :=
  if fld w 0 2 = 0 then some (.sldW (bits w 23 3) (bits w 16 7) (bits w 9 7) (bits w 2 7)) else
  if fld w 0 2 = 1 then some (.sldD (bits w 23 3) (bits w 16 7) (bits w 9 7) (bits w 2 7)) else
  if fld w 0 2 = 2 then some (.sstW (bits w 23 3) (bits w 16 7) (bits w 9 7) (bits w 2 7)) else
  if fld w 0 2 = 3 then some (.sstD (bits w 23 3) (bits w 16 7) (bits w 9 7) (bits w 2 7)) else
  none

/-- Uniform group 0x07. -/
def decodeUnif07 (w : Nat) : Option Instr :=
  if fld w 0 2 = 0 ∧ fld w 5 4 = 0 ∧ fld w 12 4 = 0 ∧ fld w 19 4 = 0 then some (.qand (bits w 23 3) (bits w 16 3) (bits w 9 3) (bits w 2 3)) else
  if fld w 0 2 = 1 ∧ fld w 5 4 = 0 ∧ fld w 12 4 = 0 ∧ fld w 19 4 = 0 then some (.qor (bits w 23 3) (bits w 16 3) (bits w 9 3) (bits w 2 3)) else
  if fld w 0 2 = 2 ∧ fld w 5 4 = 0 ∧ fld w 12 4 = 0 ∧ fld w 19 4 = 0 then some (.qxor (bits w 23 3) (bits w 16 3) (bits w 9 3) (bits w 2 3)) else
  if fld w 0 2 = 3 ∧ fld w 5 4 = 0 ∧ fld w 12 4 = 0 ∧ fld w 19 4 = 0 then some (.qnand (bits w 23 3) (bits w 16 3) (bits w 9 3) (bits w 2 3)) else
  none

/-- Uniform group 0x08. -/
def decodeUnif08 (w : Nat) : Option Instr :=
  some (.sbra (bits w 23 3) (bits w 0 23))

/-- Uniform group 0x09. -/
def decodeUnif09 (w : Nat) : Option Instr :=
  if fld w 0 16 = 0 then some (.barSync (bits w 23 3) (bits w 21 2) (bits w 16 5)) else
  if fld w 0 16 = 1 then some (.barArv (bits w 23 3) (bits w 21 2) (bits w 16 5)) else
  if fld w 0 16 = 2 then some (.barWait (bits w 23 3) (bits w 21 2) (bits w 16 5)) else
  if fld w 0 9 = 3 then some (.barQry (bits w 23 3) (bits w 21 2) (bits w 16 5) (bits w 9 7)) else
  none

/-- Uniform group 0x0A. -/
def decodeUnif0A (w : Nat) : Option Instr :=
  if fld w 0 16 = 0 ∧ fld w 19 4 = 0 then some (.kset (bits w 23 3) (bits w 16 3)) else
  if fld w 0 2 = 1 ∧ fld w 5 4 = 0 ∧ fld w 12 4 = 0 ∧ fld w 19 4 = 0 then some (.kand (bits w 23 3) (bits w 16 3) (bits w 9 3) (bits w 2 3)) else
  if fld w 0 2 = 2 ∧ fld w 5 4 = 0 ∧ fld w 12 4 = 0 ∧ fld w 19 4 = 0 then some (.kor (bits w 23 3) (bits w 16 3) (bits w 9 3) (bits w 2 3)) else
  if fld w 0 9 = 3 ∧ fld w 12 4 = 0 ∧ fld w 19 4 = 0 then some (.kmov (bits w 23 3) (bits w 16 3) (bits w 9 3)) else
  none

/-- Uniform group 0x0B. -/
def decodeUnif0B (w : Nat) : Option Instr :=
  if fld w 0 7 = 0 then some (.waitc (bits w 23 3) (bits w 19 4) (bits w 15 4) (bits w 11 4) (bits w 7 4)) else
  if fld w 0 19 = 1 then some (.fence (bits w 23 3) (bits w 21 2) (bits w 19 2)) else
  if fld w 0 9 = 2 ∧ fld w 16 7 = 0 then some (.smode (bits w 23 3) (bits w 9 7)) else
  if fld w 0 23 = 3 then some (.yield (bits w 23 3)) else
  none

/-- Uniform group 0x0C. -/
def decodeUnif0C (w : Nat) : Option Instr :=
  if fld w 0 2 = 0 ∧ fld w 4 12 = 0 then some (.mma (bits w 23 3) (bits w 16 7) (bits w 2 2)) else
  if fld w 0 2 = 1 ∧ fld w 4 12 = 0 then some (.aswap (bits w 23 3) (bits w 16 7) (bits w 2 2)) else
  if fld w 0 2 = 2 ∧ fld w 4 12 = 0 then some (.azero (bits w 23 3) (bits w 16 7) (bits w 2 2)) else
  none

/-- Uniform group 0x0D. -/
def decodeUnif0D (w : Nat) : Option Instr :=
  if fld w 0 2 = 0 ∧ fld w 4 12 = 0 then some (.ald (bits w 23 3) (bits w 16 7) (bits w 2 2)) else
  if fld w 0 2 = 1 ∧ fld w 4 12 = 0 then some (.ast (bits w 23 3) (bits w 16 7) (bits w 2 2)) else
  none

/-- Uniform group 0x0E. -/
def decodeUnif0E (w : Nat) : Option Instr :=
  if fld w 0 16 = 0 then some (.tcopy (bits w 23 3) (bits w 16 7)) else
  if fld w 0 16 = 1 then some (.tqst (bits w 23 3) (bits w 16 7)) else
  if fld w 0 16 = 2 then some (.tchain (bits w 23 3) (bits w 16 7)) else
  if fld w 0 16 = 3 then some (.trot (bits w 23 3) (bits w 16 7)) else
  none

/-- Uniform group 0x0F. -/
def decodeUnif0F (w : Nat) : Option Instr :=
  if fld w 0 2 = 0 ∧ fld w 9 7 = 0 then some (.awinit (bits w 23 3) (bits w 16 7) (bits w 2 7)) else
  if fld w 0 2 = 1 ∧ fld w 9 7 = 0 then some (.awwait (bits w 23 3) (bits w 16 7) (bits w 2 7)) else
  if fld w 0 9 = 2 then some (.awqry (bits w 23 3) (bits w 16 7) (bits w 9 7)) else
  if fld w 0 2 = 3 ∧ fld w 5 18 = 0 then some (.tfetch (bits w 23 3) (bits w 2 3)) else
  none

/-- Uniform group 0x10. -/
def decodeUnif10 (w : Nat) : Option Instr :=
  if fld w 0 2 = 0 then some (.bpost (bits w 23 3) (bits w 16 7) (bits w 9 7) (bits w 2 7)) else
  if fld w 0 16 = 1 then some (.bqry (bits w 23 3) (bits w 16 7)) else
  if fld w 0 23 = 2 then some (.sibchk (bits w 23 3)) else
  none

/-- Uniform group 0x11. -/
def decodeUnif11 (w : Nat) : Option Instr :=
  if fld w 0 2 = 0 ∧ fld w 16 3 = 0 then some (.waitm (bits w 23 3) (bits w 19 4) (bits w 9 7) (bits w 2 7)) else
  if fld w 0 2 = 1 ∧ fld w 16 7 = 0 then some (.seal (bits w 23 3) (bits w 9 7) (bits w 2 7)) else
  if fld w 0 2 = 2 ∧ fld w 16 7 = 0 then some (.unseal (bits w 23 3) (bits w 9 7) (bits w 2 7)) else
  none

/-- Uniform group 0x12. -/
def decodeUnif12 (w : Nat) : Option Instr :=
  if fld w 0 9 = 0 then some (.qpushD (bits w 23 3) (bits w 16 7) (bits w 9 7)) else
  if fld w 0 9 = 4 then some (.qpushL (bits w 23 3) (bits w 16 7) (bits w 9 7)) else
  if fld w 0 9 = 1 then some (.qpopD (bits w 23 3) (bits w 16 7) (bits w 9 7)) else
  if fld w 0 9 = 5 then some (.qpopL (bits w 23 3) (bits w 16 7) (bits w 9 7)) else
  if fld w 0 9 = 2 then some (.qtryD (bits w 23 3) (bits w 16 7) (bits w 9 7)) else
  if fld w 0 9 = 6 then some (.qtryL (bits w 23 3) (bits w 16 7) (bits w 9 7)) else
  none

/-- Uniform group 0x13. -/
def decodeUnif13 (w : Nat) : Option Instr :=
  if fld w 0 2 = 0 ∧ fld w 10 13 = 0 then some (.trap (bits w 23 3) (bits w 2 8)) else
  if fld w 0 9 = 1 ∧ fld w 16 7 = 0 then some (.rett (bits w 23 3) (bits w 9 7)) else
  if fld w 0 23 = 2 then some (.brkpt (bits w 23 3)) else
  none

/-- The instruction of a word, its set from bit 31 and its group from bits [30:26] (R267, R281, R283): none for a
reserved group, function or sub-function and for a nonzero reserved bit. -/
def decodeWord (w : Nat) : Option Instr :=
  match fld w 31 1, fld w 26 5 with
  | 0, 0 => decodeLane00 w
  | 0, 1 => decodeLane01 w
  | 0, 2 => decodeLane02 w
  | 0, 3 => decodeLane03 w
  | 0, 4 => decodeLane04 w
  | 0, 5 => decodeLane05 w
  | 0, 6 => decodeLane06 w
  | 0, 7 => decodeLane07 w
  | 0, 8 => decodeLane08 w
  | 0, 9 => decodeLane09 w
  | 0, 10 => decodeLane0A w
  | 0, 11 => decodeLane0B w
  | 0, 12 => decodeLane0C w
  | 0, 13 => decodeLane0D w
  | 0, 14 => decodeLane0E w
  | 0, 15 => decodeLane0F w
  | 0, 16 => decodeLane10 w
  | 0, 17 => decodeLane11 w
  | 0, 18 => decodeLane12 w
  | 0, 19 => decodeLane13 w
  | 0, 20 => decodeLane14 w
  | 0, 21 => decodeLane15 w
  | 0, 22 => decodeLane16 w
  | 0, 23 => decodeLane17 w
  | 0, 24 => decodeLane18 w
  | 0, 25 => decodeLane19 w
  | 0, 28 => decodeLane1C w
  | 0, 29 => decodeLane1D w
  | 0, 30 => decodeLane1E w
  | 0, 31 => decodeLane1F w
  | 1, 0 => decodeUnif00 w
  | 1, 1 => decodeUnif01 w
  | 1, 2 => decodeUnif02 w
  | 1, 3 => decodeUnif03 w
  | 1, 4 => decodeUnif04 w
  | 1, 5 => decodeUnif05 w
  | 1, 6 => decodeUnif06 w
  | 1, 7 => decodeUnif07 w
  | 1, 8 => decodeUnif08 w
  | 1, 9 => decodeUnif09 w
  | 1, 10 => decodeUnif0A w
  | 1, 11 => decodeUnif0B w
  | 1, 12 => decodeUnif0C w
  | 1, 13 => decodeUnif0D w
  | 1, 14 => decodeUnif0E w
  | 1, 15 => decodeUnif0F w
  | 1, 16 => decodeUnif10 w
  | 1, 17 => decodeUnif11 w
  | 1, 18 => decodeUnif12 w
  | 1, 19 => decodeUnif13 w
  | _, _ => none

/-- Is the word a prefix (R269, format LP)? -/
def isPrefixWord (w : Nat) : Bool := fld w 26 6 = 31

/-- The unit that begins with word `w0`; `w1` is the word after it, used only by a prefix (R186, R277 to R279). -/
def decodeUnit (w0 w1 : Nat) : Option Instr :=
  match decodeWord w0 with
  | some (.ext imm _) => some (.ext imm (BitVec.ofNat 32 w1))
  | some (.pat a b _) => some (.pat a b (BitVec.ofNat 32 w1))
  | r => r

/-- The decoder: the unit at the head of a list of bytes. -/
def decode (bs : List Byte) : Decoded :=
  match takeWord bs with
  | none => .short
  | some (w0, rest) =>
    if isPrefixWord w0 then
      match takeWord rest with
      | none => .short
      | some (w1, rest1) =>
        match decodeUnit w0 w1 with
        | some i => .unit i rest1
        | none => .reserved (BitVec.ofNat 32 w0)
    else
      match decodeUnit w0 0 with
      | some i => .unit i rest
      | none => .reserved (BitVec.ofNat 32 w0)

/-- The `n` bytes of a number, least significant first. -/
def leBytes : Nat → Nat → List Byte
  | 0, _ => []
  | n + 1, w => BitVec.ofNat 8 w :: leBytes n (w / 256)

/-- The host's question: the instruction this decoder reads from an instruction whose bits are `w`, with zeros
after them up to the longest unit (two words). Words are stored little-endian (R3). -/
def decodeTableWord (nbits w : Nat) : Option Instr :=
  match decode (leBytes 8 (w % 2 ^ nbits)) with
  | .unit i _ => some i
  | _ => none

/-! ### The encoder -/

/-- The word of an instruction, from the formats of R269 and R270 and the maps of R281 to R284; a prefix gives its
own word (the word after it is `unitWords`'s second). 0 for an event, which has no encoding. -/
def encodeWord : Instr → Nat
  | .iadd g d a b => 0x00000000 + g.toNat * 8388608 + d.toNat * 65536 + a.toNat * 512 + b.toNat * 4
  | .isub g d a b => 0x00000001 + g.toNat * 8388608 + d.toNat * 65536 + a.toNat * 512 + b.toNat * 4
  | .imul g d a b => 0x00000002 + g.toNat * 8388608 + d.toNat * 65536 + a.toNat * 512 + b.toNat * 4
  | .imulh g d a b => 0x00000003 + g.toNat * 8388608 + d.toNat * 65536 + a.toNat * 512 + b.toNat * 4
  | .imulhu g d a b => 0x04000000 + g.toNat * 8388608 + d.toNat * 65536 + a.toNat * 512 + b.toNat * 4
  | .imad g d a b => 0x04000001 + g.toNat * 8388608 + d.toNat * 65536 + a.toNat * 512 + b.toNat * 4
  | .imin g d a b => 0x04000002 + g.toNat * 8388608 + d.toNat * 65536 + a.toNat * 512 + b.toNat * 4
  | .imax g d a b => 0x04000003 + g.toNat * 8388608 + d.toNat * 65536 + a.toNat * 512 + b.toNat * 4
  | .iminu g d a b => 0x08000000 + g.toNat * 8388608 + d.toNat * 65536 + a.toNat * 512 + b.toNat * 4
  | .imaxu g d a b => 0x08000001 + g.toNat * 8388608 + d.toNat * 65536 + a.toNat * 512 + b.toNat * 4
  | .isel n d a b => 0x08000002 + n.toNat * 8388608 + d.toNat * 65536 + a.toNat * 512 + b.toNat * 4
  | .iabsd g d a b => 0x08000003 + g.toNat * 8388608 + d.toNat * 65536 + a.toNat * 512 + b.toNat * 4
  | .and g d a b => 0x0C000000 + g.toNat * 8388608 + d.toNat * 65536 + a.toNat * 512 + b.toNat * 4
  | .or g d a b => 0x0C000001 + g.toNat * 8388608 + d.toNat * 65536 + a.toNat * 512 + b.toNat * 4
  | .xor g d a b => 0x0C000002 + g.toNat * 8388608 + d.toNat * 65536 + a.toNat * 512 + b.toNat * 4
  | .andn g d a b => 0x0C000003 + g.toNat * 8388608 + d.toNat * 65536 + a.toNat * 512 + b.toNat * 4
  | .shl g d a b => 0x10000000 + g.toNat * 8388608 + d.toNat * 65536 + a.toNat * 512 + b.toNat * 4
  | .shr g d a b => 0x10000001 + g.toNat * 8388608 + d.toNat * 65536 + a.toNat * 512 + b.toNat * 4
  | .shra g d a b => 0x10000002 + g.toNat * 8388608 + d.toNat * 65536 + a.toNat * 512 + b.toNat * 4
  | .rotl g d a b => 0x10000003 + g.toNat * 8388608 + d.toNat * 65536 + a.toNat * 512 + b.toNat * 4
  | .popc g d a => 0x14000000 + g.toNat * 8388608 + d.toNat * 65536 + a.toNat * 512
  | .clz g d a => 0x14000001 + g.toNat * 8388608 + d.toNat * 65536 + a.toNat * 512
  | .brev g d a => 0x14000002 + g.toNat * 8388608 + d.toNat * 65536 + a.toNat * 512
  | .bfx g d a b => 0x14000003 + g.toNat * 8388608 + d.toNat * 65536 + a.toNat * 512 + b.toNat * 4
  | .bfi g d a b => 0x18000000 + g.toNat * 8388608 + d.toNat * 65536 + a.toNat * 512 + b.toNat * 4
  | .icmp g cond p a b => 0x18000001 + g.toNat * 8388608 + cond.toNat * 524288 + p.toNat * 65536 + a.toNat * 512 + b.toNat * 4
  | .fcmp g cond p a b => 0x18000002 + g.toNat * 8388608 + cond.toNat * 524288 + p.toNat * 65536 + a.toNat * 512 + b.toNat * 4
  | .mov g d a => 0x18000003 + g.toNat * 8388608 + d.toNat * 65536 + a.toNat * 512
  | .fadd g d a b => 0x1C000000 + g.toNat * 8388608 + d.toNat * 65536 + a.toNat * 512 + b.toNat * 4
  | .fsub g d a b => 0x1C000001 + g.toNat * 8388608 + d.toNat * 65536 + a.toNat * 512 + b.toNat * 4
  | .fmul g d a b => 0x1C000002 + g.toNat * 8388608 + d.toNat * 65536 + a.toNat * 512 + b.toNat * 4
  | .ffma g d a b => 0x1C000003 + g.toNat * 8388608 + d.toNat * 65536 + a.toNat * 512 + b.toNat * 4
  | .fmin g d a b => 0x20000000 + g.toNat * 8388608 + d.toNat * 65536 + a.toNat * 512 + b.toNat * 4
  | .fmax g d a b => 0x20000001 + g.toNat * 8388608 + d.toNat * 65536 + a.toNat * 512 + b.toNat * 4
  | .frnd g d a code => 0x20000002 + g.toNat * 8388608 + d.toNat * 65536 + a.toNat * 512 + code.toNat * 4
  | .fcvt g d a code => 0x20000003 + g.toNat * 8388608 + d.toNat * 65536 + a.toNat * 512 + code.toNat * 4
  | .hadd2 g d a b => 0x24000000 + g.toNat * 8388608 + d.toNat * 65536 + a.toNat * 512 + b.toNat * 4
  | .hmul2 g d a b => 0x24000001 + g.toNat * 8388608 + d.toNat * 65536 + a.toNat * 512 + b.toNat * 4
  | .hfma2 g d a b => 0x24000002 + g.toNat * 8388608 + d.toNat * 65536 + a.toNat * 512 + b.toNat * 4
  | .hmax2 g d a b => 0x24000003 + g.toNat * 8388608 + d.toNat * 65536 + a.toNat * 512 + b.toNat * 4
  | .badd2 g d a b => 0x28000000 + g.toNat * 8388608 + d.toNat * 65536 + a.toNat * 512 + b.toNat * 4
  | .bmul2 g d a b => 0x28000001 + g.toNat * 8388608 + d.toNat * 65536 + a.toNat * 512 + b.toNat * 4
  | .bfma2 g d a b => 0x28000002 + g.toNat * 8388608 + d.toNat * 65536 + a.toNat * 512 + b.toNat * 4
  | .bmax2 g d a b => 0x28000003 + g.toNat * 8388608 + d.toNat * 65536 + a.toNat * 512 + b.toNat * 4
  | .dadd g d a b => 0x2C000000 + g.toNat * 8388608 + d.toNat * 65536 + a.toNat * 512 + b.toNat * 4
  | .dmul g d a b => 0x2C000001 + g.toNat * 8388608 + d.toNat * 65536 + a.toNat * 512 + b.toNat * 4
  | .dfma g d a b => 0x2C000002 + g.toNat * 8388608 + d.toNat * 65536 + a.toNat * 512 + b.toNat * 4
  | .dcvt g d a code => 0x2C000003 + g.toNat * 8388608 + d.toNat * 65536 + a.toNat * 512 + code.toNat * 4
  | .vnbr g d a code => 0x30000000 + g.toNat * 8388608 + d.toNat * 65536 + a.toNat * 512 + code.toNat * 4
  | .vscan g d a code => 0x30000001 + g.toNat * 8388608 + d.toNat * 65536 + a.toNat * 512 + code.toNat * 4
  | .vred g d a code => 0x30000002 + g.toNat * 8388608 + d.toNat * 65536 + a.toNat * 512 + code.toNat * 4
  | .vvote g d p code => 0x30000003 + g.toNat * 8388608 + d.toNat * 65536 + p.toNat * 512 + code.toNat * 4
  | .vqnsE2m1 g d a b => 0x34000000 + g.toNat * 8388608 + d.toNat * 65536 + a.toNat * 512 + b.toNat * 4
  | .vqnsI4h g d a b => 0x34000001 + g.toNat * 8388608 + d.toNat * 65536 + a.toNat * 512 + b.toNat * 4
  | .vqnsI8h g d a b => 0x34000002 + g.toNat * 8388608 + d.toNat * 65536 + a.toNat * 512 + b.toNat * 4
  | .vdq g d a b => 0x34000003 + g.toNat * 8388608 + d.toNat * 65536 + a.toNat * 512 + b.toNat * 4
  | .sfq g d a code => 0x38000000 + g.toNat * 8388608 + d.toNat * 65536 + a.toNat * 512 + code.toNat * 4
  | .sread g d sel => 0x38000001 + g.toNat * 8388608 + d.toNat * 65536 + sel.toNat * 512
  | .will g a b => 0x38000002 + g.toNat * 8388608 + a.toNat * 512 + b.toNat * 4
  | .heirq g d b => 0x38000003 + g.toNat * 8388608 + d.toNat * 65536 + b.toNat * 4
  | .pand g d a b => 0x3C000000 + g.toNat * 8388608 + d.toNat * 65536 + a.toNat * 512 + b.toNat * 4
  | .por g d a b => 0x3C000001 + g.toNat * 8388608 + d.toNat * 65536 + a.toNat * 512 + b.toNat * 4
  | .pxor g d a b => 0x3C000002 + g.toNat * 8388608 + d.toNat * 65536 + a.toNat * 512 + b.toNat * 4
  | .pnand g d a b => 0x3C000003 + g.toNat * 8388608 + d.toNat * 65536 + a.toNat * 512 + b.toNat * 4
  | .movi g d imm => 0x40000000 + g.toNat * 8388608 + d.toNat * 65536 + imm.toNat
  | .iaddi g d a imm => 0x44000000 + g.toNat * 8388608 + d.toNat * 65536 + a.toNat * 512 + imm.toNat
  | .ldB g d a sb => 0x48000000 + g.toNat * 8388608 + d.toNat * 65536 + a.toNat * 512 + sb.toNat * 4
  | .ldSb g d a sb => 0x48000001 + g.toNat * 8388608 + d.toNat * 65536 + a.toNat * 512 + sb.toNat * 4
  | .ldH g d a sb => 0x48000002 + g.toNat * 8388608 + d.toNat * 65536 + a.toNat * 512 + sb.toNat * 4
  | .ldSh g d a sb => 0x48000003 + g.toNat * 8388608 + d.toNat * 65536 + a.toNat * 512 + sb.toNat * 4
  | .ldW g d a sb => 0x4C000000 + g.toNat * 8388608 + d.toNat * 65536 + a.toNat * 512 + sb.toNat * 4
  | .ldD g d a sb => 0x4C000001 + g.toNat * 8388608 + d.toNat * 65536 + a.toNat * 512 + sb.toNat * 4
  | .ldQ g d a sb => 0x4C000002 + g.toNat * 8388608 + d.toNat * 65536 + a.toNat * 512 + sb.toNat * 4
  | .prf g a sb => 0x4C000003 + g.toNat * 8388608 + a.toNat * 512 + sb.toNat * 4
  | .stB g d a sb => 0x50000000 + g.toNat * 8388608 + d.toNat * 65536 + a.toNat * 512 + sb.toNat * 4
  | .stH g d a sb => 0x50000001 + g.toNat * 8388608 + d.toNat * 65536 + a.toNat * 512 + sb.toNat * 4
  | .stW g d a sb => 0x50000002 + g.toNat * 8388608 + d.toNat * 65536 + a.toNat * 512 + sb.toNat * 4
  | .stD g d a sb => 0x50000003 + g.toNat * 8388608 + d.toNat * 65536 + a.toNat * 512 + sb.toNat * 4
  | .stQ g d a sb => 0x54000000 + g.toNat * 8388608 + d.toNat * 65536 + a.toNat * 512 + sb.toNat * 4
  | .atomAdd sc d a b => 0x58000000 + sc.toNat * 16777216 + d.toNat * 65536 + a.toNat * 512 + b.toNat * 4
  | .atomFadd sc d a b => 0x58000001 + sc.toNat * 16777216 + d.toNat * 65536 + a.toNat * 512 + b.toNat * 4
  | .atomMin sc d a b => 0x58000002 + sc.toNat * 16777216 + d.toNat * 65536 + a.toNat * 512 + b.toNat * 4
  | .atomMax sc d a b => 0x58000003 + sc.toNat * 16777216 + d.toNat * 65536 + a.toNat * 512 + b.toNat * 4
  | .atomAnd sc d a b => 0x5C000000 + sc.toNat * 16777216 + d.toNat * 65536 + a.toNat * 512 + b.toNat * 4
  | .atomOr sc d a b => 0x5C000001 + sc.toNat * 16777216 + d.toNat * 65536 + a.toNat * 512 + b.toNat * 4
  | .atomXor sc d a b => 0x5C000002 + sc.toNat * 16777216 + d.toNat * 65536 + a.toNat * 512 + b.toNat * 4
  | .atomExch sc d a b => 0x5C000003 + sc.toNat * 16777216 + d.toNat * 65536 + a.toNat * 512 + b.toNat * 4
  | .red sc op a b => 0x60000000 + sc.toNat * 16777216 + op.toNat * 1048576 + a.toNat * 512 + b.toNat * 4
  | .casW sc d a b => 0x64000000 + sc.toNat * 16777216 + d.toNat * 65536 + a.toNat * 512 + b.toNat * 4
  | .casD sc d a b => 0x64000001 + sc.toNat * 16777216 + d.toNat * 65536 + a.toNat * 512 + b.toNat * 4
  | .bra g off => 0x70000000 + g.toNat * 8388608 + off.toNat
  | .call g off => 0x74000000 + g.toNat * 8388608 + off.toNat
  | .ret g => 0x78000000 + g.toNat * 8388608
  | .jmpr g a => 0x78080000 + g.toNat * 8388608 + a.toNat * 512
  | .exit g => 0x78100000 + g.toNat * 8388608
  | .reform g => 0x78180000 + g.toNat * 8388608
  | .join g k => 0x78200000 + g.toNat * 8388608 + k.toNat
  | .sfwait g mask => 0x78280000 + g.toNat * 8388608 + mask.toNat
  | .nop g => 0x78300000 + g.toNat * 8388608
  | .trapl g code => 0x78380000 + g.toNat * 8388608 + code.toNat
  | .ext imm _ => 0x7C000000 + imm.toNat
  | .pat a b _ => 0x7E000000 + a.toNat * 131072 + b.toNat * 512
  | .sadd g d a b => 0x80000000 + g.toNat * 8388608 + d.toNat * 65536 + a.toNat * 512 + b.toNat * 4
  | .ssub g d a b => 0x80000001 + g.toNat * 8388608 + d.toNat * 65536 + a.toNat * 512 + b.toNat * 4
  | .smul g d a b => 0x80000002 + g.toNat * 8388608 + d.toNat * 65536 + a.toNat * 512 + b.toNat * 4
  | .smulh g d a b => 0x80000003 + g.toNat * 8388608 + d.toNat * 65536 + a.toNat * 512 + b.toNat * 4
  | .sand g d a b => 0x84000000 + g.toNat * 8388608 + d.toNat * 65536 + a.toNat * 512 + b.toNat * 4
  | .sor g d a b => 0x84000001 + g.toNat * 8388608 + d.toNat * 65536 + a.toNat * 512 + b.toNat * 4
  | .sxor g d a b => 0x84000002 + g.toNat * 8388608 + d.toNat * 65536 + a.toNat * 512 + b.toNat * 4
  | .sshl g d a b => 0x84000003 + g.toNat * 8388608 + d.toNat * 65536 + a.toNat * 512 + b.toNat * 4
  | .sshr g d a b => 0x88000000 + g.toNat * 8388608 + d.toNat * 65536 + a.toNat * 512 + b.toNat * 4
  | .sshra g d a b => 0x88000001 + g.toNat * 8388608 + d.toNat * 65536 + a.toNat * 512 + b.toNat * 4
  | .smin g d a b => 0x88000002 + g.toNat * 8388608 + d.toNat * 65536 + a.toNat * 512 + b.toNat * 4
  | .smax g d a b => 0x88000003 + g.toNat * 8388608 + d.toNat * 65536 + a.toNat * 512 + b.toNat * 4
  | .scmp g cond q a b => 0x8C000000 + g.toNat * 8388608 + cond.toNat * 524288 + q.toNat * 65536 + a.toNat * 512 + b.toNat * 4
  | .ssel n d a b => 0x8C000001 + n.toNat * 8388608 + d.toNat * 65536 + a.toNat * 512 + b.toNat * 4
  | .smov g d a => 0x8C000002 + g.toNat * 8388608 + d.toNat * 65536 + a.toNat * 512
  | .ssr g d sel => 0x8C000003 + g.toNat * 8388608 + d.toNat * 65536 + sel.toNat * 512
  | .smovi g d imm => 0x90000000 + g.toNat * 8388608 + d.toNat * 65536 + imm.toNat
  | .saddi g d a imm => 0x94000000 + g.toNat * 8388608 + d.toNat * 65536 + a.toNat * 512 + imm.toNat
  | .sldW g d a imm => 0x98000000 + g.toNat * 8388608 + d.toNat * 65536 + a.toNat * 512 + imm.toNat * 4
  | .sldD g d a imm => 0x98000001 + g.toNat * 8388608 + d.toNat * 65536 + a.toNat * 512 + imm.toNat * 4
  | .sstW g d a imm => 0x98000002 + g.toNat * 8388608 + d.toNat * 65536 + a.toNat * 512 + imm.toNat * 4
  | .sstD g d a imm => 0x98000003 + g.toNat * 8388608 + d.toNat * 65536 + a.toNat * 512 + imm.toNat * 4
  | .qand g d a b => 0x9C000000 + g.toNat * 8388608 + d.toNat * 65536 + a.toNat * 512 + b.toNat * 4
  | .qor g d a b => 0x9C000001 + g.toNat * 8388608 + d.toNat * 65536 + a.toNat * 512 + b.toNat * 4
  | .qxor g d a b => 0x9C000002 + g.toNat * 8388608 + d.toNat * 65536 + a.toNat * 512 + b.toNat * 4
  | .qnand g d a b => 0x9C000003 + g.toNat * 8388608 + d.toNat * 65536 + a.toNat * 512 + b.toNat * 4
  | .sbra g off => 0xA0000000 + g.toNat * 8388608 + off.toNat
  | .barSync g lvl n => 0xA4000000 + g.toNat * 8388608 + lvl.toNat * 2097152 + n.toNat * 65536
  | .barArv g lvl n => 0xA4000001 + g.toNat * 8388608 + lvl.toNat * 2097152 + n.toNat * 65536
  | .barWait g lvl n => 0xA4000002 + g.toNat * 8388608 + lvl.toNat * 2097152 + n.toNat * 65536
  | .barQry g lvl n d => 0xA4000003 + g.toNat * 8388608 + lvl.toNat * 2097152 + n.toNat * 65536 + d.toNat * 512
  | .kset g d => 0xA8000000 + g.toNat * 8388608 + d.toNat * 65536
  | .kand g d a b => 0xA8000001 + g.toNat * 8388608 + d.toNat * 65536 + a.toNat * 512 + b.toNat * 4
  | .kor g d a b => 0xA8000002 + g.toNat * 8388608 + d.toNat * 65536 + a.toNat * 512 + b.toNat * 4
  | .kmov g d a => 0xA8000003 + g.toNat * 8388608 + d.toNat * 65536 + a.toNat * 512
  | .waitc g ld st cp mx => 0xAC000000 + g.toNat * 8388608 + ld.toNat * 524288 + st.toNat * 32768 + cp.toNat * 2048 + mx.toNat * 128
  | .fence g sc k => 0xAC000001 + g.toNat * 8388608 + sc.toNat * 2097152 + k.toNat * 524288
  | .smode g a => 0xAC000002 + g.toNat * 8388608 + a.toNat * 512
  | .yield g => 0xAC000003 + g.toNat * 8388608
  | .mma g a acc => 0xB0000000 + g.toNat * 8388608 + a.toNat * 65536 + acc.toNat * 4
  | .aswap g a acc => 0xB0000001 + g.toNat * 8388608 + a.toNat * 65536 + acc.toNat * 4
  | .azero g a acc => 0xB0000002 + g.toNat * 8388608 + a.toNat * 65536 + acc.toNat * 4
  | .ald g a acc => 0xB4000000 + g.toNat * 8388608 + a.toNat * 65536 + acc.toNat * 4
  | .ast g a acc => 0xB4000001 + g.toNat * 8388608 + a.toNat * 65536 + acc.toNat * 4
  | .tcopy g a => 0xB8000000 + g.toNat * 8388608 + a.toNat * 65536
  | .tqst g a => 0xB8000001 + g.toNat * 8388608 + a.toNat * 65536
  | .tchain g a => 0xB8000002 + g.toNat * 8388608 + a.toNat * 65536
  | .trot g a => 0xB8000003 + g.toNat * 8388608 + a.toNat * 65536
  | .awinit g a b => 0xBC000000 + g.toNat * 8388608 + a.toNat * 65536 + b.toNat * 4
  | .awwait g a b => 0xBC000001 + g.toNat * 8388608 + a.toNat * 65536 + b.toNat * 4
  | .awqry g a d => 0xBC000002 + g.toNat * 8388608 + a.toNat * 65536 + d.toNat * 512
  | .tfetch g q => 0xBC000003 + g.toNat * 8388608 + q.toNat * 4
  | .bpost g d a b => 0xC0000000 + g.toNat * 8388608 + d.toNat * 65536 + a.toNat * 512 + b.toNat * 4
  | .bqry g d => 0xC0000001 + g.toNat * 8388608 + d.toNat * 65536
  | .sibchk g => 0xC0000002 + g.toNat * 8388608
  | .waitm g cond a b => 0xC4000000 + g.toNat * 8388608 + cond.toNat * 524288 + a.toNat * 512 + b.toNat * 4
  | .seal g a b => 0xC4000001 + g.toNat * 8388608 + a.toNat * 512 + b.toNat * 4
  | .unseal g a b => 0xC4000002 + g.toNat * 8388608 + a.toNat * 512 + b.toNat * 4
  | .qpushD g d a => 0xC8000000 + g.toNat * 8388608 + d.toNat * 65536 + a.toNat * 512
  | .qpushL g d a => 0xC8000004 + g.toNat * 8388608 + d.toNat * 65536 + a.toNat * 512
  | .qpopD g d a => 0xC8000001 + g.toNat * 8388608 + d.toNat * 65536 + a.toNat * 512
  | .qpopL g d a => 0xC8000005 + g.toNat * 8388608 + d.toNat * 65536 + a.toNat * 512
  | .qtryD g d a => 0xC8000002 + g.toNat * 8388608 + d.toNat * 65536 + a.toNat * 512
  | .qtryL g d a => 0xC8000006 + g.toNat * 8388608 + d.toNat * 65536 + a.toNat * 512
  | .trap g code => 0xCC000000 + g.toNat * 8388608 + code.toNat * 4
  | .rett g a => 0xCC000001 + g.toNat * 8388608 + a.toNat * 512
  | .brkpt g => 0xCC000002 + g.toNat * 8388608
  | _ => 0

/-- The words of a unit: one, or two when it begins with a prefix. -/
def encode : Instr → List Nat
  | .ext imm w => [encodeWord (.ext imm w), w.toNat]
  | .pat a b w => [encodeWord (.pat a b w), w.toNat]
  | i => [encodeWord i]

/-- Is the constructor one of the steps and events that have no encoding (95)? -/
def Instr.isEvent : Instr → Bool
  | .queueDoorbell .. => true
  | .queueEnableWrite .. => true
  | .withdraw .. => true
  | .wclear .. => true
  | .queueReset .. => true
  | .queueResume .. => true
  | .registerWrite .. => true
  | .launch .. => true
  | .fencePacket .. => true
  | .fencePacketPoll .. => true
  | .signal .. => true
  | .batch .. => true
  | .sibopen .. => true
  | .lineageClose .. => true
  | .save .. => true
  | .restore .. => true
  | .coreAssign => true
  | .pierPlace .. => true
  | .workgroupBirth .. => true
  | .pierStop .. => true
  | .saveImageWritten .. => true
  | .pierResume .. => true
  | .pierDiscard .. => true
  | .savedWorkgroupExchange .. => true
  | .launchComplete => true
  | .timeSliceEnd => true
  | .clearSequenceComplete => true
  | .barrierArrivalCounted .. => true
  | .tfetchComplete .. => true
  | .reformBinTimeout .. => true
  | .starvationPriority .. => true
  | .sfqResult .. => true
  | .estateSettle .. => true
  | .lineageCloseFinish .. => true
  | .engineCommandBegin .. => true
  | .multicastFetch .. => true
  | .copyChunkWrite .. => true
  | .tensorCommandComplete .. => true
  | .loadSatisfy .. => true
  | .storeBufferDrain .. => true
  | .writePathLeave .. => true
  | .clusterAtomicPathLeave .. => true
  | .waitmPoll .. => true
  | .l1ViewDrop .. => true
  | .l1ViewFill .. => true
  | .dieCopyDrop .. => true
  | .gateApply .. => true
  | .portAcknowledge .. => true
  | .fenceComplete .. => true
  | .qpushEnterRing .. => true
  | .qpopDeliver .. => true
  | .sealComplete .. => true
  | .unsealComplete .. => true
  | .pageWalkComplete .. => true
  | .faultPost .. => true
  | .faultRespReplay .. => true
  | .faultRespFail .. => true
  | .redReplayBufferMove .. => true
  | .invalidateGo => true
  | .tlbInvalidationDone => true
  | .softErrorUncorrectable .. => true
  | .spanFlitCrcFail .. => true
  | .spanLinkDown .. => true
  | .viaductLinkDown => true
  | .ballotPostAccept .. => true
  | .siblingCancelNotify .. => true
  | .bpostStatusDeliver .. => true
  | .bqryResultDeliver .. => true
  | .pageReleaseWalk .. => true
  | .accountingRecordWrite .. => true
  | .sibclose .. => true
  | .lockInterfaceRequest .. => true
  | .startInterfaceRequest .. => true
  | .stopInterfaceRequest .. => true
  | .ideStreamFailure .. => true
  | .functionLevelReset .. => true
  | .keyKillAck .. => true
  | .getMeasurements => true
  | .keyExchange .. => true
  | .powerOn => true
  | .recoveryCommit => true
  | .recoveryReboot => true
  | .powerLimitExceeded => true
  | .clockStepUp => true
  | .contextRegistration .. => true
  | .contextEnd .. => true
  | .hardwareQueueRegistration .. => true
  | .hostRequest .. => true
  | .powerLoss => true
  | _ => false

/-- The word of an instruction as 32 bits, for TVAL (R181). -/
def Instr.word (i : Instr) : Word := BitVec.ofNat 32 (encodeWord i)

end Sys2Proof
end

