-- ==== Sys2Proof/Config.lean ====
section
/-! DEFINITION. What an implementation fixes, and the free values: opaque constants with no body, so that no proof
can see what they are (log 3, DESIGN CHOICE). A free value stands where the spec gives an effect and leaves the value open. -/

namespace Sys2Proof.Config

/-- A free 32-bit value, fresh for each number (log 3, DESIGN CHOICE). -/
opaque freeWord : Nat → Word

/-- A free byte, fresh for each number (log 3, DESIGN CHOICE). -/
opaque freeByte : Nat → Byte

/-- A free choice, fresh for each number: which of two entries a claim takes (R140; log 6, DESIGN CHOICE), and whether a
prefetch fills (R370). -/
opaque freeBit : Nat → Bool

/-- Which of two codes within 1 ulp a special function returns: a function of the function's number and its operands, so that a
result is defined by its operands (R66, R390, R86, R87; log 5, DESIGN CHOICE). -/
opaque ulpBit : Nat → Nat → Bool

/-- Which of the values that a byte or element has had an engine command reads while another agent writes it: the command's
number and the place (R362, R405; log 37, DEDUCED). -/
opaque race : Nat → Nat → Nat

/-- A byte of a save-image section whose packing R200 does not give (log 8, DESIGN CHOICE). Arguments: the section, what it holds, the
index within it. -/
opaque imagePack : Nat → List Byte → Nat → Byte

/-- A byte of what such a section holds, from its bytes in memory (log 8, DESIGN CHOICE). -/
opaque imageUnpack : Nat → List Byte → Nat → Byte

/-- One byte of the key stream of AES-256-GCM under a context's save key (R201; log 9, DESIGN CHOICE): the key slot, the nonce and the
index. -/
opaque gcmStream : Nat → List Byte → Nat → Byte

/-- One byte of the key stream with which a cipher engine covers CXL and fabric memory for a protected context: the context and the
place (R230; log 9, DESIGN CHOICE). -/
opaque keystream : Nat → Nat → Byte

/-- The 16-byte tag of AES-256-GCM (R201; log 9, DESIGN CHOICE), one byte for each index. -/
opaque gcmTag : Nat → List Byte → List Byte → List Byte → Nat → Byte

/-- Does an ML-DSA-87 signature verify under the Ronlor key that the boot ROM holds (R233; log 9, DESIGN CHOICE)? Arguments: the
signed bytes' digest, the signature. -/
opaque mldsaVerify : List Byte → List Byte → Bool

/-- One byte of the SHA3-512 digest of a message (R233, R234; log 9, DESIGN CHOICE). -/
opaque sha3Byte : List Byte → Nat → Byte

/-- The bytes of a firmware image's header and body, from the first bytes of a flash slot, or none for a bad header: the spec
does not give the header's fields (R233, R237; log 21, DESIGN CHOICE). -/
opaque imageBytes : List Byte → Option Nat

/-- The identity-key digest that a variant record carries, whose layout the spec does not give (R238; log 21, DESIGN CHOICE). -/
opaque variantKey : List Byte → List Byte

/-- The part that a variant record describes, whose layout the spec does not give: 1 ADK-9405, 2 ADK-9201, else ADK-9601 (R238; log 21,
DESIGN CHOICE). -/
opaque variantPart : List Byte → Nat

/-- The identity key's ML-DSA-87 signature of a message (R239; log 9, DESIGN CHOICE). -/
opaque mldsaSign : List Byte → List Byte

/-- One byte of the identity public key, derived from the PUF response (R238; log 9, DESIGN CHOICE). -/
opaque idKeyByte : Nat → Byte

/-- The boot ROM version that GET_MEASUREMENTS reports (R239; log 9, DESIGN CHOICE). -/
opaque romVersion : Word

end Sys2Proof.Config
end

