-- ==== Sys2Proof/Machine/Bits.lean ====
section
/-! DEFINITION. Bit fields, sign extension and byte order (R3, R293, R294). -/

namespace Sys2Proof.Machine

/-- Bits [hi:lo] of a number. -/
def nbits (x hi lo : Nat) : Nat := x / 2 ^ lo % 2 ^ (hi - lo + 1)

/-- The `n` bytes of a number, least significant first (R3). -/
def toBytes : Nat → Nat → List Byte
  | 0, _ => []
  | n + 1, x => BitVec.ofNat 8 x :: toBytes n (x / 256)

/-- The number that bytes hold, least significant first (R3). -/
def ofBytes : List Byte → Nat
  | [] => 0
  | b :: r => b.toNat + 256 * ofBytes r

/-- The two's-complement value of the low `n` bits of a number. -/
def sextInt (n x : Nat) : Int :=
  let y := x % 2 ^ n
  if y < 2 ^ (n - 1) then (y : Int) else (y : Int) - (2 : Int) ^ n

/-- `sext(x, n)` of R294 as a 64-bit pattern. -/
def sext64 (n x : Nat) : DWord := BitVec.ofInt 64 (sextInt n x)

/-- A 64-bit value from its two words, bits [31:0] first (R275). -/
def pairOf (lo hi : Word) : DWord := BitVec.ofNat 64 (lo.toNat + hi.toNat * 4294967296)

def loWord (x : DWord) : Word := BitVec.ofNat 32 x.toNat
def hiWord (x : DWord) : Word := BitVec.ofNat 32 (x.toNat / 4294967296)

/-- The lanes of a mask, ascending. -/
def lanesOf (m : BitVec 64) : List Nat := (List.range 64).filter (fun i => m.getLsbD i)

/-- The mask of a list of lanes. -/
def maskOf (ls : List Nat) : BitVec 64 := ls.foldl (fun m i => m ||| (BitVec.twoPow 64 i)) 0

/-- Replace bytes [off, off + new.length) of a list of bytes. -/
def overlay (bs : List Byte) (off : Nat) (new : List Byte) : List Byte :=
  bs.take off ++ new ++ bs.drop (off + new.length)

/-- Serial order of R119: a ≥ b. -/
def serialGe (a b : Word) : Bool := (a - b).toNat < 2147483648

/-- Do [a, a + n) and [b, b + m) overlap? -/
def rangesMeet (a n b m : Nat) : Bool := a < b + m && b < a + n

/-- Add one, saturating at 0xFFFF_FFFF (R10, R153, R204). -/
def satInc (w : Word) (k : Nat := 1) : Word := BitVec.ofNat 32 (min (w.toNat + k) 4294967295)

end Sys2Proof.Machine
end

