-- ==== Sys2Proof/Machine/Sparse.lean ====
section
/-! DEFINITION. Sparse data by key: a list of (key, value) pairs with strictly rising keys. Memory, register files,
masks and tables of units are all held so. The `D` operations take a default that an unlisted key reads as and
that is never listed, so that equal contents are equal lists. -/

namespace Sys2Proof.Machine

/-- Sparse data by number. -/
abbrev KV (α : Type) := List (Nat × α)

/-- The value at a key, if listed. -/
def kvGet {α : Type} : KV α → Nat → Option α
  | [], _ => none
  | (k, v) :: r, x => if x = k then some v else kvGet r x

/-- List a value at a key, replacing the one listed there. -/
def kvPut {α : Type} : KV α → Nat → α → KV α
  | [], x, y => [(x, y)]
  | (k, v) :: r, x, y =>
    if x = k then (k, y) :: r else if x < k then (x, y) :: (k, v) :: r else (k, v) :: kvPut r x y

/-- Remove a key. -/
def kvDel {α : Type} : KV α → Nat → KV α
  | [], _ => []
  | (k, v) :: r, x => if x = k then kvDel r x else (k, v) :: kvDel r x

/-- The value at a key, or the default. -/
def kvGetD {α : Type} (d : α) (m : KV α) (k : Nat) : α := (kvGet m k).getD d

/-- Set the value at a key; the default is not listed. -/
def kvSetD {α : Type} [DecidableEq α] (d : α) (m : KV α) (k : Nat) (v : α) : KV α :=
  if v = d then kvDel m k else kvPut m k v

/-- Change the value at a key, where one is listed. -/
def kvMod {α : Type} (m : KV α) (k : Nat) (f : α → α) : KV α :=
  match kvGet m k with
  | some v => kvPut m k (f v)
  | none => m

/-- Every key is at least `lo` and the keys rise strictly. -/
def kvSortedFrom {α : Type} : Nat → KV α → Bool
  | _, [] => true
  | lo, (k, _) :: r => lo ≤ k && kvSortedFrom (k + 1) r

/-- The canonical form: keys rise strictly. -/
def kvWf {α : Type} (m : KV α) : Bool := kvSortedFrom 0 m

/-- The canonical form of data with a default: keys rise strictly and no default is listed. -/
def kvWfD {α : Type} [DecidableEq α] (d : α) (m : KV α) : Bool :=
  kvWf m && m.all (fun e => decide (e.2 ≠ d))

end Sys2Proof.Machine
end

