-- ==== Sys2Proof/Machine/State.lean ====
section
/-! DEFINITION. The state of the device as plain data: everything the spec gives the machine, and the fields of the
model's own (agenda, cur, choice, freeCtr, nextSeq's use as names, stop: log 1, 3, 4). -/

namespace Sys2Proof.Machine

/-- Why the machine stops. -/
inductive Fault where
  /-- An access reached a physical address at which the part has no memory (09, R191 gives die d the addresses from
  d·2^38; 01, R9 gives how much of them exist). Raised by whatever performs the access. Safe: the spec says nothing
  of such an access (log 4, DESIGN CHOICE). -/
  | noSuchMemory (key : Nat)
  deriving DecidableEq, Repr

/-- Why the machine refuses an instruction. -/
inductive Refusal where
  /-- The arm of `exec` has no meaning yet. Raised by `Machine/Dispatch.lean` alone. Safe. -/
  | notModelled (mnemonic : String)
  deriving DecidableEq, Repr

/-! ### Threads, teams, workgroups (02) -/

/-- A numbered barrier of R43, or TFETCH's implied one. -/
inductive BarKey where
  | team (n : Nat)
  | wg (n : Nat)
  | cluster (n : Nat)
  | grid (n : Nat)
  deriving DecidableEq, Repr

/-- Membership, arrivals and phase of a barrier (R43); `phase` counts completed phases. `stamp` is what the dies of the
arrivals knew when they were counted, which the release of a grid barrier acquires (R124). -/
structure Barrier where
  m : Nat
  a : Nat
  phase : Nat
  stamp : List Word
  deriving DecidableEq, Repr

/-- An access of a core or an engine that did not translate: its context, address and kind, whether it is a uniform
access, whose whole subset it holds, a command's guard read (R74), and whether its unit is prefixed. -/
structure Miss where
  ctx : Nat
  va : DWord
  write : Bool
  fetch : Bool
  unif : Bool
  guard : Bool
  pfx : Bool
  deriving DecidableEq, Repr

/-- What keeps a thread from being ready (R35). Every case but `walk`, `fault`, `retry`, `refill` and `guard` has issued: its PC is the
next unit. -/
inductive Wait where
  | ready
  /-- held at the unit while a page walk runs (R192, R193) -/
  | walk (m : Miss)
  /-- held at the unit at a translation fault (R195) -/
  | fault (id : Nat)
  /-- ready to make an access again at its unit, after a walk or a fault's service (R195) -/
  | retry
  /-- at a barrier whose arrival is counted, until `phase` completed phases are exceeded (R43, R314) -/
  | barrier (k : BarKey) (phase : Nat)
  /-- at an arrival not counted yet (R43) -/
  | arrive (id : Nat)
  /-- arrived at JOIN on a mask (R42) -/
  | join (k : Nat)
  /-- WAITC thresholds (R421) -/
  | waitc (ld st cp mx : Nat)
  /-- SFWAIT: the issue numbers of the SFQs waited on (R392) -/
  | sfwait (nos : List Nat)
  /-- AWWAIT: scratchpad offset and generation (R309) -/
  | awwait (off gen : Nat)
  /-- WAITM: the word's place, condition and value (R422) -/
  | waitm (va : DWord) (key : Nat) (cond : Nat) (y : Word)
  /-- a queue operation under way (R132) -/
  | queue (id : Nat)
  /-- a fence under way (R345) -/
  | fence (id : Nat)
  /-- SEAL or UNSEAL under way (R388) -/
  | seal (id : Nat)
  /-- arrived at TFETCH (R33) -/
  | tfetch
  /-- RET waits for its refill (R379) -/
  | refill (id : Nat)
  /-- held at a command until its die holds a copy of the guard word's line (R74, R125) -/
  | guard (key : Nat)
  deriving DecidableEq, Repr

/-- A thread (R32, R41, R183, R328). -/
structure Thread where
  /-- the agent's name in the ordering machine, unique for ever -/
  tid : Nat
  /-- v0 to v127, 0 where not listed -/
  regs : List (Nat × Word)
  /-- p0 to p6 -/
  preds : BitVec 7
  pc : PC
  /-- the hardware return stack, most recent first, at most 8 (R328) -/
  rstack : List DWord
  /-- D of R328 -/
  depth : Nat
  stackBase : DWord
  workid : DWord
  /-- does it hold a work item (R34)? -/
  hasItem : Bool
  /-- the work identifier of its latest birth (R146) -/
  birthId : DWord
  /-- the HEIRQ status words of its claims (R146); ESTATUS is computed from them (R145) -/
  claims : List Word
  /-- the WILL mark (R137) -/
  mark : Nat × Nat
  inHandler : Bool
  tpc : PC
  tcause : Word
  tval : Word
  /-- DEFERRED traps to deliver at the next unit, with their codes: XLATE_FAULTs with their SEQ (R195), and SEALED_STOREs of REDs that
  a replay found sealed (R130, R192) -/
  deferred : List (Nat × Word)
  wait : Wait
  /-- for each barrier: the phase in which it last arrived, and whether it has waited on it (R314) -/
  arrived : List (BarKey × Nat × Bool)
  /-- the kept CLOCK_HI half (R292) -/
  clockHi : Option Word
  deriving DecidableEq, Repr

/-- One operation counted in LD, ST, CP or MX (R88). -/
structure OpTok where
  seq : Nat
  done : Bool
  deriving DecidableEq, Repr

/-- One accumulator tile: working and visible bank, element (i, j) at key 64·i + j, 0 where not listed (R77, R79). -/
structure AccTile where
  work : List (Nat × Word)
  vis : List (Nat × Word)
  deriving DecidableEq, Repr

/-- A team (R32, R36, R44, R54, R88, R91, R134). -/
structure Team where
  /-- the uniform agent's name in the ordering machine -/
  uid : Nat
  /-- s0 to s95, 0 where not listed -/
  sregs : List (Nat × Word)
  /-- q0 to q6 -/
  qpreds : BitVec 7
  /-- MODE[8:0] (R54) -/
  mode : BitVec 9
  /-- k0 to k7, 0 where not listed -/
  kmasks : List (Nat × BitVec 64)
  ld : List OpTok
  st : List OpTok
  cp : List OpTok
  mx : List OpTok
  /-- SFQs issued since birth or draw; the next token is this modulo 16 (R91) -/
  sfNo : Nat
  /-- stores, RED and non-returning atomics issued (R134) -/
  stCount : DWord
  /-- urgency rank, the greater the more urgent (R44) -/
  rank : Nat
  /-- starvation counters of the lane and the uniform slot (R45) -/
  starveL : Nat
  starveU : Nat
  /-- the PCs of the grouping stage's entries, oldest first (R36) -/
  order : List PC
  /-- team barriers 0 to 7 -/
  bars : List (Nat × Barrier)
  /-- accumulator tiles in use -/
  accs : List (Nat × AccTile)
  clockHi : Option Word
  /-- the threads by lane; a lane with no thread (never filled, exited, in a bin) is not listed -/
  lanes : List (Nat × Thread)
  deriving DecidableEq, Repr

/-- A REFORM bin (R39, R40): its key, the cycle of its cluster at which its first thread entered, which may lie before the count's start
once it has moved to another cluster (R378), its threads with their former team and
lane in order of entry, and its source state. -/
structure Bin where
  key : PC
  since : Int
  threads : List (Nat × Nat × Thread)
  sregs : List (Nat × Word)
  qpreds : BitVec 7
  mode : BitVec 9
  rank : Nat
  deriving DecidableEq, Repr

/-- The engine commands of R72. -/
inductive CmdKind where
  | mma | aswap | azero | ald | ast | tcopy | tqst | tchain | trot
  deriving DecidableEq, Repr

/-- A remote tile that an MMA shares by multicast (R78): the source core, the header offset, SET, WIN, and the cores of
the set as resolved at issue that have not left it. -/
structure Mcast where
  src : Nat
  off : Nat
  set : Nat
  win : Nat
  members : List Nat
  /-- the number of matching commands that the workgroup had issued before -/
  round : Nat
  /-- is it operand B? -/
  second : Bool
  deriving DecidableEq, Repr

/-- An accepted engine command (R74, R92). -/
structure Cmd where
  /-- its issue sequence number -/
  id : Nat
  team : Nat
  uid : Nat
  kind : CmdKind
  acc : Nat
  /-- the 64-byte block, the copied tile headers, and the operation list (TCHAIN) or band entries (TQST) -/
  blk : List Byte
  hdrs : List Byte
  ops : List Byte
  /-- the effective count -/
  n : Nat
  begun : Bool
  /-- the multicast fetches it still waits for (R78) -/
  mc : List Mcast
  /-- copy progress: the row or line under work, and the position in it -/
  row : Nat
  pos : Nat
  /-- TROT: the bytes of the source row, read whole -/
  rowBytes : List Byte
  /-- every write issued -/
  issued : Bool
  /-- band entries already written (R92) -/
  bands : List Nat
  /-- recorded in a save image: it begins before any later command of its workgroup (R92) -/
  resumed : Bool
  /-- where its free choices are counted from (log 3, 5) -/
  free : Nat
  /-- the rows or lines that are complete (R92, R101) -/
  rowsDone : List Nat
  /-- operands that a multicast fetch has delivered: is it B, and the steps between which the fetch read (R78) -/
  fetched : List (Bool × Nat × Nat)
  /-- the step at which it began -/
  start : Nat
  deriving DecidableEq, Repr

/-- A workgroup on a core. -/
structure Workgroup where
  launch : Nat
  /-- its workgroup number (R31) -/
  num : Nat
  /-- the cluster where it was placed first, which names its cluster barriers (R43) -/
  grp : Nat
  /-- the current tile, or none (R33) -/
  tile : Option Nat
  teams : List (Nat × Team)
  /-- workgroup barriers 0 to 15 -/
  bars : List (Nat × Barrier)
  /-- threads that have arrived at TFETCH, and the predicates to write: (team, predicate) (R33, R410) -/
  tfArrived : List Nat
  tfPreds : List (Nat × Nat)
  /-- a TFETCH or first-tile request waits for its claims: the tile received, or none left (R33, R144) -/
  tfTile : Option (Option Nat)
  /-- teams in order of arrival at the phase under way of each workgroup barrier, and of TFETCH's (R44) -/
  arriveOrder : List (Option BarKey × Nat)
  bins : List Bin
  cmds : List Cmd
  /-- threads not born yet: the workgroup waits for its first tile's claims (R144) -/
  unborn : Bool
  /-- its pier has been told that its sibling is cancelled (R212) -/
  told : Bool
  /-- it stopped at a cancellation point (R213) -/
  cancelled : Bool
  /-- STOP has reached it (R175); where its image goes: an address, and the save-area slot or none for an IMG slot -/
  stopping : Option (DWord × Option Nat)
  /-- frozen by the firewall or a function-level reset (R227, R232) -/
  frozen : Bool
  /-- its engines that alone are frozen (R227): 0 the copy engine, 1 + p the tensor core of partition p -/
  enginesFrozen : List Nat
  /-- multicast sets it has left before issuing: (source core, header offset, SET, WIN) (R78) -/
  leftSets : List (Nat × Nat × Nat × Nat)
  /-- issues since step 3 of R212 reached its pier (R216) -/
  insns : Word
  /-- the multicast set of every operand of every MMA that it has issued: (source core, header offset, SET, WIN) (R78) -/
  mcIssued : List (Nat × Nat × Nat × Nat)
  deriving DecidableEq, Repr

/-! ### Launches (02 R27, 08 R160) -/

/-- The launch header's fields (R27). -/
structure Header where
  entry : DWord
  handler : DWord
  args : DWord
  stkArea : DWord
  w : List Nat
  sibf : Nat
  cluster : Bool
  ext : List Nat
  teams : Nat
  regs8 : Nat
  accs : Nat
  scratch : Nat
  tlin : Nat
  test : Bool
  hlin : Nat
  heir : Bool
  close : Bool
  claim : Nat
  into : Nat
  count : Nat
  sibgrp : Word
  closebuf : DWord
  stkSize : Nat
  deriving DecidableEq, Repr

/-! ### The ordering machine (06) -/

/-- What a load or returning atomic does with what it reads. -/
inductive LoadDst where
  /-- lane register d: the value of n bytes, sign-extended or not, over 1, 2 or 4 registers -/
  | lane (d : Nat) (signed : Bool)
  /-- uniform register d, 1 or 2 registers -/
  | unif (d : Nat)
  /-- ATOM: operation code of R252, operand -/
  | atom (d op : Nat) (y : Word)
  /-- CAS: expected and new value -/
  | cas (d : Nat) (e y : DWord)
  /-- AWQRY -/
  | awqry (d : Nat)
  /-- RET's refill -/
  | refill
  deriving DecidableEq, Repr

/-- A load, returning atomic or CAS issued and not satisfied (R113, R114). -/
structure LoadReq where
  id : Nat
  core : Nat
  team : Nat
  uid : Nat
  /-- the agent: a thread's tid, or the team's uid -/
  agent : Nat
  key : Nat
  n : Nat
  scope : Nat
  dst : LoadDst
  /-- its token in LD (R88): one for each issue of the instruction -/
  tok : Nat
  /-- its generic address -/
  va : DWord
  deriving DecidableEq, Repr

/-- Whom a write is counted for. -/
inductive Owner where
  /-- a team's ST counter, with its token there (R88), the team's store count at its issue (R134), and the launch -/
  | team (launch uid tok : Nat) (count : DWord)
  /-- an engine command; whether its bytes count at the arrival word (R90) -/
  | cmd (launch id : Nat) (counted : Bool)
  /-- a unit of the Keystone die, or an outside agent -/
  | keystone
  deriving DecidableEq, Repr

/-- A write on its way (R113, R115, R116): a store, or a RED that still carries only its operand. -/
structure WEntry where
  id : Nat
  core : Nat
  agent : Nat
  owner : Owner
  key : Nat
  data : List Byte
  /-- RED: operation code of R252 and scope; code 8 is a TQST's merge of a low nibble (R99) -/
  red : Option (Nat × Nat)
  /-- the context it is made in, or none for a unit of the Keystone die -/
  ctx : Option Nat
  /-- its virtual address, for a RED that faults -/
  va : DWord
  /-- untranslated yet: a RED held at a fault -/
  held : Bool
  deriving DecidableEq, Repr

/-- What is known of a write until it is complete (R119, R120, R122). -/
structure WTrack where
  id : Nat
  owner : Owner
  key : Nat
  /-- die and number, once it is sent; the home that sends its updates numbers it too -/
  nums : List (Nat × Word)
  performed : Bool
  /-- dies at which its update is still to be applied -/
  updPending : List Nat
  /-- the context and the virtual address it was made through -/
  ctx : Option Nat
  va : DWord
  deriving DecidableEq, Repr

/-- A message on a Span channel (R13, R119, R120). -/
inductive Payload where
  | write (w : WEntry)
  | update (id line : Nat) (off : Nat) (data : List Byte)
  | read (load line : Nat)
  | reply (load line : Nat) (data : List Byte)
  | clock
  deriving DecidableEq, Repr

structure Msg where
  src : Nat
  dst : Nat
  seq : Word
  stamp : List Word
  body : Payload
  deriving DecidableEq, Repr

/-- A fence, or the release of an arrival or push, under way (R123, R124). -/
structure FenceReq where
  id : Nat
  core : Nat
  uid : Nat
  agents : List Nat
  scope : Nat
  rel : Bool
  acq : Bool
  /-- a die clock that the acquire takes over: what it covers has its effect at the core's die first (R120, R124) -/
  stamp : List Word
  deriving DecidableEq, Repr

/-- An arrival at a barrier, at TFETCH or at JOIN that is not counted yet (R43). -/
structure Arrival where
  id : Nat
  core : Nat
  team : Nat
  uid : Nat
  agents : List Nat
  /-- the barrier; none with `join` none is TFETCH -/
  bar : Option BarKey
  join : Option Nat
  sync : Bool
  /-- its workgroup: the launch, its number, and the cluster of its first placement -/
  launch : Nat
  num : Nat
  grp : Nat
  deriving DecidableEq, Repr

/-- A special function outstanding: the lanes still to be written (R91, R389). -/
structure Sfq where
  id : Nat
  core : Nat
  team : Nat
  uid : Nat
  no : Nat
  fn : Nat
  d : Nat
  /-- (lane, thread, operand) -/
  todo : List (Nat × Nat × Word)
  deriving DecidableEq, Repr

/-- Bytes as they were before a write, kept while an engine command is in flight that may still read them (R99, R101, R362,
R405, R414; log 37, DEDUCED): the step's number, the place, the bytes, and whose write it was. -/
structure Was where
  seq : Nat
  key : Nat
  old : List Byte
  id : Nat
  owner : Owner
  /-- the merge of a low nibble (R99) -/
  nibble : Bool
  deriving DecidableEq, Repr

/-! ### Hardware queues (06 R131, 10 R202) -/

/-- An entry in a ring: its bytes, and for an EARLY queue the producing uniform agent and its count (R134). -/
structure QEntry where
  data : List Byte
  uid : Nat
  count : DWord
  deriving DecidableEq, Repr

structure HwQueue where
  num : Nat
  ctx : Nat
  fn : Nat
  desc : DWord
  home : Nat
  ring : DWord
  logcap : Nat
  long : Bool
  early : Bool
  scope : Nat
  span : Bool
  adie : Nat
  ax : Nat
  ay : Nat
  vocab : Word
  entries : List QEntry
  oovcnt : Word
  recv : Word
  deriving DecidableEq, Repr

/-- A push, pop or try under way (R132, R373 to R375). -/
structure QOp where
  id : Nat
  /-- 0 push, 1 pop, 2 try, 3 a try that a later access of its agents has passed: it finds nothing, and is no fence (R375) -/
  op : Nat
  q : Nat
  core : Nat
  team : Nat
  uid : Nat
  agents : List Nat
  d : Nat
  /-- .D: the first register of the pair; .L: the scratchpad offset -/
  a : Nat
  data : List Byte
  count : DWord
  deriving DecidableEq, Repr

/-! ### Launches under way -/

/-- A saved workgroup (R175, R178, R201): where its image lies, its save-area slot or none, the recorded save
counter, and the state that was saved. -/
structure SavedWg where
  num : Nat
  addr : DWord
  stride : Nat
  slot : Option Nat
  savectr : Nat
  wg : Workgroup
  /-- its scratchpad, and the queue operations it waits in -/
  scratch : List Byte
  qops : List QOp
  /-- the core it was saved from, for R177's cluster place, and its die's clock then -/
  core : Nat
  stamp : List Word
  deriving DecidableEq, Repr

/-- Where a launch stands. -/
inductive LState where
  | waiting | running | suspended | closing | done
  deriving DecidableEq, Repr

/-- A launch. -/
structure Launch where
  id : Nat
  ctx : Nat
  queue : Nat
  tag : Word
  prio : Nat
  hdr : Header
  cmin : Nat
  cmax : Nat
  dies : BitVec 5
  cpladdr : DWord
  cplval : DWord
  state : LState
  /-- cores of its mask now, and how many its initial mask had -/
  mask : List Nat
  /-- workgroup numbers by core for cores still to be placed -/
  toPlace : List (Nat × Nat)
  /-- tiles handed out -/
  handed : List Nat
  /-- BATCH: the tile field, the snapshot array and its length -/
  batch : Option (Nat × DWord × Nat)
  /-- grid barriers 0 to 3; cluster barriers at key 8·(cluster of first placement) + n -/
  gbars : List (Nat × Barrier)
  cbars : List (Nat × Barrier)
  saved : List SavedWg
  /-- when its first core was assigned, in order of assignment (R174) -/
  started : Nat
  deriving DecidableEq, Repr

/-! ### Translation (09) -/

/-- A cached leaf (R191, R193): the virtual address bits above the page, its size code, and the leaf's fields. -/
structure TlbEntry where
  ctx : Nat
  vbase : Nat
  size : Nat
  w : Bool
  seald : Bool
  target : Nat
  frame : Nat
  deriving DecidableEq, Repr

/-- A page walk in progress (R193): shared by the misses of one die for one context and 128 KiB page. -/
structure Walk where
  die : Nat
  ctx : Nat
  vpage : Nat
  deriving DecidableEq, Repr

/-- Who waits for the service of a translation fault (R195): threads of a core, whose wait names the fault; a RED in a
write path or replay buffer, by its write; or an engine command. -/
inductive Faulter where
  | threads (core : Nat)
  | red (id : Nat)
  | engine (core id : Nat)
  deriving DecidableEq, Repr

/-- A translation fault (R195, R197, R198); seq is none until its record is written. -/
structure FaultReq where
  id : Nat
  seq : Option Word
  who : Faulter
  kind : Nat
  m : Miss
  die : Nat
  cx : Nat
  cy : Nat
  deriving DecidableEq, Repr

/-- A SEAL or UNSEAL under way (R128, R129). -/
structure SealReq where
  id : Nat
  core : Nat
  uid : Nat
  ctx : Nat
  base : DWord
  pages : Nat
  unsl : Bool
  /-- step 1 and 2 done; the writes still to complete (step 3) -/
  accepted : Bool
  awaiting : List Nat
  deriving DecidableEq, Repr

/-! ### Contexts, host queues, estates, ballot, protection -/

structure Context where
  reg : CtxReg
  prot : Bool
  savectr : Nat
  /-- save-area slots taken -/
  slots : List Nat
  faulted : Bool
  deriving DecidableEq, Repr

/-- A packet as it was read whole when its parsing began (R155): its address, context and bytes. -/
structure Packet where
  addr : DWord
  ctx : Nat
  bytes : List Byte
  deriving DecidableEq, Repr

/-- The packet a queue has in progress. -/
inductive InProgress where
  /-- a SIBOPEN that waits for a group slot (R208), a SAVE that waits for stops, resumes or a slice's end (R165, R180), or a
  RESTORE whose image fails its tag (R201) -/
  | waiting
  | launch (l : Nat)
  | fence (conds : List (DWord × Nat × Bool × DWord)) (any : Bool)
  | saving (l : Nat) (img : DWord) (stride nslot : Nat)
  | closing (id : Nat)
  /-- its writes, to be complete (R162, R163) -/
  | writes (ids : List Nat)
  deriving DecidableEq, Repr

structure HostQueue where
  fn : Nat
  base : DWord
  logsz : Nat
  prio : Nat
  enable : Bool
  ctx : Nat
  wptr : Word
  rptr : Word
  withdrawn : List Word
  error : Bool
  fenceWait : Bool
  lasterr : Nat
  resetReq : Bool
  busy : Option InProgress
  /-- the packet parsed last -/
  packet : Packet
  deriving DecidableEq, Repr

/-- An estate in a core's store (R140): its key, values, settle order, pin, and the launch that bequeathed it (R150). -/
structure Estate where
  ctx : Nat
  lin : Nat
  ident : DWord
  regs : List Word
  order : Nat
  pinned : Bool
  launch : Nat
  deriving DecidableEq, Repr

/-- A spill slot in use (R141, R142, R144): the directory's record. -/
structure Spilled where
  ctx : Nat
  lin : Nat
  ident : DWord
  slot : Nat
  n : Nat
  /-- the die whose core wrote it -/
  die : Nat
  pinned : Bool
  launch : Nat
  deriving DecidableEq, Repr

/-- A settle waiting to be written (R139, R141). -/
structure Settle where
  id : Nat
  core : Nat
  launch : Nat
  tid : Nat
  est : Estate
  deriving DecidableEq, Repr

/-- Where a claimed estate is found: the core whose store holds it, with the entry's settle order, or a spill slot. -/
inductive Found where
  | store (core order : Nat)
  | slot (k : Nat)
  deriving DecidableEq, Repr

/-- One claim of a thread being born, as the directories found it (R143, R144). -/
structure Claim where
  core : Nat
  team : Nat
  lane : Nat
  j : Nat
  /-- n registers, their values, and the status bits [6:0] of R146; none found nothing -/
  found : Option (List Word × Bool × Bool)
  /-- the estate that it has pinned, and its context -/
  pin : Option (Nat × Found)
  deriving DecidableEq, Repr

/-- The counts of a lineage's opening (R153). -/
structure Lineage where
  ctx : Nat
  lin : Nat
  bequeathed : Word
  claimed : Word
  short : Word
  trimmed : Word
  surplus : Word
  migrated : Word
  spilled : Word
  membacked : Word
  unclaimed : Word
  discarded : Word
  cancelled : Word
  deriving DecidableEq, Repr

/-- A lineage close under way (R152). -/
structure CloseReq where
  id : Nat
  queue : Nat
  launch : Option Nat
  counts : Lineage
  buf : DWord
  overCap : Bool
  /-- the estates that were pinned at step 1 and are not with their heirs yet -/
  pins : List Found
  deriving DecidableEq, Repr

inductive GState where
  | closed | opened | voting | decided | releasing
  deriving DecidableEq, Repr

structure Sibling where
  /-- the counted post: hash and sequence -/
  post : Option (DWord × Word)
  work : Word
  tilesnd : Word
  nullcmds : Word
  insns : Word
  cancelled : Bool
  /-- the exchange of its live word is done, and its piers are told (R212) -/
  told : Bool
  deriving DecidableEq, Repr

/-- A group slot of the ballot unit (R208, R216, R217). -/
structure Group where
  gen : Nat
  state : GState
  ctx : Nat
  fn : Nat
  live : DWord
  pages : DWord
  acct : DWord
  freeq : Word
  n : Nat
  t : Nat
  launch : Nat
  nposts : Word
  sibs : List Sibling
  outcome : Nat
  winner : DWord
  dseq : Word
  pagesrel : Word
  pagesfreed : Word
  underflow : Word
  /-- where the page-release walk stands: sibling, node, and twice the entry, plus 1 where its push is to come (R215) -/
  walk : Nat × Option DWord × Nat
  deriving DecidableEq, Repr

/-- A post or query on its way to the ballot unit, or its answer on the way back (R210, R260, R323). -/
structure Post where
  id : Nat
  core : Nat
  team : Nat
  uid : Nat
  d : Nat
  handle : Word
  sib : Nat
  /-- BPOST: hash and work units; none is a BQRY -/
  hash : Option (DWord × Word)
  answer : Option Word
  deriving DecidableEq, Repr

/-- A function's TDISP interface (R222 to R225). -/
structure Iface where
  state : Nat
  lockwr : Bool
  fwall : Bool
  ideerr : Bool
  starting : Bool
  session : Bool
  /-- a reset sequence under way: 1 a function-level reset, 2 what ERROR makes of it (R222, R232) -/
  resetting : Nat
  deriving DecidableEq, Repr

structure KeySlot where
  state : Nat
  acks : BitVec 14
  ctx : Nat
  deriving DecidableEq, Repr

/-- A cluster: its clock, cycle count, the protected context active on it, slice start, clear sequence (R24, R228,
R229). -/
structure Cluster where
  mhz : Nat
  cycles : Nat
  active : Option Nat
  sliceStart : Option Nat
  clearing : Option Nat
  /-- how far its own clock has run since power-on, in units of 1/11,639,628 ns, in which every period is whole (log 11, DESIGN CHOICE) -/
  ran : Nat
  deriving DecidableEq, Repr

/-- A log record (R11). -/
structure LogRec where
  seq : Word
  type : Nat
  die : Nat
  cx : Nat
  cy : Nat
  time : Nat
  arg0 : DWord
  arg1 : DWord
  deriving DecidableEq, Repr

structure Log where
  wptr : Word
  rptr : Word
  lost : Word
  inten : Bool
  recs : List LogRec
  deriving DecidableEq, Repr

/-- A host interrupt raised. -/
inductive Irq where
  | log (event : Bool)
  | queue (q : Nat)
  | faultRecord (ctx : Nat)
  | faultBuffer
  deriving DecidableEq, Repr

/-- What a protected context has to be told at the end of a slice (R228): a packet's status, detail and completion signal, or an
interrupt. -/
inductive HeldAct where
  | status (q status detail : Nat) (sig : DWord × DWord)
  | irq (i : Irq)
  deriving DecidableEq, Repr

/-- The fault buffer's registers (R197). -/
structure FaultBuf where
  base : DWord
  logsz : Nat
  enable : Bool
  inten : Bool
  wptr : Word
  rptr : Word
  nextSeq : Word
  deriving DecidableEq, Repr

/-- The invalidation registers (R194); `awaiting` names the accesses that BUSY waits for. -/
structure Inval where
  va : DWord
  pages : Word
  ctx : Word
  busy : Bool
  awaiting : List Nat
  deriving DecidableEq, Repr

/-- Recovery (R237) and what boots (R235). -/
structure Recovery where
  active : Bool
  busy : Bool
  aerr : Nat
  berr : Nat
  stage : Nat
  varerr : Nat
  slen : Word
  running : Option Nat
  /-- GET_MEASUREMENTS' last answer, block by block, and its signature by the identity key (R239) -/
  measured : List (List Byte)
  signature : List Byte
  deriving DecidableEq, Repr

/-- A command on its way to a pier, of the core it names (R171). -/
inductive PierCmd where
  | place (launch core num : Nat)
  /-- STOP, with where the image goes: a context, an address, and the save-area slot or none for an IMG slot -/
  | stop (core ctx : Nat) (addr : DWord) (slot : Option Nat)
  | resume (launch core num : Nat)
  | discard (core : Nat)
  deriving DecidableEq, Repr

/-- The parts of R1. -/
inductive Part where
  | adk9601 | adk9405 | adk9201
  deriving DecidableEq, Repr

/-- What a prefix gives the word it governs (R277, R278). -/
inductive Pfx where
  | none
  | ext (imm : BitVec 25)
  | pat (a b : BitVec 8)
  deriving DecidableEq, Repr

/-- The issue under way: who executes the unit (R37, R186). -/
structure Issue where
  core : Nat
  team : Nat
  lanes : BitVec 64
  pc : PC
  pfx : Pfx
  deriving DecidableEq, Repr

/-- Whose turn it is (log 1, DESIGN CHOICE): an issue of a partition's lane or uniform slot, a step of another agent, or the passing
of cycles of a cluster's clock. -/
inductive Turn where
  | issue (core part : Nat) (unif : Bool)
  | event (i : Instr) (choice : Nat)
  | tick (cl n : Nat)
  deriving DecidableEq, Repr

/-- The device. -/
structure State where
  part : Part
  /-- since power-on, in units of 1/11,639,628 ns (log 11, DESIGN CHOICE) -/
  time : Nat
  /-- is power on? -/
  powered : Bool
  cxlCoherent : Bool
  faultLog : Log
  eventLog : Log
  irqs : List Irq
  /-- Span links down, key 8·lower + higher, 128 more for the second of two links between the same dies (R12); failures in a row of
  a flit, by 8·source + destination, 128 more likewise, and by 64 + port for a Viaduct port (R14, R221) -/
  linksDown : List (Nat × Nat)
  retries : List (Nat × Nat)
  viaductDown : List Nat
  clusters : List (Nat × Cluster)
  /-- every byte of every memory, at `space·2^60 + offset`; 0 where not listed (log 2, DESIGN CHOICE) -/
  mem : List Host.Cell
  loads : List LoadReq
  /-- pending-store buffers, core write paths, cluster atomic write paths and port queues, each oldest first -/
  stbuf : List WEntry
  wpath : List WEntry
  capath : List WEntry
  ports : List WEntry
  /-- lines of 128 bytes: L1 views at core·2^52 + line, cluster atomic views at cluster·2^52 + line, copies of other
  dies' lines at die·2^52 + line -/
  l1 : List (Nat × List Byte)
  caview : List (Nat × List Byte)
  copies : List (Nat × List Byte)
  /-- die clocks: die·8 + entry, 0 where not listed -/
  vc : List (Nat × Word)
  chans : List Msg
  /-- last sequence number of each Span direction, 8·source + destination -/
  chanSeq : List (Nat × Word)
  writes : List WTrack
  fences : List FenceReq
  arrivals : List Arrival
  sfqs : List Sfq
  l1tlb : List (Nat × List TlbEntry)
  cltlb : List (Nat × List TlbEntry)
  lltlb : List (Nat × List TlbEntry)
  walks : List Walk
  inval : Inval
  fb : FaultBuf
  faults : List FaultReq
  /-- RED replay buffers: the home slice's number and the write (R195) -/
  replay : List (Nat × WEntry)
  seals : List SealReq
  contexts : List (Nat × Context)
  queues : List (Nat × HostQueue)
  launches : List (Nat × Launch)
  wgs : List (Nat × Workgroup)
  /-- commands that the piers have not executed, oldest first; each holds one of its pier's 8 permits (R171) -/
  links : List PierCmd
  hwqs : List (Nat × HwQueue)
  qops : List QOp
  stores : List (Nat × List Estate)
  spilled : List Spilled
  settles : List Settle
  claims : List Claim
  lineages : List Lineage
  closes : List CloseReq
  groups : List (Nat × Group)
  posts : List Post
  ifaces : List (Nat × Iface)
  /-- owner tags other than 0: device granules by physical address div 131072, die-shared ones at 2^50 + die·256 + granule -/
  owners : List (Nat × Nat)
  keys : List (Nat × KeySlot)
  /-- what is held to the end of a slice (R228), with the cluster whose slice it is -/
  deferredCpl : List (Nat × HeldAct)
  recov : Recovery
  /-- device-memory words, by physical address div 8, with an uncorrectable soft error (R192, R11) -/
  softErrs : List Nat
  /-- what engine commands in flight may still read (log 37, DEDUCED), in order -/
  was : List Was
  /-- device granules, by physical address div 131072, whose page a completed SEAL has sealed (R128) -/
  sealedFrames : List Nat
  nextSeq : Nat
  /-- the model's own -/
  agenda : List Turn
  cur : Issue
  /-- the cluster, port or launch of a step that names none -/
  choice : Nat
  freeCtr : Nat
  stop : Option Fault
  deriving DecidableEq, Repr

def Log.empty (inten : Bool) : Log := ⟨0, 0, 0, inten, []⟩

/-- The device after power-on and reset (R8): no context, launch or workgroup exists; every register has its Reset
value; clusters run at 1,050 MHz (a cluster not listed is one at reset, see `State.cluster`). -/
def State.reset : State where
  part := .adk9601
  time := 0
  powered := true
  cxlCoherent := false
  faultLog := Log.empty true
  eventLog := Log.empty false
  irqs := []
  linksDown := []
  retries := []
  viaductDown := []
  clusters := []
  mem := []
  loads := []
  stbuf := []
  wpath := []
  capath := []
  ports := []
  l1 := []
  caview := []
  copies := []
  vc := []
  chans := []
  chanSeq := []
  writes := []
  fences := []
  arrivals := []
  sfqs := []
  l1tlb := []
  cltlb := []
  lltlb := []
  walks := []
  inval := ⟨0, 0, 0, false, []⟩
  fb := ⟨0, 0, false, false, 0, 0, 0⟩
  faults := []
  replay := []
  seals := []
  contexts := []
  queues := []
  launches := []
  wgs := []
  links := []
  hwqs := []
  qops := []
  stores := []
  spilled := []
  settles := []
  claims := []
  lineages := []
  closes := []
  groups := []
  posts := []
  ifaces := []
  owners := []
  keys := []
  deferredCpl := []
  recov := ⟨false, false, 0, 0, 0, 0, 0, none, [], []⟩
  softErrs := []
  was := []
  sealedFrames := []
  nextSeq := 0
  agenda := []
  cur := ⟨0, 0, 0, 0, .none⟩
  choice := 0
  freeCtr := 0
  stop := none

end Sys2Proof.Machine
end

