-- ==== Sys2Proof/Machine/Access.lean ====
section
/-! DEFINITION. The one home of every read and write of a register, a byte of memory or a table of units. -/

namespace Sys2Proof.Machine

/-! ### Places: dies, cores, clusters (01) -/

/-- Does the part have compute die, drafting die or Keystone die d (R1, R9)? -/
def Part.hasDie (p : Part) (d : Nat) : Bool :=
  match p with
  | .adk9601 => d ≤ 5
  | .adk9405 => d ≤ 3 || d = 5
  | .adk9201 => d ≤ 1 || d = 5

/-- The die of a core (R18). -/
def coreDie (c : Nat) : Nat := if c < 576 then c / 144 else 4

/-- CORE_X and CORE_Y of a core (R15, R17, R18). -/
def coreX (c : Nat) : Nat := if c < 576 then c % 144 % 24 else (c - 576) % 8
def coreY (c : Nat) : Nat := if c < 576 then c % 144 / 24 else (c - 576) / 8

/-- The core at a place of a die's grid, where the grid has one (R15, R17, R18). -/
def coreAt (die : Nat) (x y : Int) : Option Nat :=
  if x < 0 || y < 0 then none
  else if die < 4 then
    if x < 24 && y < 6 then some (144 * die + 24 * y.toNat + x.toNat) else none
  else if x < 8 && y < 4 then some (576 + 8 * y.toNat + x.toNat) else none

/-- The cluster of a core, 32·die + cluster within the die (R15, R17). -/
def clusterOf (c : Nat) : Nat :=
  32 * coreDie c + coreX c / 4 + (if c < 576 then 6 else 2) * (coreY c / 2)

/-- The index of a core within its cluster (R78). -/
def clusterIndex (c : Nat) : Nat := coreX c % 4 + 4 * (coreY c % 2)

/-- Does the core exist on the part (R1, R18)? -/
def coreExists (p : Part) (c : Nat) : Bool := c < 608 && p.hasDie (coreDie c)

/-- REFORM bins of a core (R17, R39). -/
def binsOf (c : Nat) : Nat := if coreDie c = 4 then 16 else 32

/-- Does the core have the FP64 vector unit (R1, R17, R22)? -/
def hasFp64 (p : Part) (c : Nat) : Bool := p = .adk9601 && coreDie c < 4

/-- Home slices of a die (01, R17). -/
def homeSlices (d : Nat) : Nat := if d = 4 then 32 else 128

/-- CAPS as a core reads it (R21). -/
def capsOf (p : Part) (c : Nat) : Word :=
  let fp64 := if hasFp64 p c then 1 else 0
  let draft := if p = .adk9601 then 1 else 0
  let vcipher := if p = .adk9405 then 0 else 1
  let ondraft := if coreDie c = 4 then 1 else 0
  let cdies := if p = .adk9201 then 2 else 4
  let vports := match p with | .adk9601 => 12 | .adk9405 => 6 | .adk9201 => 4
  BitVec.ofNat 32 (fp64 + draft * 2 + vcipher * 4 + ondraft * 8 + cdies * 16 + vports * 256 + 2 * 4096
    + binsOf c * 65536 + 1 * 16777216)

/-- Does the part have cipher engines at its Viaduct ports (R1, R230)? -/
def Part.vcipher (p : Part) : Bool := p ≠ .adk9405

/-! ### Memory: one list of bytes (06 R106; log 2, DESIGN CHOICE) -/

/-- The spaces of the one memory. -/
abbrev spaceSize : Nat := 1152921504606846976
abbrev spDevice : Nat := 0
abbrev spHost : Nat := 1
abbrev spCxl : Nat := 2
abbrev spFabric : Nat := 3
abbrev spShared : Nat := 4
abbrev spScratch : Nat := 5
abbrev spFlash : Nat := 6
abbrev spStage : Nat := 7

/-- The key of a place: a space and an offset in it. -/
def keyOf (space off : Nat) : Nat := space * spaceSize + off % spaceSize
def spaceOf (key : Nat) : Nat := key / spaceSize
def offOf (key : Nat) : Nat := key % spaceSize

/-- The key of an offset in a core's scratchpad, and in a die's die-shared memory. -/
def scratchKey (core off : Nat) : Nat := keyOf spScratch (core * 524288 + off)
def sharedKey (die off : Nat) : Nat := keyOf spShared (die * 33554432 + off)

/-- The die on which a device or die-shared address is homed (01; R191); 5 for ports. -/
def homeDie (key : Nat) : Nat :=
  match spaceOf key with
  | 0 => offOf key / 274877906944
  | 4 => offOf key / 33554432
  | 5 => coreDie (offOf key / 524288)
  | _ => 5

/-- What an unlisted byte of memory reads as (log 2, DESIGN CHOICE). -/
def emptyByte : Byte := 0

/-- The byte at a key. -/
def memByte (m : List Host.Cell) (k : Nat) : Byte := kvGetD emptyByte m k

/-- Set the byte at a key. -/
def memSetByte (m : List Host.Cell) (k : Nat) (b : Byte) : List Host.Cell := kvSetD emptyByte m k b

/-- The `n` bytes from a key on. -/
def memBytes (m : List Host.Cell) (k : Nat) : Nat → List Byte
  | 0 => []
  | n + 1 => memByte m k :: memBytes m (k + 1) n

/-- Write bytes from a key on. -/
def memPut (m : List Host.Cell) (k : Nat) : List Byte → List Host.Cell
  | [] => m
  | b :: r => memPut (memSetByte m k b) (k + 1) r

/-- The memory is in canonical form. -/
def memWf (m : List Host.Cell) : Bool := kvWfD emptyByte m

/-- Does the part have memory at this key (01 R1, R9; R191)? -/
def memExists (p : Part) (key : Nat) : Bool :=
  match spaceOf key with
  | 0 =>
    let d := offOf key / 274877906944
    let o := offOf key % 274877906944
    d < 5 && p.hasDie d && o < (if d = 4 then 51539607552 else 206158430208)
  | 4 => let d := offOf key / 33554432
         d < 5 && p.hasDie d && offOf key % 33554432 < (if d = 4 then 8388608 else 33554432)
  | _ => true

/-- Stop where the part has no memory (log 4, DESIGN CHOICE). -/
def State.checkMem (s : State) (key : Nat) : State :=
  if memExists s.part key then s else { s with stop := some (.noSuchMemory key) }

/-- Zero a range of memory: nothing in it is listed. -/
def State.zeroRange (s : State) (key n : Nat) : State :=
  { s with mem := s.mem.filter (fun c => !(key ≤ c.1 && c.1 < key + n)) }

def State.readBytes (s : State) (key n : Nat) : List Byte := memBytes s.mem key n
def State.readNat (s : State) (key n : Nat) : Nat := ofBytes (memBytes s.mem key n)
def State.writeBytes (s : State) (key : Nat) (bs : List Byte) : State := { s with mem := memPut s.mem key bs }

/-! ### Free values (log 3, DESIGN CHOICE) -/

/-- Take a free bit. -/
def State.takeBit (s : State) : Bool × State := (Config.freeBit s.freeCtr, { s with freeCtr := s.freeCtr + 1 })

/-! ### Sequence numbers -/

def State.bump (s : State) : State := { s with nextSeq := s.nextSeq + 1 }

/-! ### Registers of a thread and a team -/

def Thread.v (t : Thread) (n : Nat) : Word := kvGetD 0 t.regs n
def Thread.setV (t : Thread) (n : Nat) (x : Word) : Thread := { t with regs := kvSetD 0 t.regs n x }
def Thread.v2 (t : Thread) (n : Nat) : DWord := pairOf (t.v n) (t.v (n + 1))
def Thread.setV2 (t : Thread) (n : Nat) (x : DWord) : Thread := (t.setV n (loWord x)).setV (n + 1) (hiWord x)

/-- p0 to p7; p7 reads true (R19, R274). -/
def Thread.p (t : Thread) (n : Nat) : Bool := n = 7 || t.preds.getLsbD n

/-- Write a predicate; a write to p7 is discarded (R274). -/
def Thread.setP (t : Thread) (n : Nat) (b : Bool) : Thread :=
  if n < 7 then { t with preds := if b then t.preds ||| BitVec.twoPow 7 n else t.preds &&& ~~~(BitVec.twoPow 7 n) }
  else t

def Team.sr (t : Team) (n : Nat) : Word := kvGetD 0 t.sregs n
def Team.setSr (t : Team) (n : Nat) (x : Word) : Team := { t with sregs := kvSetD 0 t.sregs n x }
def Team.sr2 (t : Team) (n : Nat) : DWord := pairOf (t.sr n) (t.sr (n + 1))
def Team.setSr2 (t : Team) (n : Nat) (x : DWord) : Team := (t.setSr n (loWord x)).setSr (n + 1) (hiWord x)

/-- q0 to q7; q7 reads true (R19, R274). -/
def Team.q (t : Team) (n : Nat) : Bool := n = 7 || t.qpreds.getLsbD n

def Team.setQ (t : Team) (n : Nat) (b : Bool) : Team :=
  if n < 7 then { t with qpreds := if b then t.qpreds ||| BitVec.twoPow 7 n else t.qpreds &&& ~~~(BitVec.twoPow 7 n) }
  else t

def Team.k (t : Team) (n : Nat) : BitVec 64 := kvGetD 0 t.kmasks n
def Team.setK (t : Team) (n : Nat) (m : BitVec 64) : Team := { t with kmasks := kvSetD 0 t.kmasks n m }

/-- MODE as SREAD gives it (R54). -/
def Team.modeWord (t : Team) : Word := t.mode.zeroExtend 32

/-! ### Units by core, team and lane -/

def State.wg? (s : State) (c : Nat) : Option Workgroup := kvGet s.wgs c
def State.modWg (s : State) (c : Nat) (f : Workgroup → Workgroup) : State := { s with wgs := kvMod s.wgs c f }
def State.team? (s : State) (c t : Nat) : Option Team := (s.wg? c).bind (fun w => kvGet w.teams t)
def State.modTeam (s : State) (c t : Nat) (f : Team → Team) : State :=
  s.modWg c (fun w => { w with teams := kvMod w.teams t f })
def State.thread? (s : State) (c t l : Nat) : Option Thread := (s.team? c t).bind (fun m => kvGet m.lanes l)
def State.modThread (s : State) (c t l : Nat) (f : Thread → Thread) : State :=
  s.modTeam c t (fun m => { m with lanes := kvMod m.lanes l f })

/-- Change several lanes of a team in one write. -/
def State.modLanes (s : State) (c t : Nat) (ls : List Nat) (f : Nat → Thread → Thread) : State :=
  s.modTeam c t (fun m => { m with lanes := m.lanes.map (fun e => if ls.contains e.1 then (e.1, f e.1 e.2) else e) })

/-- Every thread of a workgroup that stands in a team: (team, lane, thread). -/
def Workgroup.threads (w : Workgroup) : List (Nat × Nat × Thread) :=
  w.teams.flatMap (fun e => e.2.lanes.map (fun l => (e.1, l.1, l.2)))

/-- The live threads of a workgroup, those in bins included. -/
def Workgroup.liveCount (w : Workgroup) : Nat :=
  w.threads.length + (w.bins.map (fun b => b.threads.length)).sum

/-- Where a thread stands. -/
def State.findTid (s : State) (c tid : Nat) : Option (Nat × Nat × Thread) :=
  (s.wg? c).bind (fun w => w.threads.find? (fun e => e.2.2.tid = tid))

/-- Change a thread named by its tid, wherever it stands on its core. -/
def State.modTid (s : State) (c tid : Nat) (f : Thread → Thread) : State :=
  s.modWg c (fun w => { w with teams := w.teams.map (fun e =>
    (e.1, { e.2 with lanes := e.2.lanes.map (fun l => if l.2.tid = tid then (l.1, f l.2) else l) })) })

/-- The team whose uniform agent is `uid`, on a core. -/
def State.findUid (s : State) (c uid : Nat) : Option (Nat × Team) :=
  (s.wg? c).bind (fun w => w.teams.find? (fun e => e.2.uid = uid))

/-- Change the team whose uniform agent is `uid`, on whatever core it stands. -/
def State.modUid (s : State) (uid : Nat) (f : Team → Team) : State :=
  { s with wgs := s.wgs.map (fun e => (e.1, { e.2 with teams := e.2.teams.map (fun t =>
    if t.2.uid = uid then (t.1, f t.2) else t) })) }

/-- An all-zero header, for a core that hosts no workgroup. -/
def Header.zero : Header :=
  ⟨0, 0, 0, 0, [6, 0, 0, 0, 0, 0], 0, false, [1, 1, 1, 1], 1, 1, 0, 0, 0, false, 0, false, false, 0, 0, 1, 0, 0, 0⟩

def State.launch? (s : State) (l : Nat) : Option Launch := kvGet s.launches l
def State.modLaunch (s : State) (l : Nat) (f : Launch → Launch) : State := { s with launches := kvMod s.launches l f }
def State.wgLaunch? (s : State) (c : Nat) : Option Launch := (s.wg? c).bind (fun w => s.launch? w.launch)

/-- The launch header of the workgroup on a core. -/
def State.hdr (s : State) (c : Nat) : Header := ((s.wgLaunch? c).map (·.hdr)).getD Header.zero

/-- The context of the workgroup on a core; 0 where it hosts none. -/
def State.ctxOf (s : State) (c : Nat) : Nat := ((s.wgLaunch? c).map (·.ctx)).getD 0

def State.context? (s : State) (x : Nat) : Option Context := kvGet s.contexts x
def State.modContext (s : State) (x : Nat) (f : Context → Context) : State := { s with contexts := kvMod s.contexts x f }

/-- The registers allocated to each thread: 8·REGS8 (R27, R272). -/
def State.alloc (s : State) (c : Nat) : Nat := 8 * (s.hdr c).regs8

/-- SCRATCH in bytes (R27). -/
def State.scratchBytes (s : State) (c : Nat) : Nat := 1024 * (s.hdr c).scratch

/-- A cluster; one not listed is as after reset: 1,050 MHz, nothing active (R24). -/
def State.cluster (s : State) (cl : Nat) : Cluster := (kvGet s.clusters cl).getD ⟨1050, 0, none, none, none, 0⟩
def State.setCluster (s : State) (cl : Nat) (c : Cluster) : State := { s with clusters := kvPut s.clusters cl c }

/-- The cycle count of a core's cluster clock (R25). -/
def State.clock (s : State) (c : Nat) : DWord := BitVec.ofNat 64 (s.cluster (clusterOf c)).cycles

/-- A function's interface; one not listed is in its reset state (R225). -/
def State.iface (s : State) (fn : Nat) : Iface := (kvGet s.ifaces fn).getD ⟨0, false, false, false, false, false, 0⟩
def State.setIface (s : State) (fn : Nat) (i : Iface) : State := { s with ifaces := kvPut s.ifaces fn i }

/-- A host queue's registers; one not listed is in its reset state (R154). -/
def State.queue (s : State) (q : Nat) : HostQueue :=
  (kvGet s.queues q).getD ⟨0, 0, 0, 0, false, 0, 0, 0, [], false, false, 0, false, none, ⟨0, 0, []⟩⟩
def State.setQueue (s : State) (q : Nat) (x : HostQueue) : State := { s with queues := kvPut s.queues q x }

/-- Every byte of a list replaced where listed by (offset, byte). -/
def zeros (n : Nat) : List Byte := List.replicate n 0

end Sys2Proof.Machine
end

