-- ==== Sys2Proof/Machine/Flags.lean ====
section
/-! DEFINITION. Number formats, rounding and every flag computation (03, R47 to R51, R54 to R63). A flag set is the
nine bits of MODE with only NV, DZ, OF, UF and NX in use, so that raising flags is an OR into MODE (R55). -/

namespace Sys2Proof.Machine

/-- A set of flags, placed as in MODE (R54). -/
abbrev FlagSet := BitVec 9

def flagNV : FlagSet := 0x010
def flagDZ : FlagSet := 0x020
def flagOF : FlagSet := 0x040
def flagUF : FlagSet := 0x080
def flagNX : FlagSet := 0x100

/-- The rounding a MODE names: 0 RNE, 1 RZ, 2 RDN, 3 RUP (R54). -/
def modeRnd (m : BitVec 9) : Nat := m.toNat % 4
def modeFtzi (m : BitVec 9) : Bool := m.getLsbD 2
def modeFtzo (m : BitVec 9) : Bool := m.getLsbD 3

/-- A floating-point format of R47: mantissa bits, bias, the sign's place, the largest finite code, the infinity code
or none, the least NaN code (magnitudes), and the default NaN. -/
structure Fmt where
  mw : Nat
  bias : Nat
  signBit : Nat
  maxCode : Nat
  infCode : Option Nat
  nanLo : Nat
  defNan : Nat
  deriving DecidableEq, Repr

def fp64 : Fmt := ⟨52, 1023, 63, 0x7FEFFFFFFFFFFFFF, some 0x7FF0000000000000, 0x7FF0000000000001, 0x7FF8000000000000⟩
def fp32 : Fmt := ⟨23, 127, 31, 0x7F7FFFFF, some 0x7F800000, 0x7F800001, 0x7FC00000⟩
def fp16 : Fmt := ⟨10, 15, 15, 0x7BFF, some 0x7C00, 0x7C01, 0x7E00⟩
def bf16 : Fmt := ⟨7, 127, 15, 0x7F7F, some 0x7F80, 0x7F81, 0x7FC0⟩
def e5m2 : Fmt := ⟨2, 15, 7, 0x7B, some 0x7C, 0x7D, 0x7E⟩
def e4m3 : Fmt := ⟨3, 7, 7, 0x7E, none, 0x7F, 0x7F⟩
/-- E2M1 has no NaN (R47); a NaN converted to it gives 0x0 (R63). -/
def e2m1 : Fmt := ⟨1, 1, 3, 0x7, none, 8, 0⟩

/-- The value of a code: a NaN, signalling or quiet; an infinity; or a signed exact rational, which keeps the sign of
zero (R47, R48). -/
inductive FVal where
  | nan (sig : Bool)
  | inf (neg : Bool)
  | fin (neg : Bool) (num den : Nat)
  deriving DecidableEq, Repr

/-- The magnitude bits of a code. -/
def Fmt.mag (f : Fmt) (c : Nat) : Nat := c % 2 ^ f.signBit
def Fmt.neg (f : Fmt) (c : Nat) : Bool := c / 2 ^ f.signBit % 2 = 1
def Fmt.signed (f : Fmt) (neg : Bool) (m : Nat) : Nat := if neg then m + 2 ^ f.signBit else m

def Fmt.isNan (f : Fmt) (c : Nat) : Bool := f.nanLo ≤ f.mag c
/-- A NaN whose top mantissa bit is 0; the E4M3 NaN is quiet (R48). -/
def Fmt.isSnan (f : Fmt) (c : Nat) : Bool :=
  f.isNan c && f.infCode.isSome && f.mag c / 2 ^ (f.mw - 1) % 2 = 0
/-- Subnormal and not zero (R47). -/
def Fmt.isSub (f : Fmt) (c : Nat) : Bool := f.mag c ≠ 0 && f.mag c < 2 ^ f.mw

/-- num / den times 2^e, as a numerator and a denominator. -/
def scalePow (num den : Nat) (e : Int) : Nat × Nat :=
  match e with
  | .ofNat k => (num * 2 ^ k, den)
  | .negSucc k => (num, den * 2 ^ (k + 1))

/-- `value(c, fmt)` of R294. -/
def Fmt.value (f : Fmt) (c : Nat) : FVal :=
  let m := f.mag c
  if f.nanLo ≤ m then .nan (f.isSnan c)
  else if f.infCode = some m then .inf (f.neg c)
  else
    let e := m / 2 ^ f.mw
    let frac := m % 2 ^ f.mw
    if e = 0 then
      let p := scalePow frac 1 (1 - (f.bias : Int) - f.mw)
      .fin (f.neg c) p.1 p.2
    else
      let p := scalePow (frac + 2 ^ f.mw) 1 ((e : Int) - f.bias - f.mw)
      .fin (f.neg c) p.1 p.2

/-- A code as FTZI leaves it (R54, R57): a subnormal becomes the zero of its sign. -/
def Fmt.ftz (f : Fmt) (on : Bool) (c : Nat) : Nat := if on && f.isSub c then f.signed (f.neg c) 0 else c

/-- floor(log2(num / den)) for num and den above 0. -/
def floorLog2 (num den : Nat) : Int :=
  let l : Int := (Nat.log2 num : Int) - Nat.log2 den
  let p := scalePow num den (-l)
  if p.1 < p.2 then l - 1 else l

/-- The integer that the rounding selects from the magnitude num / den of a number of this sign, and whether it
differs from it (R58). -/
def roundNat (rnd : Nat) (neg : Bool) (num den : Nat) : Nat × Bool :=
  let q := num / den
  let r := num % den
  let up : Bool := match rnd with
    | 0 => 2 * r > den || (2 * r = den && q % 2 = 1)
    | 1 => false
    | 2 => neg && r ≠ 0
    | _ => !neg && r ≠ 0
  (if up then q + 1 else q, r ≠ 0)

/-- What overflow gives (R59). -/
def Fmt.overflow (f : Fmt) (rnd : Nat) (neg : Bool) : Nat :=
  match f.infCode with
  | none => f.signed neg f.maxCode
  | some i =>
    match rnd, neg with
    | 0, _ => f.signed neg i
    | 1, _ => f.signed neg f.maxCode
    | 2, false => f.maxCode
    | 2, true => f.signed true i
    | _, false => i
    | _, true => f.signed true f.maxCode

/-- Round the magnitude num / den, above 0, with a sign, once, to a format (R58, R59): the code and the flags. -/
def Fmt.roundMag (f : Fmt) (rnd : Nat) (ftzo : Bool) (neg : Bool) (num den : Nat) : Nat × FlagSet :=
  let l := floorLog2 num den
  let emin : Int := 1 - (f.bias : Int)
  let qe : Int := max l emin - f.mw
  let p := scalePow num den (-qe)
  let r := roundNat rnd neg p.1 p.2
  let code : Nat := (qe + f.mw + f.bias - 1).toNat * 2 ^ f.mw + r.1
  let nx : FlagSet := if r.2 then flagNX else 0
  if code > f.maxCode then (f.overflow rnd neg, flagOF ||| flagNX)
  else
    -- tiny after rounding with an unbounded exponent
    let pu := scalePow num den (-(l - f.mw))
    let ru := roundNat rnd neg pu.1 pu.2
    let tiny : Bool := l < emin && !(l + 1 = emin && ru.1 = 2 ^ (f.mw + 1))
    let uf : FlagSet := if tiny && r.2 then flagUF else 0
    if ftzo && 0 < code && code < 2 ^ f.mw then (f.signed neg 0, flagUF ||| flagNX)
    else (f.signed neg code, nx ||| uf)

/-- Round an exact value; a zero keeps the sign it carries. -/
def Fmt.round (f : Fmt) (rnd : Nat) (ftzo : Bool) (neg : Bool) (num den : Nat) : Nat × FlagSet :=
  if num = 0 then (f.signed neg 0, 0) else f.roundMag rnd ftzo neg num den

/-- The infinity's code, or the largest finite code of a format without one. -/
def Fmt.infOf (f : Fmt) (neg : Bool) : Nat := f.signed neg (f.infCode.getD f.maxCode)

/-- `round_rne` of R294: no flags, subnormals kept. -/
def Fmt.rne (f : Fmt) (x : FVal) : Nat :=
  match x with
  | .nan _ => f.defNan
  | .inf n => f.infOf n
  | .fin n a b => (f.round 0 false n a b).1

/-- A signed numerator. -/
def sgnNum (neg : Bool) (n : Nat) : Int := if neg then -(n : Int) else n

/-- The sum of a finite-or-infinite product or addend `p` and an addend `c`, neither a NaN, rounded once: the last
five rows of R61's table with R60's signs. -/
def Fmt.addVal (f : Fmt) (rnd : Nat) (ftzo : Bool) (p c : FVal) : Nat × FlagSet :=
  match p, c with
  | .nan _, _ => (f.defNan, 0)
  | _, .nan _ => (f.defNan, 0)
  | .inf a, .inf b => if a = b then (f.infOf a, 0) else (f.defNan, flagNV)
  | .inf a, .fin _ _ _ => (f.infOf a, 0)
  | .fin _ _ _, .inf b => (f.infOf b, 0)
  | .fin na xa da, .fin nb xb db =>
    let num := sgnNum na xa * db + sgnNum nb xb * da
    if num = 0 then
      if xa = 0 && xb = 0 && na = nb then (f.signed na 0, 0) else (f.signed (rnd = 2) 0, 0)
    else f.roundMag rnd ftzo (num < 0) num.natAbs (da * db)

def FVal.isNan : FVal → Bool
  | .nan _ => true
  | _ => false
def FVal.isSnan : FVal → Bool
  | .nan s => s
  | _ => false
def FVal.isZero : FVal → Bool
  | .fin _ n _ => n = 0
  | _ => false
def FVal.isInf : FVal → Bool
  | .inf _ => true
  | _ => false

/-- The negative of a value; a NaN stays one. -/
def FVal.negate : FVal → FVal
  | .nan s => .nan s
  | .inf n => .inf (!n)
  | .fin n a b => .fin (!n) a b

/-- The exact product of two values that are not NaN and not ∞ × 0. -/
def FVal.mul (a b : FVal) : FVal :=
  match a, b with
  | .nan s, _ => .nan s
  | _, .nan s => .nan s
  | .inf n, .inf m => .inf (n != m)
  | .inf n, .fin m _ _ => .inf (n != m)
  | .fin n _ _, .inf m => .inf (n != m)
  | .fin n xa da, .fin m xb db => .fin (n != m) (xa * xb) (da * db)

/-- Does a product meet ∞ × 0? -/
def infTimesZero (a b : FVal) : Bool := (a.isInf && b.isZero) || (a.isZero && b.isInf)

/-- FADD: the table of R61 with the first operand in place of the product. -/
def Fmt.add (f : Fmt) (m : BitVec 9) (a b : Nat) : Nat × FlagSet :=
  let x := f.value (f.ftz (modeFtzi m) a)
  let y := f.value (f.ftz (modeFtzi m) b)
  if x.isSnan || y.isSnan then (f.defNan, flagNV)
  else if x.isNan || y.isNan then (f.defNan, 0)
  else f.addVal (modeRnd m) (modeFtzo m) x y

/-- FSUB. -/
def Fmt.sub (f : Fmt) (m : BitVec 9) (a b : Nat) : Nat × FlagSet :=
  let x := f.value (f.ftz (modeFtzi m) a)
  let y := f.value (f.ftz (modeFtzi m) b)
  if x.isSnan || y.isSnan then (f.defNan, flagNV)
  else if x.isNan || y.isNan then (f.defNan, 0)
  else f.addVal (modeRnd m) (modeFtzo m) x y.negate

/-- FMUL: no addend (R61). -/
def Fmt.mul (f : Fmt) (m : BitVec 9) (a b : Nat) : Nat × FlagSet :=
  let x := f.value (f.ftz (modeFtzi m) a)
  let y := f.value (f.ftz (modeFtzi m) b)
  if x.isSnan || y.isSnan then (f.defNan, flagNV)
  else if infTimesZero x y then (f.defNan, flagNV)
  else if x.isNan || y.isNan then (f.defNan, 0)
  else match x.mul y with
    | .nan _ => (f.defNan, 0)
    | .inf n => (f.infOf n, 0)
    | .fin n num den => f.round (modeRnd m) (modeFtzo m) n num den

/-- FFMA. -/
def Fmt.fma (f : Fmt) (m : BitVec 9) (a b c : Nat) : Nat × FlagSet :=
  let x := f.value (f.ftz (modeFtzi m) a)
  let y := f.value (f.ftz (modeFtzi m) b)
  let z := f.value (f.ftz (modeFtzi m) c)
  if x.isSnan || y.isSnan || z.isSnan then (f.defNan, flagNV)
  else if infTimesZero x y then (f.defNan, flagNV)
  else if x.isNan || y.isNan || z.isNan then (f.defNan, 0)
  else f.addVal (modeRnd m) (modeFtzo m) (x.mul y) z

/-- A key that orders the non-NaN codes by value, −0 below +0 (R62). -/
def Fmt.orderKey (f : Fmt) (c : Nat) : Int := if f.neg c then -(f.mag c : Int) - 1 else f.mag c

/-- FMIN and FMAX (R62, R346): the operand as FTZI leaves it, NV for a signalling NaN, FTZO on the result. -/
def Fmt.minMax (f : Fmt) (m : BitVec 9) (takeMax : Bool) (a b : Nat) : Nat × FlagSet :=
  let x := f.ftz (modeFtzi m) a
  let y := f.ftz (modeFtzi m) b
  let fl : FlagSet := if f.isSnan x || f.isSnan y then flagNV else 0
  let r :=
    if f.isNan x && f.isNan y then f.defNan
    else if f.isNan x then y
    else if f.isNan y then x
    else if takeMax then (if f.orderKey x < f.orderKey y then y else x)
    else (if f.orderKey y < f.orderKey x then y else x)
  (f.ftz (modeFtzo m) r, fl)

/-- Compare two values that are not NaN: −1, 0 or 1; −0 equals +0 (R62). -/
def FVal.cmp (a b : FVal) : Int :=
  match a, b with
  | .inf n, .inf m => if n = m then 0 else if n then -1 else 1
  | .inf n, _ => if n then -1 else 1
  | _, .inf m => if m then 1 else -1
  | .fin n xa da, .fin m xb db =>
    let p := sgnNum n xa * db
    let q := sgnNum m xb * da
    if p < q then -1 else if p = q then 0 else 1
  | _, _ => 0

/-- FCMP's columns of R285, for a condition 0 to 12. -/
def fpCond (c : Nat) (unordered : Bool) (r : Int) : Bool :=
  match c with
  | 0 => !unordered && r = 0
  | 1 => unordered || r ≠ 0
  | 2 => !unordered && r < 0
  | 3 => !unordered && r ≤ 0
  | 4 => !unordered && r > 0
  | 5 => !unordered && r ≥ 0
  | 6 => unordered || r < 0
  | 7 => unordered || r ≤ 0
  | 8 => unordered || r > 0
  | 9 => unordered || r ≥ 0
  | 10 => unordered || r = 0
  | 11 => !unordered
  | 12 => unordered
  | _ => false

/-- FCMP (R62, R342). -/
def fcmpVal (m : BitVec 9) (c : Nat) (a b : Nat) : Bool × FlagSet :=
  let x := fp32.value (fp32.ftz (modeFtzi m) a)
  let y := fp32.value (fp32.ftz (modeFtzi m) b)
  (fpCond c (x.isNan || y.isNan) (x.cmp y), if x.isSnan || y.isSnan then flagNV else 0)

/-- The integer conditions of R285. -/
def intCond (c : Nat) (x y : Word) : Bool :=
  match c with
  | 0 => x = y
  | 1 => x ≠ y
  | 2 => x.toInt < y.toInt
  | 3 => x.toInt ≤ y.toInt
  | 4 => x.toInt > y.toInt
  | 5 => x.toInt ≥ y.toInt
  | 6 => x.toNat < y.toNat
  | 7 => x.toNat ≤ y.toNat
  | 8 => x.toNat > y.toNat
  | 9 => x.toNat ≥ y.toNat
  | _ => false

/-- A floating-point value to a floating-point format by R63; FTZO where it applies. -/
def Fmt.convert (g : Fmt) (rnd : Nat) (ftzo : Bool) (x : FVal) : Nat × FlagSet :=
  match x with
  | .nan sig => (g.defNan, if sig || g.nanLo = 8 then flagNV else 0)
  | .inf n => if g.infCode.isSome then (g.infOf n, 0) else (g.signed n g.maxCode, flagNV)
  | .fin n num den => g.round rnd ftzo n num den

/-- A floating-point value to INT32 (R63). -/
def cvtI32 (rnd : Nat) (x : FVal) : Nat × FlagSet :=
  match x with
  | .nan _ => (0, flagNV)
  | .inf n => (if n then 0x80000000 else 0x7FFFFFFF, flagNV)
  | .fin n num den =>
    let r := roundNat rnd n num den
    if n then
      if r.1 > 0x80000000 then (0x80000000, flagNV)
      else ((BitVec.ofInt 32 (-(r.1 : Int))).toNat, if r.2 then flagNX else 0)
    else if r.1 > 0x7FFFFFFF then (0x7FFFFFFF, flagNV)
    else (r.1, if r.2 then flagNX else 0)

/-- A floating-point value to an unsigned word (R286, U32.F32). -/
def cvtU32 (rnd : Nat) (x : FVal) : Nat × FlagSet :=
  match x with
  | .nan _ => (0, flagNV)
  | .inf n => (if n then 0 else 0xFFFFFFFF, flagNV)
  | .fin n num den =>
    let r := roundNat rnd n num den
    if n && r.1 ≠ 0 then (0, flagNV)
    else if r.1 > 0xFFFFFFFF then (0xFFFFFFFF, flagNV)
    else (r.1, if r.2 then flagNX else 0)

/-- An integer to a format (R63). -/
def Fmt.ofInt (g : Fmt) (rnd : Nat) (ftzo : Bool) (x : Int) : Nat × FlagSet := g.round rnd ftzo (x < 0) x.natAbs 1

/-- FCVT by its code (R286, R343): the low bits of the result, the rest 0, and the flags. -/
def fcvtVal (m : BitVec 9) (code : Nat) (x : Word) : Nat × FlagSet :=
  let r := modeRnd m
  let i := modeFtzi m
  let o := modeFtzo m
  let x32 := fp32.value (fp32.ftz i x.toNat)
  match code with
  | 0x00 => fp32.convert r o (fp16.value (fp16.ftz i (x.toNat % 65536)))
  | 0x01 => fp32.convert r o (bf16.value (bf16.ftz i (x.toNat % 65536)))
  | 0x02 => fp32.convert r o (e5m2.value (x.toNat % 256))
  | 0x03 => fp32.convert r o (e4m3.value (x.toNat % 256))
  | 0x04 => fp32.convert r o (e2m1.value (x.toNat % 16))
  | 0x05 => fp32.ofInt r o x.toInt
  | 0x06 => fp32.ofInt r o x.toNat
  | 0x08 => fp16.convert r o x32
  | 0x09 => bf16.convert r o x32
  | 0x0A => e5m2.convert r false x32
  | 0x0B => e4m3.convert r false x32
  | 0x0C => e2m1.convert r false x32
  | 0x0D => cvtI32 r x32
  | 0x0E => cvtU32 r x32
  | _ => (0, 0)

/-- DCVT by its code (R286, R336): from a 32-bit source for codes 0x10 and 0x12, from a pair otherwise. -/
def dcvtVal (m : BitVec 9) (code : Nat) (x : DWord) : Nat × FlagSet :=
  let r := modeRnd m
  let i := modeFtzi m
  let o := modeFtzo m
  match code with
  | 0x10 => fp64.convert r o (fp32.value (fp32.ftz i (x.toNat % 4294967296)))
  | 0x11 => fp32.convert r o (fp64.value (fp64.ftz i x.toNat))
  | 0x12 => fp64.ofInt r o (loWord x).toInt
  | 0x13 => cvtI32 r (fp64.value (fp64.ftz i x.toNat))
  | _ => (0, 0)

/-- FRND (R347): `code` of R287. -/
def frndVal (m : BitVec 9) (code : Nat) (x : Word) : Nat × FlagSet :=
  let c := fp32.ftz (modeFtzi m) x.toNat
  let rnd := if code = 4 then modeRnd m else code
  match fp32.value c with
  | .nan sig => (fp32.defNan, if sig then flagNV else 0)
  | .inf _ => (c, 0)
  | .fin n num den =>
    let r := roundNat rnd n num den
    ((fp32.round 0 false n r.1 1).1, if r.2 then flagNX else 0)

/-- One half h of a pair-family word (R275), and a word of two halves. -/
def halfOf (x : Word) (h : Nat) : Nat := x.toNat / 65536 ^ h % 65536
def ofHalves (h0 h1 : Nat) : Word := BitVec.ofNat 32 (h0 % 65536 + h1 % 65536 * 65536)

/-- The new value of ATOM and RED by operation code of R252 and R302; FADD rounds RNE with no FTZ and no flags. -/
def atomNew (op : Nat) (old y : Word) : Word :=
  match op with
  | 0 => old + y
  | 1 => BitVec.ofNat 32 (fp32.add 0 old.toNat y.toNat).1
  | 2 => if old.toInt ≤ y.toInt then old else y
  | 3 => if old.toInt ≤ y.toInt then y else old
  | 4 => old &&& y
  | 5 => old ||| y
  | 6 => old ^^^ y
  | _ => y

end Sys2Proof.Machine
end

