-- ==== Sys2Proof/Machine/Span.lean ====
section
/-! DEFINITION. The ordering machine's shared steps (06, R113 to R124): Span channels and die clocks, performance at
the home, completion and retirement, fences, and the test of a waited word. -/

namespace Sys2Proof.Machine

/-! ### Lines, copies, clocks -/

/-- The 128-byte line of a key (04, R68: a bank row; log 12, DEDUCED: the unit in which views hold device memory). -/
def lineOf (key : Nat) : Nat := key / 128

/-- The key of a line in the table of a core's, a cluster's or a die's view. -/
def viewKey (unit line : Nat) : Nat := unit * 4503599627370496 + line
def viewUnit (k : Nat) : Nat := k / 4503599627370496
def viewLine (k : Nat) : Nat := k % 4503599627370496

/-- Is the key device memory, which alone is cached (R106)? -/
def isDevice (key : Nat) : Bool := spaceOf key = 0
def isScratch (key : Nat) : Bool := spaceOf key = 5

/-- A range of bytes cut at line boundaries (log 12, DEDUCED): every write and read of the ordering machine lies in one line. -/
def cutLines : Nat → Nat → List Byte → List (Nat × List Byte)
  | 0, _, _ => []
  | fuel + 1, key, bs =>
    match bs with
    | [] => []
    | _ =>
      let n := 128 - key % 128
      (key, bs.take n) :: cutLines fuel (key + n) (bs.drop n)

/-- The `n` bytes at a key with a write's bytes over them. -/
def WEntry.over (key n : Nat) (bs : List Byte) (w : WEntry) : List Byte :=
  (List.range n).map (fun i =>
    let a := key + i
    if w.key ≤ a && a < w.key + w.data.length then w.data.getD (a - w.key) 0 else bs.getD i 0)

/-- Does a write touch the bytes? -/
def WEntry.meets (w : WEntry) (key n : Nat) : Bool := rangesMeet w.key w.data.length key n

/-- The dies of the part. -/
def State.dies (s : State) : List Nat := (List.range 6).filter s.part.hasDie

/-- The die clock of a die (R119). -/
def State.vcOf (s : State) (d : Nat) : List Word := (List.range 8).map (fun i => kvGetD 0 s.vc (8 * d + i))

/-- The larger of two clock entries in serial order (R119). -/
def serialMax (a b : Word) : Word := if serialGe a b then a else b

/-- Put a message on a Span channel, stamped with the sender's clock, under the next sequence number (R13, R119). -/
def State.send (s : State) (src dst : Nat) (body : Payload) : State :=
  let n := kvGetD 0 s.chanSeq (8 * src + dst) + 1
  { s with chans := s.chans ++ [⟨src, dst, n, s.vcOf src, body⟩], chanSeq := kvSetD 0 s.chanSeq (8 * src + dst) n }

/-- Send the die's clock to every other die (R121). -/
def State.sendClock (s : State) (d : Nat) : State :=
  (s.dies.filter (· ≠ d)).foldl (fun s j => s.send d j .clock) s

/-- Has die d numbered the write (R119)? -/
def WTrack.numberedBy (t : WTrack) (d : Nat) : Bool := t.nums.any (fun p => p.1 = d)

/-- Is it the first time that die d sends the write, or an update of it (R119)? -/
def State.freshAt (s : State) (d id : Nat) : Bool := s.writes.any (fun (t : WTrack) => t.id = id && !t.numberedBy d)

/-- Number a write at die d (R119): the entry advances and the write takes its value, unless die d has numbered it. -/
def State.numberWrite (s : State) (d id : Nat) : State :=
  if s.freshAt d id then
    let n := kvGetD 0 s.vc (9 * d) + 1
    { s with vc := kvSetD 0 s.vc (9 * d) n
             writes := s.writes.map (fun (t : WTrack) => if t.id = id then { t with nums := t.nums ++ [(d, n)] } else t) }
  else s

/-- A die's clock with a stamp merged into it, entry by entry (R119). -/
def State.merged (s : State) (d : Nat) (v : List Word) : List Word := List.zipWith serialMax (s.vcOf d) v

/-- Merge a stamp into a die's clock (R119). -/
def State.mergeOnly (s : State) (d : Nat) (v : List Word) : State :=
  { s with vc := (List.range 8).foldl (fun m i => kvSetD 0 m (8 * d + i) ((s.merged d v).getD i 0)) s.vc }

/-- Merge a stamp into a die's clock (R119); the clock is sent on when an entry changes (R121). -/
def State.mergeStamp (s : State) (d : Nat) (v : List Word) : State :=
  if s.merged d v = s.vcOf d then s else (s.mergeOnly d v).sendClock d

/-- Does the die's view hold a copy of the line? -/
def State.hasCopy (s : State) (d line : Nat) : Bool := (kvGet s.copies (viewKey d line)).isSome

/-- Is a reply that carries the line on its way to the die? A die holds the line from the step in which its read is
served (log 13, DEDUCED). -/
def State.replyComing (s : State) (d line : Nat) : Bool :=
  s.chans.any (fun m => m.dst = d && (match m.body with | .reply _ l _ => l = line | _ => false))

/-- Is a read of the line on its way from the die? -/
def State.readGoing (s : State) (d line : Nat) : Bool :=
  s.chans.any (fun m => m.src = d && (match m.body with | .read _ l => l = line | _ => false))

/-- Is the effect of a write at die h still to take place (R120)? -/
def State.effectDue (s : State) (h : Nat) (t : WTrack) : Bool :=
  let line := lineOf t.key
  t.updPending.contains h
  || (!t.performed && (homeDie t.key = h || (isDevice t.key && (s.hasCopy h line || s.replyComing h line))))

/-- Does a stamp depend on a write, other than one that the message itself carries, whose effect at die h is still to take
place (R120)? -/
def State.dueBefore (s : State) (h : Nat) (stamp : List Word) (carried : Option Nat) : Bool :=
  s.writes.any (fun t => some t.id ≠ carried && s.effectDue h t
    && t.nums.any (fun p => serialGe (stamp.getD p.1 0) p.2))

/-- The clock kept for the port queues: what the dies that wrote into them knew (R123, R124; log 14, DEDUCED). -/
def portClock : Nat := 6

/-- The stamp that a reading at a place's DEVICE point gives a core of another die (R111, R124). -/
def State.stampFrom (s : State) (core key : Nat) : List Word :=
  let h := homeDie key
  if h = coreDie core then [] else s.vcOf (if h = 5 then portClock else h)

/-- The stamp that an answer of a unit of a die gives a core of another die (R119). -/
def State.stampOf (s : State) (core die : Nat) : List Word := if die = coreDie core then [] else s.vcOf die

/-! ### Reading through a die (R114, R125) -/

/-- May a unit of die d act at the home of die h in one step (a returning atomic, or a read of die-shared memory)? The
two dies know of the same writes and nothing is on its way between them, so that request and answer would be applied at
once (R114, R119, R120; log 13, DEDUCED). -/
def State.remoteReady (s : State) (d h : Nat) : Bool :=
  d = h || (!s.chans.any (fun m => (m.src = d && m.dst = h) || (m.src = h && m.dst = d)) && s.vcOf d = s.vcOf h)

/-- May units of a die read the bytes, all in one line, without a read sent over Span: device memory homed on the die or
copied there; another space, unless the die's own write to them is still on its way (R114)? -/
def State.dieReadable (s : State) (die key : Nat) : Bool :=
  if isDevice key then homeDie key = die || s.hasCopy die (lineOf key)
  else spaceOf key ≠ 4 || s.remoteReady die (homeDie key)

/-- Send a read of a line to its home, unless one, or its reply, is on its way (R114). -/
def State.sendRead (s : State) (die id line : Nat) : State :=
  if s.readGoing die line || s.replyComing die line then s else s.send die (homeDie (128 * line)) (.read id line)

/-! ### Retirement (R88, R122) -/

/-- Mark a token complete and retire every leading complete one (R88). -/
def retireTok (l : List OpTok) (tok : Nat) : List OpTok :=
  (l.map (fun t => if t.seq = tok then { t with done := true } else t)).dropWhile (fun t => t.done)

/-- Mark an operation of a team complete in whichever counter holds it. -/
def Team.tokDone (t : Team) (tok : Nat) : Team :=
  { t with ld := retireTok t.ld tok, st := retireTok t.st tok, cp := retireTok t.cp tok, mx := retireTok t.mx tok }

/-- Is an engine command in flight on a workgroup of a list? -/
def cmdsIn (wgs : List (Nat × Workgroup)) : Bool := wgs.any (fun e => !e.2.cmds.isEmpty)

/-- Remove a finished command and retire its token. With the last command in flight goes what commands could still read. -/
def State.cmdRetire (s : State) (id : Nat) : State :=
  let wgs := s.wgs.map (fun e => (e.1,
      if e.2.cmds.any (fun c => c.id = id) then
        { e.2 with cmds := e.2.cmds.filter (fun c => c.id ≠ id)
                   teams := e.2.teams.map (fun t => (t.1, t.2.tokDone id)) }
      else e.2))
  { s with wgs := wgs, was := if cmdsIn wgs then s.was else [] }

/-- A command that has issued every write retires once all of them are complete (R125). -/
def State.cmdCheck (s : State) (id : Nat) : State :=
  let issued := s.wgs.any (fun e => e.2.cmds.any (fun c => c.id = id && c.issued))
  let pending := s.writes.any (fun (t : WTrack) => match t.owner with | .cmd _ i _ => i = id | _ => false)
  if issued && !pending then s.cmdRetire id else s

/-- A write is complete (R122): forget it and retire its operation. -/
def State.completeWrite (s : State) (id : Nat) : State :=
  match s.writes.find? (fun (t : WTrack) => t.id = id) with
  | none => s
  | some t =>
    let s : State := { s with
      writes := s.writes.filter (fun (t : WTrack) => t.id ≠ id) }
    match t.owner with
    | .team _ uid tok _ =>
      if s.writes.any (fun (u : WTrack) => match u.owner with | .team _ _ k _ => k = tok | _ => false) then s
      else s.modUid uid (fun m => m.tokDone tok)
    | .cmd _ i _ => s.cmdCheck i
    | .keystone => s

/-- Complete a write once it is performed and every update is applied (R122). -/
def State.checkWrite (s : State) (id : Nat) : State :=
  match s.writes.find? (fun (t : WTrack) => t.id = id) with
  | some t => if t.performed && t.updPending.isEmpty then s.completeWrite id else s
  | none => s

/-! ### Fences (R123) -/

/-- Is every earlier load of the fence's agents satisfied? -/
def State.loadsDone (s : State) (f : FenceReq) : Bool :=
  !s.loads.any (fun l => f.agents.contains l.agent && l.id < f.id)

/-- Has every earlier store of the agents reached the stage R123's table names for the scope? -/
def State.storesReached (s : State) (f : FenceReq) : Bool :=
  let mine := fun (w : WEntry) => f.agents.contains w.agent && decide (w.id < f.id)
  let own := fun (w : WEntry) => decide (homeDie w.key = coreDie f.core)
  !s.stbuf.any mine
    && (f.scope = 0 || !(s.wpath ++ s.capath).any (fun w => mine w && (own w || w.held || 2 ≤ f.scope)))
    && (f.scope < 3 || !s.ports.any mine)

/-- May a fence complete: its release part, and, for an acquire of what another die knew, every effect of it here (R120)? -/
def State.fenceEnabled (s : State) (f : FenceReq) : Bool :=
  s.loadsDone f && (!f.rel || s.storesReached f) && (f.stamp.isEmpty || !s.dueBefore (coreDie f.core) f.stamp none)

/-- Drop every entry of a core's L1 view. -/
def State.dropL1 (s : State) (core : Nat) : State :=
  { s with l1 := s.l1.filter (fun e => viewUnit e.1 ≠ core) }

/-- Set what the threads of a core that satisfy a test wait for. -/
def State.setWaits (s : State) (core : Nat) (p : Thread → Bool) (w : Wait) : State :=
  s.modWg core (fun g => { g with teams := g.teams.map (fun e =>
    (e.1, { e.2 with lanes := e.2.lanes.map (fun l => if p l.2 then (l.1, { l.2 with wait := w }) else l) })) })

/-- The fence completes: an acquire beyond BLOCK drops the core's L1 view and its cluster's atomic view (R123), and the die takes
over the stamp that it acquires (R119). -/
def State.finishFence (s : State) (f : FenceReq) : State :=
  let s : State := { s with fences := s.fences.filter (fun g => g.id ≠ f.id) }
  let s : State := if f.acq && 1 ≤ f.scope then
      let s : State := s.dropL1 f.core
      { s with caview := s.caview.filter (fun e => viewUnit e.1 ≠ clusterOf f.core) }
    else s
  let s : State := if f.stamp.isEmpty then s else s.mergeStamp (coreDie f.core) f.stamp
  s.setWaits f.core (fun t => t.wait = .fence f.id) .ready

/-- Begin a fence for threads of a core and, where `uid` is given among the agents, their team's uniform accesses.
The threads are not ready until it completes. -/
def State.startFence (s : State) (core uid : Nat) (tids : List Nat) (scope : Nat) (rel acq : Bool) (stamp : List Word) : State :=
  let f : FenceReq := ⟨s.nextSeq, core, uid, tids ++ [uid], scope, rel, acq, stamp⟩
  let s : State := { s.bump with fences := s.fences ++ [f] }
  s.setWaits core (fun t => tids.contains t.tid) (.fence f.id)

/-- The acquire that a release of waiters makes (R124), of a stamp where another die is read: complete at once where it can be. -/
def State.acquire (s : State) (core uid : Nat) (tids : List Nat) (scope : Nat) (stamp : List Word) : State :=
  let f : FenceReq := ⟨s.nextSeq, core, uid, tids ++ [uid], scope, false, true, stamp⟩
  let s : State := s.startFence core uid tids scope false true stamp
  if s.fenceEnabled f then s.finishFence f else s

/-- Writes to host, CXL and fabric memory still in a port's queue, over what that memory holds (R123). -/
def State.portBytes (s : State) (key n : Nat) : List Byte :=
  (s.ports.filter (fun w => w.red.isNone)).foldl (WEntry.over key n) (s.readBytes key n)

/-- The launch of a write's owner. -/
def Owner.launch? : Owner → Option Nat
  | .team l _ _ _ => some l
  | .cmd l _ _ => some l
  | .keystone => none

/-- Do a context's accesses to a place pass a cipher engine that covers what memory there holds (R230; log 9, DESIGN CHOICE): a
protected context's, to CXL or fabric memory? -/
def State.ciphered (s : State) (ctx key : Nat) : Bool :=
  (spaceOf key = 2 || spaceOf key = 3) && (match s.context? ctx with | some c => c.prot | none => false)

/-- Bytes at a place as they pass the cipher engine for a context, in either direction (R230). -/
def State.crypt (s : State) (ctx key : Nat) (bs : List Byte) : List Byte :=
  if s.ciphered ctx key then bs.zipIdx.map (fun p => p.1 ^^^ Config.keystream ctx (key + p.2)) else bs

/-- The value at the DEVICE point of a place (R111), as a context reads it: its home, or its port with the port's queue over it. -/
def State.homeNat (s : State) (ctx key n : Nat) : Nat :=
  ofBytes (s.crypt ctx key (if homeDie key = 5 then s.portBytes key n else s.readBytes key n))

/-! ### Performance at the home (R112, R118, R423) -/

/-- The teams of a core that wait on the word at a key, with their threads' tids and what they wait for. -/
def Workgroup.waitmTids (w : Workgroup) (key : Nat) : List (Nat × Nat × Nat × Nat × Word) :=
  w.teams.flatMap (fun e => e.2.lanes.filterMap (fun l =>
    match l.2.wait with
    | .waitm _ k cond y => if k = key then some (e.2.uid, l.2.tid, k, cond, y) else none
    | _ => none))

/-- Test every wait on the 4-byte word at a key, of the cores in a list (R423). -/
def State.waitmTestAt (s : State) (key : Nat) (cores : List Nat) : State :=
  cores.foldl (fun s c =>
    match s.wg? c with
    | none => s
    | some w =>
      let x : Word := BitVec.ofNat 32 (s.homeNat (s.ctxOf c) key 4)
      let hit := (w.waitmTids key).filter (fun e => intCond e.2.2.2.1 x e.2.2.2.2)
      let uids := (hit.map (·.1)).dedup
      uids.foldl (fun s u => s.acquire c u ((hit.filter (fun e => e.1 = u)).map (·.2.1)) 2 (s.stampFrom c key)) s) s

/-- The keys of the words waited for that a write of `n` bytes at a key touches. -/
def State.waitmKeys (s : State) (key n : Nat) : List Nat :=
  (s.wgs.flatMap (fun e => e.2.teams.flatMap (fun t => t.2.lanes.filterMap (fun l =>
    match l.2.wait with
    | .waitm _ k _ _ => if rangesMeet k 4 key n then some k else none
    | _ => none)))).dedup

/-- Every waited word that a write touches is tested in the step that performs the write (R423). -/
def State.waitmTouched (s : State) (key n : Nat) : State :=
  (s.waitmKeys key n).foldl (fun s k => s.waitmTestAt k (s.wgs.map (·.1))) s

/-! ### Arrival words (R90, R126) -/

/-- The 64-bit arrival word after an addition of b bytes (R90). -/
def arrivalAdd (x b : Nat) : Nat :=
  let target := x / 4294967296 % 16777216
  let gen := x / 72057594037927936 % 256
  let count := x % 4294967296 + b
  if target = 0 then count % 4294967296 + target * 4294967296 + gen * 72057594037927936
  else count % target + target * 4294967296 + (gen + count / target) % 256 * 72057594037927936

/-- An addition to the arrival word at an offset of a core's scratchpad, as one step; where GEN changes, the threads that
wait for it are released as an acquire at BLOCK scope (R309). -/
def State.arrivalAt (s : State) (core off b : Nat) : State :=
  let key := scratchKey core off
  let x := arrivalAdd (s.readNat key 8) b
  let s : State := (s.writeBytes key (toBytes 8 x)).waitmTouched key 8
  match s.wg? core with
  | none => s
  | some w =>
    w.teams.foldl (fun s e =>
      let tids := e.2.lanes.filterMap (fun l => match l.2.wait with
        | .awwait o g => if o = off && g ≠ x / 72057594037927936 then some l.2.tid else none
        | _ => none)
      if tids.isEmpty then s else s.acquire core e.2.uid tids 0 []) s

/-- The offset of a block's ARRIVE word, where it names one (R75). -/
def arriveOff (blk : List Byte) : Option Nat :=
  let a := ofBytes ((blk.drop 12).take 4)
  if a = 4294967295 then none else some a

/-- The addition that follows a counted write of a copy command (R90). -/
def State.arrivalFor (s : State) (id b : Nat) : State :=
  match s.wgs.find? (fun e => e.2.cmds.any (fun c => c.id = id)) with
  | none => s
  | some (core, w) =>
    match (w.cmds.find? (fun c => c.id = id)).bind (fun c => arriveOff c.blk) with
    | none => s
    | some off => s.arrivalAt core off b

/-! ### What engine commands in flight may still read (R99, R101, R362, R405, R414; log 37, DEDUCED) -/

/-- The residue entries of a TQST, where it has any (R100). -/
def Cmd.residue (c : Cmd) : Option (Nat × Nat) :=
  let off := ofBytes ((c.blk.drop 0x2C).take 4)
  if c.kind = .tqst && off ≠ 0 then some (off, 4 * c.n) else none

/-- The engine command whose write it is. -/
def Owner.cmd? : Owner → Option Nat
  | .team _ _ _ _ => none
  | .cmd _ id _ => some id
  | .keystone => none

/-- Is the write the merge of a low nibble (R99)? -/
def WEntry.merges (w : WEntry) : Bool := match w.red with | some (op, _) => op = 8 | none => false

/-- The name of a place in `was`, as a die's units read it: a copy of another die's line changes with its own updates. -/
def wasKey (die key : Nat) : Nat := if isDevice key && homeDie key ≠ die then key + (die + 1) * 18446744073709551616 else key

/-- Keep the bytes that a write is about to replace while an engine command is in flight. -/
def State.noteWas (s : State) (key id : Nat) (owner : Owner) (nibble : Bool) (now : List Byte) : State :=
  if cmdsIn s.wgs then { s.bump with was := s.was ++ [⟨s.nextSeq, key, now, id, owner, nibble⟩] } else s
def State.noteOld (s : State) (w : WEntry) (now : List Byte) : State := s.noteWas w.key w.id w.owner w.merges now

/-- Is the other nibble of a byte left undefined (R99): a nibble merged into it by a command in flight, and another agent's write
of the byte during the command? -/
def State.nibbleMet (s : State) (w : WEntry) (a : Nat) : Bool :=
  if w.merges then
    s.was.any (fun x => !x.nibble && rangesMeet x.key x.old.length a 1 && x.owner.cmd? ≠ w.owner.cmd?
      && (match w.owner.cmd? with | some id => id < x.seq | none => false))
  else
    s.was.any (fun x => x.nibble && x.key = a && x.owner.cmd? ≠ w.owner.cmd?
      && (match x.owner.cmd? with
          | some id => s.wgs.any (fun e => e.2.cmds.any (fun c => c.id = id))
          | none => false))

/-- Is a byte stored to in a residue entry in use by a TQST between its issue and its retirement (R101)? -/
def State.entryMet (s : State) (w : WEntry) (a : Nat) : Bool :=
  isScratch a && (match w.owner with | .team _ _ _ _ => true | .cmd _ _ _ => false | .keystone => false)
    && (match s.wg? (offOf a / 524288) with
        | some g => g.cmds.any (fun c => match c.residue with
          | some (o, n) => rangesMeet (offOf a % 524288) 1 o n
          | none => false)
        | none => false)

/-- A write's bytes as its place holds them afterwards: free where R99 and R101 leave them undefined (log 7, DESIGN CHOICE). -/
def State.settled (s : State) (w : WEntry) (data : List Byte) : List Byte :=
  if cmdsIn s.wgs then
    data.zipIdx.map (fun p =>
      let a := w.key + p.2
      let x := Config.freeByte (s.freeCtr + p.2)
      if s.entryMet w a then x
      else if s.nibbleMet w a then BitVec.ofNat 8 (p.1.toNat % 16 + x.toNat / 16 * 16)
      else p.1)
  else data

/-! ### Performance at the home (R112, R118) -/

/-- What a write puts at its place, over what stands there: a store its bytes; a RED the new value of its operation, code 8 a merged
nibble (R99), code 9 a 64-bit sum (R162). -/
def WEntry.result (w : WEntry) (old : Nat → List Byte) : List Byte :=
  match w.red with
  | none => w.data
  | some (op, _) =>
    if op = 8 then [BitVec.ofNat 8 (ofBytes (old 1) / 16 * 16 + ofBytes w.data % 16)]
    else if op = 9 then toBytes 8 (ofBytes (old 8) + ofBytes w.data)
    else toBytes 4 (atomNew op (BitVec.ofNat 32 (ofBytes (old 4))) (BitVec.ofNat 32 (ofBytes w.data))).toNat

/-- Is it a line of a page that a completed SEAL has sealed (R128)? -/
def State.isReplicated (s : State) (key : Nat) : Bool := isDevice key && s.sealedFrames.contains (offOf key / 131072)

/-- The dies to which the home h sends an update of a write: those that hold a copy of its line; replicas get none (R118, R128). -/
def State.holders (s : State) (h key : Nat) : List Nat :=
  if isDevice key && !s.isReplicated key then
    s.dies.filter (fun d => d ≠ h && d ≠ 5 && (s.hasCopy d (lineOf key) || s.replyComing d (lineOf key)))
  else []

/-- A write takes effect at its home, as one step: a RED reads and writes, the die view there takes the bytes, and
every other die that holds a copy of the line is sent an update (R112, R118, R119). -/
def State.performAt (s : State) (h : Nat) (w : WEntry) : State :=
  let data := s.settled w (w.result (s.readBytes w.key))
  let s : State := if homeDie w.key = 5 then s else s.noteOld w (s.readBytes w.key data.length)
  let s : State := { s with freeCtr := s.freeCtr + data.length }
  let s : State := s.writeBytes w.key data
  let holders := s.holders h w.key
  let fresh := s.freshAt h w.id
  let s : State := if holders.isEmpty then s else s.numberWrite h w.id
  let s : State := holders.foldl (fun s d => s.send h d (.update w.id (lineOf w.key) (w.key % 128) data)) s
  let s : State := if holders.isEmpty || !fresh then s else s.sendClock h
  let s : State := { s with writes := s.writes.map (fun (t : WTrack) =>
    if t.id = w.id then { t with performed := true, updPending := holders } else t) }
  let s : State := s.waitmTouched w.key data.length
  let s : State := match w.owner with
    | .cmd _ id true => s.arrivalFor id data.length
    | _ => s
  s.checkWrite w.id

/-- Track a write from its issue to its completion (R122, R127). -/
def State.track (s : State) (w : WEntry) : State :=
  { s with writes := s.writes ++ [⟨w.id, w.owner, w.key, [], false, [], w.ctx, w.va⟩] }

/-- The bytes of a write as it enters a port's queue, which executes a RED; a protected context's pass the cipher engine (R111, R116,
R230). -/
def State.portData (s : State) (w : WEntry) : List Byte :=
  let pass := fun (bs : List Byte) => match w.ctx with | some c => s.crypt c w.key bs | none => bs
  pass (w.result (fun n => pass (s.portBytes w.key n)))

/-- A write of a die's enters a port's queue. -/
def State.toPort (s : State) (die : Nat) (w : WEntry) : State :=
  let data := s.portData w
  let s : State := s.noteOld w (s.portBytes w.key data.length)
  ({ s with ports := s.ports ++ [{ w with data := data, red := none }] } : State).mergeOnly portClock (s.vcOf die)

/-- An access of a core's own: a write leaves for its home, on the die, over the Span channel or into a port queue
(R116). The die view drops its copy of a line whose write is sent away. -/
def State.dispatch (s : State) (die : Nat) (w : WEntry) : State :=
  let h := homeDie w.key
  if isScratch w.key || h = die then s.performAt die w
  else if h = 5 then s.toPort die w
  else
    let s : State := if isDevice w.key then { s with copies := kvDel s.copies (viewKey die (lineOf w.key)) } else s
    let fresh := s.freshAt die w.id
    let s : State := s.numberWrite die w.id
    let s : State := s.send die h (.write w)
    if fresh then s.sendClock die else s

/-! ### Reads of the Keystone die and of its ports (R113, R127; log 14, DEDUCED) -/

/-- The bytes a unit of the Keystone die reads: memory, with die 5's own writes still on their way over it. -/
def State.ksBytes (s : State) (key n : Nat) : List Byte :=
  let base := if homeDie key = 5 then s.portBytes key n else s.readBytes key n
  let mine := s.chans.filterMap (fun m => match m.body with
    | .write w => if m.src = 5 && w.red.isNone then some w else none
    | _ => none)
  mine.foldl (WEntry.over key n) base

def State.ksNat (s : State) (key n : Nat) : Nat := ofBytes (s.ksBytes key n)

/-- A write of die 5's own, all in one line: a message for device memory (R113); memory behind a port is written through the
port's queue. -/
def State.ksSend (s : State) (red : Option (Nat × Nat)) (key : Nat) (bs : List Byte) : State :=
  let w : WEntry := ⟨s.nextSeq, 0, s.nextSeq, .keystone, key, bs, red, none, 0, false⟩
  let s : State := s.bump.track w
  let h := homeDie key
  if h = 5 then
    if spaceOf key ≤ 4 then s.toPort 5 w else s.performAt 5 w
  else
    let s : State := s.numberWrite 5 w.id
    (s.send 5 h (.write w)).sendClock 5

/-- A unit of the Keystone die, or an agent behind its ports, writes. -/
def State.ksWrite (s : State) (key : Nat) (bs : List Byte) : State :=
  (cutLines (bs.length + 1) key bs).foldl (fun s p => s.ksSend none p.1 p.2) s

def State.ksWriteNat (s : State) (key n x : Nat) : State := s.ksWrite key (toBytes n x)

/-- Die 5's clock becomes no lower than any die's, for a completion signal (R127). -/
def State.ksSync (s : State) : State := s.dies.foldl (fun s d => s.mergeStamp 5 (s.vcOf d)) s

end Sys2Proof.Machine
end

