-- ==== Sys2Proof/Machine/Translate.lean ====
section
/-! DEFINITION. Addresses: local windows (06, R107 to R109), page tables and walks (09, R190 to R192), the TLBs
(R193), and what a translation or a walk answers. -/

namespace Sys2Proof.Machine

/-! ### Local windows -/

/-- What a generic address names (R107). -/
inductive Place where
  | invalid
  /-- a place in a scratchpad or in die-shared memory -/
  | window (key : Nat)
  /-- a virtual address to translate -/
  | virt (va : Nat)
  deriving DecidableEq, Repr

/-- Is the range of a die's die-shared memory in the context's allocation (R109)? -/
def State.dieSharedOk (s : State) (ctx die off n : Nat) : Bool :=
  match s.context? ctx with
  | none => false
  | some c =>
    (List.range ((off + n + 131071) / 131072 - off / 131072)).all (fun i =>
      c.reg.dieShared.contains (die, off / 131072 + i))

/-- The window table and checks of R108 and R109 for `n` bytes accessed by a unit of a core. -/
def State.window (s : State) (core va n : Nat) : Place :=
  match nbits va 47 44 with
  | 0 =>
    let off := nbits va 18 0
    if nbits va 43 19 ≠ 0 || s.scratchBytes core < off + n then .invalid else .window (scratchKey core off)
  | 1 =>
    let off := nbits va 18 0
    if nbits va 35 19 ≠ 0 || !(s.hdr core).cluster then .invalid
    else
      match coreAt (coreDie core) ((coreX core : Int) + sextInt 4 (nbits va 43 40))
          ((coreY core : Int) + sextInt 4 (nbits va 39 36)) with
      | none => .invalid
      | some peer =>
        let sameLaunch : Bool := match s.wg? core, s.wg? peer with
          | some a, some b => a.launch = b.launch
          | _, _ => false
        if clusterOf peer = clusterOf core && sameLaunch && off + n ≤ s.scratchBytes peer then
          .window (scratchKey peer off)
        else .invalid
  | 2 =>
    let die := (coreDie core : Int) + sextInt 4 (nbits va 43 40)
    let off := nbits va 24 0
    if nbits va 39 25 ≠ 0 || die < 0 || die > 4 || !s.part.hasDie die.toNat then .invalid
    else if off + n ≤ 33554432 && s.dieSharedOk (s.ctxOf core) die.toNat off n then .window (sharedKey die.toNat off)
    else .invalid
  | _ => .invalid

/-- Classify a generic address (R107). -/
def State.place (s : State) (core : Nat) (a : DWord) (n : Nat) : Place :=
  if nbits a.toNat 63 57 ≠ 0 then .invalid
  else if nbits a.toNat 56 48 = 0x1FF then s.window core a.toNat n
  else .virt a.toNat

/-! ### The firewall -/

/-- The key of the granule's owner tag (R226): device granules, and die-shared ones from 2^50 on. -/
def granuleOf (key : Nat) : Nat :=
  if spaceOf key = 0 then offOf key / 131072
  else 1125899906842624 + offOf key / 33554432 * 256 + offOf key % 33554432 / 131072

def State.owner (s : State) (key : Nat) : Nat := kvGetD 0 s.owners (granuleOf key)

/-- Does the firewall let a master of a context make the access (R226, R230)? -/
def State.firewallOk (s : State) (ctx key : Nat) : Bool :=
  let prot : Bool := match s.context? ctx with | some c => c.prot | none => false
  if isDevice key || spaceOf key = 4 then
    let o := s.owner key
    if o = 0 then !prot else o = ctx % 65536
  else if spaceOf key = 3 then !(prot && !s.part.vcipher)
  else true

/-! ### Page tables -/

/-- What a walk answers. -/
inductive WalkRes where
  | leaf (e : TlbEntry)
  /-- a fault of R192 -/
  | fault (kind : Nat)
  /-- the firewall refuses the walker's read of a table (R226) -/
  | refused
  /-- the part has no memory where a table should be (log 4, DESIGN CHOICE) -/
  | noMem (key : Nat)
  deriving DecidableEq, Repr

/-- Index place and width of each level, and the SIZE a leaf there has (R190, R191). -/
def walkLevels : List (Nat × Nat × Option Nat) := [(39, 18, none), (26, 13, some 2), (22, 4, some 1), (17, 5, some 0)]

/-- log2 of the bytes a leaf of a SIZE maps (R190). -/
def pageBits (size : Nat) : Nat := if size = 2 then 26 else if size = 1 then 22 else 17

/-- A table entry with a reserved bit set (R191). -/
def badTable (e : Nat) : Bool := nbits e 6 2 ≠ 0 || nbits e 63 57 ≠ 0

/-- A malformed leaf: its SIZE does not match the level, or FRAME is misaligned (R192, KIND 3). -/
def badLeaf (size : Option Nat) (e : Nat) : Bool :=
  match size with
  | none => true
  | some k => nbits e 3 2 ≠ k || nbits e 63 24 % 2 ^ (pageBits k - 17) ≠ 0

/-- The walk over the levels from a table at a physical address (R192), up to the leaf's OWNER check. -/
def State.walkFrom (s : State) (ctx va : Nat) : List (Nat × Nat × Option Nat) → Nat → WalkRes
  | [], _ => .fault 3
  | (sh, w, size) :: rest, table =>
    let pa := table + 8 * (va / 2 ^ sh % 2 ^ w)
    let key := keyOf spDevice pa
    if !memExists s.part key then .noMem key
    else if !s.firewallOk ctx key then .refused
    else if s.softErrs.contains (pa / 8) then .fault 5
    else
      let e := s.readNat key 8
      if e % 2 = 0 then .fault 0
      else if nbits e 1 1 = 1 then
        if badLeaf size e then .fault 3
        else if nbits e 23 8 ≠ ctx % 65536 then .fault 2
        else
          let k := size.getD 0
          .leaf ⟨ctx, va / 2 ^ pageBits k, k, nbits e 4 4 = 1, nbits e 5 5 = 1, nbits e 7 6, nbits e 63 24⟩
      else if badTable e || rest.isEmpty then .fault 3
      else s.walkFrom ctx va rest (nbits e 56 7 * 128)

/-- The walk of a context's tables; an unregistered context has none. -/
def State.walk (s : State) (ctx va : Nat) : WalkRes :=
  match s.context? ctx with
  | none => .fault 0
  | some c => s.walkFrom ctx va walkLevels c.reg.root

/-- Does the entry translate the address? -/
def TlbEntry.covers (e : TlbEntry) (ctx va : Nat) : Bool := e.ctx = ctx && e.vbase = va / 2 ^ pageBits e.size

/-- The place an address has through a leaf (R191); with the CXL port in COHERENT mode TARGET 2 is host memory (R220). -/
def TlbEntry.keyFor (e : TlbEntry) (coherent : Bool) (va : Nat) : Nat :=
  keyOf (if coherent && e.target = 2 then spHost else e.target) (e.frame * 131072 + va % 2 ^ pageBits e.size)

/-- The TLBs that serve a core, in order: its own, its cluster's, its die's (R193). -/
def State.tlbFind (s : State) (core ctx va : Nat) : Option TlbEntry :=
  ((kvGetD [] s.l1tlb core) ++ (kvGetD [] s.cltlb (clusterOf core)) ++ (kvGetD [] s.lltlb (coreDie core))).find?
    (fun e => e.covers ctx va)

/-- Do two entries cache a leaf for the same page of the same context? -/
def TlbEntry.samePage (a b : TlbEntry) : Bool := a.ctx = b.ctx && a.size = b.size && a.vbase = b.vbase

/-- A table with the entry at its head, in place of an older one for its page, at most `cap` entries; the oldest leaves (log 15,
DESIGN CHOICE). -/
def tlbPut (m : List (Nat × List TlbEntry)) (k cap : Nat) (e : TlbEntry) : List (Nat × List TlbEntry) :=
  kvPut m k ((e :: (kvGetD [] m k).filter (fun x => !x.samePage e)).take cap)

/-- Cache a leaf for a core: in its L1 TLB, its cluster's and its die's (R193). -/
def State.tlbFill (s : State) (core : Nat) (e : TlbEntry) : State :=
  { s with l1tlb := tlbPut s.l1tlb core 128 e
           cltlb := tlbPut s.cltlb (clusterOf core) 2048 e
           lltlb := tlbPut s.lltlb (coreDie core) (if coreDie core = 4 then 3072 else 12288) e }

/-- Drop the entries that translate an address for a core, so that its next access there makes a new walk (R195). -/
def State.tlbEvict (s : State) (core ctx va : Nat) : State :=
  let out := fun (m : List (Nat × List TlbEntry)) (k : Nat) => kvMod m k (fun l => l.filter (fun e => !e.covers ctx va))
  { s with l1tlb := out s.l1tlb core, cltlb := out s.cltlb (clusterOf core), lltlb := out s.lltlb (coreDie core) }

/-- What translating an access answers. -/
inductive TransRes where
  | ok (key : Nat)
  /-- no TLB holds the page: a walk must run -/
  | miss
  | fault (kind : Nat)
  /-- a lane or uniform write to a sealed leaf (R130) -/
  | sealed
  /-- the firewall refuses the walk (R226) -/
  | refused
  deriving DecidableEq, Repr

/-- The checks at the leaf for a write (R192): SEALED before W. -/
def TlbEntry.check (e : TlbEntry) (coherent : Bool) (va : Nat) (write engine : Bool) : TransRes :=
  if write && e.seald then (if engine then .fault 4 else .sealed)
  else if write && !e.w then .fault 1
  else .ok (e.keyFor coherent va)

/-- Translate through the TLBs. -/
def State.translate (s : State) (core ctx va : Nat) (write engine : Bool) : TransRes :=
  match s.tlbFind core ctx va with
  | some e => e.check s.cxlCoherent va write engine
  | none => .miss

/-- Translate an access of an engine, or of a RED, which never holds its thread: where no TLB holds the page the walk
is made within the step (R195; log 15, DESIGN CHOICE). -/
def State.translateNow (s : State) (core ctx va : Nat) (write engine : Bool) : TransRes :=
  match s.tlbFind core ctx va with
  | some e => e.check s.cxlCoherent va write engine
  | none =>
    match s.walk ctx va with
    | .leaf e => e.check s.cxlCoherent va write engine
    | .fault k => .fault k
    | .refused => .refused
    | .noMem _ => .miss

/-- The place of a virtual address of a context for the Keystone die's own accesses; none where it faults or the firewall refuses
the context the granule (R226; log 16, DESIGN CHOICE). -/
def State.ksPlace (s : State) (ctx : Nat) (a : DWord) (write : Bool) : Option Nat :=
  if nbits a.toNat 63 57 ≠ 0 || nbits a.toNat 56 48 = 0x1FF then none
  else match s.walk ctx a.toNat with
    | .leaf e => (match e.check s.cxlCoherent a.toNat write false with
      | .ok k => if s.firewallOk ctx k then some k else none
      | _ => none)
    | _ => none

/-- A range of addresses cut at 128 KiB pages. -/
def pagePieces : Nat → Nat → Nat → List (Nat × Nat)
  | 0, _, _ => []
  | fuel + 1, a, n =>
    if n = 0 then [] else
    let m := min n (131072 - a % 131072)
    (a, m) :: pagePieces fuel (a + m) (n - m)

/-- Read a context's memory as a unit of the Keystone die; bytes that do not translate read 0 (log 16, DESIGN CHOICE). -/
def State.ksRead (s : State) (ctx : Nat) (a : DWord) (n : Nat) : List Byte :=
  (pagePieces (n / 131072 + 2) a.toNat n).flatMap (fun p =>
    match s.ksPlace ctx (BitVec.ofNat 64 p.1) false with
    | some k => s.crypt ctx k (s.ksBytes k p.2)
    | none => zeros p.2)

def State.ksReadNat (s : State) (ctx : Nat) (a : DWord) (n : Nat) : Nat := ofBytes (s.ksRead ctx a n)

/-- Write a context's memory as a unit of the Keystone die; bytes that do not translate are dropped (log 16, DESIGN CHOICE). -/
def State.ksStore (s : State) (ctx : Nat) (a : DWord) (bs : List Byte) : State :=
  (pagePieces (bs.length / 131072 + 2) a.toNat bs.length).foldl (fun s p =>
    match s.ksPlace ctx (BitVec.ofNat 64 p.1) true with
    | some k => s.ksWrite k (s.crypt ctx k ((bs.drop (p.1 - a.toNat)).take p.2))
    | none => s) s

/-- An atomic addition of 64 bits to a context's memory by a unit of the Keystone die (R162), performed at the place's home; dropped
where the place does not translate (log 16, DESIGN CHOICE). -/
def State.ksAdd (s : State) (ctx : Nat) (a : DWord) (x : Nat) : State :=
  match s.ksPlace ctx a true with
  | some k => if homeDie k = 5 then s.ksStore ctx a (toBytes 8 (ofBytes (s.ksRead ctx a 8) + x))
    else s.ksSend (some (9, 3)) k (toBytes 8 x)
  | none => s

def State.ksStoreNat (s : State) (ctx : Nat) (a : DWord) (n x : Nat) : State := s.ksStore ctx a (toBytes n x)

/-! ### Faults (R195) -/

/-- Record a translation fault, to be posted. -/
def State.newFault (s : State) (who : Faulter) (kind : Nat) (m : Miss) (core : Nat) : State :=
  { s.bump with faults := s.faults ++ [⟨s.nextSeq, none, who, kind, m, coreDie core, coreX core, coreY core⟩] }

/-- Has a walk one of its die's 64 walkers (R193)? The walks that were asked for first have them. -/
def State.walkRunning (s : State) (w : Walk) : Bool := ((s.walks.filter (fun x => x.die = w.die)).take 64).contains w

/-- Ask for a walk, shared by the misses of a die for one context and 128 KiB page (R193). -/
def State.needWalk (s : State) (core ctx va : Nat) : State :=
  let w : Walk := ⟨coreDie core, ctx, va / 131072⟩
  if s.walks.contains w then s else { s with walks := s.walks ++ [w] }

end Sys2Proof.Machine
end

