-- ==== Sys2Proof/Machine/Keystone.lean ====
section
/-! DEFINITION. The Keystone die's shared operations: logs and interrupts (01, R10, R11), the access firewall (11, R226),
packet completion (08, R157, R158), the counts of a lineage (07, R153), DISCARD (R171) and context faults (09, R187 to
R189). -/

namespace Sys2Proof.Machine

/-! ### Logs and interrupts -/

/-- Add a record to a log of at most 1,024 (R10, R11). -/
def Log.push (l : Log) (r : LogRec) : Log :=
  let w := l.wptr + 1
  let lossy := 1024 < (w - l.rptr).toNat
  { l with wptr := w, lost := if lossy then satInc l.lost else l.lost
           recs := (l.recs ++ [{ r with seq := w }]).drop (l.recs.length + 1 - 1024) }

/-- The 32 bytes of a record (R11). -/
def LogRec.bytes (r : LogRec) : List Byte :=
  toBytes 4 r.seq.toNat ++ toBytes 4 (r.type + r.die * 65536 + r.cx * 1048576 + r.cy * 33554432) ++ toBytes 8 r.time
    ++ toBytes 8 r.arg0.toNat ++ toBytes 8 r.arg1.toNat

/-- Record i of a log's window, i below 1,024: the latest record whose number is i modulo 1,024 (R10). -/
def Log.windowRec (l : Log) (i : Nat) : List Byte :=
  match (l.recs.filter (fun r => (r.seq - 1).toNat % 1024 = i)).getLast? with
  | some r => r.bytes
  | none => zeros 32

/-- Units of `State.time` in a nanosecond: every period from 600 to 1,050 MHz in steps of 50 is whole (log 11, DESIGN CHOICE). -/
def timeUnit : Nat := 11639628

/-- Write a record to the fault log or the event log and raise the log's interrupt if enabled (R10, R14). -/
def State.logWrite (s : State) (event : Bool) (type die cx cy : Nat) (a0 a1 : DWord) : State :=
  let r : LogRec := ⟨0, type, die, cx, cy, s.time / timeUnit, a0, a1⟩
  let l := if event then s.eventLog else s.faultLog
  let s : State := if event then { s with eventLog := s.eventLog.push r } else { s with faultLog := s.faultLog.push r }
  if l.inten then { s with irqs := s.irqs ++ [.log event] } else s

/-! ### Packets -/

/-- The address of a queue's packet at RPTR (R155). -/
def HostQueue.headAddr (q : HostQueue) : DWord := q.base + BitVec.ofNat 64 (64 * (q.rptr.toNat % 2 ^ q.logsz))

/-- The statuses that set ERROR (R158). -/
def stopsQueue (status : Nat) : Bool := [0x04, 0x20, 0x23, 0x24, 0x25, 0x26].contains status

/-- The little-endian field of a packet. -/
def pkt (p : List Byte) (off n : Nat) : Nat := ofBytes ((p.drop off).take n)

/-- The completion signal that a LAUNCH or BATCH packet names: address and value (R157, R160, R166); a misaligned address names none
(log 45, DEDUCED). -/
def Packet.signal (p : Packet) : DWord × DWord :=
  let at' := fun (o : Nat) => if pkt p.bytes o 8 % 8 = 0 then
    ((BitVec.ofNat 64 (pkt p.bytes o 8) : DWord), (BitVec.ofNat 64 (pkt p.bytes (o + 8) 8) : DWord)) else (0, 0)
  if pkt p.bytes 0 1 = 1 then at' 0x18 else if pkt p.bytes 0 1 = 4 then at' 0x30 else (0, 0)

/-- Does a condition of a FENCE hold of a counter (R161)? -/
def fenceCond (cond : Nat) (w32 : Bool) (x y : Nat) : Bool :=
  let m := if w32 then 4294967296 else 18446744073709551616
  let x := x % m
  let y := y % m
  match cond with
  | 0 => x = y
  | 1 => x ≠ y
  | 2 => y ≤ x
  | 3 => x < y
  | _ => (x + m - y) % m < m / 2

/-- Does the wait of a FENCE packet end? -/
def State.fenceMet (s : State) (ctx : Nat) (cs : List (DWord × Nat × Bool × DWord)) (any : Bool) : Bool :=
  let ok := fun (c : DWord × Nat × Bool × DWord) =>
    fenceCond c.2.1 c.2.2.1 (s.ksReadNat ctx c.1 (if c.2.2.1 then 4 else 8)) c.2.2.2.toNat
  if any then cs.any ok else cs.all ok

/-- The cluster on which a protected context's slice runs, for what R228 holds to the slice's end: the first in order where it has
several (log 47, DESIGN CHOICE). -/
def State.sliceOf (s : State) (ctx : Nat) : Option Nat :=
  match s.context? ctx with
  | some c => if c.prot then (s.clusters.find? (fun e => e.2.active = some ctx && e.2.sliceStart.isSome && e.2.clearing.isNone)).map (·.1) else none
  | none => none

/-- The queue of a packet that completes: RPTR advances (R155); a failing status sets ERROR (R158); a reset asked for meanwhile takes
effect (R154). -/
def HostQueue.completed (x : HostQueue) (status : Nat) : HostQueue :=
  let bad := stopsQueue status
  let y := { x with rptr := x.rptr + 1, busy := none, fenceWait := false
                    error := x.error || bad, lasterr := if bad then status else x.lasterr }
  if y.resetReq then { y with rptr := y.wptr, error := false, withdrawn := [], resetReq := false } else y

/-- A packet completes at once: STATUS and DETAIL, then its signal, then its interrupt (R157, R127). What the packet held is what was
read of it when its parsing began (R155). -/
def State.writeStatus (s : State) (q status detail : Nat) (sig : DWord × DWord) : State :=
  let p := (s.queue q).packet
  let s : State := s.ksStore p.ctx (p.addr + 2) [BitVec.ofNat 8 status, BitVec.ofNat 8 detail]
  let s : State := if sig.1 = 0 then s else s.ksSync.ksStoreNat p.ctx sig.1 8 sig.2.toNat
  let s : State := if pkt p.bytes 1 1 % 2 = 1 then { s with irqs := s.irqs ++ [.queue q] } else s
  s.setQueue q ((s.queue q).completed status)

/-- A packet completes, or waits with its status for the end of the slice in a protected context (R228). -/
def State.putStatus (s : State) (q status detail : Nat) (sig : DWord × DWord) : State :=
  match s.sliceOf (s.queue q).packet.ctx with
  | some cl => { s with deferredCpl := s.deferredCpl ++ [(cl, .status q status detail sig)] }
  | none => s.writeStatus q status detail sig

/-- Is the status of a queue's packet held? -/
def State.statusHeld (s : State) (q : Nat) : Bool :=
  s.deferredCpl.any (fun d => match d.2 with | .status k _ _ _ => k = q | .irq _ => false)

/-- FENCE_PACKET_POLL (R161). -/
def State.pollFence (s : State) (q : Nat) : State :=
  let x := s.queue q
  match x.busy with
  | some (.fence cs any) =>
    if !s.statusHeld q && s.fenceMet x.packet.ctx cs any then s.putStatus q 0x01 0 (0, 0) else s
  | _ => s

/-- The counters of every FENCE that waits are read again (R161). -/
def State.pollFences (s : State) : State :=
  ((s.queues.filter (fun e => match e.2.busy with | some (.fence _ _) => true | _ => false)).map (·.1)).foldl
    (fun s q => s.pollFence q) s

/-- A packet completes (R157); after a completion signal every waiting FENCE is read again (R161). -/
def State.completeNow (s : State) (q status detail : Nat) (sig : DWord × DWord) : State :=
  let s : State := s.putStatus q status detail sig
  if sig.1 = 0 || s.statusHeld q then s else s.pollFences

/-- A packet completes with the signal that it names. -/
def State.completePacket (s : State) (q status detail : Nat) : State :=
  s.completeNow q status detail (s.queue q).packet.signal

/-- A launch's packet completes. -/
def State.completeLaunchPacket (s : State) (l : Launch) (status detail : Nat) : State :=
  s.completeNow l.queue status detail (l.cpladdr, l.cplval)

/-! ### Lineages and estates -/

def Lineage.opened (ctx lin : Nat) : Lineage := ⟨ctx, lin, 0, 0, 0, 0, 0, 0, 0, 0, 0, 0, 0⟩

/-- Change the counts of a lineage's opening; the first settle or claim opens it (R135). -/
def State.modLineage (s : State) (ctx lin : Nat) (f : Lineage → Lineage) : State :=
  if s.lineages.any (fun (x : Lineage) => x.ctx = ctx && x.lin = lin) then
    { s with lineages := s.lineages.map (fun (x : Lineage) => if x.ctx = ctx && x.lin = lin then f x else x) }
  else { s with lineages := s.lineages ++ [f (Lineage.opened ctx lin)] }

/-- The address of a spill slot (R141). -/
def State.spillAddr (s : State) (ctx slot : Nat) : DWord :=
  match s.context? ctx with
  | some c => c.reg.spillBase + BitVec.ofNat 64 (48 * slot)
  | none => 0

/-- Free a spill slot: NREG becomes 0 (R142). -/
def State.freeSlot (s : State) (ctx slot : Nat) : State :=
  { s.ksStore ctx (s.spillAddr ctx slot + 10) [0] with
    spilled := s.spilled.filter (fun p => !(p.ctx = ctx && p.slot = slot)) }

/-- Discard every estate of a context, in stores and spill area, with no record (R151). -/
def State.dropEstates (s : State) (ctx : Nat) : State :=
  let slots := (s.spilled.filter (fun p => p.ctx = ctx)).map (·.slot)
  let s : State := slots.foldl (fun s k => s.freeSlot ctx k) s
  { s with stores := s.stores.map (fun e => (e.1, e.2.filter (fun x => x.ctx ≠ ctx)))
           settles := s.settles.filter (fun x => x.est.ctx ≠ ctx)
           lineages := s.lineages.filter (fun x => x.ctx ≠ ctx) }

/-! ### DISCARD and context faults -/

/-- Drop a core's workgroup with no image (R171): what its teams wait for or asked for goes with it; stores it issued
complete, and faults it posted stay to be answered. What an earlier workgroup of the core has left under way stays. -/
def State.discardWg (s : State) (core : Nat) : State :=
  let mine : List Nat := match s.wg? core with
    | some w => w.teams.map (fun (e : Nat × Team) => e.2.uid)
    | none => []
  { s with wgs := kvDel s.wgs core
           loads := s.loads.filter (fun x => x.core ≠ core)
           fences := s.fences.filter (fun x => !mine.contains x.uid)
           arrivals := s.arrivals.filter (fun x => !mine.contains x.uid)
           sfqs := s.sfqs.filter (fun x => !mine.contains x.uid)
           qops := s.qops.filter (fun x => !mine.contains x.uid)
           seals := s.seals.filter (fun x => !mine.contains x.uid)
           posts := s.posts.filter (fun x => !mine.contains x.uid)
           claims := s.claims.filter (fun x => x.core ≠ core)
           settles := s.settles.filter (fun x => x.core ≠ core || x.est.ctx ≠ s.ctxOf core) }

/-- Close a group slot: its generation advances (R208, R217). -/
def Group.closed (g : Group) : Group := { g with state := .closed, gen := (g.gen + 1) % 16777216 }

/-- The core a pier command names. -/
def PierCmd.core : PierCmd → Nat
  | .place _ c _ => c
  | .stop c _ _ _ => c
  | .resume _ c _ => c
  | .discard c => c

/-- Does the Keystone controller hold a send permit for the pier of a core (R171)? -/
def State.permit (s : State) (core : Nat) : Bool :=
  (s.links.filter (fun c => clusterOf c.core = clusterOf core)).length < 8

/-- Is a command for the core on its way? -/
def State.commanded (s : State) (core : Nat) : Bool := s.links.any (fun c => c.core = core)

/-- Send DISCARD for every core whose launch is over, as permits allow (R171, R188). -/
def State.sendDiscards (s : State) : State :=
  s.wgs.foldl (fun s e =>
    let gone : Bool := match s.launch? e.2.launch with | some l => l.state = .done | none => true
    if gone && !s.links.contains (.discard e.1) && s.permit e.1 then { s with links := s.links ++ [.discard e.1] } else s) s

/-- Stop all work of a context: its cores are sent DISCARD and run on until it reaches them, its saved images are dropped, its groups
closed (R188 step 2, R217). A launch of it stays until the last of its cores is discarded. -/
def State.dropWork (s : State) (ctx : Nat) : State :=
  let mine := (s.launches.filter (fun e => e.2.ctx = ctx)).map (·.1)
  let cores := (s.wgs.filter (fun e => mine.contains e.2.launch)).map (·.1)
  let live := (s.wgs.filter (fun e => mine.contains e.2.launch)).map (fun e => e.2.launch)
  let s : State := { s with
    links := s.links.filter (fun c => match c with
      | .place l _ _ => !mine.contains l
      | .resume l _ _ => !mine.contains l
      | .stop c _ _ _ => !cores.contains c
      | .discard _ => true)
    launches := (s.launches.filter (fun e => e.2.ctx ≠ ctx || live.contains e.1)).map (fun e =>
      if e.2.ctx = ctx then (e.1, { e.2 with state := .done, saved := [], toPlace := [] }) else e)
    closes := s.closes.filter (fun c => c.counts.ctx ≠ ctx)
    groups := s.groups.map (fun (e : Nat × Group) =>
      if e.2.ctx = ctx && e.2.state ≠ GState.closed then (e.1, e.2.closed) else e) }
  (s.modContext ctx (fun c => { c with slots := [] })).sendDiscards

/-- What a fault record holds beside its context (R189). -/
structure FaultInfo where
  code : Nat
  cause : Nat
  pc : Nat
  va : Nat
  die : Nat
  cx : Nat
  cy : Nat
  engine : Bool
  seq : Nat
  qnum : Nat
  ltag : Nat
  deriving DecidableEq, Repr

/-- The 64 bytes of a fault record (R189). -/
def faultRecord (ctx : Nat) (f : FaultInfo) : List Byte :=
  toBytes 4 (f.code + f.cause * 256 + 65536) ++ toBytes 4 ctx ++ toBytes 8 f.pc ++ toBytes 8 f.va
    ++ toBytes 4 (f.die + f.cx * 16 + f.cy * 512 + (if f.engine then 4096 else 0)) ++ toBytes 4 f.seq
    ++ toBytes 4 f.qnum ++ toBytes 4 f.ltag ++ zeros 24

/-- Complete the packet in progress of each queue of a context with a code, and set ERROR in all of them (R188, R158). A packet whose
own status is held to the end of a slice keeps it. -/
def State.failQueues (s : State) (ctx code : Nat) : State :=
  let qs := (s.queues.filter (fun e => e.2.ctx = ctx || (e.2.busy.isSome && e.2.packet.ctx = ctx))).map (·.1)
  qs.foldl (fun s q =>
    let s : State := if (s.queue q).busy.isSome && !s.statusHeld q then s.completePacket q code 0 else s
    s.setQueue q { s.queue q with error := true, lasterr := code }) s

/-- An interrupt of a context, held to the end of its slice where it has one (R228). -/
def State.raiseIrq (s : State) (ctx : Nat) (i : Irq) : State :=
  match s.sliceOf ctx with
  | some cl => { s with deferredCpl := s.deferredCpl ++ [(cl, .irq i)] }
  | none => { s with irqs := s.irqs ++ [i] }

/-- A context fault (R188). While VALID stands in the record a later one writes nothing. The log names die 5, whose controller records
the fault, as the source (log 45, DEDUCED). -/
def State.contextFault (s : State) (ctx : Nat) (f : FaultInfo) : State :=
  match s.context? ctx with
  | none => s
  | some c =>
    let valid : Bool := match c.reg.faultRec with
      | some a => s.ksReadNat ctx a 4 / 65536 % 2 = 1
      | none => c.faulted
    let s : State := if valid then s else
      let s : State := match c.reg.faultRec with
        | some a =>
          let r := faultRecord ctx f
          (s.ksStore ctx (a + 4) (r.drop 4)).ksStore ctx a (r.take 4)
        | none => s
      s.logWrite false 4 5 0 0 (BitVec.ofNat 64 ctx) (BitVec.ofNat 64 f.code)
    let s : State := s.dropWork ctx
    let s : State := s.dropEstates ctx
    let s : State := s.failQueues ctx f.code
    let s : State := s.modContext ctx (fun c => { c with faulted := true })
    if valid then s else s.raiseIrq ctx (.faultRecord ctx)

/-- The record of a fault of a core's: the launch of its workgroup names QNUM and LTAG (R189). -/
def State.coreFault (s : State) (core code cause pc va seq : Nat) (engine : Bool) : State :=
  let q := match s.wgLaunch? core with | some l => (l.queue, l.tag.toNat) | none => (0, 0)
  s.contextFault (s.ctxOf core)
    ⟨code, cause, pc, va, coreDie core, coreX core, coreY core, engine, seq, q.1, q.2⟩

/-- The firewall refuses a core, with none for the unit, or one of its engines: the refusal is logged and the master freezes; a core
freezes with its workgroup and its copy engine (R11, R226, R227). -/
def State.freeze (s : State) (core : Nat) (unit : Option Nat) : State :=
  let s : State := s.logWrite false 5 (coreDie core) (coreX core) (coreY core) (BitVec.ofNat 64 (s.ctxOf core)) 0
  s.modWg core (fun w => match unit with
    | some e => { w with enginesFrozen := w.enginesFrozen ++ [e] }
    | none => { w with frozen := true, enginesFrozen := w.enginesFrozen ++ [0] })

/-- A firewall refusal of a core or of one of its engines: its context faults, whose DISCARD releases it (R227). -/
def State.firewallFault (s : State) (core va : Nat) (unit : Option Nat) : State :=
  (s.freeze core unit).coreFault core 0x20 0 0 va 0 unit.isSome

end Sys2Proof.Machine
end

