-- ==== Sys2Proof/Machine/Work.lean ====
section
/-! DEFINITION. Work: tiles and the dispenser (02, R26, R30), estates settling and being claimed (07, R139 to R144),
sibling groups becoming quiet (10, R211), barriers (02, R43, R44), join masks (R42, R356), TFETCH (R33) and the end of
a workgroup (R34, R213). -/

namespace Sys2Proof.Machine

/-! ### Tiles -/

/-- T, the tiles of a launch. -/
def Header.tiles (h : Header) : Nat := h.ext.foldl (· * ·) 1

/-- The coordinate of tile n in field f, 2 to 5 (R30). -/
def Header.coord (h : Header) (n f : Nat) : Nat := n / (h.ext.take (f - 2)).foldl (· * ·) 1 % h.ext.getD (f - 2) 1

/-- The width of a field, and the place of its low bit (R26). -/
def Header.width (h : Header) (f : Nat) : Nat := h.w.getD f 0
def Header.shift (h : Header) (f : Nat) : Nat := (h.w.take f).foldl (· + ·) 0

/-- The work identifier of lane `l` of team `t` on tile n (R26, R33); a field of width 0 is absent. -/
def Header.workId (h : Header) (n t l : Nat) : DWord :=
  let part := fun f x => if h.width f = 0 then 0 else x % 2 ^ h.width f * 2 ^ h.shift f
  BitVec.ofNat 64 (part 0 l + part 1 t + part 2 (h.coord n 2) + part 3 (h.coord n 3) + part 4 (h.coord n 4)
    + part 5 (h.coord n 5))

/-- The sibling a tile belongs to (R208), and the sibling field of a work identifier (R150). -/
def Header.sibOf (h : Header) (n : Nat) : Nat := if h.sibf = 0 then 0 else h.coord n h.sibf
def Header.sibOfId (h : Header) (x : DWord) : Nat := x.toNat / 2 ^ h.shift h.sibf % 2 ^ h.width h.sibf

/-- The group a launch votes in: its slot, while the handle's generation stands (R208). -/
def State.groupOf (s : State) (l : Launch) : Option (Nat × Group) :=
  if l.hdr.sibf = 0 then none
  else
    let k := l.hdr.sibgrp.toNat % 256
    (kvGet s.groups k).bind (fun g => if g.gen = l.hdr.sibgrp.toNat / 256 then some (k, g) else none)

/-- Is the sibling cancelled? -/
def State.sibCancelled (s : State) (l : Launch) (i : Nat) : Bool :=
  match s.groupOf l with
  | some (_, g) => (match g.sibs[i]? with | some b => b.cancelled | none => false)
  | none => false

/-- The word at an offset of a batch snapshot entry (R166). -/
def State.snapWord (s : State) (l : Launch) (i off : Nat) : Nat :=
  match l.batch with
  | some (_, snap, _) => s.ksReadNat l.ctx (snap + BitVec.ofNat 64 (64 * i + off)) 4
  | none => 0

/-- May the dispenser hand out tile n: not handed out, not of a cancelled sibling, not withdrawn, and active in a
batch, where a tile's request tag is its entry's in the snapshot (R30, R167, R169)? -/
def State.tileFree (s : State) (l : Launch) (n : Nat) : Bool :=
  !l.handed.contains n
    && !s.sibCancelled l (l.hdr.sibOf n)
    && (match l.batch with
        | none => l.tag = 0 || !(s.queue l.queue).withdrawn.contains l.tag
        | some (f, _, _) =>
          let i := l.hdr.coord n f
          let st := s.snapWord l i 0 % 4
          (st = 1 || st = 2) && s.snapWord l i 8 % 2 = 1
            && !((s.queue l.queue).withdrawn.contains (BitVec.ofNat 32 (s.snapWord l i 4))))

/-- The least n from `n` on that passes a test. -/
def findTile (p : Nat → Bool) : Nat → Nat → Option Nat
  | 0, _ => none
  | fuel + 1, n => if p n then some n else findTile p fuel (n + 1)

/-- The identities the threads of a workgroup on tile n claim (R143). -/
def Header.claimIds (h : Header) (n : Nat) : List DWord :=
  (List.range h.teams).flatMap (fun t => (List.range teamWidth).flatMap (fun l =>
    (List.range (h.claim + 1)).map (fun j =>
      h.workId n t l * BitVec.ofNat 64 (h.claim + 1) + BitVec.ofNat 64 j)))

/-- Does the core's store hold an estate that tile n's threads claim (R30)? -/
def State.tileAtHome (s : State) (l : Launch) (core n : Nat) : Bool :=
  let mine := (kvGetD [] s.stores core).filter (fun e => e.ctx = l.ctx && e.lin = l.hdr.hlin && !e.pinned)
  !mine.isEmpty && (l.hdr.claimIds n).any (fun x => mine.any (fun e => e.ident = x))

/-- A request of a core to the dispenser (R30): the tile, or none; the dispenser of a launch that a context fault has ended hands out
none. -/
def State.dispense (s : State) (l : Launch) (core : Nat) : Option Nat :=
  let free := fun (n : Nat) => l.state ≠ .done && s.tileFree l n
  let home := if l.hdr.heir && !(kvGetD [] s.stores core).isEmpty then
      findTile (fun n => free n && s.tileAtHome l core n) l.hdr.tiles 0
    else none
  match home with
  | some n => some n
  | none => findTile free l.hdr.tiles 0

/-! ### Estates -/

/-- The lanes' marks settle (R139): each thread with a work item and a mark leaves a settle, and holds no item. -/
def State.endItem (s : State) (core : Nat) (l : Launch) (t : Thread) : State :=
  if t.hasItem && 0 < t.mark.2 && l.hdr.test && l.state ≠ .done then
    { s.bump with settles := s.settles ++
      [⟨s.nextSeq, core, l.id, t.tid,
        ⟨l.ctx, l.hdr.tlin, t.workid, (List.range t.mark.2).map (fun i => t.v (t.mark.1 + i)), s.nextSeq, false, l.id⟩⟩] }
  else s

/-- Look an identity up in the directories of all dies (R144). Of two estates of one key a free choice decides which
one a claim takes (R140; log 6, DESIGN CHOICE). -/
def State.findEstate (s : State) (ctx lin : Nat) (x : DWord) : Option Found :=
  let a := s.stores.flatMap (fun c => (c.2.filter (fun e => e.ctx = ctx && e.lin = lin && e.ident = x && !e.pinned)).map
    (fun e => Found.store c.1 e.order))
  let b := (s.spilled.filter (fun p => p.ctx = ctx && p.lin = lin && p.ident = x && !p.pinned)).map
    (fun p => Found.slot p.slot)
  match a ++ b with
  | [] => none
  | [f] => some f
  | f :: g :: _ => some (if Config.freeBit s.freeCtr then g else f)

/-- The registers of a spill slot (R142). -/
def State.slotRegs (s : State) (ctx slot n : Nat) : List Word :=
  (List.range n).map (fun i => BitVec.ofNat 32 (s.ksReadNat ctx (s.spillAddr ctx slot + BitVec.ofNat 64 (16 + 4 * i)) 4))

/-- One claim (R143, R144): pin what is found and count it. -/
def State.claimOne (s : State) (l : Launch) (core team lane j : Nat) (x : DWord) : State :=
  let h := l.hdr
  match s.findEstate l.ctx h.hlin x with
  | none =>
    let s : State := s.modLineage l.ctx h.hlin id
    { s with claims := s.claims ++ [⟨core, team, lane, j, none, none⟩], freeCtr := s.freeCtr + 1 }
  | some f =>
    let regs : List Word := match f with
      | .store c o => (((kvGetD [] s.stores c).find? (fun e => e.order = o)).map (·.regs)).getD []
      | .slot k => s.slotRegs l.ctx k (((s.spilled.find? (fun p => p.ctx = l.ctx && p.slot = k)).map (·.n)).getD 0)
    let mem : Bool := match f with | .slot _ => true | .store _ _ => false
    let moved : Bool := match f with | .store c _ => decide (c ≠ core) | .slot _ => false
    let n := regs.length
    let s : State := match f with
      | .store c o => { s with stores := kvMod s.stores c (fun es => es.map (fun e =>
          if e.order = o then { e with pinned := true } else e)) }
      | .slot k => { s with spilled := s.spilled.map (fun p =>
          if p.ctx = l.ctx && p.slot = k then { p with pinned := true } else p) }
    let s : State := s.modLineage l.ctx h.hlin (fun c =>
      { c with claimed := satInc c.claimed
               short := if n < h.count then satInc c.short else c.short
               trimmed := if h.count < n then satInc c.trimmed else c.trimmed
               surplus := satInc c.surplus (n - h.count)
               migrated := if moved then satInc c.migrated else c.migrated
               membacked := if mem then satInc c.membacked else c.membacked })
    { s with claims := s.claims ++ [⟨core, team, lane, j, some (regs, mem, moved), some (l.ctx, f)⟩], freeCtr := s.freeCtr + 1 }

/-- The claims of the threads of a core for the tile it received, in dispense order (R144). `who` lists (team, lane). -/
def State.claimTile (s : State) (l : Launch) (core n : Nat) (who : List (Nat × Nat)) : State :=
  if !l.hdr.heir then s
  else who.foldl (fun s p => (List.range (l.hdr.claim + 1)).foldl (fun s j =>
    s.claimOne l core p.1 p.2 j
      (l.hdr.workId n p.1 p.2 * BitVec.ofNat 64 (l.hdr.claim + 1) + BitVec.ofNat 64 j)) s) s

/-- The HEIRQ status word of a claim (R146). -/
def claimStatus (m : Nat) : Option (List Word × Bool × Bool) → Word
  | none => 0x80
  | some (regs, mem, moved) =>
    BitVec.ofNat 32 (1 + (if regs.length < m then 2 else 0) + (if m < regs.length then 4 else 0)
      + (if mem then 8 else 0) + (if moved then 16 else 0) + 0x80 + regs.length * 256)

/-- A thread born into a work item (R33, R143): its claims fill their registers. -/
def Thread.born (t : Thread) (h : Header) (x : DWord) (cs : List Claim) : Thread :=
  let t := { t with workid := x, hasItem := true, birthId := x, claims := [], mark := (0, 0) }
  if !h.heir then t
  else (List.range (h.claim + 1)).foldl (fun t j =>
    let f := ((cs.find? (fun c => c.j = j)).map (·.found)).getD none
    let vals := match f with | some (regs, _, _) => regs | none => []
    let t := (List.range h.count).foldl (fun t i => t.setV (h.into + j * h.count + i) (vals.getD i 0)) t
    { t with claims := t.claims ++ [claimStatus h.count f] }) t

/-- A pinned estate leaves its store or slot: its heir has it (R143). -/
def State.unpin (s : State) (ctx : Nat) (f : Found) : State :=
  let s : State := match f with
    | .store c o => { s with stores := kvMod s.stores c (fun es => es.filter (fun e => e.order ≠ o)) }
    | .slot k => s.freeSlot ctx k
  { s with closes := s.closes.map (fun c => if c.counts.ctx = ctx then { c with pins := c.pins.filter (· ≠ f) } else c) }

/-- The claims of a core are written: what they had pinned leaves its store or slot (R143, R144). -/
def State.claimsDone (s : State) (core : Nat) : State :=
  let pins := (s.claims.filter (fun c => c.core = core)).filterMap (·.pin)
  let s : State := pins.foldl (fun s p => s.unpin p.1 p.2) s
  { s with claims := s.claims.filter (fun c => c.core ≠ core) }

/-! ### The outcome of a group (R211) -/

/-- Counted posts: (sibling, hash, sequence). -/
def Group.counted (g : Group) : List (Nat × DWord × Word) :=
  ((List.range g.sibs.length).zip g.sibs).filterMap (fun p => p.2.post.map (fun q => (p.1, q.1, q.2)))

/-- The hash with the most counted posts, ties to the earliest counted (R211 item 2). -/
def Group.plurality (g : Group) : Option (DWord × Word) :=
  let c := g.counted
  let score := fun (h : DWord) => (c.filter (fun e => e.2.1 = h)).length
  let first := fun (h : DWord) => ((c.filter (fun e => e.2.1 = h)).map (fun e => e.2.2.toNat)).foldl min 4294967295
  c.foldl (fun best e =>
    match best with
    | none => some (e.2.1, BitVec.ofNat 32 (first e.2.1))
    | some (h, q) =>
      if score h < score e.2.1 || (score h = score e.2.1 && first e.2.1 < q.toNat) then
        some (e.2.1, BitVec.ofNat 32 (first e.2.1)) else best) none

/-- The outcome when every sibling is quiet (R211 items 2 and 3). -/
def Group.quietOutcome (g : Group) : Group :=
  if g.outcome ≠ 0 then { g with state := .releasing }
  else match g.plurality with
    | some (h, q) => { g with state := .releasing, outcome := 2, winner := h, dseq := q }
    | none => { g with state := .releasing, outcome := 3, winner := 0, dseq := 0 }

/-- Has the workgroup ended: its last thread has exited (R34)? -/
def Workgroup.ended (w : Workgroup) : Bool := w.liveCount = 0 && !w.unborn

/-- Has every workgroup of the launch ended or been discarded, with none still to be placed (R211)? -/
def State.launchEnded (s : State) (l : Launch) : Bool :=
  (l.state = .running || l.state = .closing || l.state = .suspended) && l.toPlace.isEmpty && l.saved.isEmpty
    && !s.wgs.any (fun e => e.2.launch = l.id && !e.2.ended)

/-- A sibling is quiet (R211). -/
def State.sibQuiet (s : State) (l : Launch) (i : Nat) : Bool :=
  (findTile (fun n => l.hdr.sibOf n = i && s.tileFree l n) l.hdr.tiles 0).isNone
    && !s.wgs.any (fun e => e.2.launch = l.id && !e.2.ended
      && (match e.2.tile with | some n => l.hdr.sibOf n = i | none => false))
    && !l.saved.any (fun v => match v.wg.tile with | some n => l.hdr.sibOf n = i | none => false)

/-- Close the dispenser of a launch: tiles never dispensed, whether withdrawn, inactive or left over, count in TILESND of
their siblings; a cancelled sibling's are counted already (R211, R216). -/
def State.closeDispenser (s : State) (l : Launch) : State :=
  match s.groupOf l with
  | none => s
  | some (k, g) =>
    let left := (List.range l.hdr.tiles).filter (fun n => !l.handed.contains n && !s.sibCancelled l (l.hdr.sibOf n))
    let sibs := ((List.range g.sibs.length).zip g.sibs).map (fun p =>
      { p.2 with tilesnd := p.2.tilesnd + BitVec.ofNat 32 (left.filter (fun n => l.hdr.sibOf n = p.1)).length })
    let s : State := { s with groups := kvPut s.groups k { g with sibs := sibs } }
    s.modLaunch l.id (fun x => { x with handed := x.handed ++ left })

/-- Fix the outcome, or begin the release, once every sibling of a launch's group is quiet (R211, R217). -/
def State.siblingsQuiet (s : State) (lid : Nat) : State :=
  match s.launch? lid with
  | none => s
  | some l0 =>
    let s : State := if s.launchEnded l0 then s.closeDispenser l0 else s
    match s.launch? lid with
    | none => s
    | some l =>
      match s.groupOf l with
      | none => s
      | some (k, g) =>
        if (g.state = .voting || g.state = .decided) && (List.range g.n).all (s.sibQuiet l) then
          let s : State := s.closeDispenser l
          { s with groups := kvMod s.groups k Group.quietOutcome }
        else s

/-! ### Barriers -/

/-- The scope of the fences at a barrier's arrival and release (R124). -/
def BarKey.scope : BarKey → Nat
  | .team _ => 0
  | .wg _ => 0
  | .cluster _ => 1
  | .grid _ => 2

def barZero : Barrier := ⟨0, 0, 0, []⟩

/-- A barrier as a team of a core names it. -/
def State.barrier (s : State) (core team : Nat) (k : BarKey) : Barrier :=
  match k with
  | .team n => ((s.team? core team).map (fun t => kvGetD barZero t.bars n)).getD barZero
  | .wg n => ((s.wg? core).map (fun w => kvGetD barZero w.bars n)).getD barZero
  | .cluster n => (match s.wg? core, s.wgLaunch? core with
    | some w, some l => kvGetD barZero l.cbars (8 * w.grp + n)
    | _, _ => barZero)
  | .grid n => ((s.wgLaunch? core).map (fun l => kvGetD barZero l.gbars n)).getD barZero

def State.setBarrier (s : State) (core team : Nat) (k : BarKey) (b : Barrier) : State :=
  match k with
  | .team n => s.modTeam core team (fun t => { t with bars := kvPut t.bars n b })
  | .wg n => s.modWg core (fun w => { w with bars := kvPut w.bars n b })
  | .cluster n => (match s.wg? core with
    | some w => s.modLaunch w.launch (fun l => { l with cbars := kvPut l.cbars (8 * w.grp + n) b })
    | none => s)
  | .grid n => (match s.wg? core with
    | some w => s.modLaunch w.launch (fun l => { l with gbars := kvPut l.gbars n b })
    | none => s)

/-- The cores whose threads may wait at a barrier that a core names. -/
def State.barCores (s : State) (core : Nat) (k : BarKey) : List Nat :=
  match k with
  | .team _ => [core]
  | .wg _ => [core]
  | .cluster _ => (match s.wg? core with
    | some w => (s.wgs.filter (fun e => e.2.launch = w.launch && e.2.grp = w.grp)).map (·.1)
    | none => [])
  | .grid _ => (match s.wg? core with
    | some w => (s.wgs.filter (fun e => e.2.launch = w.launch)).map (·.1)
    | none => [])

/-- New urgency ranks from an order of arrival: the last ranks highest, absent teams lowest (R44). -/
def Workgroup.renew (w : Workgroup) (key : Option BarKey) : Workgroup :=
  let order := (w.arriveOrder.filter (fun p => p.1 = key)).map (·.2)
  { w with teams := w.teams.map (fun e => (e.1, { e.2 with rank := if order.contains e.1 then order.idxOf e.1 + 1 else 0 }))
           arriveOrder := w.arriveOrder.filter (fun p => p.1 ≠ key) }

/-- What the release of a barrier acquires from other dies (R124): the clocks of the dies whose threads have arrived. -/
def State.barStamp (s : State) (core team : Nat) (k : BarKey) : List Word :=
  match k with
  | .grid _ => (s.barrier core team k).stamp
  | _ => []

/-- Release, in one team, the threads that wait for a phase now complete, as an acquire (R43, R124). -/
def State.releaseTeam (s : State) (core team : Nat) (k : BarKey) (done : Nat) : State :=
  match s.team? core team with
  | none => s
  | some t =>
    let tids := t.lanes.filterMap (fun l => match l.2.wait with
      | .barrier k' p => if k' = k && p < done then some l.2.tid else none
      | _ => none)
    if tids.isEmpty then s else s.acquire core t.uid tids k.scope (s.barStamp core team k)

/-- Complete the phase when the arrivals have reached the membership (R43). -/
def State.checkPhase (s : State) (core team : Nat) (k : BarKey) : State :=
  let b := s.barrier core team k
  if b.m ≤ b.a && 0 < b.a then
    let s : State := s.setBarrier core team k { b with a := 0, phase := b.phase + 1 }
    let s : State := match k with
      | .wg _ => s.modWg core (fun w => w.renew (some k))
      | _ => s
    (s.barCores core k).foldl (fun s c =>
      let teams := match k with
        | .team _ => [team]
        | _ => match s.wg? c with | some w => w.teams.map (fun (e : Nat × Team) => e.1) | none => []
      teams.foldl (fun s t => s.releaseTeam c t k (b.phase + 1)) s) s
  else s

/-- The phase in which a thread last arrived at a barrier, and whether it has waited on it (R314). -/
def Thread.lastArrival (t : Thread) (k : BarKey) : Option (Nat × Bool) :=
  (t.arrived.find? (fun e => e.1 = k)).map (·.2)

def Thread.setArrival (t : Thread) (k : BarKey) (p : Nat) (w : Bool) : Thread :=
  { t with arrived := (k, p, w) :: t.arrived.filter (fun e => e.1 ≠ k) }

/-- Change M of a barrier, which may complete a phase (R43). -/
def State.lessMember (s : State) (core team : Nat) (k : BarKey) : State :=
  let b := s.barrier core team k
  (s.setBarrier core team k { b with m := b.m - 1 }).checkPhase core team k

def teamBars : List BarKey := (List.range 8).map BarKey.team
def wgBars : List BarKey := (List.range 16).map BarKey.wg
def clusterBars : List BarKey := (List.range 8).map BarKey.cluster
def gridBars : List BarKey := (List.range 4).map BarKey.grid

/-- An exiting thread leaves every barrier of which it is a member (R43). -/
def State.leaveBarriers (s : State) (core team : Nat) : State :=
  (teamBars ++ wgBars ++ (if (s.hdr core).cluster then clusterBars else []) ++ gridBars).foldl
    (fun s k => s.lessMember core team k) s

/-! ### Join masks -/

/-- Does the release condition of R42 hold for mask n of a team? -/
def Team.joinMet (t : Team) (n : Nat) : Bool :=
  (lanesOf (t.k n)).all (fun i => match kvGet t.lanes i with
    | none => true
    | some th => th.wait = .join n)

/-- Test the masks of a team and release the waiters of each whose condition holds (R356). -/
def State.joinTest (s : State) (core team : Nat) : State :=
  (List.range 8).foldl (fun s n =>
    match s.team? core team with
    | none => s
    | some t =>
      let tids := t.lanes.filterMap (fun l => if l.2.wait = .join n then some l.2.tid else none)
      if !tids.isEmpty && t.joinMet n then s.acquire core t.uid tids 0 [] else s) s

/-! ### Closing a lineage (R152) -/

/-- An order of a list that nothing fixes: each element takes a freely chosen place among those before it (log 3, DESIGN CHOICE). -/
def freeOrder {α : Type} (ctr : Nat) (l : List α) : List α :=
  ((List.range l.length).zip l).foldl (fun r p =>
    let i := (Config.freeWord (ctr + p.1)).toNat % (p.1 + 1)
    r.take i ++ p.2 :: r.drop i) []

/-- A spill slot, and a record of a close (R142). -/
def estateRecord (ident : DWord) (lin : Nat) (regs : List Word) : List Byte :=
  toBytes 8 ident.toNat ++ toBytes 4 (lin + regs.length * 65536) ++ zeros 4
    ++ (List.range 8).flatMap (fun i => toBytes 4 (regs.getD i 0).toNat)

/-- Steps 1 to 3 of R152: the opening ends, its entries are gathered, but for pinned ones, and written as records up to
CAPACITY, in an order that is not defined. LINEAGE_CLOSE_FINISH does step 4. -/
def State.startClose (s : State) (ctx lin queue : Nat) (launch : Option Nat) (buf : DWord) : State :=
  let counts := (s.lineages.find? (fun (x : Lineage) => x.ctx = ctx && x.lin = lin)).getD (Lineage.opened ctx lin)
  let held := s.stores.flatMap (fun c =>
    (c.2.filter (fun e => e.ctx = ctx && e.lin = lin && !e.pinned)).map (fun e => (e.ident, e.regs)))
  let spilt := s.spilled.filter (fun p => p.ctx = ctx && p.lin = lin && !p.pinned)
  let pins := s.stores.flatMap (fun c => (c.2.filter (fun e => e.ctx = ctx && e.lin = lin && e.pinned)).map
      (fun e => Found.store c.1 e.order))
    ++ (s.spilled.filter (fun p => p.ctx = ctx && p.lin = lin && p.pinned)).map (fun p => Found.slot p.slot)
  let all := freeOrder s.freeCtr (held ++ spilt.map (fun p => (p.ident, s.slotRegs ctx p.slot p.n)))
  let cap := if buf = 0 then 0 else s.ksReadNat ctx (buf + 4) 4
  let out := all.take cap
  let lost := all.length - out.length
  let s : State := { s with
    freeCtr := s.freeCtr + all.length
    lineages := s.lineages.filter (fun (x : Lineage) => !(x.ctx = ctx && x.lin = lin))
    stores := s.stores.map (fun c => (c.1, c.2.filter (fun e => !(e.ctx = ctx && e.lin = lin && !e.pinned)))) }
  let s : State := (spilt.map (·.slot)).foldl (fun s k => s.freeSlot ctx k) s
  let s : State := ((List.range out.length).zip out).foldl (fun s p =>
    s.ksStore ctx (buf + BitVec.ofNat 64 (64 + 48 * p.1)) (estateRecord p.2.1 lin p.2.2)) s
  let counts := { counts with unclaimed := satInc counts.unclaimed out.length
                              discarded := satInc counts.discarded lost }
  { s.bump with closes := s.closes ++ [⟨s.nextSeq, queue, launch, counts, buf, buf ≠ 0 && 0 < lost, pins⟩] }

/-- An heir launch with CLOSE that has ended its last workgroup starts the close (R152). -/
def State.heirClose (s : State) (lid : Nat) : State :=
  match s.launch? lid with
  | none => s
  | some l =>
    if l.hdr.heir && l.hdr.close && (l.state = .running || l.state = .suspended) && s.launchEnded l then
      (s.modLaunch lid (fun l => { l with state := .closing })).startClose l.ctx l.hdr.hlin l.queue (some lid) l.hdr.closebuf
    else s

/-! ### The end of a workgroup -/

/-- A barrier whose arrivals have reached its membership completes its phase (R43). -/
def Barrier.settle (b : Barrier) : Barrier := if b.m ≤ b.a && 0 < b.a then { b with a := 0, phase := b.phase + 1 } else b

/-- Test the cluster and grid barriers of a launch after a change of their counts (R43). -/
def State.checkBars (s : State) (lid : Nat) : State :=
  let here := s.wgs.filter (fun e => e.2.launch = lid)
  if here.isEmpty then
    s.modLaunch lid (fun l => { l with gbars := l.gbars.map (fun e => (e.1, e.2.settle)), cbars := l.cbars.map (fun e => (e.1, e.2.settle)) })
  else here.foldl (fun s e => (clusterBars ++ gridBars).foldl (fun s b => s.checkPhase e.1 0 b) s) s

/-- Two stamps merged, entry by entry (R119). -/
def joinStamp (a b : List Word) : List Word := if a.isEmpty then b else List.zipWith serialMax a b

/-- INSNS of a workgroup that was told of its sibling's cancellation joins the sibling's count (R216). -/
def State.addInsns (s : State) (l : Launch) (w : Workgroup) : State :=
  match s.groupOf l, w.tile with
  | some (k, g), some n => if w.told then
      { s with groups := kvPut s.groups k { g with sibs := ((List.range g.sibs.length).zip g.sibs).map (fun p =>
        if p.1 = l.hdr.sibOf n then { p.2 with insns := p.2.insns + w.insns } else p.2) } }
    else s
  | _, _ => s

/-- A launch that a context fault has ended is gone with the last of its workgroups. -/
def State.forget (s : State) (lid : Nat) : State :=
  match s.launch? lid with
  | some l => if l.state = .done && !s.wgs.any (fun e => e.2.launch = lid) then { s with launches := kvDel s.launches lid } else s
  | none => s

/-- The core returns to the launch's mask (R34), and hosts no further workgroup of it but a saved one that regrowth brings (R177): it
leaves the mask and is free. -/
def State.coreReturns (s : State) (core : Nat) (w : Workgroup) : State :=
  let s : State := { s with wgs := kvDel s.wgs core, loads := s.loads.filter (fun x => x.core ≠ core) }
  let s : State := match w.stopping, s.launch? w.launch with
    | some (_, some k), some l => s.modContext l.ctx (fun c => { c with slots := c.slots.erase k })
    | _, _ => s
  (s.modLaunch w.launch (fun l => { l with mask := l.mask.erase core })).forget w.launch

/-- Does a RED of the core still wait at a fault in its write path (R195)? -/
def State.heldRed (s : State) (core : Nat) : Bool := s.wpath.any (fun w => w.core = core && w.held)

/-- The workgroup ends once no thread lives (R34). Its core returns once its engine commands have completed, and once no RED that
finds no replay buffer waits in its write path (R195). What else its threads have issued goes on without it: stores, arrivals,
posts and pushes. -/
def State.endWorkgroup (s : State) (core : Nat) : State :=
  match s.wg? core with
  | none => s
  | some w =>
    if w.ended then
      let s : State := if w.cmds.isEmpty && !s.heldRed core then s.coreReturns core w else s
      (s.siblingsQuiet w.launch).heirClose w.launch
    else s

/-- Has a post left its core: is its own release, a fence under its number, complete (R321)? -/
def State.postLeft (s : State) (p : Post) : Bool := !s.fences.any (fun f => f.id = p.id)

/-- Stop the whole workgroup at a cancellation point (R213): its threads leave the barriers as exited threads do and
their marks do not settle; the core returns once its commands have completed. A post whose release is not complete has not left and
goes with it (R210). INSNS joins its sibling's count. -/
def State.cancelStop (s : State) (core : Nat) : State :=
  match s.wg? core, s.wgLaunch? core with
  | some w, some l =>
    let ths := w.threads
    let nbins := (w.bins.map (fun b => b.threads.length)).sum
    let s : State := s.addInsns l w
    let s : State := ths.foldl (fun s e =>
      (wgBars ++ (if l.hdr.cluster then clusterBars else []) ++ gridBars).foldl (fun s k => s.lessMember core e.1 k) s) s
    let s : State := (List.range nbins).foldl (fun s _ =>
      (wgBars ++ (if l.hdr.cluster then clusterBars else []) ++ gridBars).foldl (fun s k => s.lessMember core 0 k) s) s
    let mine := w.teams.map (fun e => e.2.uid)
    let s : State := { s with arrivals := s.arrivals.filter (fun x => !mine.contains x.uid)
                              posts := s.posts.filter (fun x => !mine.contains x.uid || (x.hash.isSome && s.postLeft x))
                              fences := s.fences.filter (fun x => !mine.contains x.uid)
                              loads := s.loads.filter (fun x => x.core ≠ core)
                              qops := s.qops.filter (fun x => !mine.contains x.uid || x.op = 0) }
    let s : State := s.modWg core (fun w =>
      { w with teams := w.teams.map (fun e => (e.1, { e.2 with lanes := [], order := [] })), bins := [], tile := none
               cancelled := true, tfArrived := [] })
    s.endWorkgroup core
  | _, _ => s

/-! ### TFETCH -/

/-- Steps 1 to 3 of R33 once every live thread has arrived: settle, stop if cancelled, request a tile and serve the
claims. A workgroup that is being stopped, or is to be, waits (R175). -/
def State.tfetchCheck (s : State) (core : Nat) : State :=
  match s.wg? core, s.wgLaunch? core with
  | some w, some l =>
    if !w.tfArrived.isEmpty && w.tfTile.isNone && w.stopping.isNone && w.bins.isEmpty && !s.commanded core
        && w.threads.all (fun e => w.tfArrived.contains e.2.2.tid) then
      let s : State := w.threads.foldl (fun s e => s.endItem core l e.2.2) s
      let s : State := s.modWg core (fun w => { w with
        teams := w.teams.map (fun e => (e.1, { e.2 with lanes := e.2.lanes.map (fun x =>
          (x.1, { x.2 with hasItem := false, mark := (0, 0) })) })) })
      if w.told then s.cancelStop core
      else
        let tile := if w.threads.any (fun e => e.2.2.hasItem) then s.dispense l core else none
        let s : State := s.modWg core (fun w => { w with tfTile := some tile, tile := none })
        match tile with
        | none => s.siblingsQuiet w.launch
        | some n =>
          let s : State := s.modLaunch w.launch (fun x => { x with handed := x.handed ++ [n] })
          let s : State := s.modWg core (fun w => { w with tile := some n })
          let s : State := s.claimTile l core n (w.threads.map (fun e => (e.1, e.2.1)))
          s.siblingsQuiet w.launch
    else s
  | _, _ => s

/-- Threads of a workgroup that exit may complete what the others wait for (R33, R43). -/
def State.afterLeaving (s : State) (core team : Nat) : State :=
  ((s.joinTest core team).tfetchCheck core).endWorkgroup core

/-- Is it a matrix command, counted in MX (R72)? -/
def CmdKind.matrix : CmdKind → Bool
  | .mma => true
  | .aswap => true
  | .azero => true
  | .ald => true
  | .ast => true
  | _ => false

/-- Free the slots of teams with no thread (R338, R39); the accumulators of one whose matrix commands still run stay
until the workgroup ends (R34). -/
def State.freeTeams (s : State) (core : Nat) : State :=
  s.modWg core (fun w => { w with teams := w.teams.filter (fun e =>
    !e.2.lanes.isEmpty || w.cmds.any (fun c => c.team = e.1 && c.kind.matrix)) })

end Sys2Proof.Machine
end

