-- ==== Sys2Proof/WellFormed.lean ====
section
/-! DEFINITION. Well-formed instructions: the checks of the word itself that R280 makes at steps 1 and 3 (a prefix
that governs its successor, R277 to R279; a defined code, R285 to R291; a barrier number in its level's range,
R290; a fence kind, R123). An instruction that fails raises ILLEGAL_INSN. Register fields are checked at step 5
against the launch's allocation and are no part of this. -/

namespace Sys2Proof

/-- A condition code of the integer column of R285. -/
def intCondOk (c : BitVec 4) : Bool := c.toNat ≤ 9

/-- A condition code FCMP accepts (R285, R342). -/
def fpCondOk (c : BitVec 4) : Bool := c.toNat ≤ 12

/-- A conversion code of FCVT (R286, R343). -/
def fcvtCodeOk (x : BitVec 7) : Bool := x.toNat ≤ 0x0E && x.toNat != 0x07

/-- A conversion code of DCVT (R286, R336). -/
def dcvtCodeOk (x : BitVec 7) : Bool := 0x10 ≤ x.toNat && x.toNat ≤ 0x13

/-- A selector SREAD accepts (R291). -/
def sreadSelOk (e : BitVec 7) : Bool := e.toNat ≤ 0x18

/-- A selector SSR accepts: those marked "yes" in R291. -/
def ssrSelOk (e : BitVec 7) : Bool :=
  [0x00, 0x02, 0x03, 0x06, 0x07, 0x08, 0x09, 0x0A, 0x0B, 0x0C, 0x0D, 0x0E, 0x10, 0x15, 0x16].contains e.toNat

/-- Is the barrier number in its level's range (R290)? -/
def barNumOk (lvl : BitVec 2) (n : BitVec 5) : Bool :=
  match lvl.toNat with
  | 0 => n.toNat ≤ 7
  | 1 => n.toNat ≤ 15
  | 2 => n.toNat ≤ 7
  | _ => n.toNat ≤ 3

/-- A pattern byte of R244 and R279: kind in [7:5], amount in [4:0]. -/
def patByteOk (p : BitVec 8) : Bool :=
  let amount := p.toNat % 32
  match p.toNat / 32 with
  | 0 => amount = 0
  | 2 => amount = 0
  | 5 => amount ≤ 7
  | 6 => amount ≤ 7
  | 7 => false
  | _ => true

/-- The set and group of a word, bits [31:26] (R267). -/
def setGroup (w : Word) : Nat := w.toNat / 67108864

/-- May an EXT with this immediate govern the word (R277, R279)? -/
def extGoverns (imm : BitVec 25) (w : Word) : Bool :=
  (setGroup w = 0x10 && imm.toNat < 65536) || (0x12 ≤ setGroup w && setGroup w ≤ 0x15)

/-- Is operand b of the word a lane register, so that a pattern byte for it may be nonzero (R278)? -/
def patBAllowed (w : Word) : Bool :=
  let f := w.toNat % 4
  match setGroup w with
  | 0x05 => f = 3
  | 0x06 => f ≠ 3
  | 0x08 => f < 2
  | 0x0B => f ≠ 3
  | _ => true

/-- May a PAT with these bytes govern the word (R278, R279)? -/
def patGoverns (pa pb : BitVec 8) (w : Word) : Bool :=
  setGroup w ≤ 0x0B && patByteOk pa && patByteOk pb && (pb = 0 || patBAllowed w)

/-- The checks of steps 1 and 3 of R280 that the instruction's own fields decide. -/
def Instr.wf : Instr → Bool
  | .icmp _ c _ _ _ => intCondOk c
  | .scmp _ c _ _ _ => intCondOk c
  | .waitm _ c _ _ => intCondOk c
  | .fcmp _ c _ _ _ => fpCondOk c
  | .frnd _ _ _ code => code.toNat ≤ 4
  | .fcvt _ _ _ code => fcvtCodeOk code
  | .dcvt _ _ _ code => dcvtCodeOk code
  | .vnbr _ _ _ code => code.toNat ≤ 1
  | .vscan _ _ _ code => code.toNat ≤ 5
  | .vred _ _ _ code => code.toNat ≤ 5
  | .vvote _ _ _ code => code.toNat ≤ 2
  | .sfq _ _ _ code => code.toNat ≤ 7
  | .sread _ _ e => sreadSelOk e
  | .ssr _ _ e => ssrSelOk e
  | .heirq _ _ b => b.toNat < 8
  | .vqnsE2m1 _ d _ b => d ≠ b
  | .vqnsI4h _ d _ b => d ≠ b
  | .vqnsI8h _ d _ b => d ≠ b
  | .barSync _ l n => barNumOk l n
  | .barArv _ l n => barNumOk l n
  | .barWait _ l n => barNumOk l n
  | .barQry _ l n _ => barNumOk l n
  | .fence _ _ k => k.toNat ≠ 3
  | .ext imm w => extGoverns imm w
  | .pat a b w => patGoverns a b w
  | _ => true

end Sys2Proof
end

