-- ==== Sys2Proof/Machine/Ops.lean ====
section
/-! DEFINITION. The issue of a unit (02, R36 to R38; 09, R186), the order of checks (18, R280), taking a trap (09, R181
to R184) and leaving a handler (R185), and the outcome of a step. -/

namespace Sys2Proof.Machine

/-- The outcome of a meaning some of whose accesses may meet a place where no memory is: the next state, unless one did
(log 4, DESIGN CHOICE). -/
def finish (s : State) : Host.Outcome State Fault Refusal :=
  match s.stop with
  | some f => .fault f
  | none => .next s

/-- The outcome of an access at one place: a fault where the part has no memory there (log 4, DESIGN CHOICE). -/
def accessing (s : State) (key : Nat) (t : State) : Host.Outcome State Fault Refusal :=
  if memExists s.part key then .next t else .fault (.noSuchMemory key)

/-! ### The unit under way -/

/-- The first address after the unit: two words where it has a prefix (R186, R267). -/
def Issue.next (i : Issue) : PC := match i.pfx with | .none => i.pc + 4 | _ => i.pc + 8

/-- The address of the unit's last word, from which a branch counts (R268). No prefix governs a branch. -/
def State.nextPc (s : State) : PC := s.cur.next

def Pfx.isPrefix : Pfx → Bool
  | .none => false
  | _ => true

/-- The lanes of the issuing subset. -/
def State.subset (s : State) : List Nat := lanesOf s.cur.lanes

/-- A team with nothing in it, for what reads a team where none stands. -/
def Team.empty : Team := ⟨0, [], 0, 0, [], [], [], [], [], 0, 0, 0, 0, 0, [], [], [], none, []⟩

/-- A thread with nothing in it. -/
def Thread.empty : Thread := ⟨0, [], 0, 0, [], 0, 0, 0, false, 0, [], (0, 0), false, 0, 0, 0, [], .ready, [], none⟩

/-- The team that issues, and its thread in a lane. -/
def State.team (s : State) : Team := (s.team? s.cur.core s.cur.team).getD Team.empty
def State.lane (s : State) (l : Nat) : Thread := (kvGet s.team.lanes l).getD Thread.empty

/-- The lanes of the subset whose guard holds (R271). -/
def State.guarded (s : State) (g : BitVec 3) : List Nat := s.subset.filter (fun l => (s.lane l).p g.toNat)

/-- The team's guard (R271). -/
def State.guardU (s : State) (g : BitVec 3) : Bool := s.team.q g.toNat

/-- Change threads of the issuing team. -/
def State.onLanes (s : State) (ls : List Nat) (f : Nat → Thread → Thread) : State :=
  s.modLanes s.cur.core s.cur.team ls f

/-- Change the issuing team. -/
def State.onTeam (s : State) (f : Team → Team) : State := s.modTeam s.cur.core s.cur.team f

/-- Every thread of the subset moves on to the next unit (R37). -/
def State.advance (s : State) : State :=
  s.onLanes s.subset (fun _ t => { t with pc := s.cur.next, wait := .ready })

/-- Sort addresses ascending. -/
def insertPc (p : PC) : List PC → List PC
  | [] => [p]
  | q :: r => if p.toNat < q.toNat then p :: q :: r else if p = q then q :: r else q :: insertPc p r
def sortPcs (l : List PC) : List PC := l.foldr insertPc []

/-- The grouping stage's entries after an issue at `gone`, or after another step: entries keep their order; new PCs
make new entries, ascending (R36). -/
def Team.regroup (t : Team) (gone : Option PC) : Team :=
  let here := t.lanes.map (fun l => l.2.pc)
  let old := match gone with | some p => t.order.filter (· ≠ p) | none => t.order
  let keep := old.filter (fun p => here.contains p)
  { t with order := keep ++ sortPcs (here.filter (fun p => !keep.contains p)) }

/-- Is the thread held at a unit that it has not issued (R195, R74)? -/
def Wait.held : Wait → Bool
  | .walk _ => true
  | .fault _ => true
  | .guard _ => true
  | _ => false

/-- Has the unit under way issued in some thread: are not all of the subset held at it? -/
def State.issued (s : State) : Bool := s.subset.any (fun l => !(s.lane l).wait.held)

/-- Close an issue: the entry is removed and the subset's new PCs join or create entries (R36, R37). Threads held at the unit by a
walk or a fault stand in an entry created then, the youngest: R36 keeps no place for them (log 43, DESIGN CHOICE). The issue
counts in INSNS where the workgroup has been told that its sibling is cancelled, unless the unit was only held (R216). -/
def State.endIssue (s : State) : State :=
  let n : Word := if s.issued then 1 else 0
  let s : State := s.onTeam (fun t => t.regroup (some s.cur.pc))
  s.modWg s.cur.core (fun w => if w.told then { w with insns := w.insns + n } else w)

/-- Bring every team's entries of a core up to date after a step that is no issue. -/
def State.regroupCore (s : State) (core : Nat) : State :=
  s.modWg core (fun w => { w with teams := w.teams.map (fun e => (e.1, e.2.regroup none)) })

/-! ### Traps -/

/-- TCAUSE (R183). -/
def tcause (code : Nat) (pfx unif write deferred : Bool) : Word :=
  BitVec.ofNat 32 (code + (if pfx then 256 else 0) + (if unif then 512 else 0) + (if write then 1024 else 0)
    + (if deferred then 2048 else 0))

/-- Take a precise trap (R184): the thread enters its handler, or its context faults where it has none or is in it. -/
def State.takeTrap (s : State) (core team lane code : Nat) (tval cause : Word) (tpc : PC) : State :=
  match s.thread? core team lane with
  | none => s
  | some t =>
    let h := s.hdr core
    if h.handler = 0 || t.inHandler then s.coreFault core 0x25 code tpc.toNat 0 0 false
    else s.modThread core team lane (fun t =>
      { t with tpc := tpc, tcause := cause, tval := tval, inHandler := true, pc := BitVec.ofNat 57 h.handler.toNat
               wait := .ready })

/-- A trap of the unit under way in some lanes; `next` puts TPC at the next unit (R181). -/
def State.trapLanes (s : State) (ls : List Nat) (code : Nat) (tval : Word) (unif write next : Bool) : State :=
  let cause := tcause code s.cur.pfx.isPrefix unif write false
  let tpc := if next then s.cur.next else s.cur.pc
  ls.foldl (fun s l => s.takeTrap s.cur.core s.cur.team l code tval cause tpc) s

/-- The same trap with a TVAL of each lane's own. -/
def State.trapEach (s : State) (ls : List (Nat × Word)) (code : Nat) (unif write : Bool) : State :=
  let cause := tcause code s.cur.pfx.isPrefix unif write false
  ls.foldl (fun s p => s.takeTrap s.cur.core s.cur.team p.1 code p.2 cause s.cur.pc) s

/-- RETT's effect on a thread whose checks have passed (R380). -/
def Thread.leaveHandler (t : Thread) (target : PC) : Thread := { t with inHandler := false, pc := target, wait := .ready }

/-! ### Register fields (R272, R273) -/

/-- The first failing field, as TVAL holds it: its value and its place (0 d, 1 a, 2 b, 3 sb, 4 ACC). -/
def firstBad : List (Bool × Nat × Nat) → Option Word
  | [] => none
  | (ok, place, v) :: r => if ok then firstBad r else some (BitVec.ofNat 32 (v + place * 256))

def vOk (alloc : Nat) (x : BitVec 7) : Bool := x.toNat < alloc
def v2Ok (alloc : Nat) (x : BitVec 7) : Bool := x.toNat % 2 = 0 && x.toNat + 1 < alloc
def v4Ok (alloc : Nat) (x : BitVec 7) : Bool := x.toNat % 2 = 0 && x.toNat + 3 < alloc
def sOk (x : BitVec 7) : Bool := x.toNat < 96
def s2Ok (x : BitVec 7) : Bool := x.toNat % 2 = 0 && x.toNat ≤ 94
/-- sb is of kind S2, or 127 for no base. -/
def sbOk (x : BitVec 7) : Bool := x.toNat = 127 || s2Ok x

def State.curAlloc (s : State) : Nat := s.alloc s.cur.core

/-! ### The order of checks (R280) -/

/-- Steps 2 to 6 of R280 for a lane instruction: the guard has chosen the lanes `gl`; then the word's own checks, an
absent unit, the register fields, privilege; then the body, whose subset has already moved on to the next unit. -/
def State.laneUnit (s : State) (i : Instr) (gl : List Nat) (absent : Bool) (bad : Option Word) (priv : Bool)
    (body : State → State) : State :=
  let s : State := s.advance
  let s : State :=
    if !i.wf then s.trapLanes gl 0x01 i.word false false false
    else if absent then s.trapLanes gl 0x07 i.word false false false
    else match bad with
      | some v => s.trapLanes gl 0x02 v false false false
      | none => if priv then s.trapLanes gl 0x08 i.word false false false else body s
  s.endIssue

/-- The same for a uniform instruction: a failing check traps the whole subset, and a false guard does nothing
(R182). -/
def State.unifUnit (s : State) (i : Instr) (guard : Bool) (bad : Option Word) (priv : Bool) (body : State → State) :
    State :=
  let ls := s.subset
  let s : State := s.advance
  let s : State :=
    if !guard then s
    else if !i.wf then s.trapLanes ls 0x01 i.word true false false
    else match bad with
      | some v => s.trapLanes ls 0x02 v true false false
      | none => if priv then s.trapLanes ls 0x08 i.word true false false else body s
  s.endIssue

/-- A prefix that may not govern what follows it (R279): every thread of the subset traps at the prefix. -/
def State.badPrefix (s : State) (w : Word) : State :=
  let ls := s.subset
  let s : State := { s with cur := { s.cur with pfx := .none } }
  let s : State := s.advance
  let cause := tcause 0x01 true false false false
  let tpc := s.cur.pc
  (ls.foldl (fun s l => s.takeTrap s.cur.core s.cur.team l 0x01 w cause tpc) s).endIssue

/-- A word that is no instruction (R280 step 3): the threads that its bits [25:23] guard trap; words of the formats
with no guard field trap every thread (R271). -/
def State.illegalWord (s : State) (w : Word) : State :=
  let g : BitVec 3 := BitVec.ofNat 3 (w.toNat / 8388608)
  let grp := setGroup w
  if grp = 0x1F then s.badPrefix w
  else if 32 ≤ grp then
    let ls := s.subset
    let ok := s.guardU g
    let s : State := s.advance
    (if ok then s.trapLanes ls 0x01 w true false false else s).endIssue
  else
    let ls := if 0x16 ≤ grp && grp ≤ 0x19 then s.subset else s.guarded g
    let s : State := s.advance
    (s.trapLanes ls 0x01 w false false false).endIssue

/-! ### Control transfers (R268) -/

/-- The check of a target: none, or the trap code it raises. -/
def targetTrap (x : DWord) : Option Nat :=
  if x.toNat % 4 ≠ 0 then some 0x03
  else if nbits x.toNat 63 57 ≠ 0 || nbits x.toNat 56 48 = 0x1FF then some 0x04
  else none

/-- The target of BRA, CALL and SBRA: the branch word's address plus four times the signed offset. -/
def branchTarget (pc : PC) (off : BitVec 23) : DWord := BitVec.ofInt 64 ((pc.toNat : Int) + 4 * off.toInt)

/-! ### Operation counters (R73, R88) -/

/-- A counter is full at 63 (R73). -/
def counterFull (l : List OpTok) : Bool := 63 ≤ l.length

/-- Count one issue in LD or ST under a fresh token. -/
def State.countLd (s : State) : State := (s.onTeam (fun t => { t with ld := t.ld ++ [⟨s.nextSeq, false⟩] })).bump
def State.countSt (s : State) : State :=
  (s.onTeam (fun t => { t with st := t.st ++ [⟨s.nextSeq, false⟩], stCount := t.stCount + 1 })).bump

/-- Hold threads of the subset at the unit (R195): they have not issued. -/
def State.hold (s : State) (ls : List Nat) (w : Wait) : State :=
  s.onLanes ls (fun _ t => { t with pc := s.cur.pc, wait := w })

end Sys2Proof.Machine
end

