-- ==== Sys2Proof/Machine/Operands.lean ====
section
/-! DEFINITION. The operand forms: lane sources with patterns (12, R244; 21, R368), the register checks of each form,
the addresses of R276, and the making of lane and uniform accesses (R182, R195, R359, R396, R402). -/

namespace Sys2Proof.Machine

/-! ### Lane sources -/

/-- The source lane of a pattern byte for W = 64, so B = 32 (R244). -/
def patLane (p : BitVec 8) (l : Nat) : Nat :=
  let n := p.toNat % 32
  let base := l - l % 32
  match p.toNat / 32 with
  | 1 => base + (l % 32 + n) % 32
  | 2 => base + 31 - l % 32
  | 3 => base + Nat.xor (l % 32) n
  | 4 => base + n
  | 5 => l - l % 8 + (l % 8 + n) % 8
  | 6 => l - l % 8 + n
  | _ => l

/-- The pattern bytes of the unit, and its EXT offset (R276, R278). -/
def Issue.patA (i : Issue) : BitVec 8 := match i.pfx with | .pat a _ => a | _ => 0
def Issue.patB (i : Issue) : BitVec 8 := match i.pfx with | .pat _ b => b | _ => 0
def Issue.extOff (i : Issue) : DWord := match i.pfx with | .ext imm => imm.signExtend 64 | _ => 0

/-- The thread of the issuing team whose register a pattern selects; where the lane holds none, every register reads
0 (R368). -/
def State.srcThread (s : State) (l : Nat) (p : BitVec 8) : Thread :=
  (kvGet s.team.lanes (patLane p l)).getD Thread.empty

/-- `lane_src` for operands a and b, one register or a pair. -/
def State.srcA (s : State) (l : Nat) (r : BitVec 7) : Word := (s.srcThread l s.cur.patA).v r.toNat
def State.srcB (s : State) (l : Nat) (r : BitVec 7) : Word := (s.srcThread l s.cur.patB).v r.toNat
def State.srcA2 (s : State) (l : Nat) (r : BitVec 7) : DWord := (s.srcThread l s.cur.patA).v2 r.toNat
def State.srcB2 (s : State) (l : Nat) (r : BitVec 7) : DWord := (s.srcThread l s.cur.patB).v2 r.toNat

/-! ### Register checks by form (R272, R273) -/

def bad1 (al : Nat) (d : BitVec 7) : Option Word := firstBad [(vOk al d, 0, d.toNat)]
def bad2 (al : Nat) (d a : BitVec 7) : Option Word := firstBad [(vOk al d, 0, d.toNat), (vOk al a, 1, a.toNat)]
def bad3 (al : Nat) (d a b : BitVec 7) : Option Word :=
  firstBad [(vOk al d, 0, d.toNat), (vOk al a, 1, a.toNat), (vOk al b, 2, b.toNat)]
def badPair3 (al : Nat) (d a b : BitVec 7) : Option Word :=
  firstBad [(v2Ok al d, 0, d.toNat), (v2Ok al a, 1, a.toNat), (v2Ok al b, 2, b.toNat)]
def badS1 (d : BitVec 7) : Option Word := firstBad [(sOk d, 0, d.toNat)]
def badS2 (d a : BitVec 7) : Option Word := firstBad [(sOk d, 0, d.toNat), (sOk a, 1, a.toNat)]
def badS3 (d a b : BitVec 7) : Option Word :=
  firstBad [(sOk d, 0, d.toNat), (sOk a, 1, a.toNat), (sOk b, 2, b.toNat)]

/-- A check of a word with a kind of its own: none of d; a of kind V2 where there is no base. -/
def lmAOk (al : Nat) (a sb : BitVec 7) : Bool := if sb.toNat = 127 then v2Ok al a else vOk al a

/-- The LM form: d by its own check, a, and sb. -/
def badLm (al : Nat) (dOk : Bool) (d a sb : BitVec 7) : Option Word :=
  firstBad [(dOk, 0, d.toNat), (lmAOk al a sb, 1, a.toNat), (sbOk sb, 3, sb.toNat)]

/-! ### Families of one shape -/

/-- OR flags into the team's MODE (R55). -/
def State.raise (s : State) (f : FlagSet) : State := s.onTeam (fun t => { t with mode := t.mode ||| f })

/-- A lane function that writes each thread of `gl` by itself. -/
def State.laneSet (s : State) (i : Instr) (gl : List Nat) (absent : Bool) (bad : Option Word)
    (f : State → Nat → Thread → Thread) : State :=
  s.laneUnit i gl absent bad false (fun s => s.onLanes gl (f s))

/-- v[d] := f x y z, with x and y from `lane_src` and z the old v[d] (R349, R298, R393). -/
def State.laneOp (s : State) (i : Instr) (g : BitVec 3) (d a b : BitVec 7) (f : Word → Word → Word → Word) : State :=
  s.laneSet i (s.guarded g) false (bad3 s.curAlloc d a b)
    (fun s l t => t.setV d.toNat (f (s.srcA l a) (s.srcB l b) (t.v d.toNat)))

/-- v[d] := f x for a word whose b is no register. -/
def State.laneOp1 (s : State) (i : Instr) (g : BitVec 3) (d a : BitVec 7) (f : Word → Word) : State :=
  s.laneSet i (s.guarded g) false (bad2 s.curAlloc d a) (fun s l t => t.setV d.toNat (f (s.srcA l a)))

/-- A lane function of floating point: it gives each thread's new registers and its flags, which are ORed into MODE
(R55, R57). -/
def State.laneFp (s : State) (i : Instr) (gl : List Nat) (absent : Bool) (bad : Option Word)
    (f : State → BitVec 9 → Nat → Thread → Thread × FlagSet) : State :=
  s.laneUnit i gl absent bad false (fun s =>
    let m := s.team.mode
    let fl := gl.foldl (fun x l => x ||| (f s m l (s.lane l)).2) 0
    (s.onLanes gl (fun l t => (f s m l t).1)).raise fl)

/-- v[d] := r with flags, over x, y and the old v[d] (R341). -/
def State.laneFp3 (s : State) (i : Instr) (g : BitVec 3) (d a b : BitVec 7)
    (f : BitVec 9 → Nat → Nat → Nat → Nat × FlagSet) : State :=
  s.laneFp i (s.guarded g) false (bad3 s.curAlloc d a b) (fun s m l t =>
    let r := f m (s.srcA l a).toNat (s.srcB l b).toNat (t.v d.toNat).toNat
    (t.setV d.toNat (BitVec.ofNat 32 r.1), r.2))

/-- The same per half of each register (R312, R348). -/
def State.lanePair3 (s : State) (i : Instr) (g : BitVec 3) (d a b : BitVec 7)
    (f : BitVec 9 → Nat → Nat → Nat → Nat × FlagSet) : State :=
  s.laneFp i (s.guarded g) false (bad3 s.curAlloc d a b) (fun s m l t =>
    let x := s.srcA l a
    let y := s.srcB l b
    let z := t.v d.toNat
    let r0 := f m (halfOf x 0) (halfOf y 0) (halfOf z 0)
    let r1 := f m (halfOf x 1) (halfOf y 1) (halfOf z 1)
    (t.setV d.toNat (ofHalves r0.1 r1.1), r0.2 ||| r1.2))

/-- The same on FP64 pairs (R335); the unit may be absent (R22). -/
def State.laneFp64 (s : State) (i : Instr) (g : BitVec 3) (d a b : BitVec 7)
    (f : BitVec 9 → Nat → Nat → Nat → Nat × FlagSet) : State :=
  s.laneFp i (s.guarded g) (!hasFp64 s.part s.cur.core) (badPair3 s.curAlloc d a b) (fun s m l t =>
    let r := f m (s.srcA2 l a).toNat (s.srcB2 l b).toNat (t.v2 d.toNat).toNat
    (t.setV2 d.toNat (BitVec.ofNat 64 r.1), r.2))

/-- p[n] := f per thread, with flags (R342, R352). -/
def State.lanePred (s : State) (i : Instr) (g : BitVec 3) (bad : Option Word) (n : BitVec 3)
    (f : State → BitVec 9 → Nat → Thread → Bool × FlagSet) : State :=
  s.laneFp i (s.guarded g) false bad (fun s m l t => let r := f s m l t; (t.setP n.toNat r.1, r.2))

/-- A uniform function of the team alone (R382). -/
def State.unifSet (s : State) (i : Instr) (guard : Bool) (bad : Option Word) (f : Team → Team) : State :=
  s.unifUnit i guard bad false (fun s => s.onTeam f)

/-- s[d] := f x y (R382). -/
def State.unifOp (s : State) (i : Instr) (g : BitVec 3) (d a b : BitVec 7) (f : Word → Word → Word) : State :=
  s.unifSet i (s.guardU g) (badS3 d a b) (fun t => t.setSr d.toNat (f (t.sr a.toNat) (t.sr b.toNat)))

/-- q[d] := f q[a] q[b] (R371). -/
def State.unifPred (s : State) (i : Instr) (g d a b : BitVec 3) (f : Bool → Bool → Bool) : State :=
  s.unifSet i (s.guardU g) none (fun t => t.setQ d.toNat (f (t.q a.toNat) (t.q b.toNat)))

/-! ### Addresses (R276) -/

def State.lmAddr (s : State) (l : Nat) (a sb : BitVec 7) : DWord :=
  (if sb.toNat = 127 then (s.lane l).v2 a.toNat
   else s.team.sr2 sb.toNat + ((s.lane l).v a.toNat).zeroExtend 64) + s.cur.extOff

def State.ulAddr (s : State) (a imm : BitVec 7) : DWord := s.team.sr2 a.toNat + imm.signExtend 64 * 8

/-! ### Accesses of lanes -/

/-- The miss of an access of the unit under way. -/
def State.missOf (s : State) (addr : DWord) (write unif : Bool) : Miss :=
  ⟨s.ctxOf s.cur.core, addr, write, false, unif, false, s.cur.pfx.isPrefix⟩

/-- One lane's access: a failing check traps the thread (R182), a page that no TLB holds or a fault holds it at the unit
(R193, R195); else `go` makes the access at its place. A RED that faults is not held: `go` gets no place (R195). -/
def State.laneAccess (s : State) (l : Nat) (addr : DWord) (n : Nat) (write red : Bool)
    (go : State → Thread → Except Nat Nat → State) : State :=
  match s.thread? s.cur.core s.cur.team l with
  | none => s
  | some t =>
    if addr.toNat % n ≠ 0 then s.trapEach [(l, loWord addr)] 0x03 false write
    else match s.place s.cur.core addr n with
      | .invalid => s.trapEach [(l, loWord addr)] 0x04 false write
      | .window key => go s t (.ok key)
      | .virt va =>
        let m := s.missOf addr write false
        let r := if red then s.translateNow s.cur.core m.ctx va true false
                 else s.translate s.cur.core m.ctx va write false
        match r with
        | .ok key => go s t (.ok key)
        | .sealed => s.trapEach [(l, loWord addr)] 0x06 false write
        | .refused => s.firewallFault s.cur.core va none
        | .miss => (s.needWalk s.cur.core m.ctx va).hold [l] (.walk m)
        | .fault k =>
          if red then go s t (.error k)
          else (s.newFault (.threads s.cur.core) k m s.cur.core).hold [l] (.fault s.nextSeq)

/-- Put a load or returning atomic in flight for an agent of the issuing team (R113). -/
def State.addLoad (s : State) (agent key n scope tok : Nat) (dst : LoadDst) (va : DWord) : State :=
  { s.bump with loads := s.loads ++
    [⟨s.nextSeq, s.cur.core, s.cur.team, s.team.uid, agent, key, n, scope, dst, tok, va⟩] }

/-- Put a store or RED in an agent's pending-store buffer (R113). `n` is the place of its bytes. -/
def State.addStore (s : State) (agent key : Nat) (data : List Byte) (red : Option (Nat × Nat)) (tok : Nat) (va : DWord) :
    State :=
  let launch := ((s.wg? s.cur.core).map (·.launch)).getD 0
  let w : WEntry := ⟨s.nextSeq, s.cur.core, agent, .team launch s.team.uid tok (s.team.stCount + 1), key, data, red,
    some (s.ctxOf s.cur.core), va, false⟩
  let s : State := s.bump.track w
  { s with stbuf := s.stbuf ++ [w] }

/-- A RED that faulted waits in the core's write path, at no place yet, and its fault is recorded (R195). -/
def State.addHeldRed (s : State) (agent : Nat) (data : List Byte) (red : Option (Nat × Nat)) (tok : Nat) (va : DWord)
    (kind : Nat) : State :=
  let launch := ((s.wg? s.cur.core).map (·.launch)).getD 0
  let w : WEntry := ⟨s.nextSeq, s.cur.core, agent, .team launch s.team.uid tok (s.team.stCount + 1),
    keyOf 9 (8 * s.nextSeq), data, red, some (s.ctxOf s.cur.core), va, true⟩
  let m := s.missOf va true false
  let s : State := s.bump.track w
  let s : State := { s with wpath := s.wpath ++ [w] }
  s.newFault (.red w.id) kind m s.cur.core

/-- One issue counts once in LD if any of its threads made its access: there were `n` loads before (R88). -/
def State.ldIssued (s : State) (n tok : Nat) : State :=
  if n < s.loads.length then s.onTeam (fun t => { t with ld := t.ld ++ [⟨tok, false⟩] }) else s

/-- The same in ST, and in the team's 64-bit count of stores: there were `n` writes before (R88, R134). -/
def State.stIssued (s : State) (n tok : Nat) : State :=
  if n < s.writes.length then
    s.onTeam (fun t => { t with st := t.st ++ [⟨tok, false⟩], stCount := t.stCount + 1 })
  else s

/-- The loads of the lanes `ls`, n bytes each (R359, R303, R331). -/
def State.laneLoads (s : State) (ls : List Nat) (addr : Nat → DWord) (n scope : Nat) (write : Bool) (dst : Nat → LoadDst) :
    State :=
  let tok := s.nextSeq
  (ls.foldl (fun s l => s.laneAccess l (addr l) n write false (fun s t k => match k with
    | .ok key => s.addLoad t.tid key n scope tok (dst l) (addr l)
    | .error _ => s)) s.bump).ldIssued s.loads.length tok

/-- The stores of the lanes `ls` (R402, R376). -/
def State.laneStores (s : State) (ls : List Nat) (addr : Nat → DWord) (data : Nat → List Byte) (n : Nat)
    (red : Option (Nat × Nat)) : State :=
  let tok := s.nextSeq
  (ls.foldl (fun s l => s.laneAccess l (addr l) n true red.isSome (fun s t k => match k with
    | .ok key => s.addStore t.tid key (data l) red tok (addr l)
    | .error kind => s.addHeldRed t.tid (data l) red tok (addr l) kind)) s.bump).stIssued s.writes.length tok

/-! ### Accesses of the team's uniform agent (R113, R396) -/

/-- A uniform access: its checks trap, and its misses hold, the whole subset (R182, R195). -/
def State.unifAccess (s : State) (addr : DWord) (n : Nat) (write : Bool) (go : State → Nat → State) : State :=
  if addr.toNat % n ≠ 0 then s.trapLanes s.subset 0x03 (loWord addr) true write false
  else match s.place s.cur.core addr n with
    | .invalid => s.trapLanes s.subset 0x04 (loWord addr) true write false
    | .window key => go s key
    | .virt va =>
      let m := s.missOf addr write true
      match s.translate s.cur.core m.ctx va write false with
      | .ok key => go s key
      | .sealed => s.trapLanes s.subset 0x06 (loWord addr) true write false
      | .refused => s.firewallFault s.cur.core va none
      | .miss => (s.needWalk s.cur.core m.ctx va).hold s.subset (.walk m)
      | .fault k => (s.newFault (.threads s.cur.core) k m s.cur.core).hold s.subset (.fault s.nextSeq)

/-- A uniform load at a place. -/
def State.unifLoad (s : State) (key n : Nat) (dst : LoadDst) (va : DWord) : State :=
  let tok := s.nextSeq
  (s.bump.addLoad s.team.uid key n 0 tok dst va).ldIssued s.loads.length tok

/-- A uniform store at a place. -/
def State.unifStore (s : State) (key : Nat) (data : List Byte) (va : DWord) : State :=
  let tok := s.nextSeq
  (s.bump.addStore s.team.uid key data none tok va).stIssued s.writes.length tok

/-! ### Prefetch (R370) -/

/-- PRF in one lane: it may ask for the line of another die that its address names, as a load does (R114, R117); whether it does is a
free choice, and an address that does not translate at once, or that the firewall refuses, asks for nothing. -/
def State.prefetch (s : State) (addr : DWord) : State :=
  match s.place s.cur.core addr 1 with
  | .virt va =>
    let ctx := s.ctxOf s.cur.core
    let die := coreDie s.cur.core
    (match s.translateNow s.cur.core ctx va false false with
    | .ok key =>
      let (take, s) := s.takeBit
      if take && isDevice key && memExists s.part key && s.firewallOk ctx key && !s.dieReadable die key then
        s.bump.sendRead die s.nextSeq (lineOf key)
      else s
    | _ => s)
  | _ => s

end Sys2Proof.Machine
end

