-- ==== Sys2Proof/Machine/Fetch.lean ====
section
/-! DEFINITION. The grouping stage (02, R35 to R37, R44, R45): fetching a unit (18, R267; 09, R186), when an entry is
ready, which entry issues, and the passing of cycles. -/

namespace Sys2Proof.Machine

/-! ### Fetch -/

/-- What fetching a word answers. -/
inductive FetchRes where
  | word (w : Word)
  | miss
  | fault (kind : Nat)
  /-- the address lies in the local windows, from which nothing is fetched (R267) -/
  | invalid
  /-- the firewall refuses the core the granule (R226) -/
  | refused
  /-- the part has no memory there (log 4, DESIGN CHOICE) -/
  | noMem (key : Nat)
  deriving DecidableEq, Repr

/-- Fetch a word, through translation only (R267); it is read at its home (log 17, DEDUCED). -/
def State.fetchWord (s : State) (core : Nat) (pc : PC) : FetchRes :=
  if nbits pc.toNat 56 48 = 0x1FF then .invalid
  else match s.translate core (s.ctxOf core) pc.toNat false false with
    | .ok key =>
      if !memExists s.part key then .noMem key
      else if !s.firewallOk (s.ctxOf core) key then .refused
      else .word (BitVec.ofNat 32 (ofBytes (s.crypt (s.ctxOf core) key (s.readBytes key 4))))
    | .miss => .miss
    | .fault k => .fault k
    | .sealed => .miss
    | .refused => .miss

/-- What fetching a unit answers: its word, and the word after it where it is a prefix (R186). -/
inductive FetchUnit where
  | unit (w0 w1 : Word)
  | miss (va : DWord)
  | fault (kind : Nat) (va : DWord)
  | invalid
  | refused (va : DWord)
  | noMem (key : Nat)
  deriving DecidableEq, Repr

def State.fetchUnit (s : State) (core : Nat) (pc : PC) : FetchUnit :=
  match s.fetchWord core pc with
  | .miss => .miss (pc.zeroExtend 64)
  | .fault k => .fault k (pc.zeroExtend 64)
  | .invalid => .invalid
  | .refused => .refused (pc.zeroExtend 64)
  | .noMem k => .noMem k
  | .word w0 =>
    if isPrefixWord w0.toNat then
      match s.fetchWord core (pc + 4) with
      | .miss => .miss ((pc + 4).zeroExtend 64)
      | .fault k => .fault k ((pc + 4).zeroExtend 64)
      | .invalid => .invalid
      | .refused => .refused ((pc + 4).zeroExtend 64)
      | .noMem k => .noMem k
      | .word w1 => .unit w0 w1
    else .unit w0 0

/-! ### Registers in use (R275, R360) -/

/-- How many registers an access of n bytes fills. -/
def regsFor (n : Nat) : Nat := if n ≤ 4 then 1 else n / 4

/-- The lane registers that a word's operands and destination name, as (register, count, operand), where the operand
is 1 for a, 2 for b and 0 for neither: the registers whose outstanding loads it waits for. An SFQ does not make its
destination wait (R91). -/
def laneRegs (w : Nat) : List (Nat × Nat × Nat) :=
  let d := fld w 16 7
  let a := fld w 9 7
  let b := fld w 2 7
  let f := fld w 0 2
  let dab := [(d, 1, 0), (a, 1, 1), (b, 1, 2)]
  let da := [(d, 1, 0), (a, 1, 1)]
  let lm := fun (n : Nat) => [(d, n, 0), (a, if b = 127 then 2 else 1, 0)]
  match fld w 26 6 with
  | 0x05 => if f = 3 then dab else da
  | 0x06 => if f = 0 then dab else if f = 3 then da else [(a, 1, 1), (b, 1, 2)]
  | 0x08 => if f < 2 then dab else da
  | 0x0B =>
    if f < 3 then [(d, 2, 0), (a, 2, 1), (b, 2, 2)]
    else [(d, if b = 0x10 || b = 0x12 then 2 else 1, 0), (a, if b = 0x10 || b = 0x12 then 1 else 2, 1)]
  | 0x0C => if f = 3 then [(d, 1, 0)] else [(d, 1, 0), (a, 1, 0)]
  | 0x0E => if f = 0 then da else if f = 1 then [(d, 1, 0)] else if f = 2 then [] else [(d, 3, 0)]
  | 0x0F => []
  | 0x10 => [(d, 1, 0)]
  | 0x11 => da
  | 0x12 => lm 1
  | 0x13 => if f = 1 then lm 2 else if f = 2 then lm 4 else if f = 0 then lm 1 else [(a, if b = 127 then 2 else 1, 0)]
  | 0x14 => if f = 3 then lm 2 else lm 1
  | 0x15 => lm 4
  | 0x16 => [(d, 1, 0), (a, 2, 0), (b, 1, 0)]
  | 0x17 => [(d, 1, 0), (a, 2, 0), (b, 1, 0)]
  | 0x18 => [(a, 2, 0), (b, 1, 0)]
  | 0x19 => if f = 0 then [(d, 1, 0), (a, 2, 0), (b, 1, 0)] else [(d, 2, 0), (a, 2, 0), (b, 2, 0)]
  | 0x1E => if fld w 19 4 = 1 then [(a, 2, 0)] else []
  | g => if g < 0x0E then dab else []

/-- The uniform registers that a word names, as (register, count). -/
def unifRegs (w : Nat) : List (Nat × Nat) :=
  let d := fld w 16 7
  let a := fld w 9 7
  let b := fld w 2 7
  let f := fld w 0 2
  match fld w 26 6 with
  | 0x12 => if b = 127 then [] else [(b, 2)]
  | 0x13 => if b = 127 then [] else [(b, 2)]
  | 0x14 => if b = 127 then [] else [(b, 2)]
  | 0x15 => if b = 127 then [] else [(b, 2)]
  | 0x20 => [(d, 1), (a, 1), (b, 1)]
  | 0x21 => [(d, 1), (a, 1), (b, 1)]
  | 0x22 => [(d, 1), (a, 1), (b, 1)]
  | 0x23 => if f = 0 then [(a, 1), (b, 1)] else if f = 1 then [(d, 1), (a, 1), (b, 1)]
            else if f = 2 then [(d, 1), (a, 1)] else [(d, 1)]
  | 0x24 => [(d, 1)]
  | 0x25 => [(d, 1), (a, 1)]
  | 0x26 => [(d, if f % 2 = 0 then 1 else 2), (a, 2)]
  | 0x29 => if f = 3 then [(a, 1)] else []
  | 0x2B => if f = 2 then [(a, 1)] else []
  | 0x2C => [(d, 1)]
  | 0x2D => [(d, 1)]
  | 0x2E => [(d, 1)]
  | 0x2F => if f = 2 then [(d, 1), (a, 1)] else if f = 3 then [] else [(d, 1), (b, 1)]
  | 0x30 => if f = 0 then [(d, 1), (a, 2), (b, 1)] else if f = 1 then [(d, 1)] else []
  | 0x31 => [(a, 2), (b, 1)]
  | 0x32 => [(d, 1), (a, if b % 2 = 0 then 2 else 1)]
  | 0x33 => if f = 1 then [(a, 1)] else []
  | _ => []

/-- Is lane register range [r, r + n) of a thread still to be written by a load or atomic in flight? -/
def State.laneBusy (s : State) (tid r n : Nat) : Bool :=
  s.loads.any (fun l => l.agent = tid && (match l.dst with
    | .lane d _ => rangesMeet d (regsFor l.n) r n
    | .atom d _ _ => rangesMeet d 1 r n
    | .cas d _ _ => rangesMeet d (regsFor l.n) r n
    | _ => false))

/-- The registers that a lane load, returning atomic or CAS writes: the first, and how many. -/
def loadDest (w : Nat) : Option (Nat × Nat) :=
  let d := fld w 16 7
  let f := fld w 0 2
  match fld w 26 6 with
  | 0x12 => some (d, 1)
  | 0x13 => if f = 0 then some (d, 1) else if f = 1 then some (d, 2) else if f = 2 then some (d, 4) else none
  | 0x16 => some (d, 1)
  | 0x17 => some (d, 1)
  | 0x19 => some (d, if f = 0 then 1 else 2)
  | _ => none

/-- The word that a unit executes: the second where the first is a prefix. -/
def governed (w0 w1 : Word) : Nat := if isPrefixWord w0.toNat then w1.toNat else w0.toNat

/-- Is lane register range [r, r + n) still to be written by an access of the thread that its team has issued and that a walk or a
fault holds at its unit (R195, R368)? -/
def State.laneHeld (s : State) (core : Nat) (th : Thread) (r n : Nat) : Bool :=
  (match th.wait with
    | .walk m => !m.fetch
    | .fault id => s.faults.any (fun f => f.id = id && !f.m.fetch)
    | .retry => true
    | _ => false)
  && (match s.fetchUnit core th.pc with
    | .unit w0 w1 => (match loadDest (governed w0 w1) with
      | some (d, k) => rangesMeet d k r n
      | none => false)
    | _ => false)

/-- Is uniform register range [r, r + n) of a team still to be written? -/
def State.unifBusy (s : State) (uid r n : Nat) : Bool :=
  s.loads.any (fun l => l.agent = uid && (match l.dst with
    | .unif d => rangesMeet d (regsFor l.n) r n
    | .awqry d => rangesMeet d 1 r n
    | _ => false))
  || s.posts.any (fun p => p.uid = uid && rangesMeet p.d 1 r n)
  || s.qops.any (fun q => q.uid = uid && q.op ≠ 0
      && ((2 ≤ q.op && rangesMeet q.d 1 r n) || ((!((kvGet s.hwqs q.q).map (·.long)).getD false) && rangesMeet q.a 2 r n)))

/-! ### When an entry is ready -/

/-- The threads of a team at a PC, by lane. -/
def Team.entry (t : Team) (pc : PC) : List (Nat × Thread) := t.lanes.filter (fun l => l.2.pc = pc)

/-- The window: the eight oldest entries (R37). -/
def Team.window (t : Team) : List PC := t.order.take 8

/-- Is a thread released from what it waits for? WAITC and SFWAIT are tested against the counters and the results
themselves (R421, R392). -/
def State.threadReady (s : State) (core : Nat) (t : Team) (th : Thread) : Bool :=
  match th.wait with
  | .ready => true
  | .retry => true
  | .waitc ld st cp mx =>
    (ld = 15 || t.ld.length ≤ ld) && (st = 15 || t.st.length ≤ st) && (cp = 15 || t.cp.length ≤ cp)
      && (mx = 15 || t.mx.length ≤ mx)
  | .sfwait nos => !s.sfqs.any (fun x => x.uid = t.uid && nos.contains x.no)
  | .guard key => s.dieReadable (coreDie core) key
  | _ => false

/-- Does the team have a store that has not been performed at its scratchpad or own-die home, nor sent (R73)? With
`scratchOnly`, one to a scratchpad (R373). -/
def State.storesPending (s : State) (uid : Nat) (scratchOnly : Bool) : Bool :=
  (s.stbuf ++ s.wpath ++ s.capath).any (fun w => (match w.owner with | .team _ u _ _ => u = uid | _ => false)
    && (!scratchOnly || isScratch w.key))

/-- The bin for a key, or whether one may be begun (R39). -/
def Workgroup.binFree (w : Workgroup) (core : Nat) (key : PC) : Bool :=
  w.bins.any (fun b => b.key = key) || w.bins.length < binsOf core

/-- The lane and uniform memory requests of a core that are outstanding: loads, and writes that have not left the core. -/
def State.requests (s : State) (core : Nat) : Nat :=
  (s.loads.filter (fun x => x.core = core)).length + ((s.stbuf ++ s.wpath ++ s.capath).filter (fun w => w.core = core)).length

/-- Does a lane or uniform memory instruction wait for one of the core's 1,024 outstanding requests, one for each thread's access (R19;
log 49, DESIGN CHOICE)? -/
def State.requestsFull (s : State) (core n : Nat) (w : Nat) : Bool :=
  [0x12, 0x13, 0x14, 0x15, 0x16, 0x17, 0x18, 0x19, 0x26, 0x2F].contains (fld w 26 6) && 1024 < s.requests core + n

/-- What stalls a unit beside its threads and operands: a full counter (R73), a token outstanding (R91), a command
not acceptable yet (R73, R125), REFORM's conditions (R39). REFORM also waits for an arrival of its threads that is not counted, which
would otherwise be counted in a team that its thread has left (R43; log 44, DEDUCED), and for a post or query of the team, whose register
a bin's source state takes (R40, R275). -/
def State.unitStalls (s : State) (core : Nat) (t : Team) (ths : List (Nat × Thread)) (next : PC) (w : Nat) : Bool :=
  let f := fld w 0 2
  let gn := fld w 23 3
  let gl := ths.any (fun l => l.2.p gn)
  let gu := t.q gn
  let ldFull := counterFull t.ld
  let stFull := counterFull t.st
  match fld w 26 6 with
  | 0x0E => f = 0 && s.sfqs.any (fun x => x.uid = t.uid && x.no % 16 = t.sfNo % 16)
  | 0x12 => gl && ldFull
  | 0x13 => gl && f ≠ 3 && ldFull
  | 0x14 => gl && stFull
  | 0x15 => gl && stFull
  | 0x16 => ldFull
  | 0x17 => ldFull
  | 0x18 => stFull
  | 0x19 => ldFull
  | 0x1D => gl && stFull && ths.any (fun l => 8 ≤ l.2.depth)
  | 0x1E =>
    if fld w 19 4 = 0 then gl && ldFull && ths.any (fun l => 9 ≤ l.2.depth)
    else if fld w 19 4 = 3 then
      gl && (s.hdr core).accs = 0
        && (!(t.ld.isEmpty && t.st.isEmpty && t.cp.isEmpty && t.mx.isEmpty)
          || s.sfqs.any (fun x => x.uid = t.uid)
          || s.arrivals.any (fun a => ths.any (fun l => a.agents.contains l.2.tid))
          || s.posts.any (fun p => p.uid = t.uid)
          || !((s.wg? core).map (fun g => g.binFree core next)).getD true)
    else false
  | 0x26 => gu && (if f < 2 then ldFull else stFull)
  | 0x2C => gu && (counterFull t.mx || s.storesPending t.uid false)
  | 0x2D => gu && (counterFull t.mx || s.storesPending t.uid false)
  | 0x2E => gu && (counterFull t.cp || s.storesPending t.uid false)
  | 0x2F => gu && ((f = 0 && stFull) || (f = 2 && ldFull))
  | 0x32 => gu && (if f = 0 then stFull || (fld w 2 1 = 1 && s.storesPending t.uid true) else ldFull)
  | _ => false

/-- Do the operands of a unit wait for loads in flight (R275)? A pattern's source lane counts (R368), and so does the
neighbour a VNBR reads (R417) and, where a work item ends, a marked register (R139). A source lane's load that is held at a walk or a
fault is outstanding too. -/
def State.operandsWait (s : State) (core : Nat) (t : Team) (ths : List (Nat × Thread)) (p : Pfx) (w : Nat) : Bool :=
  let i : Issue := ⟨0, 0, 0, 0, p⟩
  let grp := fld w 26 6
  let src := fun (l : Nat) (th : Thread) (o : Nat) =>
    if o = 1 then (kvGet t.lanes (patLane i.patA l)).getD th
    else if o = 2 then (kvGet t.lanes (patLane i.patB l)).getD th else th
  let vnbr := grp = 0x0C && fld w 0 2 = 0
  let ends := (grp = 0x1E && fld w 19 4 = 2) || (grp = 0x2F && fld w 0 2 = 3)
  (unifRegs w).any (fun r => s.unifBusy t.uid r.1 r.2)
  || ths.any (fun l =>
      (laneRegs w).any (fun r =>
        let th := src l.1 l.2 r.2.2
        s.laneBusy th.tid r.1 r.2.1 || (th.tid ≠ l.2.tid && s.laneHeld core th r.1 r.2.1))
      || (vnbr && (match kvGet t.lanes (if fld w 2 7 = 0 then l.1 - 1 else l.1 + 1) with
          | some n => s.laneBusy n.tid (fld w 9 7) 1 || s.laneHeld core n (fld w 9 7) 1
          | none => false))
      || (ends && l.2.hasItem && 0 < l.2.mark.2 && s.laneBusy l.2.tid l.2.mark.1 l.2.mark.2))

/-- The prefix that a first word gives (R277, R278). -/
def pfxOf (w0 : Nat) : Pfx :=
  if !isPrefixWord w0 then .none
  else if fld w0 25 1 = 0 then .ext (BitVec.ofNat 25 w0) else .pat (BitVec.ofNat 8 (w0 / 131072)) (BitVec.ofNat 8 (w0 / 512))

/-- Is the entry at a PC of a team ready for the lane or the uniform slot (R35, R36)? A thread that is to take a
deferred trap is ready for the lane slot. A QPOP under way deschedules its team (R132, R374). -/
def State.entryReady (s : State) (core : Nat) (t : Team) (pc : PC) (unif : Bool) : Bool :=
  let ths := t.entry pc
  !ths.isEmpty && ths.all (fun l => s.threadReady core t l.2) && !s.qops.any (fun q => q.uid = t.uid && q.op = 1)
    && (if ths.any (fun l => !l.2.deferred.isEmpty) then !unif
        else match s.fetchUnit core pc with
          | .unit w0 w1 =>
            let p := pfxOf w0.toNat
            let w := governed w0 w1
            let next := match p with | .none => pc + 4 | _ => pc + 8
            ((32 ≤ setGroup w0) == unif) && !s.operandsWait core t ths p w && !s.unitStalls core t ths next w && !s.requestsFull core ths.length w
          | .invalid => !unif
          | .noMem _ => !unif
          | _ => false)

/-- The oldest ready entry of a team's window for a slot (R37). -/
def State.teamReady (s : State) (core : Nat) (t : Team) (unif : Bool) : Option PC :=
  t.window.find? (fun pc => s.entryReady core t pc unif)

/-- May the workgroup of a core issue at all: not being stopped, not frozen (R175, R227)? -/
def Workgroup.runs (w : Workgroup) : Bool := !w.frozen && w.stopping.isNone && !w.unborn && !w.cancelled

/-- Which team issues in a partition's slot (R28, R45), and its entry. -/
def State.pick (s : State) (core part : Nat) (unif : Bool) : Option (Nat × PC) :=
  match s.wg? core with
  | none => none
  | some w =>
    if !w.runs then none
    else
      let cand := (w.teams.filter (fun e => e.1 % 6 = part)).filterMap (fun e =>
        (s.teamReady core e.2 unif).map (fun pc => (e.1, e.2, pc)))
      let starve := fun (t : Team) => if unif then t.starveU else t.starveL
      let late := cand.filter (fun c => 80 ≤ starve c.2.1)
      let best := if late.isEmpty then
          cand.foldl (fun b c => match b with
            | none => some c
            | some (x : Nat × Team × PC) => if x.2.1.rank < c.2.1.rank then some c else b) none
        else
          late.foldl (fun b c => match b with
            | none => some c
            | some (x : Nat × Team × PC) => if starve x.2.1 < starve c.2.1 then some c else b) none
      best.map (fun c => (c.1, c.2.2))

/-! ### Fetch misses, and the passing of cycles -/

/-- Hold the threads of an entry whose fetch misses or faults (R186, R193, R195): one walk, or one fault, for the entry; the unit holds
a prefix where it is the governed word that does (R183). A refused fetch freezes the core (R226, R227). -/
def State.holdFetch (s : State) (core team : Nat) (pc : PC) : State :=
  match s.team? core team with
  | none => s
  | some t =>
    let ths := t.entry pc
    if ths.isEmpty || !ths.all (fun l => s.threadReady core t l.2 && l.2.deferred.isEmpty) then s
    else
      let miss := fun (va : DWord) => (⟨s.ctxOf core, va, false, true, false, false, decide (va ≠ pc.zeroExtend 64)⟩ : Miss)
      let lanes := ths.map (·.1)
      match s.fetchUnit core pc with
      | .miss va => (s.needWalk core (s.ctxOf core) va.toNat).modLanes core team lanes
          (fun _ th => { th with wait := .walk (miss va) })
      | .fault k va => (s.newFault (.threads core) k (miss va) core).modLanes core team lanes
          (fun _ th => { th with wait := .fault s.nextSeq })
      | .refused va => s.firewallFault core va.toNat none
      | _ => s

/-- Fetch for the windows of a partition's teams. -/
def State.fetchAll (s : State) (core part : Nat) : State :=
  match s.wg? core with
  | none => s
  | some w =>
    (w.teams.filter (fun e => e.1 % 6 = part)).foldl (fun s e =>
      e.2.window.foldl (fun s pc => s.holdFetch core e.1 pc) s) s

/-- A team's starvation counters after `n` cycles (R45). -/
def State.starveTeam (s : State) (core n : Nat) (t : Team) : Team :=
  { t with starveL := if (s.teamReady core t false).isSome then t.starveL + n else t.starveL
           starveU := if (s.teamReady core t true).isSome then t.starveU + n else t.starveU }

/-- `n` cycles of a cluster's clock pass (R25, R45; log 11, DESIGN CHOICE). -/
def State.tick (s : State) (cl n : Nat) : State :=
  let c := s.cluster cl
  let ran := c.ran + n * (timeUnit * 1000 / c.mhz)
  { s with clusters := kvPut s.clusters cl { c with cycles := c.cycles + n, ran := ran }
           time := max s.time ran
           wgs := s.wgs.map (fun e => if clusterOf e.1 = cl then
             (e.1, { e.2 with teams := e.2.teams.map (fun t => (t.1, s.starveTeam e.1 n t.2)) }) else e) }

/-! ### The issue -/

/-- The issue under way: the entry's threads form the subset, and the team's starvation counter for the slot clears
(R37, R45). -/
def State.beginIssue (s : State) (core team : Nat) (pc : PC) (unif : Bool) : State :=
  let lanes := ((s.team? core team).map (fun t => (t.entry pc).map (·.1))).getD []
  let s : State := { s with cur := ⟨core, team, maskOf lanes, pc, .none⟩ }
  s.onTeam (fun t => if unif then { t with starveU := 0 } else { t with starveL := 0 })

/-- The threads of the entry that have a deferred trap take it at this unit: an XLATE_FAULT of a RED (R195), or a SEALED_STORE of one
(R130; log 41, DEDUCED). -/
def State.takeDeferred (s : State) : State :=
  let ls := s.subset.filter (fun l => !(s.lane l).deferred.isEmpty)
  let s : State := ls.foldl (fun s l =>
    let v := (s.lane l).deferred.headD (0x05, 0)
    let s : State := s.onLanes [l] (fun _ t => { t with deferred := t.deferred.tail })
    s.takeTrap s.cur.core s.cur.team l v.1 v.2 (tcause v.1 false false true (v.1 = 0x05)) s.cur.pc) s
  s.onTeam (fun t => t.regroup none)

/-- A unit whose address is in no translated memory raises ADDRESS_INVALID in its threads (log 17, DEDUCED); it holds a prefix where its
second word's address is the one (R183). -/
def State.badFetch (s : State) : State :=
  let pfx : Pfx := match s.fetchWord s.cur.core s.cur.pc with | .word _ => .ext 0 | _ => .none
  let s : State := { s with cur := { s.cur with pfx := pfx } }
  (s.trapLanes s.subset 0x04 (loWord (s.cur.pc.zeroExtend 64)) false false false).endIssue

/-- Does a thread of the subset have a deferred trap to take? -/
def State.hasDeferred (s : State) : Bool := s.subset.any (fun l => !(s.lane l).deferred.isEmpty)

end Sys2Proof.Machine
end

