-- ==== Sys2Proof/Machine/Agenda.lean ====
section
/-! DEFINITION. What the device does next when the agenda names nothing (log 1, DESIGN CHOICE): an issue of the first partition slot
with a ready entry, or a step of another agent, from a list of what is under way. -/

namespace Sys2Proof.Machine

/-- The slots of the cores that host a workgroup: (core, partition, uniform). -/
def State.slots (s : State) : List (Nat × Nat × Bool) :=
  s.wgs.flatMap (fun e => (List.range 6).flatMap (fun p => [(e.1, p, false), (e.1, p, true)]))

/-- The first slot with a ready entry. -/
def State.readySlot (s : State) : Option (Nat × Nat × Bool) :=
  s.slots.find? (fun x => (s.pick x.1 x.2.1 x.2.2).isSome)

/-- Every core and partition whose window holds an entry to fetch. -/
def State.toFetch (s : State) : List (Nat × Nat) :=
  s.wgs.flatMap (fun e => (List.range 6).map (fun p => (e.1, p)))

/-- The steps of other agents that what is under way may call for, in a fixed order. One that is not enabled changes
nothing, and the next is tried. -/
def State.candidates (s : State) : List (Instr × Nat) :=
  let c0 := fun (l : List Instr) => l.map (fun i => (i, 0))
  List.flatten [
    c0 (s.walks.map (fun w => Instr.pageWalkComplete w.die w.ctx w.vpage)),
    c0 (s.stbuf.map (fun w => Instr.storeBufferDrain w.id)),
    c0 (s.wpath.map (fun w => Instr.writePathLeave w.id)),
    c0 (s.capath.map (fun w => Instr.clusterAtomicPathLeave w.id)),
    c0 (s.loads.map (fun l => Instr.loadSatisfy l.id)),
    c0 (s.chans.map (fun m => Instr.gateApply m.src m.dst)),
    c0 (s.ports.map (fun w => Instr.portAcknowledge w.id)),
    c0 (s.fences.map (fun f => Instr.fenceComplete f.id)),
    c0 (s.arrivals.map (fun a => Instr.barrierArrivalCounted a.id)),
    c0 (s.sfqs.flatMap (fun x => x.todo.map (fun p => Instr.sfqResult x.id p.1))),
    c0 (s.settles.map (fun x => Instr.estateSettle x.id)),
    c0 (s.wgs.flatMap (fun e => e.2.cmds.flatMap (fun c =>
      [Instr.engineCommandBegin c.id, Instr.multicastFetch c.id, Instr.copyChunkWrite c.id 16384,
       Instr.tensorCommandComplete c.id]))),
    c0 (s.qops.flatMap (fun q => [Instr.qpushEnterRing q.id, Instr.qpopDeliver q.id])),
    c0 (s.seals.flatMap (fun x => [Instr.sealComplete x.id, Instr.unsealComplete x.id])),
    c0 (s.posts.flatMap (fun p => [Instr.ballotPostAccept p.id, Instr.bpostStatusDeliver p.id, Instr.bqryResultDeliver p.id])),
    c0 (s.faults.map (fun f => Instr.faultPost f.id)),
    c0 ((s.wpath.filter (fun w => w.held)).map (fun w => Instr.redReplayBufferMove w.id)),
    c0 (s.wgs.flatMap (fun e => [Instr.tfetchComplete e.1, Instr.workgroupBirth e.1, Instr.saveImageWritten e.1])),
    c0 (s.wgs.flatMap (fun e => e.2.teams.map (fun t => Instr.waitmPoll e.1 t.1))),
    c0 (s.links.map (fun c => match c with
      | .place _ k _ => Instr.pierPlace k
      | .stop k _ _ _ => Instr.pierStop k
      | .resume _ k _ => Instr.pierResume k
      | .discard k => Instr.pierDiscard k)),
    c0 [Instr.coreAssign, Instr.tlbInvalidationDone],
    s.launches.map (fun l => (Instr.launchComplete, l.1)),
    c0 (s.closes.map (fun c => Instr.lineageCloseFinish c.id)),
    c0 (s.groups.flatMap (fun g =>
      [Instr.siblingCancelNotify g.1, Instr.pageReleaseWalk g.1, Instr.accountingRecordWrite g.1])),
    c0 (s.queues.flatMap (fun q => [Instr.launch q.1, Instr.fencePacket q.1, Instr.fencePacketPoll q.1, Instr.signal q.1,
      Instr.batch q.1, Instr.sibopen q.1, Instr.lineageClose q.1, Instr.save q.1, Instr.restore q.1])),
    c0 (s.wgs.map (fun e => Instr.savedWorkgroupExchange e.1)),
    c0 ((s.ifaces.filter (fun e => e.2.resetting = 1)).map (fun e => Instr.functionLevelReset e.1)),
    c0 (if s.recov.busy then [Instr.recoveryCommit] else []),
    s.clusters.flatMap (fun c => [(Instr.clearSequenceComplete, c.1), (Instr.timeSliceEnd, c.1), (Instr.clockStepUp, c.1)]),
    c0 (s.wgs.flatMap (fun e => e.2.bins.map (fun b => Instr.reformBinTimeout e.1 b.key)))]

/-- A cycle of the clusters that run work, or on which a protected context is active, passes where nothing else is enabled. -/
def State.idle (s : State) : State :=
  ((s.wgs.map (fun e => clusterOf e.1) ++ (s.clusters.filter (fun e => e.2.active.isSome)).map (·.1)).dedup).foldl (fun s c => s.tick c 1) s

end Sys2Proof.Machine
end

