-- ==== Sys2Proof/Machine/Image.lean ====
section
/-! DEFINITION. Save images (09, R199 to R201; 17, R263, R264): what a stopped workgroup writes, the checks of a resume, and what
it loads. R200 names what each section holds; where it gives no packing, the section's bytes are an unknown function of that, and a
resume reads them back through an unknown function (log 8, DESIGN CHOICE). -/

namespace Sys2Proof.Machine

/-- Bytes padded with zeros to a multiple of 64. -/
def pad64 (bs : List Byte) : List Byte := bs ++ zeros ((64 - bs.length % 64) % 64)
def up64 (n : Nat) : Nat := (n + 63) / 64 * 64

/-- A list cut or filled with zeros to a size. -/
def fitTo (n : Nat) (bs : List Byte) : List Byte := (bs ++ zeros n).take n

/-- Flags, the first in bit 0. -/
def flagBits (bs : List Bool) : Nat := bs.foldr (fun b n => 2 * n + if b then 1 else 0) 0

/-- What a slot of an image holds: the number of its thread's bin, 0 for none, its team and lane, which for a bin's thread are its former
ones, and the thread. -/
structure Slot where
  bin : Nat
  team : Nat
  lane : Nat
  th : Thread
  deriving DecidableEq, Repr

/-- The slots of a workgroup, in order of team and lane: its threads, and in its empty lanes its bins' threads in their
order of entry. -/
def Workgroup.slots (w : Workgroup) (teams : Nat) : List (Option Slot) :=
  let bins := w.bins.zipIdx.flatMap (fun b => b.1.threads.map (fun e => (⟨b.2 + 1, e.1, e.2.1, e.2.2⟩ : Slot)))
  ((List.range (teams * teamWidth)).foldl (fun (a : List (Option Slot) × List Slot) i =>
    match (kvGet w.teams (i / teamWidth)).bind (fun t => kvGet t.lanes (i % teamWidth)) with
    | some t => (a.1 ++ [some ⟨0, i / teamWidth, i % teamWidth, t⟩], a.2)
    | none => (match a.2 with
      | [] => (a.1 ++ [none], [])
      | t :: r => (a.1 ++ [some t], r))) ([], bins)).1

/-- The engine commands that an image records (R92, R200): a matrix command that has begun drains, and one that has issued every write
retires. -/
def Workgroup.recorded (w : Workgroup) : List Cmd := w.cmds.filter (fun c => !(c.kind.matrix && c.begun) && !c.issued)

/-- KUSED, BINSUSED and RSDEPTH (R199). -/
def Workgroup.kused (w : Workgroup) : Nat :=
  ((List.range 8).filter (fun k => w.teams.any (fun e => e.2.k k ≠ 0))).foldl (fun _ k => k + 1) 0
def Workgroup.binsUsed (w : Workgroup) : Nat := w.bins.length
def Workgroup.rsDepth (w : Workgroup) : Nat :=
  ((w.threads.map (fun e => e.2.2)) ++ w.bins.flatMap (fun b => b.threads.map (fun e => e.2.2))).foldl
    (fun m t => max m t.rstack.length) 0

/-- Bytes of each section before padding (R200). -/
def Workgroup.sectionSizes (w : Workgroup) (h : Header) : List Nat :=
  let n := h.teams * teamWidth
  [128 * n, 4 * (8 * h.regs8) * n, 512 * h.teams, n, 128 * h.teams, 528 * w.binsUsed, 16 * (8 * h.teams + 28),
    64 * h.teams + 192 * w.recorded.length, 32768 * h.accs * h.teams, 1024 * h.scratch, 48 * n]

/-- The bytes of an image (R199). -/
def Workgroup.imageSize (w : Workgroup) (h : Header) (prot : Bool) : Nat :=
  128 + ((w.sectionSizes h).map up64).sum + (if prot then 16 else 0)

/-- Words of sparse data in order. -/
def denseWords (m : List (Nat × Word)) (n : Nat) : List Byte :=
  (List.range n).flatMap (fun i => toBytes 4 (kvGetD 0 m i).toNat)

/-! ### What the sections hold (R200) -/

/-- Section 0, of a slot. -/
def Slot.state (x : Slot) : List Byte :=
  let t := x.th
  fitTo 128 (toBytes 8 t.pc.toNat ++ toBytes 8 t.workid.toNat ++ toBytes 8 t.tpc.toNat ++ toBytes 4 t.tcause.toNat
    ++ toBytes 4 t.tval.toNat ++ toBytes 8 t.stackBase.toNat ++ (List.range 8).flatMap (fun i => toBytes 8 (t.rstack.getD i 0).toNat)
    ++ toBytes 4 (t.clockHi.getD 0).toNat ++ toBytes 4 t.depth
    ++ toBytes 1 (flagBits [true, t.inHandler, decide (t.wait ≠ .ready), t.clockHi.isSome])
    ++ toBytes 1 t.rstack.length ++ toBytes 1 x.team ++ toBytes 1 x.lane ++ toBytes 2 x.bin)

/-- Section 10, of a slot: the mark, ESTATUS's claims, the birth WORKID and the HEIRQ words. -/
def Slot.marks (x : Slot) : List Byte :=
  let t := x.th
  toBytes 1 t.mark.1 ++ toBytes 1 t.mark.2 ++ toBytes 2 t.claims.length ++ zeros 4 ++ toBytes 8 t.birthId.toNat
    ++ (List.range 8).flatMap (fun i => toBytes 4 (t.claims.getD i 0).toNat)

/-- The state of a team, and of a bin's source team, that section 2 lays out in 512 bytes. -/
def uniformBytes (sregs : List (Nat × Word)) (q : BitVec 7) (mode : BitVec 9) (rank sfNo : Nat) (clk : Option Word) : List Byte :=
  fitTo 512 (denseWords sregs 96 ++ toBytes 1 q.toNat ++ toBytes 2 mode.toNat ++ toBytes 4 rank ++ toBytes 8 sfNo
    ++ toBytes 4 (clk.getD 0).toNat ++ toBytes 1 (flagBits [clk.isSome]))

def Team.uniform (t : Team) : List Byte := uniformBytes t.sregs t.qpreds t.mode t.rank t.sfNo t.clockHi

/-- Section 5, of a bin as it is saved: its `since` is its age. -/
def Bin.saveBytes (b : Bin) : List Byte :=
  toBytes 8 b.key.toNat ++ toBytes 4 b.since.toNat ++ toBytes 4 b.threads.length ++ uniformBytes b.sregs b.qpreds b.mode b.rank 0 none

/-- Section 6, of a barrier. -/
def Barrier.saveBytes (b : Barrier) : List Byte := toBytes 4 b.m ++ toBytes 4 b.a ++ toBytes 8 b.phase

/-- Section 7, of a team: LD and ST are 0 (R264), and no token is outstanding. -/
def Team.counters (t : Team) : List Byte := fitTo 64 (zeros 2 ++ toBytes 1 t.cp.length ++ toBytes 1 t.mx.length)

/-- Section 7, of a command. -/
def Cmd.saveBytes (c : Cmd) : List Byte :=
  toBytes 1 c.team ++ toBytes 1 c.acc ++ toBytes 2 (flagBits [c.begun]) ++ toBytes 4 c.n ++ toBytes 4 c.row ++ toBytes 4 c.pos
    ++ fitTo 64 c.blk ++ fitTo 112 (c.hdrs ++ c.ops)

/-- What a section holds, in the order in which R200 names it. -/
def Workgroup.content (w : Workgroup) (l : Launch) (scratch : List Byte) (i : Nat) : List Byte :=
  let h := l.hdr
  let slots := w.slots h.teams
  let team := fun (n : Nat) (f : Team → List Byte) => ((List.range h.teams).flatMap (fun t => ((kvGet w.teams t).map f).getD (zeros n)))
  match i with
  | 0 => slots.flatMap (fun x => (x.map Slot.state).getD (zeros 128))
  | 1 => slots.flatMap (fun x => denseWords ((x.map (·.th.regs)).getD []) (8 * h.regs8))
  | 2 => team 512 Team.uniform
  | 3 => slots.map (fun x => BitVec.ofNat 8 ((x.map (fun x => x.th.preds.toNat)).getD 0))
  | 4 => team 128 (fun t => (List.range 8).flatMap (fun k => toBytes 8 (t.k k).toNat ++ zeros 8))
  | 5 => w.bins.flatMap Bin.saveBytes
  | 6 =>
    team 128 (fun t => (List.range 8).flatMap (fun k => (kvGetD barZero t.bars k).saveBytes))
      ++ (List.range 16).flatMap (fun k => (kvGetD barZero w.bars k).saveBytes)
      ++ (List.range 8).flatMap (fun k => (kvGetD barZero l.cbars (8 * w.grp + k)).saveBytes)
      ++ (List.range 4).flatMap (fun k => (kvGetD barZero l.gbars k).saveBytes)
  | 7 => team 64 Team.counters ++ w.recorded.flatMap Cmd.saveBytes
  | 8 => (List.range h.teams).flatMap (fun t => (List.range h.accs).flatMap (fun a =>
      let tile := ((kvGet w.teams t).bind (fun m => kvGet m.accs a)).getD ⟨[], []⟩
      denseWords tile.work 4096 ++ denseWords tile.vis 4096))
  | 9 => scratch
  | _ => slots.flatMap (fun x => (x.map Slot.marks).getD (zeros 48))

/-- The sections whose packing R200 leaves open. -/
def openSection (i : Nat) : Bool := [0, 2, 5, 6, 7, 10].contains i

/-- A section's bytes from what it holds, and what it holds from its bytes; `own` is what the image was written from. -/
def packSection (i : Nat) (bs : List Byte) : List Byte :=
  if openSection i then (List.range bs.length).map (Config.imagePack i bs) else bs
def unpackSection (i : Nat) (own bs : List Byte) : List Byte :=
  if !openSection i then bs
  else if bs = packSection i own then own
  else (List.range bs.length).map (Config.imageUnpack i bs)

/-- The sections of an image, each padded to 64 bytes (R199, R200). -/
def Workgroup.sections (w : Workgroup) (l : Launch) (scratch : List Byte) : List (List Byte) :=
  (List.range 11).map (fun i => pad64 (packSection i (w.content l scratch i)))

/-- The header of an image (R199). -/
def Workgroup.imageHeader (w : Workgroup) (l : Launch) (prot : Bool) (ctr : Nat) : List Byte :=
  toBytes 4 0x51494D47 ++ toBytes 4 (1 + (if prot then 65536 else 0)) ++ toBytes 8 ctr ++ toBytes 4 l.ctx
    ++ toBytes 4 w.num ++ toBytes 4 l.queue ++ toBytes 4 l.tag.toNat
    ++ toBytes 4 (w.kused + w.binsUsed * 16 + w.rsDepth * 1024) ++ toBytes 4 l.hdr.scratch
    ++ (w.sectionSizes l.hdr).flatMap (fun n => toBytes 4 (up64 n)) ++ zeros 44

/-- The nonce of R201: SAVECTR followed by WGNUM. -/
def imageNonce (ctr num : Nat) : List Byte := toBytes 8 ctr ++ toBytes 4 num

/-- AES-256-GCM under a save key, in either direction (R201). -/
def gcm (key : Nat) (nonce bs : List Byte) : List Byte := bs.zipIdx.map (fun p => p.1 ^^^ Config.gcmStream key nonce p.2)

/-- The 16 bytes of a tag. -/
def imageTag (key : Nat) (nonce aad ct : List Byte) : List Byte :=
  (List.range 16).map (fun i => Config.gcmTag key nonce aad ct i)

/-- A whole image: in a protected context encrypted under its save key, with the tag (R201). -/
def Workgroup.image (w : Workgroup) (l : Launch) (c : Context) (scratch : List Byte) (ctr : Nat) : List Byte :=
  let head := w.imageHeader l c.prot ctr
  let body := (w.sections l scratch).flatten
  if c.prot then
    let nonce := imageNonce ctr w.num
    let ct := gcm c.reg.keySlot nonce body
    head ++ ct ++ imageTag c.reg.keySlot nonce head ct
  else head ++ body

/-- What a check of an image finds (R201). -/
inductive ImageCheck where
  | ok | mismatch | capacity | stale | tag
  deriving DecidableEq, Repr

/-- The die of the cores a launch may use, with their REFORM bins. -/
def State.mayUse (s : State) (l : Launch) (core : Nat) : Bool :=
  coreExists s.part core && l.dies.getLsbD (coreDie core)

/-- Check an image's header and tag (R201). -/
def State.checkImage (s : State) (l : Launch) (c : Context) (v : SavedWg) : ImageCheck :=
  let head := s.ksRead l.ctx v.addr 128
  let u := fun (o n : Nat) => ofBytes ((head.drop o).take n)
  let sizes := (List.range 11).map (fun i => u (0x28 + 4 * i) 4)
  let size := 128 + sizes.sum + (if c.prot then 16 else 0)
  let bins := if (List.range 576).any (s.mayUse l) then 32 else 16
  if u 0 4 ≠ 0x51494D47 || u 4 2 ≠ 1 || u 6 2 / 2 ≠ 0 || u 0x10 4 ≠ l.ctx || u 0x14 4 ≠ v.num || u 0x18 4 ≠ l.queue
      || u 0x1C 4 ≠ l.tag.toNat || u 0x20 4 / 16384 ≠ 0 || u 0x24 4 / 1024 ≠ 0 || (head.drop 0x54).any (· ≠ 0)
      || v.stride < size then .mismatch
  else if 8 < u 0x20 4 % 16 || bins < u 0x20 4 / 16 % 64 || 8 < u 0x20 4 / 1024 % 16 || 512 < u 0x24 4 then .capacity
  else if u 8 8 ≠ v.savectr then .stale
  else if c.prot then
    let ct := s.ksRead l.ctx (v.addr + 128) sizes.sum
    let t := s.ksRead l.ctx (v.addr + 128 + BitVec.ofNat 64 sizes.sum) 16
    if u 6 2 = 1 && t = imageTag c.reg.keySlot (imageNonce v.savectr v.num) head ct then .ok else .tag
  else .ok

/-- Sparse data from words in order; zeros are not listed. -/
def sparseWords (bs : List Byte) (n : Nat) : List (Nat × Word) :=
  ((List.range n).map (fun i => (i, (BitVec.ofNat 32 (ofBytes ((bs.drop (4 * i)).take 4)) : Word)))).filter (fun e => e.2 ≠ 0)

/-- The sections of an image in memory, decrypted for a protected context (R201). -/
def State.imageBody (s : State) (l : Launch) (c : Context) (v : SavedWg) : List Byte :=
  let n := ((v.wg.sectionSizes l.hdr).map up64).sum
  let body := s.ksRead l.ctx (v.addr + 128) n
  if c.prot then gcm c.reg.keySlot (imageNonce v.savectr v.num) body else body

/-- The bytes of section i of a body. -/
def Workgroup.sectionOf (w : Workgroup) (h : Header) (body : List Byte) (i : Nat) : List Byte :=
  let sizes := (w.sectionSizes h).map up64
  (body.drop ((sizes.take i).sum)).take ((w.sectionSizes h).getD i 0)

/-- The word of n bytes at an offset. -/
def wordAt (bs : List Byte) (off n : Nat) : Nat := ofBytes ((bs.drop off).take n)

/-- A bit of a byte at an offset. -/
def bitAt (bs : List Byte) (off k : Nat) : Bool := wordAt bs off 1 / 2 ^ k % 2 = 1

/-- A word that an image may hold, with its valid bit. -/
def clockAt (bs : List Byte) (off : Nat) (ok : Bool) : Option Word := if ok then some (BitVec.ofNat 32 (wordAt bs off 4)) else none

/-- A thread with what section 0 holds of it. Which thread it is and what it waits for stands beside the image (log 8, DESIGN CHOICE). -/
def Thread.loadState (t : Thread) (bs : List Byte) : Thread :=
  { t with
    pc := BitVec.ofNat 57 (wordAt bs 0 8), workid := BitVec.ofNat 64 (wordAt bs 8 8), tpc := BitVec.ofNat 57 (wordAt bs 16 8)
    tcause := BitVec.ofNat 32 (wordAt bs 24 4), tval := BitVec.ofNat 32 (wordAt bs 28 4), stackBase := BitVec.ofNat 64 (wordAt bs 32 8)
    rstack := (List.range (min 8 (wordAt bs 113 1))).map (fun i => BitVec.ofNat 64 (wordAt bs (40 + 8 * i) 8))
    depth := wordAt bs 108 4, inHandler := bitAt bs 112 1
    wait := if bitAt bs 112 2 then t.wait else .ready
    clockHi := clockAt bs 104 (bitAt bs 112 3) }

/-- A thread with what section 10 holds of it. -/
def Thread.loadMarks (t : Thread) (bs : List Byte) : Thread :=
  { t with mark := (wordAt bs 0 1, wordAt bs 1 1), birthId := BitVec.ofNat 64 (wordAt bs 8 8)
           claims := (List.range (min 8 (wordAt bs 2 2))).map (fun i => BitVec.ofNat 32 (wordAt bs (16 + 4 * i) 4)) }

/-- A thread with what the sections hold of slot i, of r registers a thread. -/
def Thread.loadSlot (t : Thread) (sec : Nat → List Byte) (r i : Nat) : Thread :=
  ({ t with regs := sparseWords ((sec 1).drop (4 * r * i)) r, preds := BitVec.ofNat 7 ((sec 3).getD i 0).toNat } : Thread).loadState
    (((sec 0).drop (128 * i)).take 128) |>.loadMarks (((sec 10).drop (48 * i)).take 48)

/-- A barrier from section 6. -/
def barrierAt (bs : List Byte) (i : Nat) : Barrier := ⟨wordAt bs (16 * i) 4, wordAt bs (16 * i + 4) 4, wordAt bs (16 * i + 8) 8, []⟩

/-- A team with what the sections hold of it: n the team, r the registers of a thread, a the accumulators. -/
def Team.load (t : Team) (sec : Nat → List Byte) (n r a : Nat) : Team :=
  let u := ((sec 2).drop (512 * n)).take 512
  { t with
    sregs := sparseWords u 96, qpreds := BitVec.ofNat 7 (wordAt u 384 1), mode := BitVec.ofNat 9 (wordAt u 385 2), rank := wordAt u 387 4
    sfNo := wordAt u 391 8, clockHi := clockAt u 399 (bitAt u 403 0)
    lanes := t.lanes.map (fun x => (x.1, x.2.loadSlot sec r (n * teamWidth + x.1)))
    kmasks := ((List.range 8).map (fun k => (k, BitVec.ofNat 64 (wordAt (sec 4) (128 * n + 16 * k) 8)))).filter (fun p => p.2 ≠ 0)
    bars := (List.range 8).map (fun k => (k, barrierAt (sec 6) (8 * n + k)))
    accs := (List.range a).map (fun i =>
      let bs := (sec 8).drop (32768 * (a * n + i))
      (i, ⟨sparseWords bs 4096, sparseWords (bs.drop 16384) 4096⟩)) }

/-- A bin with what section 5 holds of bin i; its threads stand beside the image. -/
def Bin.load (b : Bin) (sec : Nat → List Byte) (i : Nat) : Bin :=
  let bs := ((sec 5).drop (528 * i)).take 528
  let u := bs.drop 16
  { b with key := BitVec.ofNat 57 (wordAt bs 0 8), since := wordAt bs 8 4, sregs := sparseWords u 96
           qpreds := BitVec.ofNat 7 (wordAt u 384 1), mode := BitVec.ofNat 9 (wordAt u 385 2), rank := wordAt u 387 4 }

/-- A command with what section 7 holds of it from an offset on; a header or list that does not fit there stands beside the image. -/
def Cmd.load (c : Cmd) (bs : List Byte) : Cmd :=
  let lists := (bs.drop 80).take 112
  let fits := decide (c.hdrs.length + c.ops.length ≤ 112)
  { c with
    begun := bitAt bs 2 0, n := wordAt bs 4 4, row := wordAt bs 8 4, pos := wordAt bs 12 4, blk := (bs.drop 16).take 64
    hdrs := if fits then lists.take c.hdrs.length else c.hdrs
    ops := if fits then (lists.drop c.hdrs.length).take c.ops.length else c.ops }

/-- The slot of each thread of the bins, in order, among the empty lanes. -/
def Workgroup.binSlots (w : Workgroup) (teams : Nat) : List Nat :=
  (List.range (teams * teamWidth)).filter (fun i =>
    ((kvGet w.teams (i / teamWidth)).bind (fun t => kvGet t.lanes (i % teamWidth))).isNone)

/-- The workgroup that an image holds (R200, R201): its sections are loaded as they stand. The barriers of its cluster and grid have gone
on without it (R175), and stand as they are. -/
def Workgroup.loadImage (w : Workgroup) (l : Launch) (scratch body : List Byte) : Workgroup :=
  let h := l.hdr
  let sec := fun (i : Nat) => unpackSection i (w.content l scratch i) (w.sectionOf h body i)
  let r := 8 * h.regs8
  let bins := (w.bins.zipIdx.foldl (fun (a : List Bin × List Nat) b =>
    (a.1 ++ [{ b.1.load sec b.2 with threads := b.1.threads.zipIdx.map (fun p =>
        (p.1.1, p.1.2.1, p.1.2.2.loadSlot sec r (a.2.getD p.2 0))) }],
     a.2.drop b.1.threads.length)) ([], w.binSlots h.teams)).1
  { w with
    bins := bins
    teams := w.teams.map (fun e => (e.1, e.2.load sec e.1 r h.accs))
    bars := (List.range 16).map (fun k => (k, barrierAt (sec 6) (8 * h.teams + k)))
    cmds := w.cmds.zipIdx.map (fun p => p.1.load (((sec 7).drop (64 * h.teams + 192 * p.2)).take 192)) }

end Sys2Proof.Machine
end

