-- ==== Sys2Proof/Machine/Approx.lean ====
section
/-! DEFINITION. Special functions within 1 ulp (22, R388 to R390; 04, R86, R87): the exact value is approximated far below an
ulp in fixed point, and a free choice takes one of the two codes around it, or the nearest alone where the other might
be more than 1 ulp away (log 5, DESIGN CHOICE). Exact results are returned as such. -/

namespace Sys2Proof.Machine

/-! ### Fixed point: the number x stands for x / 2^F -/

def mulF (F : Nat) (a b : Int) : Int := a * b / (2 : Int) ^ F

/-- Sum of term·(r^n / n!) from n on (Taylor of e^r). -/
def expLoop (F : Nat) (r : Int) : Nat → Nat → Int → Int → Int
  | 0, _, _, acc => acc
  | fuel + 1, n, term, acc => expLoop F r fuel (n + 1) (mulF F term r / ((n : Int) + 1)) (acc + term)

/-- e^r for a small r. -/
def expF (F : Nat) (r : Int) : Int := expLoop F r (F / 2 + 20) 0 ((2 : Int) ^ F) 0

/-- Σ ± y^(2n+1) / (2n+1): atanh with `alt` false, atan with `alt` true. -/
def atanLoop (F : Nat) (y2 : Int) (alt : Bool) : Nat → Nat → Int → Int → Int
  | 0, _, _, acc => acc
  | fuel + 1, n, p, acc =>
    let t := p / (2 * (n : Int) + 1)
    atanLoop F y2 alt fuel (n + 1) (mulF F p y2) (if alt && n % 2 = 1 then acc - t else acc + t)

def atanhF (F : Nat) (y : Int) : Int := atanLoop F (mulF F y y) false (F / 2 + 20) 0 y 0
def atanF (F : Nat) (y : Int) : Int := atanLoop F (mulF F y y) true (F / 2 + 20) 0 y 0

def ln2F (F : Nat) : Int := 2 * atanhF F ((2 : Int) ^ F / 3)

/-- π, by Machin's formula. -/
def piF (F : Nat) : Int := 16 * atanF F ((2 : Int) ^ F / 5) - 4 * atanF F ((2 : Int) ^ F / 239)

/-- ln of num / den > 0: of its mantissa near 1, and a multiple of ln 2. -/
def lnF (F num den : Nat) : Int :=
  let e := floorLog2 num den
  let p := scalePow num den (-e)
  -- the mantissa lies in [1, 2); above 4/3 it is halved
  let up := 4 * p.2 < 3 * p.1
  let a := p.1
  let b := if up then 2 * p.2 else p.2
  let y : Int := ((a : Int) - b) * (2 : Int) ^ F / ((a : Int) + b)
  2 * atanhF F y + (if up then e + 1 else e) * ln2F F

/-- 2^x for x in fixed point: a mantissa in fixed point and a power of two. -/
def exp2F (F : Nat) (x : Int) : Int × Int :=
  let i := x / (2 : Int) ^ F
  let f := x - i * (2 : Int) ^ F
  (expF F (mulF F f (ln2F F)), i)

/-- Σ ± a^n / n! over the terms of sin (`start` 1) or cos (`start` 0). -/
def trigLoop (F : Nat) (a2 : Int) : Nat → Nat → Int → Int → Int
  | 0, _, _, acc => acc
  | fuel + 1, n, term, acc =>
    trigLoop F a2 fuel (n + 2) (-(mulF F term a2) / (((n : Int) + 1) * ((n : Int) + 2))) (acc + term)

/-- sin and cos of an angle in fixed point, at most π in size. -/
def sinF (F : Nat) (a : Int) : Int := trigLoop F (mulF F a a) (F / 4 + 20) 1 a 0
def cosF (F : Nat) (a : Int) : Int := trigLoop F (mulF F a a) (F / 4 + 20) 0 ((2 : Int) ^ F) 0

/-- An angle less its nearest multiple of 2π. -/
def reduceF (F : Nat) (a : Int) : Int :=
  let t := 2 * piF F
  a - (2 * a + t) / (2 * t) * t

/-! ### The choice of a code -/

/-- One of the codes within 1 ulp of a nonzero inexact value near ± num / den: the nearest, or where the value stands
clear of it, the code on its other side (log 5, DESIGN CHOICE). -/
def ulpPick (pick : Bool) (neg : Bool) (num den : Nat) : Nat × FlagSet :=
  if num = 0 then (fp32.signed neg 0, flagNX ||| flagUF)
  else
  let near := fp32.roundMag 0 false neg num den
  let lo := fp32.roundMag 1 false neg num den
  let hi := fp32.roundMag (if neg then 2 else 3) false neg num den
  let clear : Bool := match fp32.value (fp32.mag lo.1), fp32.value (fp32.mag hi.1), fp32.value (fp32.mag near.1) with
    | .fin _ la lb, .fin _ ha hb, .fin _ na nb =>
      -- |num/den - near| * 1024 ≥ hi - lo
      let d : Int := (num : Int) * nb - na * den
      let u : Int := (ha : Int) * lb - la * hb
      u * (den * nb) ≤ d.natAbs * 1024 * (lb * hb)
    | _, _, _ => false
  let r := if pick || !clear then near else if near.1 = lo.1 then hi else lo
  (r.1, r.2 ||| flagNX)

/-- The same for a fixed-point value times a power of two. -/
def fixPick (pick : Bool) (F : Nat) (x e : Int) : Nat × FlagSet :=
  let p := scalePow x.natAbs (2 ^ F) e
  ulpPick pick (x < 0) p.1 p.2

/-- A rational in fixed point. -/
def ratF (F : Nat) (neg : Bool) (num den : Nat) : Int := sgnNum neg (num * 2 ^ F / den)

/-- 2^x for x = ± num / den. -/
def exp2Val (pick neg : Bool) (num den : Nat) : Nat × FlagSet :=
  if num % den = 0 && num / den < 160 then
    -- integral: exact where it is in range
    let p := scalePow 1 1 (sgnNum neg (num / den))
    fp32.roundMag (if pick then 0 else if neg then 3 else 0) false false p.1 p.2
  else if !neg && 128 * den ≤ num then (0x7F800000, flagOF ||| flagNX)
  else if neg && 160 * den ≤ num then ulpPick pick false 1 (2 ^ 151)
  else
    let r := exp2F 160 (ratF 160 neg num den)
    fixPick pick 160 r.1 r.2

/-- log2 of num / den > 0, no power of two. -/
def log2Val (pick : Bool) (num den : Nat) : Nat × FlagSet :=
  let x := lnF 200 num den * (2 : Int) ^ 200 / ln2F 200
  fixPick pick 200 x 0

/-- sin(π·r) for a magnitude r = num / den of at most 1/2, not 0, in fixed point scaled by 2^e. -/
def sinPi (num den : Nat) : Int × Int :=
  let l := floorLog2 num den
  if l < -40 then
    -- sin(πr) is πr below an ulp
    let p := scalePow num den (-l)
    (mulF 200 (piF 200) (ratF 200 false p.1 p.2), l)
  else (sinF 200 (mulF 200 (piF 200) (ratF 200 false num den)), 0)

/-- sin(π·x) for x = ± num / den, no integer. -/
def sinVal (pick neg : Bool) (num den : Nat) : Nat × FlagSet :=
  let m := num % (2 * den)
  let n2 := if m < den then neg else !neg
  let r := m % den
  let r := if 2 * r ≤ den then r else den - r
  if 2 * r = den then (fp32.signed n2 0x3F800000, 0)
  else
    let v := sinPi r den
    fixPick pick 200 (if n2 then -v.1 else v.1) v.2

/-- cos(π·x) is sin(π·(x + 1/2)). -/
def cosVal (pick : Bool) (num den : Nat) : Nat × FlagSet := sinVal pick false (2 * num + den) (2 * den)

/-- 1 / √(num / den), no power of 4. -/
def rsqVal (pick : Bool) (num den : Nat) : Nat × FlagSet :=
  ulpPick pick false (Nat.sqrt (den * 2 ^ 600 / num)) (2 ^ 300)

/-- √(num / den), rounded correctly: the digits below the precision stand for the rest. -/
def sqrtVal (num den : Nat) : Nat × FlagSet :=
  let r := Nat.sqrt (num * 2 ^ 600 / den)
  if r * r * den = num * 2 ^ 600 then fp32.roundMag 0 false false r (2 ^ 300)
  else fp32.roundMag 0 false false (2 * r + 1) (2 ^ 301)

/-- e^(-y) for y = num / den ≥ 0 and below 2^12, in fixed point. -/
def expNegF (F num den : Nat) : Int :=
  let y := ratF F false num den
  let k := y / ln2F F
  let r := y - k * ln2F F
  expF F (-r) / (2 : Int) ^ k.toNat

/-- tanh of ± num / den, not 0. -/
def tanhVal (pick neg : Bool) (num den : Nat) : Nat × FlagSet :=
  if num * 2 ^ 30 < den then ulpPick pick neg (num * (2 ^ 70 - 1)) (den * 2 ^ 70)
  else if 30 * den ≤ num then ulpPick pick neg (2 ^ 70 - 1) (2 ^ 70)
  else
    let e := expNegF 200 (2 * num) den
    ulpPick pick neg ((2 : Int) ^ 200 - e).natAbs ((2 : Int) ^ 200 + e).natAbs

/-- SILU of ± num / den, not 0 (R86). -/
def siluVal (pick neg : Bool) (num den : Nat) : Nat :=
  if 300 * den ≤ num then
    (if neg then (ulpPick pick true 1 (2 ^ 151)).1 else (ulpPick pick false num den).1)
  else
    -- e^(-|x|); 1 + e^(-x) is that plus 1, or its inverse plus 1
    let e := expNegF 500 num den
    let one : Int := (2 : Int) ^ 500
    if neg then (ulpPick pick true (num * e.natAbs) (den * (one + e).natAbs)).1
    else (ulpPick pick false (num * one.natAbs) (den * (one + e).natAbs)).1

/-- Σ (-q)^n / (n!·(2n+1)). -/
def erfLoop (F : Nat) (q : Int) : Nat → Nat → Int → Int → Int
  | 0, _, _, acc => acc
  | fuel + 1, n, term, acc =>
    erfLoop F q fuel (n + 1) (-(mulF F term q) / ((n : Int) + 1)) (acc + term / (2 * (n : Int) + 1))

/-- GELU of ± num / den, not 0 (R86): ½·x·(1 + x·√(2/π)·Σ). -/
def geluVal (pick neg : Bool) (num den : Nat) : Nat :=
  if 20 * den ≤ num then
    (if neg then (ulpPick pick true 1 (2 ^ 151)).1 else (ulpPick pick false num den).1)
  else
    let F := 900
    let q := ratF F false (num * num) (2 * den * den)
    let sum := erfLoop F q 1200 0 ((2 : Int) ^ F) 0
    let c : Int := (Nat.sqrt (2 * 2 ^ (3 * F) / (piF F).toNat) : Nat)
    let erf := mulF F (mulF F (ratF F false num den) c) sum
    let t : Int := (2 : Int) ^ F + (if neg then -erf else erf)
    (ulpPick pick neg (num * t.natAbs) (2 * den * 2 ^ F)).1

/-- The angle Δ·BASE^(-2i/D) in fixed point, for a positive Δ (R87). -/
def rotAngle (F delta i d : Nat) (base : Nat) : Int :=
  match fp32.value base with
  | .fin _ num den =>
    let lg := lnF F num den * (2 : Int) ^ F / ln2F F
    let r := exp2F F (-(lg * (2 * (i : Int)) / (d : Int)))
    let p := scalePow r.1.natAbs (2 ^ F) r.2
    ((delta * p.1 * 2 ^ F / p.2 : Nat) : Int)
  | _ => 0

/-- c and s of R87: the cosine and sine of Δ·θ, each within 1 ulp. -/
def rotPair (p1 p2 : Bool) (delta : Int) (i d base : Nat) : Nat × Nat :=
  if delta = 0 then (0x3F800000, 0)
  else
    let F := 400
    let a := reduceF F (rotAngle F delta.natAbs i d base)
    let c := (fixPick p1 F (cosF F a) 0).1
    let s := sinF F a
    (c, (fixPick p2 F (if delta < 0 then -s else s) 0).1)

/-! ### SFQ (R388, R390) -/

/-- Is num / den a power of two; of four? -/
def isPow2 (num den : Nat) : Bool :=
  let p := scalePow num den (-(floorLog2 num den))
  p.1 = p.2
def isPow4 (num den : Nat) : Bool := isPow2 num den && floorLog2 num den % 2 = 0

/-- The result and flags of a special function (R390). -/
def sfqVal (fn : Nat) (pick : Bool) (x : Nat) : Nat × FlagSet :=
  let dn : Nat := 0x7FC00000
  match fp32.value x with
  | .nan sig => (dn, if sig then flagNV else 0)
  | .inf neg =>
    (match fn with
      | 0 => (fp32.signed neg 0, 0)
      | 1 => if neg then (dn, flagNV) else (0, 0)
      | 2 => if neg then (dn, flagNV) else (0x7F800000, 0)
      | 3 => if neg then (0, 0) else (0x7F800000, 0)
      | 4 => if neg then (dn, flagNV) else (0x7F800000, 0)
      | 5 => (dn, flagNV)
      | 6 => (dn, flagNV)
      | _ => (fp32.signed neg 0x3F800000, 0))
  | .fin neg num den =>
    if num = 0 then
      (match fn with
        | 0 => (fp32.signed neg 0x7F800000, flagDZ)
        | 1 => (fp32.signed neg 0x7F800000, flagDZ)
        | 2 => (x, 0)
        | 3 => (0x3F800000, 0)
        | 4 => (0xFF800000, flagDZ)
        | 5 => (x, 0)
        | 6 => (0x3F800000, 0)
        | _ => (x, 0))
    else match fn with
      | 0 => fp32.roundMag 0 false neg den num
      | 1 =>
        if neg then (dn, flagNV)
        else if isPow4 num den then (let p := scalePow 1 1 (-(floorLog2 num den) / 2); fp32.roundMag 0 false false p.1 p.2)
        else rsqVal pick num den
      | 2 => if neg then (dn, flagNV) else sqrtVal num den
      | 3 => exp2Val pick neg num den
      | 4 =>
        if neg then (dn, flagNV)
        else if isPow2 num den then fp32.ofInt 0 false (floorLog2 num den)
        else log2Val pick num den
      | 5 => if num % den = 0 then (fp32.signed neg 0, 0) else sinVal pick neg num den
      | 6 =>
        if 2 * num % den = 0 then
          (let h := 2 * num / den
           if h % 2 = 1 then (0, 0) else (fp32.signed (h % 4 = 2) 0x3F800000, 0))
        else cosVal pick num den
      | _ => tanhVal pick neg num den

end Sys2Proof.Machine
end

