-- ==== Sys2Proof/Machine/Quant.lean ====
section
/-! DEFINITION. Element types and scales (03, R49 to R53), the grids, block scales and shaping procedure of the
noise-shaping store (05, R93 to R96), and the lane instructions VQNS and VDQ (R102 to R105). -/

namespace Sys2Proof.Machine

/-! ### Elements -/

/-- The format of a floating-point element type code of R68 and R94. -/
def tyFmt (ty : Nat) : Fmt :=
  match ty with
  | 0 => fp16
  | 1 => bf16
  | 2 => e4m3
  | 3 => e5m2
  | 5 => e2m1
  | _ => fp32

/-- Is the type a half-step integer (R50), and how many bits does its code take? -/
def tyHalfStep (ty : Nat) : Bool := ty = 4 || ty = 6
def tyBits (ty : Nat) : Nat :=
  match ty with
  | 0 => 16
  | 1 => 16
  | 2 => 8
  | 3 => 8
  | 4 => 8
  | 5 => 4
  | 6 => 4
  | _ => 32

/-- Is the type blocked: does it carry block scales (R53, R94)? -/
def tyBlocked (ty : Nat) : Bool := ty = 5 || ty = 6

/-- An integer as a value. -/
def FVal.ofRat (num : Int) (den : Nat) : FVal := .fin (num < 0) num.natAbs den

/-- The value of an element's bare code (R47, R49, R50). -/
def elemVal (ty c : Nat) : FVal :=
  if tyHalfStep ty then FVal.ofRat (2 * sextInt (tyBits ty) c + 1) 2 else (tyFmt ty).value (c % 2 ^ tyBits ty)

/-- The value of an E3M5 scale byte, as a numerator over 256 (R51). -/
def scaleNum (b : Nat) : Nat :=
  let e := b / 32
  let m := b % 32
  if e = 0 then 2 * m else (32 + m) * 2 ^ e

def scaleVal (b : Nat) : FVal := .fin false (scaleNum b) 256

/-- Is a BF16 band scale valid (R52)? -/
def bandValid (c : Nat) : Bool := 0 < c % 65536 && c % 65536 ≤ bf16.maxCode

def bandVal (c : Nat) : FVal := bf16.value (c % 65536)

/-- The decoded value of a scaled element (R53, R104): a NaN where the code, the block or the band is invalid. -/
def decodeElem (ty code scale band : Nat) : FVal :=
  if ty ≤ 1 then elemVal ty code
  else if !bandValid band then .nan false
  else if tyBlocked ty then
    (if scale = 0xFF then .nan false else ((elemVal ty code).mul (scaleVal scale)).mul (bandVal band))
  else (elemVal ty code).mul (bandVal band)

/-! ### Grids and scales (R94, R95) -/

/-- G and h of R94, doubled. -/
def gridMax2 (ty : Nat) : Nat :=
  match ty with
  | 5 => 12
  | 6 => 15
  | 4 => 255
  | 2 => 896
  | _ => 114688
def gridStep2 (ty : Nat) : Nat :=
  match ty with
  | 5 => 2
  | 6 => 1
  | 4 => 1
  | 2 => 32
  | _ => 8192

/-- The nearest grid value of num / den, ties to the even code, saturated: its code (R94). -/
def gridRound (ty : Nat) (num : Int) (den : Nat) : Nat :=
  if tyHalfStep ty then
    -- n + 0.5 nearest to u: n is u - 1/2 rounded
    let v : Int := 2 * num - den
    let r := roundNat 0 (v < 0) v.natAbs (2 * den)
    let n : Int := if v < 0 then -(r.1 : Int) else r.1
    let hi : Int := if ty = 4 then 127 else 7
    let lo : Int := if ty = 4 then -128 else -8
    (BitVec.ofInt (tyBits ty) (max lo (min hi n))).toNat
  else
    let f := tyFmt ty
    let c := (f.round 0 false (num < 0) num.natAbs den).1
    if f.maxCode < f.mag c then f.signed (f.neg c) f.maxCode else c

/-- The smallest scale byte with max ≤ G·band·S, max being num / den (R95). -/
def blockScale (ty : Nat) (num den : Nat) (band : FVal) : Nat :=
  match band with
  | .fin _ bn bd =>
    let lo := if ty = 6 then 1 else 0
    ((List.range 255).find? (fun b => lo ≤ b && num * (2 * bd * 256) ≤ gridMax2 ty * bn * scaleNum b * den)).getD 0xFE
  | _ => 0xFE

/-- max |x| over the finite FP32 codes of a list, as a fraction. -/
def maxAbs (xs : List Nat) : Nat × Nat :=
  xs.foldl (fun m x => match fp32.value x with
    | .fin _ n d => if m.1 * d < n * m.2 then (n, d) else m
    | _ => m) (0, 1)

/-! ### The shaping procedure (R96) -/

/-- What is written for one element: its code, its block's scale byte, and whether write_invalid wrote it. -/
structure Shaped where
  code : Nat
  scale : Nat
  bad : Bool
  deriving DecidableEq, Repr

/-- write_invalid's code for an element of a type. -/
def invalidCode (ty : Nat) (x : FVal) : Nat :=
  match ty, x with
  | 4, .inf n => if n then 0x80 else 0x7F
  | 2, .inf n => if n then 0xFE else 0x7E
  | 3, .inf n => if n then 0xFC else 0x7C
  | 2, _ => 0x7F
  | 3, _ => 0x7E
  | _, _ => 0

/-- A NaN or infinite residue reads as +0. -/
def residueOf (c : Nat) : Nat := match fp32.value c with | .fin _ _ _ => c | _ => 0

/-- One element against band·S = bn / bd: its code and the new residue. -/
def shapeOne (ty : Nat) (bn bd : Nat) (c x : Nat) : Nat × Nat :=
  match fp32.value x, fp32.value c with
  | .fin nx xa xd, .fin nc ca cd =>
    let tn : Int := sgnNum nx xa * cd + sgnNum nc ca * xd
    let td := xd * cd
    let code := gridRound ty (tn * bd) (td * bn)
    match elemVal ty code with
    | .fin nq qa qd =>
      -- e = t - q * band * S, clamped to L = band * S * h
      let en : Int := tn * (qd * bd) - sgnNum nq (qa * bn) * td
      let ed := td * (qd * bd)
      let ln : Int := gridStep2 ty * bn
      let ld := 2 * bd
      let big : Bool := ln * ed < en.natAbs * ld
      let r := if big then FVal.fin (en < 0) ln.natAbs ld else FVal.fin (en < 0) en.natAbs ed
      (code, fp32.rne r)
    | _ => (code, 0)
  | _, _ => (0, 0)

/-- One block of FP32 elements: what is written for each, and the residue after it. -/
def shapeBlock (ty band c : Nat) (xs : List Nat) : List Shaped × Nat :=
  let blocked := tyBlocked ty
  let isBad := fun (x : Nat) => match fp32.value x with | .fin _ _ _ => false | _ => true
  if !bandValid band then
    (xs.map (fun _ => ⟨if blocked then 0 else invalidCode ty (.nan false), 0xFF, true⟩), 0)
  else if blocked && xs.any isBad then (xs.map (fun _ => ⟨0, 0xFF, true⟩), 0)
  else
    let m := maxAbs xs
    let sc := if blocked then blockScale ty m.1 m.2 (bandVal band) else 0
    if blocked && sc = 0 then (xs.map (fun _ => ⟨0, 0, false⟩), 0)
    else
      match bandVal band with
      | .fin _ bn bd =>
        let bn := if blocked then bn * scaleNum sc else bn
        let bd := if blocked then bd * 256 else bd
        xs.foldl (fun (acc : List Shaped × Nat) x =>
          if isBad x then (acc.1 ++ [⟨invalidCode ty (fp32.value x), 0xFF, true⟩], 0)
          else
            let r := shapeOne ty bn bd acc.2 x
            (acc.1 ++ [⟨r.1, sc, false⟩], r.2)) ([], c)
      | _ => (xs.map (fun _ => ⟨0, 0xFF, true⟩), 0)

/-- The blocks of a line in order, each with its own band. -/
def shapeLine (ty c : Nat) (blks : List (Nat × List Nat)) : List Shaped × Nat :=
  blks.foldl (fun (acc : List Shaped × Nat) b =>
    let r := shapeBlock ty b.1 acc.2 b.2
    (acc.1 ++ r.1, r.2)) ([], residueOf c)

/-! ### VQNS and VDQ -/

/-- The blocks of the participating lanes: the band of the lowest lane of each, and the elements (R103). -/
def State.vqnsBlocks (s : State) (gl : List Nat) (d a : BitVec 7) : List (Nat × List Nat) :=
  (List.range 8).filterMap (fun k =>
    let ls := gl.filter (fun l => l / 8 = k)
    match ls with
    | [] => none
    | l :: _ => some (((s.lane l).v d.toNat).toNat % 65536, ls.map (fun j => ((s.lane j).v a.toNat).toNat)))

/-- VQNS for the participating lanes: every operand is read before any register is written (R103). -/
def State.vqns (s : State) (gl : List Nat) (ty : Nat) (d a b : BitVec 7) : State :=
  match gl with
  | [] => s
  | l0 :: _ =>
    let r := shapeLine ty ((s.lane l0).v b.toNat).toNat (s.vqnsBlocks gl d a)
    s.onLanes gl (fun l t =>
      let e := r.1.getD (gl.idxOf l) ⟨0, 0, false⟩
      let sb := if ty = 4 then (if e.bad then 0xFF else 0) else e.scale
      (t.setV d.toNat (BitVec.ofNat 32 (e.code + sb * 256 + ty * 65536))).setV b.toNat (BitVec.ofNat 32 r.2))

def execVqnsE2m1 (g : BitVec 3) (d a b : BitVec 7) (s : State) : Host.Outcome State Fault Refusal :=
  let gl := s.guarded g
  .next (s.laneUnit (.vqnsE2m1 g d a b) gl false (bad3 s.curAlloc d a b) false (fun s => s.vqns gl 5 d a b))
def execVqnsI4h (g : BitVec 3) (d a b : BitVec 7) (s : State) : Host.Outcome State Fault Refusal :=
  let gl := s.guarded g
  .next (s.laneUnit (.vqnsI4h g d a b) gl false (bad3 s.curAlloc d a b) false (fun s => s.vqns gl 6 d a b))
def execVqnsI8h (g : BitVec 3) (d a b : BitVec 7) (s : State) : Host.Outcome State Fault Refusal :=
  let gl := s.guarded g
  .next (s.laneUnit (.vqnsI8h g d a b) gl false (bad3 s.curAlloc d a b) false (fun s => s.vqns gl 4 d a b))

/-- VDQ's value (R104). -/
def vdqVal (a b : Word) : Word :=
  let ty := nbits a.toNat 19 16
  let code := nbits a.toNat 7 0
  let scale := nbits a.toNat 15 8
  let band := nbits b.toNat 15 0
  let v :=
    if !bandValid band then FVal.nan false
    else if tyBlocked ty then decodeElem ty code scale band
    else if ty = 4 then (if scale = 0xFF then .nan false else decodeElem ty code 0 band)
    else if ty = 2 || ty = 3 then decodeElem ty code 0 band
    else .nan false
  BitVec.ofNat 32 (fp32.rne v)

def execVdq (g : BitVec 3) (d a b : BitVec 7) (s : State) : Host.Outcome State Fault Refusal :=
  .next (s.laneSet (.vdq g d a b) (s.guarded g) false (bad3 s.curAlloc d a b)
    (fun s l t => t.setV d.toNat (vdqVal ((s.lane l).v a.toNat) ((s.lane l).v b.toNat))))

end Sys2Proof.Machine
end

