-- ==== Sys2Proof/Machine/LaneFlow.lean ====
section
/-! DEFINITION. Lane control flow: BRA, CALL, RET, JMPR, EXIT, REFORM, JOIN, SFWAIT, NOP and TRAPL (02, R39 to R42;
19 to 23, R324, R327 to R329, R337, R338, R354 to R356, R366, R378, R379, R392, R412). -/

namespace Sys2Proof.Machine

/-! ### Transfers -/

/-- Move lanes to a target that has passed R268, or trap them. -/
def State.transfer (s : State) (ls : List Nat) (x : DWord) (unif : Bool) : State :=
  match targetTrap x with
  | some c => s.trapLanes ls c (loWord x) unif false false
  | none => s.onLanes ls (fun _ t => { t with pc := BitVec.ofNat 57 x.toNat })

def execBra (g : BitVec 3) (off : BitVec 23) (s : State) : Host.Outcome State Fault Refusal :=
  let gl := s.guarded g
  .next (s.laneUnit (.bra g off) gl false none false (fun s => s.transfer gl (branchTarget s.cur.pc off) false))

/-- The hardware return stack holds the eight latest addresses (R328). -/
def Thread.push (t : Thread) (ret : DWord) (target : PC) : Thread :=
  { t with rstack := (ret :: t.rstack).take 8, depth := t.depth + 1, pc := target }

/-- CALL in one lane: the oldest hardware entry spills as a store of the thread where D is 8 or more (R328, R329). -/
def State.callLane (s : State) (l : Nat) (x : DWord) (tok : Nat) : State :=
  match s.thread? s.cur.core s.cur.team l with
  | none => s
  | some t =>
    let ret : DWord := s.cur.next.zeroExtend 64
    let target : PC := BitVec.ofNat 57 x.toNat
    if t.depth < 8 then s.onLanes [l] (fun _ t => t.push ret target)
    else
      let o := 8 * (t.depth - 8)
      if (s.hdr s.cur.core).stkSize < o + 8 then
        s.trapLanes [l] 0x09 (BitVec.ofNat 32 o) false false false
      else
        let a := t.stackBase + BitVec.ofNat 64 o
        s.laneAccess l a 8 true false (fun s t k => match k with
          | .ok key =>
            let s : State := s.addStore t.tid key (toBytes 8 (t.rstack.getLastD 0).toNat) none tok a
            s.onLanes [l] (fun _ t => t.push ret target)
          | .error _ => s)

def execCall (g : BitVec 3) (off : BitVec 23) (s : State) : Host.Outcome State Fault Refusal :=
  let gl := s.guarded g
  .next (s.laneUnit (.call g off) gl false none false (fun s =>
    let x := branchTarget s.cur.pc off
    match targetTrap x with
    | some c => s.trapLanes gl c (loWord x) false false false
    | none =>
      let tok := s.nextSeq
      (gl.foldl (fun s l => s.callLane l x tok) s.bump).stIssued s.writes.length tok))

/-- The top of the stack is popped (R379). -/
def Thread.pop (t : Thread) (refill : List DWord) : Thread :=
  { t with rstack := t.rstack.tail ++ refill, depth := t.depth - 1
           pc := BitVec.ofNat 57 (t.rstack.headD 0).toNat, wait := .ready }

/-- RET in one lane: the target is the hardware top, checked under R268 before anything moves. With D of 9 or more the
thread stays at the RET until the refill is satisfied (R379). -/
def State.retLane (s : State) (l : Nat) (tok : Nat) : State :=
  match s.thread? s.cur.core s.cur.team l with
  | none => s
  | some t =>
    if t.depth = 0 then s.trapLanes [l] 0x09 0xFFFFFFF8 false false false
    else
      let x := t.rstack.headD 0
      match targetTrap x with
      | some c => s.trapLanes [l] c (loWord x) false false false
      | none =>
        if t.depth < 9 then s.onLanes [l] (fun _ t => t.pop [])
        else
          s.laneAccess l (t.stackBase + BitVec.ofNat 64 (8 * (t.depth - 9))) 8 false false (fun s t k => match k with
            | .ok key => (s.addLoad t.tid key 8 0 tok .refill (t.stackBase + BitVec.ofNat 64 (8 * (t.depth - 9)))).hold [l] (.refill s.nextSeq)
            | .error _ => s)

def execRet (g : BitVec 3) (s : State) : Host.Outcome State Fault Refusal :=
  let gl := s.guarded g
  .next (s.laneUnit (.ret g) gl false none false (fun s =>
    let tok := s.nextSeq
    (gl.foldl (fun s l => s.retLane l tok) s.bump).ldIssued s.loads.length tok))

def execJmpr (g : BitVec 3) (a : BitVec 7) (s : State) : Host.Outcome State Fault Refusal :=
  let gl := s.guarded g
  .next (s.laneUnit (.jmpr g a) gl false (firstBad [(v2Ok s.curAlloc a, 1, a.toNat)]) false (fun s =>
    gl.foldl (fun s l => s.transfer [l] ((s.lane l).v2 a.toNat) false) s))

/-! ### EXIT -/

/-- Loads of a thread still in flight are discarded; their token retires once none of its loads is left (R338). -/
def State.dropLoads (s : State) (tid : Nat) : State :=
  let toks := ((s.loads.filter (fun x => x.agent = tid)).map (·.tok)).dedup
  let s : State := { s with loads := s.loads.filter (fun x => x.agent ≠ tid) }
  toks.foldl (fun s k => if s.loads.any (fun x => x.tok = k) then s else s.onTeam (fun m => m.tokDone k)) s

/-- One thread exits: its item ends, it leaves every barrier, then the grouping stage (R337). -/
def State.exitThread (s : State) (l : Nat) : State :=
  match s.thread? s.cur.core s.cur.team l with
  | none => s
  | some t =>
    let s : State := match s.wgLaunch? s.cur.core with
      | some la => s.endItem s.cur.core la t
      | none => s
    let s : State := s.leaveBarriers s.cur.core s.cur.team
    (s.onTeam (fun m => { m with lanes := kvDel m.lanes l })).dropLoads t.tid

def execExit (g : BitVec 3) (s : State) : Host.Outcome State Fault Refusal :=
  let gl := s.guarded g
  .next (s.laneUnit (.exit g) gl false none false (fun s =>
    if gl.isEmpty then s
    else
      let s : State := gl.foldl (fun s l => s.exitThread l) s
      (s.afterLeaving s.cur.core s.cur.team).freeTeams s.cur.core))

/-! ### REFORM -/

/-- Eight team barriers of membership n (R40). -/
def barsOf (n k : Nat) : List (Nat × Barrier) := (List.range k).map (fun i => (i, ⟨n, 0, 0, []⟩))

/-- A thread that moves to another team has arrived in no phase of its barriers (R43). -/
def Thread.newTeam (t : Thread) : Thread :=
  { t with wait := .ready, arrived := t.arrived.filter (fun e => match e.1 with | .team _ => false | _ => true) }

/-- The lowest team slot that is free. -/
def State.freeTeamSlot (s : State) (core : Nat) : Option Nat :=
  match s.wg? core with
  | none => none
  | some w => (List.range (s.hdr core).teams).find? (fun t => (kvGet w.teams t).isNone)

/-- The lowest empty lane of the lowest occupied team. -/
def Workgroup.emptyLane (w : Workgroup) : Option (Nat × Nat) :=
  (w.teams.filterMap (fun e => ((List.range teamWidth).find? (fun l => (kvGet e.2.lanes l).isNone)).map
    (fun l => (e.1, l)))).head?

/-- A thread of a bin placed into a lane of an occupied team: one more member of its team barriers, and the lane's bit
cleared in its masks (R40). -/
def Team.placed (t : Team) (l : Nat) (th : Thread) : Team :=
  { t with lanes := kvPut t.lanes l th.newTeam
           bars := (List.range 8).foldl (fun m i =>
             let b := kvGetD barZero m i
             kvPut m i { b with m := b.m + 1 }) t.bars
           kmasks := (List.range 8).foldl (fun m i => kvSetD 0 m i (kvGetD 0 m i &&& ~~~(BitVec.twoPow 64 l))) t.kmasks }

/-- Draw a due bin (R40). -/
def State.draw (s : State) (core : Nat) (key : PC) : State :=
  match s.wg? core with
  | none => s
  | some w =>
    match w.bins.find? (fun b => b.key = key) with
    | none => s
    | some b =>
      let s : State := s.modWg core (fun w => { w with bins := w.bins.filter (fun x => x.key ≠ key) })
      let n := b.threads.length
      match s.freeTeamSlot core with
      | some slot =>
        let t : Team := { Team.empty with
          uid := s.nextSeq, sregs := b.sregs, qpreds := b.qpreds, mode := b.mode, rank := b.rank, order := [key]
          bars := barsOf n 8
          lanes := (List.range n).zip (b.threads.map (fun e => e.2.2.newTeam)) }
        s.bump.modWg core (fun w => { w with teams := kvPut w.teams slot t })
      | none =>
        let s : State := b.threads.foldl (fun s e =>
          match (s.wg? core).bind (fun w => w.emptyLane) with
          | none => s
          | some (t, l) => s.modTeam core t (fun m => m.placed l e.2.2)) s
        let s : State := s.regroupCore core
        (match s.wg? core with
          | some w => w.teams.map (fun (e : Nat × Team) => e.1)
          | none => []).foldl (fun s t => s.joinTest core t) s

/-- One thread leaves its team and enters the bin of its next PC; a bin that reaches W threads is drawn at once (R39,
R378). A team with no thread left frees its slot. -/
def State.enterBin (s : State) (l : Nat) : State :=
  let core := s.cur.core
  let team := s.cur.team
  let key := s.cur.next
  match s.thread? core team l with
  | none => s
  | some th =>
    let t := s.team
    let s : State := teamBars.foldl (fun s k => s.lessMember core team k) s
    let s : State := s.onTeam (fun m => { m with lanes := kvDel m.lanes l })
    let s : State := s.modWg core (fun w =>
      let fresh := !w.bins.any (fun b => b.key = key)
      let bins := if fresh then
          w.bins ++ [⟨key, (s.cluster (clusterOf core)).cycles, [], t.sregs, t.qpreds, t.mode, t.rank⟩]
        else w.bins
      { w with bins := bins.map (fun b => if b.key = key then { b with threads := b.threads ++ [(team, l, th)] } else b) })
    let s : State := s.joinTest core team
    let s : State := s.freeTeams core
    let full := ((s.wg? core).map (fun w => w.bins.any (fun b => b.key = key && teamWidth ≤ b.threads.length))).getD false
    if full then s.draw core key else s

def execReform (g : BitVec 3) (s : State) : Host.Outcome State Fault Refusal :=
  let gl := s.guarded g
  .next (s.laneUnit (.reform g) gl false none false (fun s =>
    if (s.hdr s.cur.core).accs ≠ 0 then s.trapLanes gl 0x0A 0 false false false
    else gl.foldl (fun s l => s.enterBin l) s))

/-! ### JOIN, SFWAIT, NOP, TRAPL -/

/-- The issuing team's arrival, under way until its release completes (R43). -/
def State.arrive (s : State) (ls : List Nat) (bar : Option BarKey) (join : Option Nat) (sync : Bool) : State :=
  let w := (s.wg? s.cur.core).map (fun w => (w.launch, w.num, w.grp))
  let (launch, num, grp) := w.getD (0, 0, 0)
  let a : Arrival := ⟨s.nextSeq, s.cur.core, s.cur.team, s.team.uid, ls.map (fun l => (s.lane l).tid), bar, join, sync, launch, num, grp⟩
  { s.bump with arrivals := s.arrivals ++ [a] }

/-- JOIN: a thread whose bit is clear passes; the others arrive, with a release at BLOCK scope, and wait (R42, R355). -/
def execJoin (g k : BitVec 3) (s : State) : Host.Outcome State Fault Refusal :=
  let gl := s.guarded g
  .next (s.laneUnit (.join g k) gl false none false (fun s =>
    let ls := gl.filter (fun l => (s.team.k k.toNat).getLsbD l)
    if ls.isEmpty then s
    else
      let id := s.nextSeq
      (s.arrive ls none (some k.toNat) true).onLanes ls (fun _ t => { t with wait := .arrive id })))

/-- The issue numbers of the latest SFQ that holds each token of a mask (R392). -/
def sfTokens (sfNo : Nat) (mask : BitVec 16) : List Nat :=
  ((List.range 16).filter (fun i => i < sfNo)).filterMap (fun i =>
    let no := sfNo - 1 - i
    if mask.getLsbD (no % 16) then some no else none)

def execSfwait (g : BitVec 3) (mask : BitVec 16) (s : State) : Host.Outcome State Fault Refusal :=
  let gl := s.guarded g
  .next (s.laneUnit (.sfwait g mask) gl false none false (fun s =>
    let nos := (sfTokens s.team.sfNo mask).filter (fun n => s.sfqs.any (fun x => x.uid = s.team.uid && x.no = n))
    if nos.isEmpty then s else s.onLanes gl (fun _ t => { t with wait := .sfwait nos })))

def execNop (g : BitVec 3) (s : State) : Host.Outcome State Fault Refusal :=
  .next (s.laneUnit (.nop g) (s.guarded g) false none false (fun s => s))

def execTrapl (g : BitVec 3) (code : BitVec 8) (s : State) : Host.Outcome State Fault Refusal :=
  let gl := s.guarded g
  .next (s.laneUnit (.trapl g code) gl false none false (fun s =>
    s.trapLanes gl 0x10 (code.zeroExtend 32) false false true))

end Sys2Proof.Machine
end

