-- ==== Sys2Proof/Machine/LaneInt.lean ====
section
/-! DEFINITION. The lane integer, logic, shift, bit-field, compare, predicate and move instructions (19 to 22: R298,
R317 to R319, R325, R333, R349 to R353, R364, R365, R367, R369, R393). -/

namespace Sys2Proof.Machine

/-! ### The functions of values -/

/-- Bits [63:32] of the exact product as int32 or unsigned (R349). -/
def mulHigh (x y : Word) : Word := BitVec.ofInt 32 (x.toInt * y.toInt / 4294967296)
def mulHighU (x y : Word) : Word := BitVec.ofNat 32 (x.toNat * y.toNat / 4294967296)

def minS (x y : Word) : Word := if x.toInt ≤ y.toInt then x else y
def maxS (x y : Word) : Word := if x.toInt ≤ y.toInt then y else x
def minU (x y : Word) : Word := if x.toNat ≤ y.toNat then x else y
def maxU (x y : Word) : Word := if x.toNat ≤ y.toNat then y else x

/-- |int32(x) - int32(y)|, exact (R350). -/
def absDiff (x y : Word) : Word := BitVec.ofNat 32 (x.toInt - y.toInt).natAbs

/-- The shifts take y[4:0] only (R382, R393). -/
def shlW (x y : Word) : Word := x <<< (y.toNat % 32)
def shrW (x y : Word) : Word := x >>> (y.toNat % 32)
def shraW (x y : Word) : Word := x.sshiftRight (y.toNat % 32)
def rotlW (x y : Word) : Word := x.rotateLeft (y.toNat % 32)

/-- The number of set bits among the low `n`. -/
def popLow (x : Nat) : Nat → Nat
  | 0 => 0
  | n + 1 => popLow (x / 2) n + x % 2

def popcount (x : Word) : Word := BitVec.ofNat 32 (popLow x.toNat 32)

/-- Zero bits above the highest set bit (R333). -/
def leadZeros (x : Word) : Word := BitVec.ofNat 32 (if x = 0 then 32 else 31 - Nat.log2 x.toNat)

/-- Bit i of the result is x[31 - i] (R325). -/
def bitReverse (x : Word) : Word := x.reverse

/-- n one bits. -/
def ones (n : Nat) : Word := BitVec.ofNat 32 (2 ^ n - 1)

/-- BFI (R318). -/
def insertBits (x y : Word) : Word :=
  let pos := y.toNat % 32
  let n := min (min (nbits y.toNat 13 8) 16) (32 - pos)
  (x &&& ~~~(ones n <<< pos)) ||| ((BitVec.ofNat 32 (nbits y.toNat 31 16) &&& ones n) <<< pos)

/-- BFX (R319). -/
def extractBits (x y : Word) : Word :=
  let pos := y.toNat % 32
  let n := min (nbits y.toNat 13 8) (32 - pos)
  if n = 0 then 0
  else
    let f := (x >>> pos) &&& ones n
    if nbits y.toNat 15 15 = 1 && f.getLsbD (n - 1) then f ||| ~~~(ones n) else f

/-! ### Meanings -/

def execIadd (g : BitVec 3) (d a b : BitVec 7) (s : State) : Host.Outcome State Fault Refusal :=
  .next (s.laneOp (.iadd g d a b) g d a b (fun x y _ => x + y))
def execIsub (g : BitVec 3) (d a b : BitVec 7) (s : State) : Host.Outcome State Fault Refusal :=
  .next (s.laneOp (.isub g d a b) g d a b (fun x y _ => x - y))
def execImul (g : BitVec 3) (d a b : BitVec 7) (s : State) : Host.Outcome State Fault Refusal :=
  .next (s.laneOp (.imul g d a b) g d a b (fun x y _ => x * y))
def execImulh (g : BitVec 3) (d a b : BitVec 7) (s : State) : Host.Outcome State Fault Refusal :=
  .next (s.laneOp (.imulh g d a b) g d a b (fun x y _ => mulHigh x y))
def execImulhu (g : BitVec 3) (d a b : BitVec 7) (s : State) : Host.Outcome State Fault Refusal :=
  .next (s.laneOp (.imulhu g d a b) g d a b (fun x y _ => mulHighU x y))
def execImad (g : BitVec 3) (d a b : BitVec 7) (s : State) : Host.Outcome State Fault Refusal :=
  .next (s.laneOp (.imad g d a b) g d a b (fun x y z => x * y + z))
def execImin (g : BitVec 3) (d a b : BitVec 7) (s : State) : Host.Outcome State Fault Refusal :=
  .next (s.laneOp (.imin g d a b) g d a b (fun x y _ => minS x y))
def execImax (g : BitVec 3) (d a b : BitVec 7) (s : State) : Host.Outcome State Fault Refusal :=
  .next (s.laneOp (.imax g d a b) g d a b (fun x y _ => maxS x y))
def execIminu (g : BitVec 3) (d a b : BitVec 7) (s : State) : Host.Outcome State Fault Refusal :=
  .next (s.laneOp (.iminu g d a b) g d a b (fun x y _ => minU x y))
def execImaxu (g : BitVec 3) (d a b : BitVec 7) (s : State) : Host.Outcome State Fault Refusal :=
  .next (s.laneOp (.imaxu g d a b) g d a b (fun x y _ => maxU x y))
def execIabsd (g : BitVec 3) (d a b : BitVec 7) (s : State) : Host.Outcome State Fault Refusal :=
  .next (s.laneOp (.iabsd g d a b) g d a b (fun x y _ => absDiff x y))

/-- ISEL: the field [25:23] selects and is no guard, so every thread executes it (R353). -/
def execIsel (n : BitVec 3) (d a b : BitVec 7) (s : State) : Host.Outcome State Fault Refusal :=
  .next (s.laneSet (.isel n d a b) s.subset false (bad3 s.curAlloc d a b)
    (fun s l t => t.setV d.toNat (if t.p n.toNat then s.srcA l a else s.srcB l b)))

def execAnd (g : BitVec 3) (d a b : BitVec 7) (s : State) : Host.Outcome State Fault Refusal :=
  .next (s.laneOp (.and g d a b) g d a b (fun x y _ => x &&& y))
def execOr (g : BitVec 3) (d a b : BitVec 7) (s : State) : Host.Outcome State Fault Refusal :=
  .next (s.laneOp (.or g d a b) g d a b (fun x y _ => x ||| y))
def execXor (g : BitVec 3) (d a b : BitVec 7) (s : State) : Host.Outcome State Fault Refusal :=
  .next (s.laneOp (.xor g d a b) g d a b (fun x y _ => x ^^^ y))
def execAndn (g : BitVec 3) (d a b : BitVec 7) (s : State) : Host.Outcome State Fault Refusal :=
  .next (s.laneOp (.andn g d a b) g d a b (fun x y _ => x &&& ~~~y))

def execShl (g : BitVec 3) (d a b : BitVec 7) (s : State) : Host.Outcome State Fault Refusal :=
  .next (s.laneOp (.shl g d a b) g d a b (fun x y _ => shlW x y))
def execShr (g : BitVec 3) (d a b : BitVec 7) (s : State) : Host.Outcome State Fault Refusal :=
  .next (s.laneOp (.shr g d a b) g d a b (fun x y _ => shrW x y))
def execShra (g : BitVec 3) (d a b : BitVec 7) (s : State) : Host.Outcome State Fault Refusal :=
  .next (s.laneOp (.shra g d a b) g d a b (fun x y _ => shraW x y))
def execRotl (g : BitVec 3) (d a b : BitVec 7) (s : State) : Host.Outcome State Fault Refusal :=
  .next (s.laneOp (.rotl g d a b) g d a b (fun x y _ => rotlW x y))

def execPopc (g : BitVec 3) (d a : BitVec 7) (s : State) : Host.Outcome State Fault Refusal :=
  .next (s.laneOp1 (.popc g d a) g d a popcount)
def execClz (g : BitVec 3) (d a : BitVec 7) (s : State) : Host.Outcome State Fault Refusal :=
  .next (s.laneOp1 (.clz g d a) g d a leadZeros)
def execBrev (g : BitVec 3) (d a : BitVec 7) (s : State) : Host.Outcome State Fault Refusal :=
  .next (s.laneOp1 (.brev g d a) g d a bitReverse)
def execBfx (g : BitVec 3) (d a b : BitVec 7) (s : State) : Host.Outcome State Fault Refusal :=
  .next (s.laneOp (.bfx g d a b) g d a b (fun x y _ => extractBits x y))
def execBfi (g : BitVec 3) (d a b : BitVec 7) (s : State) : Host.Outcome State Fault Refusal :=
  .next (s.laneOp (.bfi g d a b) g d a b (fun x y _ => insertBits x y))

/-- ICMP: the integer column of R285 into p[n]; a write to p7 is discarded (R352). -/
def execIcmp (g : BitVec 3) (cond : BitVec 4) (p : BitVec 3) (a b : BitVec 7) (s : State) :
    Host.Outcome State Fault Refusal :=
  .next (s.lanePred (.icmp g cond p a b) g
    (firstBad [(vOk s.curAlloc a, 1, a.toNat), (vOk s.curAlloc b, 2, b.toNat)]) p
    (fun s _ l _ => (intCond cond.toNat (s.srcA l a) (s.srcB l b), 0)))

def execMov (g : BitVec 3) (d a : BitVec 7) (s : State) : Host.Outcome State Fault Refusal :=
  .next (s.laneOp1 (.mov g d a) g d a id)

/-- MOVI: imm16, with bits [31:16] from a governing EXT (R277, R365). -/
def execMovi (g : BitVec 3) (d : BitVec 7) (imm : BitVec 16) (s : State) : Host.Outcome State Fault Refusal :=
  .next (s.laneSet (.movi g d imm) (s.guarded g) false (bad1 s.curAlloc d)
    (fun s _ t => t.setV d.toNat (BitVec.ofNat 32 (imm.toNat + s.cur.extOff.toNat % 65536 * 65536))))

def execIaddi (g : BitVec 3) (d a : BitVec 7) (imm : BitVec 9) (s : State) : Host.Outcome State Fault Refusal :=
  .next (s.laneOp1 (.iaddi g d a imm) g d a (fun x => x + imm.signExtend 32))

/-- Logic on the threads' predicates (R367). -/
def State.predOp (s : State) (i : Instr) (g d a b : BitVec 3) (f : Bool → Bool → Bool) : State :=
  s.laneSet i (s.guarded g) false none (fun _ _ t => t.setP d.toNat (f (t.p a.toNat) (t.p b.toNat)))

def execPand (g d a b : BitVec 3) (s : State) : Host.Outcome State Fault Refusal :=
  .next (s.predOp (.pand g d a b) g d a b (fun x y => x && y))
def execPor (g d a b : BitVec 3) (s : State) : Host.Outcome State Fault Refusal :=
  .next (s.predOp (.por g d a b) g d a b (fun x y => x || y))
def execPxor (g d a b : BitVec 3) (s : State) : Host.Outcome State Fault Refusal :=
  .next (s.predOp (.pxor g d a b) g d a b (fun x y => x != y))
def execPnand (g d a b : BitVec 3) (s : State) : Host.Outcome State Fault Refusal :=
  .next (s.predOp (.pnand g d a b) g d a b (fun x y => !(x && y)))

end Sys2Proof.Machine
end

