-- ==== Sys2Proof/Machine/Unif.lean ====
section
/-! DEFINITION. The uniform integer, move, compare, predicate, mask, memory and branch instructions, SMODE and YIELD
(21, R357, R371; 22, R381 to R385, R395 to R398, R400; 23, R425), and the uniform traps TRAP, RETT and BRKPT (R326,
R380, R412). -/

namespace Sys2Proof.Machine

def execSadd (g : BitVec 3) (d a b : BitVec 7) (s : State) : Host.Outcome State Fault Refusal :=
  .next (s.unifOp (.sadd g d a b) g d a b (fun x y => x + y))
def execSsub (g : BitVec 3) (d a b : BitVec 7) (s : State) : Host.Outcome State Fault Refusal :=
  .next (s.unifOp (.ssub g d a b) g d a b (fun x y => x - y))
def execSmul (g : BitVec 3) (d a b : BitVec 7) (s : State) : Host.Outcome State Fault Refusal :=
  .next (s.unifOp (.smul g d a b) g d a b (fun x y => x * y))
def execSmulh (g : BitVec 3) (d a b : BitVec 7) (s : State) : Host.Outcome State Fault Refusal :=
  .next (s.unifOp (.smulh g d a b) g d a b (fun x y => mulHigh x y))
def execSand (g : BitVec 3) (d a b : BitVec 7) (s : State) : Host.Outcome State Fault Refusal :=
  .next (s.unifOp (.sand g d a b) g d a b (fun x y => x &&& y))
def execSor (g : BitVec 3) (d a b : BitVec 7) (s : State) : Host.Outcome State Fault Refusal :=
  .next (s.unifOp (.sor g d a b) g d a b (fun x y => x ||| y))
def execSxor (g : BitVec 3) (d a b : BitVec 7) (s : State) : Host.Outcome State Fault Refusal :=
  .next (s.unifOp (.sxor g d a b) g d a b (fun x y => x ^^^ y))
def execSshl (g : BitVec 3) (d a b : BitVec 7) (s : State) : Host.Outcome State Fault Refusal :=
  .next (s.unifOp (.sshl g d a b) g d a b (fun x y => shlW x y))
def execSshr (g : BitVec 3) (d a b : BitVec 7) (s : State) : Host.Outcome State Fault Refusal :=
  .next (s.unifOp (.sshr g d a b) g d a b (fun x y => shrW x y))
def execSshra (g : BitVec 3) (d a b : BitVec 7) (s : State) : Host.Outcome State Fault Refusal :=
  .next (s.unifOp (.sshra g d a b) g d a b (fun x y => shraW x y))
def execSmin (g : BitVec 3) (d a b : BitVec 7) (s : State) : Host.Outcome State Fault Refusal :=
  .next (s.unifOp (.smin g d a b) g d a b (fun x y => minS x y))
def execSmax (g : BitVec 3) (d a b : BitVec 7) (s : State) : Host.Outcome State Fault Refusal :=
  .next (s.unifOp (.smax g d a b) g d a b (fun x y => maxS x y))

/-- SCMP (R385). -/
def execScmp (g : BitVec 3) (cond : BitVec 4) (q : BitVec 3) (a b : BitVec 7) (s : State) :
    Host.Outcome State Fault Refusal :=
  .next (s.unifSet (.scmp g cond q a b) (s.guardU g) (firstBad [(sOk a, 1, a.toNat), (sOk b, 2, b.toNat)])
    (fun t => t.setQ q.toNat (intCond cond.toNat (t.sr a.toNat) (t.sr b.toNat))))

/-- SSEL: the field [25:23] selects and is no guard (R400). -/
def execSsel (n : BitVec 3) (d a b : BitVec 7) (s : State) : Host.Outcome State Fault Refusal :=
  .next (s.unifSet (.ssel n d a b) true (badS3 d a b)
    (fun t => t.setSr d.toNat (if t.q n.toNat then t.sr a.toNat else t.sr b.toNat)))

def execSmov (g : BitVec 3) (d a : BitVec 7) (s : State) : Host.Outcome State Fault Refusal :=
  .next (s.unifSet (.smov g d a) (s.guardU g) (badS2 d a) (fun t => t.setSr d.toNat (t.sr a.toNat)))
def execSmovi (g : BitVec 3) (d : BitVec 7) (imm : BitVec 16) (s : State) : Host.Outcome State Fault Refusal :=
  .next (s.unifSet (.smovi g d imm) (s.guardU g) (badS1 d) (fun t => t.setSr d.toNat (imm.zeroExtend 32)))
def execSaddi (g : BitVec 3) (d a : BitVec 7) (imm : BitVec 9) (s : State) : Host.Outcome State Fault Refusal :=
  .next (s.unifSet (.saddi g d a imm) (s.guardU g) (badS2 d a)
    (fun t => t.setSr d.toNat (t.sr a.toNat + imm.signExtend 32)))

/-! ### Uniform memory (R396) -/

def State.sldForm (s : State) (i : Instr) (g : BitVec 3) (d a imm : BitVec 7) (n : Nat) : State :=
  let dOk := if n = 8 then s2Ok d else sOk d
  let addr := s.ulAddr a imm
  s.unifUnit i (s.guardU g) (firstBad [(dOk, 0, d.toNat), (s2Ok a, 1, a.toNat)]) false (fun s =>
    s.unifAccess addr n false (fun s key => s.unifLoad key n (.unif d.toNat) addr))

def State.sstForm (s : State) (i : Instr) (g : BitVec 3) (d a imm : BitVec 7) (n : Nat) : State :=
  let dOk := if n = 8 then s2Ok d else sOk d
  let addr := s.ulAddr a imm
  let data := (toBytes 8 (s.team.sr2 d.toNat).toNat).take n
  s.unifUnit i (s.guardU g) (firstBad [(dOk, 0, d.toNat), (s2Ok a, 1, a.toNat)]) false (fun s =>
    s.unifAccess addr n true (fun s key => s.unifStore key data addr))

def execSldW (g : BitVec 3) (d a imm : BitVec 7) (s : State) : Host.Outcome State Fault Refusal :=
  .next (s.sldForm (.sldW g d a imm) g d a imm 4)
def execSldD (g : BitVec 3) (d a imm : BitVec 7) (s : State) : Host.Outcome State Fault Refusal :=
  .next (s.sldForm (.sldD g d a imm) g d a imm 8)
def execSstW (g : BitVec 3) (d a imm : BitVec 7) (s : State) : Host.Outcome State Fault Refusal :=
  .next (s.sstForm (.sstW g d a imm) g d a imm 4)
def execSstD (g : BitVec 3) (d a imm : BitVec 7) (s : State) : Host.Outcome State Fault Refusal :=
  .next (s.sstForm (.sstD g d a imm) g d a imm 8)

def execQand (g d a b : BitVec 3) (s : State) : Host.Outcome State Fault Refusal :=
  .next (s.unifPred (.qand g d a b) g d a b (fun x y => x && y))
def execQor (g d a b : BitVec 3) (s : State) : Host.Outcome State Fault Refusal :=
  .next (s.unifPred (.qor g d a b) g d a b (fun x y => x || y))
def execQxor (g d a b : BitVec 3) (s : State) : Host.Outcome State Fault Refusal :=
  .next (s.unifPred (.qxor g d a b) g d a b (fun x y => x != y))
def execQnand (g d a b : BitVec 3) (s : State) : Host.Outcome State Fault Refusal :=
  .next (s.unifPred (.qnand g d a b) g d a b (fun x y => !(x && y)))

/-- SBRA: the whole entry moves (R384). -/
def execSbra (g : BitVec 3) (off : BitVec 23) (s : State) : Host.Outcome State Fault Refusal :=
  .next (s.unifUnit (.sbra g off) (s.guardU g) none false (fun s => s.transfer s.subset (branchTarget s.cur.pc off) true))

/-! ### Join masks (R357): a write may release waiters (R356) -/

def State.maskSet (s : State) (i : Instr) (g : BitVec 3) (f : State → Team → Team) : State :=
  s.unifUnit i (s.guardU g) none false (fun s => (s.onTeam (f s)).joinTest s.cur.core s.cur.team)

def execKset (g d : BitVec 3) (s : State) : Host.Outcome State Fault Refusal :=
  .next (s.maskSet (.kset g d) g (fun s t => t.setK d.toNat s.cur.lanes))
def execKand (g d a b : BitVec 3) (s : State) : Host.Outcome State Fault Refusal :=
  .next (s.maskSet (.kand g d a b) g (fun _ t => t.setK d.toNat (t.k a.toNat &&& t.k b.toNat)))
def execKor (g d a b : BitVec 3) (s : State) : Host.Outcome State Fault Refusal :=
  .next (s.maskSet (.kor g d a b) g (fun _ t => t.setK d.toNat (t.k a.toNat ||| t.k b.toNat)))
def execKmov (g d a : BitVec 3) (s : State) : Host.Outcome State Fault Refusal :=
  .next (s.maskSet (.kmov g d a) g (fun _ t => t.setK d.toNat (t.k a.toNat)))

/-- SMODE (R397). -/
def execSmode (g : BitVec 3) (a : BitVec 7) (s : State) : Host.Outcome State Fault Refusal :=
  .next (s.unifSet (.smode g a) (s.guardU g) (firstBad [(sOk a, 1, a.toNat)])
    (fun t => { t with mode := BitVec.ofNat 9 (t.sr a.toNat).toNat }))

/-- YIELD: a cancellation point; otherwise the team ranks lowest until the next renewal (R425). -/
def execYield (g : BitVec 3) (s : State) : Host.Outcome State Fault Refusal :=
  .next (s.unifUnit (.yield g) (s.guardU g) none false (fun s =>
    if ((s.wg? s.cur.core).map (·.told)).getD false then
      -- the stopping issue counts in INSNS (R216)
      (s.modWg s.cur.core (fun w => { w with insns := w.insns + 1 })).cancelStop s.cur.core
    else s.onTeam (fun t => { t with rank := 0 })))

/-! ### TRAP, BRKPT, RETT -/

def execTrap (g : BitVec 3) (code : BitVec 8) (s : State) : Host.Outcome State Fault Refusal :=
  .next (s.unifUnit (.trap g code) (s.guardU g) none false (fun s =>
    s.trapLanes s.subset 0x10 (code.zeroExtend 32) true false true))

def execBrkpt (g : BitVec 3) (s : State) : Host.Outcome State Fault Refusal :=
  .next (s.unifUnit (.brkpt g) (s.guardU g) none false (fun s => s.trapLanes s.subset 0x11 0 true false true))

/-- RETT: every check runs before any thread leaves its handler (R380). -/
def execRett (g : BitVec 3) (a : BitVec 7) (s : State) : Host.Outcome State Fault Refusal :=
  let i : Instr := .rett g a
  .next (s.unifUnit i (s.guardU g) (firstBad [(sOk a, 1, a.toNat)])
    (s.subset.any (fun l => !(s.lane l).inHandler)) (fun s =>
    let off := (s.team.sr a.toNat).signExtend 64
    let target := fun (l : Nat) => ((s.lane l).tpc.zeroExtend 64 + off : DWord)
    match (s.subset.filterMap (fun l => (targetTrap (target l)).map (fun c => (c, loWord (target l))))).head? with
    | some (c, v) => s.trapLanes s.subset c v true false false
    | none => s.onLanes s.subset (fun l t => t.leaveHandler (BitVec.ofNat 57 (target l).toNat))))

end Sys2Proof.Machine
end

