-- ==== Sys2Proof/Machine/UnifSync.lean ====
section
/-! DEFINITION. The uniform instructions that order, wait and talk to other units: BAR (19, R313 to R316), FENCE (20, R345),
WAITC and WAITM (23, R421 to R423), SEAL and UNSEAL (22, R386 to R388), arrival words (19, R305 to R309), TFETCH (23, R410),
the ballot (19, R320 to R323; 22, R394) and hardware queues (21, R372 to R375). -/

namespace Sys2Proof.Machine

/-- The threads of the subset, by name. -/
def State.subsetTids (s : State) : List Nat := s.subset.map (fun l => (s.lane l).tid)

/-- Has the pier of the issuing workgroup been told that its sibling is cancelled (R212)? -/
def State.told (s : State) : Bool := ((s.wg? s.cur.core).map (·.told)).getD false

/-- A cancellation point of a told workgroup: the stopping issue counts in INSNS and the workgroup stops (R213, R216). -/
def State.cancelHere (s : State) : State :=
  (s.modWg s.cur.core (fun w => { w with insns := w.insns + 1 })).cancelStop s.cur.core

/-! ### Barriers -/

/-- The barrier that a level and number name (R290). -/
def barKeyOf (lvl n : Nat) : BarKey :=
  match lvl with
  | 0 => .team n
  | 1 => .wg n
  | 2 => .cluster n
  | _ => .grid n

/-- The check that a cluster barrier needs CLUSTER = 1 (R316), then a cancellation point at every level but the team's. -/
def State.barUnit (s : State) (i : Instr) (g : BitVec 3) (lvl : BitVec 2) (body : State → State) : State :=
  s.unifUnit i (s.guardU g) none false (fun s =>
    if lvl.toNat = 2 && !(s.hdr s.cur.core).cluster then s.trapLanes s.subset 0x01 i.word true false false
    else if lvl.toNat ≠ 0 && s.told then s.cancelHere
    else body s)

def execBarSync (g : BitVec 3) (lvl : BitVec 2) (n : BitVec 5) (s : State) : Host.Outcome State Fault Refusal :=
  .next (s.barUnit (.barSync g lvl n) g lvl (fun s =>
    let id := s.nextSeq
    (s.arrive s.subset (some (barKeyOf lvl.toNat n.toNat)) none true).onLanes s.subset
      (fun _ t => { t with wait := .arrive id })))

/-- BAR.ARV: a thread that has arrived in the phase under way, or whose arrival is not counted yet, waits (R43, R314). -/
def execBarArv (g : BitVec 3) (lvl : BitVec 2) (n : BitVec 5) (s : State) : Host.Outcome State Fault Refusal :=
  .next (s.barUnit (.barArv g lvl n) g lvl (fun s =>
    let id := s.nextSeq
    let k := barKeyOf lvl.toNat n.toNat
    let phase := (s.barrier s.cur.core s.cur.team k).phase
    let again := s.subset.filter (fun l =>
      let t := s.lane l
      (match t.lastArrival k with | some (p, _) => p = phase | none => false)
        || s.arrivals.any (fun (a : Arrival) => a.bar = some k && a.agents.contains t.tid))
    (s.arrive s.subset (some k) none false).onLanes again (fun _ t => { t with wait := .arrive id })))

/-- Does BAR.WAIT pass: has the phase of the thread's latest arrival completed, and has the thread not waited on it since
(R314)? -/
def Thread.waitPasses (t : Thread) (k : BarKey) (phase : Nat) : Bool :=
  match t.lastArrival k with
  | some (p, waited) => p < phase && !waited
  | none => false

/-- A thread that BAR.WAIT has seen: its latest arrival is waited on. -/
def Thread.markWaited (t : Thread) (k : BarKey) : Thread :=
  match t.lastArrival k with
  | some (p, _) => t.setArrival k p true
  | none => t

def execBarWait (g : BitVec 3) (lvl : BitVec 2) (n : BitVec 5) (s : State) : Host.Outcome State Fault Refusal :=
  .next (s.barUnit (.barWait g lvl n) g lvl (fun s =>
    let k := barKeyOf lvl.toNat n.toNat
    let phase := (s.barrier s.cur.core s.cur.team k).phase
    let pass := s.subset.filter (fun l => (s.lane l).waitPasses k phase)
    let tids := pass.map (fun l => (s.lane l).tid)
    let s : State := s.onLanes s.subset (fun l t =>
      if pass.contains l then t.markWaited k else { t.markWaited k with wait := .barrier k phase })
    if tids.isEmpty then s else s.acquire s.cur.core s.team.uid tids k.scope (s.barStamp s.cur.core s.cur.team k)))

/-- What BAR.QRY writes (R315). -/
def Barrier.query (b : Barrier) : Word := BitVec.ofNat 32 (min (b.m - b.a) 16777215 + b.phase % 256 * 16777216)

def execBarQry (g : BitVec 3) (lvl : BitVec 2) (n : BitVec 5) (d : BitVec 7) (s : State) :
    Host.Outcome State Fault Refusal :=
  let i : Instr := .barQry g lvl n d
  .next (s.unifUnit i (s.guardU g) none false (fun s =>
    if lvl.toNat = 2 && !(s.hdr s.cur.core).cluster then s.trapLanes s.subset 0x01 i.word true false false
    else match badS1 d with
      | some v => s.trapLanes s.subset 0x02 v true false false
      | none =>
        let r := (s.barrier s.cur.core s.cur.team (barKeyOf lvl.toNat n.toNat)).query
        s.onTeam (fun t => t.setSr d.toNat r)))

/-! ### FENCE, WAITC, WAITM -/

/-- FENCE (R123, R345): kind 0 ACQ, 1 REL, 2 ACQREL. -/
def execFence (g : BitVec 3) (sc k : BitVec 2) (s : State) : Host.Outcome State Fault Refusal :=
  .next (s.unifUnit (.fence g sc k) (s.guardU g) none false (fun s =>
    s.startFence s.cur.core s.team.uid s.subsetTids sc.toNat (k.toNat ≠ 0) (k.toNat ≠ 1) []))

/-- WAITC: the thresholds are tested against the counters as they stand, at every turn (R421). -/
def execWaitc (g : BitVec 3) (ld st cp mx : BitVec 4) (s : State) : Host.Outcome State Fault Refusal :=
  .next (s.unifUnit (.waitc g ld st cp mx) (s.guardU g) none false (fun s =>
    s.onLanes s.subset (fun _ t => { t with wait := .waitc ld.toNat st.toNat cp.toNat mx.toNat })))

/-- The test that WAITM makes at its issue (R423): the condition holds and the wait ends as an acquire of what the word's DEVICE point
knows (R111, R124), or it waits. -/
def State.waitmStart (s : State) (addr : DWord) (key cond : Nat) (y : Word) : State :=
  let x : Word := BitVec.ofNat 32 (s.homeNat (s.ctxOf s.cur.core) key 4)
  if intCond cond x y then s.acquire s.cur.core s.team.uid s.subsetTids 2 (s.stampFrom s.cur.core key)
  else s.onLanes s.subset (fun _ t => { t with wait := .waitm addr key cond y })

/-- WAITM (R422): the address check stands before the alignment check. -/
def execWaitm (g : BitVec 3) (cond : BitVec 4) (a b : BitVec 7) (s : State) : Host.Outcome State Fault Refusal :=
  let addr := s.team.sr2 a.toNat
  let y := s.team.sr b.toNat
  finish (s.unifUnit (.waitm g cond a b) (s.guardU g) (firstBad [(s2Ok a, 1, a.toNat), (sOk b, 2, b.toNat)]) false (fun s =>
    match s.place s.cur.core addr 4 with
    | .invalid => s.trapLanes s.subset 0x04 (loWord addr) true false false
    | p =>
      if addr.toNat % 4 ≠ 0 then s.trapLanes s.subset 0x03 (loWord addr) true false false
      else match p with
        | .invalid => s
        | .window key =>
          if s.firewallOk (s.ctxOf s.cur.core) key then s.waitmStart addr key cond.toNat y
          else s.firewallFault s.cur.core addr.toNat none
        | .virt va =>
          let m := s.missOf addr false true
          match s.translate s.cur.core m.ctx va false false with
          | .ok key =>
            if s.firewallOk m.ctx key then (s.checkMem key).waitmStart addr key cond.toNat y
            else s.firewallFault s.cur.core va none
          | .sealed => s
          | .refused => s.firewallFault s.cur.core va none
          | .miss => (s.needWalk s.cur.core m.ctx va).hold s.subset (.walk m)
          | .fault k => (s.newFault (.threads s.cur.core) k m s.cur.core).hold s.subset (.fault s.nextSeq)))

/-! ### SEAL, UNSEAL -/

/-- The first fault of the walk over every leaf of a region: the address and the KIND, or none where the firewall refuses the walk
(R226, R387). SEAL needs W. Fuel: the region's 128 KiB units. -/
def State.regionFault (s : State) (ctx : Nat) (needW : Bool) (stop : Nat) : Nat → Nat → Option (Nat × Option Nat)
  | 0, _ => none
  | fuel + 1, va =>
    if stop ≤ va then none
    else match s.walk ctx va with
      | .fault k => some (va, some k)
      | .noMem _ => some (va, some 0)
      | .refused => some (va, none)
      | .leaf e =>
        if needW && !e.w then some (va, some 1)
        else s.regionFault ctx needW stop fuel ((va / 2 ^ pageBits e.size + 1) * 2 ^ pageBits e.size)

/-- SEAL and UNSEAL at their issue: the checks of R387, then a request to the Keystone controller, which acts once the
ACQREL fence of R388, which has the request's number, has completed. -/
def State.sealForm (s : State) (i : Instr) (g : BitVec 3) (a b : BitVec 7) (unsl : Bool) : State :=
  let base := s.team.sr2 a.toNat
  let pages := (s.team.sr b.toNat).toNat
  s.unifUnit i (s.guardU g) (firstBad [(s2Ok a, 1, a.toNat), (sOk b, 2, b.toNat)]) false (fun s =>
    if base.toNat % 131072 ≠ 0 then s.trapLanes s.subset 0x03 (loWord base) true false false
    else if nbits base.toNat 63 57 ≠ 0 || nbits base.toNat 56 48 = 0x1FF || 2 ^ 57 < base.toNat + 131072 * pages then
      s.trapLanes s.subset 0x04 (loWord base) true false false
    else if pages = 0 then s
    else
      let ctx := s.ctxOf s.cur.core
      match s.regionFault ctx (!unsl) (base.toNat + 131072 * pages) pages base.toNat with
      | some (va, none) => s.firewallFault s.cur.core va none
      | some (va, some k) =>
        let m := s.missOf (BitVec.ofNat 64 va) false true
        (s.newFault (.threads s.cur.core) k m s.cur.core).hold s.subset (.fault s.nextSeq)
      | none =>
        let r : SealReq := ⟨s.nextSeq, s.cur.core, s.team.uid, ctx, base, pages, unsl, false, []⟩
        let f : FenceReq := ⟨r.id, r.core, r.uid, s.subsetTids ++ [r.uid], 2, true, true, []⟩
        let s : State := { s.bump with seals := s.seals ++ [r], fences := s.fences ++ [f] }
        s.onLanes s.subset (fun _ t => { t with wait := .seal r.id }))

def execSeal (g : BitVec 3) (a b : BitVec 7) (s : State) : Host.Outcome State Fault Refusal :=
  .next (s.sealForm (.seal g a b) g a b false)
def execUnseal (g : BitVec 3) (a b : BitVec 7) (s : State) : Host.Outcome State Fault Refusal :=
  .next (s.sealForm (.unseal g a b) g a b true)

/-! ### Arrival words -/

/-- The checks of R306, steps 3 and 4, then the body with the word's key in the own scratchpad. -/
def State.awUnit (s : State) (i : Instr) (g : BitVec 3) (a : BitVec 7) (bad : Option Word) (body : State → Nat → State) :
    State :=
  let off := (s.team.sr a.toNat).toNat
  s.unifUnit i (s.guardU g) bad false (fun s =>
    if off % 8 ≠ 0 then s.trapLanes s.subset 0x03 (BitVec.ofNat 32 off) true false false
    else if s.scratchBytes s.cur.core < off + 8 then s.trapLanes s.subset 0x04 (BitVec.ofNat 32 off) true false false
    else body s (scratchKey s.cur.core off))

/-- AWINIT (R307): one store of the whole word by the team's uniform agent. -/
def execAwinit (g : BitVec 3) (a b : BitVec 7) (s : State) : Host.Outcome State Fault Refusal :=
  let target := (s.team.sr b.toNat).toNat % 16777216
  let off := (s.team.sr a.toNat).zeroExtend 64
  .next (s.awUnit (.awinit g a b) g a (firstBad [(sOk a, 1, a.toNat), (sOk b, 2, b.toNat)]) (fun s key =>
    s.unifStore key (toBytes 8 (target * 4294967296)) off))

/-- The bytes that the team's uniform agent sees at a place: the scratchpad under its own pending stores, youngest last
(R114). -/
def State.unifView (s : State) (uid key n : Nat) : List Byte :=
  (s.stbuf.filter (fun w => w.agent = uid)).foldl (WEntry.over key n) (s.readBytes key n)

/-- AWWAIT (R309). -/
def execAwwait (g : BitVec 3) (a b : BitVec 7) (s : State) : Host.Outcome State Fault Refusal :=
  let gen := (s.team.sr b.toNat).toNat % 256
  let off := (s.team.sr a.toNat).toNat
  .next (s.awUnit (.awwait g a b) g a (firstBad [(sOk a, 1, a.toNat), (sOk b, 2, b.toNat)]) (fun s key =>
    let now := ((s.unifView s.team.uid key 8).getD 7 0).toNat
    if now ≠ gen then s.acquire s.cur.core s.team.uid s.subsetTids 0 []
    else s.onLanes s.subset (fun _ t => { t with wait := .awwait off gen })))

/-- AWQRY (R308). -/
def execAwqry (g : BitVec 3) (a d : BitVec 7) (s : State) : Host.Outcome State Fault Refusal :=
  .next (s.awUnit (.awqry g a d) g a (firstBad [(sOk d, 0, d.toNat), (sOk a, 1, a.toNat)]) (fun s key =>
    s.unifLoad key 8 (.awqry d.toNat) ((s.team.sr a.toNat).zeroExtend 64)))

/-! ### TFETCH -/

/-- TFETCH (R33, R410): an arrival at the workgroup's implied barrier; a subset with a thread in its handler traps. -/
def execTfetch (g q : BitVec 3) (s : State) : Host.Outcome State Fault Refusal :=
  .next (s.unifUnit (.tfetch g q) (s.guardU g) none (s.subset.any (fun l => (s.lane l).inHandler)) (fun s =>
    let id := s.nextSeq
    let s : State := (s.arrive s.subset none none true).onLanes s.subset (fun _ t => { t with wait := .arrive id })
    s.modWg s.cur.core (fun w => { w with
      tfPreds := if w.tfPreds.contains (s.cur.team, q.toNat) then w.tfPreds
                 else w.tfPreds ++ [(s.cur.team, q.toNat)] })))

/-! ### The ballot -/

/-- Do the issuing threads vote: SIBF is not 0 and they hold a work item (R321)? -/
def State.votes (s : State) : Bool :=
  (s.hdr s.cur.core).sibf ≠ 0 && s.subset.any (fun l => (s.lane l).hasItem)

/-- SIBLING of the issuing workgroup (R291). -/
def State.sibling (s : State) : Nat :=
  ((((s.wg? s.cur.core).bind (·.tile)).map (s.hdr s.cur.core).sibOf)).getD 0

/-- Send a post or a query to the ballot unit. -/
def State.sendPost (s : State) (d : Nat) (hash : Option (DWord × Word)) : State :=
  { s.bump with posts := s.posts ++
    [⟨s.nextSeq, s.cur.core, s.cur.team, s.team.uid, d, (s.hdr s.cur.core).sibgrp, s.sibling, hash, none⟩] }

/-- BPOST (R321): the post, which leaves once a release at DEVICE scope, a fence under the post's number, is complete; the team issues on
meanwhile. -/
def execBpost (g : BitVec 3) (d a b : BitVec 7) (s : State) : Host.Outcome State Fault Refusal :=
  let hash := s.team.sr2 a.toNat
  let work := s.team.sr b.toNat
  .next (s.unifUnit (.bpost g d a b) (s.guardU g)
    (firstBad [(sOk d, 0, d.toNat), (s2Ok a, 1, a.toNat), (sOk b, 2, b.toNat)]) false (fun s =>
    if !s.votes then s.onTeam (fun t => t.setSr d.toNat 4)
    else
      let f : FenceReq := ⟨s.nextSeq, s.cur.core, s.team.uid, s.subsetTids ++ [s.team.uid], 2, true, false, []⟩
      ({ s with fences := s.fences ++ [f] } : State).sendPost d.toNat (some (hash, work))))

/-- BQRY (R323). -/
def execBqry (g : BitVec 3) (d : BitVec 7) (s : State) : Host.Outcome State Fault Refusal :=
  .next (s.unifUnit (.bqry g d) (s.guardU g) (badS1 d) false (fun s =>
    if !s.votes then s.onTeam (fun t => t.setSr d.toNat 8) else s.sendPost d.toNat none))

/-- SIBCHK (R394). -/
def execSibchk (g : BitVec 3) (s : State) : Host.Outcome State Fault Refusal :=
  .next (s.unifUnit (.sibchk g) (s.guardU g) none false (fun s => if s.votes && s.told then s.cancelHere else s))

/-! ### Hardware queues -/

/-- Is a core inside the scope and anchor of a SCOPED queue (R131, R133)? -/
def HwQueue.inScope (q : HwQueue) (core : Nat) : Bool :=
  q.early || 2 ≤ q.scope ||
  (match coreAt q.adie q.ax q.ay with
    | none => false
    | some c => if q.scope = 0 then c = core else clusterOf c = clusterOf core)

/-- The checks of R372 after the register checks: none, or the trap and its TVAL. -/
def State.queueTrap (s : State) (h : Word) (off : Nat) (long : Bool) : Option (Nat × Word) :=
  if long && off % 64 ≠ 0 then some (0x03, BitVec.ofNat 32 off)
  else if long && decide (s.scratchBytes s.cur.core < off + 64) then some (0x04, BitVec.ofNat 32 off)
  else
    let n := h.toNat % 2147483648
    match kvGet s.hwqs n with
    | none => some (0x0B, h)
    | some q =>
      if 4096 ≤ n || q.long ≠ long then some (0x0B, h)
      else if !q.inScope s.cur.core then some (0x0C, BitVec.ofNat 32 n)
      else none

/-- Entries of a queue and pushes on their way to it. -/
def State.queueLoad (s : State) (n : Nat) (q : HwQueue) : Nat :=
  q.entries.length + (s.qops.filter (fun x => x.op = 0 && x.q = n)).length

/-- A queue instruction (R372): push takes its entry at issue and counts in ST (R373); pop and try count in LD (R374,
R375). A push to a full queue, and a pop, wait. -/
def State.queueForm (s : State) (i : Instr) (g : BitVec 3) (d a : BitVec 7) (op : Nat) (long : Bool) : State :=
  let h := s.team.sr d.toNat
  let off := (s.team.sr a.toNat).toNat
  let aOk := if long then sOk a else s2Ok a
  s.unifUnit i (s.guardU g) (firstBad [(sOk d, 0, d.toNat), (aOk, 1, a.toNat)]) false (fun s =>
    match s.queueTrap h off long with
    | some (c, v) => s.trapLanes s.subset c v true false false
    | none =>
      let n := h.toNat % 2147483648
      let data := if op ≠ 0 then [] else if long then s.readBytes (scratchKey s.cur.core off) 64
                  else toBytes 8 (s.team.sr2 a.toNat).toNat
      let full := match kvGet s.hwqs n with
        | some q => decide (2 ^ q.logcap ≤ s.queueLoad n q)
        | none => false
      let x : QOp := ⟨s.nextSeq, op, n, s.cur.core, s.cur.team, s.team.uid, s.subsetTids ++ [s.team.uid], d.toNat,
        if long then off else a.toNat, data, s.team.stCount⟩
      let s : State := { s.bump with qops := s.qops ++ [x] }
      let s : State := s.onTeam (fun t =>
        if op = 0 then { t with st := t.st ++ [⟨x.id, false⟩] } else { t with ld := t.ld ++ [⟨x.id, false⟩] })
      if op = 1 || (op = 0 && full) then s.onLanes s.subset (fun _ t => { t with wait := .queue x.id }) else s)

def execQpushD (g : BitVec 3) (d a : BitVec 7) (s : State) : Host.Outcome State Fault Refusal :=
  .next (s.queueForm (.qpushD g d a) g d a 0 false)
def execQpushL (g : BitVec 3) (d a : BitVec 7) (s : State) : Host.Outcome State Fault Refusal :=
  .next (s.queueForm (.qpushL g d a) g d a 0 true)
def execQpopD (g : BitVec 3) (d a : BitVec 7) (s : State) : Host.Outcome State Fault Refusal :=
  .next (s.queueForm (.qpopD g d a) g d a 1 false)
def execQpopL (g : BitVec 3) (d a : BitVec 7) (s : State) : Host.Outcome State Fault Refusal :=
  .next (s.queueForm (.qpopL g d a) g d a 1 true)
def execQtryD (g : BitVec 3) (d a : BitVec 7) (s : State) : Host.Outcome State Fault Refusal :=
  .next (s.queueForm (.qtryD g d a) g d a 2 false)
def execQtryL (g : BitVec 3) (d a : BitVec 7) (s : State) : Host.Outcome State Fault Refusal :=
  .next (s.queueForm (.qtryL g d a) g d a 2 true)

end Sys2Proof.Machine
end

