-- ==== Sys2Proof/Machine/EngIssue.lean ====
section
/-! DEFINITION. The issue of engine commands (04, R69 to R80, R82, R85, R87; 05, R97, R98; 19, R295, R301; 21, R361; 23, R404 to
R408, R413): canonical tiles, the checks of R73 in order, the copies and the guard read of R74, and the nine commands. -/

namespace Sys2Proof.Machine

/-! ### Canonical tiles (R69 to R71) -/

def tyDefined (ty : Nat) : Bool := ty ≤ 6 || ty = 8

/-- Elements per granule row, and bytes per granule (R69). -/
def tyP (ty : Nat) : Nat := 256 / tyBits ty
def tyGS (ty : Nat) : Nat := if tyBits ty = 4 then 640 else 512

/-- A tile: the core that holds it, its header's offset and fields. -/
structure Tile where
  core : Nat
  off : Nat
  ty : Nat
  rows : Nat
  kgn : Nat
  stride : Nat
  band : Nat
  deriving DecidableEq, Repr

/-- The tile that a 32-byte header at an offset of a core's scratchpad describes (R70). -/
def tileOf (core off : Nat) (h : List Byte) : Tile :=
  let x := ofBytes h
  ⟨core, off, nbits x 3 0, nbits x 31 16, nbits x 39 32, nbits x 47 40, nbits x 95 64⟩

/-- The scratchpad offset of the header word that holds the first failing field of R70. An MMA does not check BANDOFF of a tile whose
type carries no scales (R361). -/
def hdrBad (mma : Bool) (off : Nat) (h : List Byte) : Option Nat :=
  let x := ofBytes h
  let t := tileOf 0 off h
  if !tyDefined t.ty || nbits x 15 4 ≠ 0 || t.rows % 16 ≠ 0 || t.rows < 16 || 1024 < t.rows then some off
  else if t.kgn < 1 || 64 < t.kgn || t.stride < t.kgn || nbits x 63 48 ≠ 0 then some (off + 4)
  else if !(mma && t.ty ≤ 1) && t.band % 2 ≠ 0 then some (off + 8)
  else ((List.range 5).find? (fun i => nbits x (127 + 32 * i) (96 + 32 * i) ≠ 0)).map (fun i => off + 12 + 4 * i)

/-- The scratchpad offset of a granule (R71). -/
def Tile.granule (t : Tile) (gr gk : Nat) : Nat := t.off + 32 + (gr * t.stride + gk) * tyGS t.ty

/-- The scratchpad offset of the byte that holds an element, and of its block's scale byte (R71). -/
def Tile.elemOff (t : Tile) (row k : Nat) : Nat :=
  let y := row % 16
  let lb := k % tyP t.ty * tyBits t.ty / 8
  t.granule (row / 16) (k / tyP t.ty) + 32 * y + 4 * Nat.xor (lb / 4) (y % 8) + lb % 4
def Tile.scaleOff (t : Tile) (row k : Nat) : Nat :=
  t.granule (row / 16) (k / tyP t.ty) + 512 + 8 * (row % 16) + k % tyP t.ty / 8

/-- The offset past the last byte of the elements of columns [k0, k] of a row, block scales included: the largest granule that they
reach holds it (R71). -/
def Tile.rowEnd (t : Tile) (row k0 k : Nat) : Nat :=
  if tyBlocked t.ty then t.scaleOff row k + 1
  else
    let first := max k0 (k / tyP t.ty * tyP t.ty)
    ((List.range (k - first + 1)).map (fun i => t.elemOff row (first + i) + tyBits t.ty / 8)).foldl max 0

/-- The offset of the band entry of a tile row, where the tile has bands (R70). -/
def Tile.bandOff (t : Tile) (row : Nat) : Option Nat := if t.band = 0 then none else some (t.band + 2 * (row / 64))

/-! ### Blocks -/

/-- The 4-byte word, and the 8-byte field, at an offset of a block. -/
def blkW (b : List Byte) (o : Nat) : Nat := ofBytes ((b.drop o).take 4)
def blkD (b : List Byte) (o : Nat) : Nat := ofBytes ((b.drop o).take 8)

/-- The first failing check of a list: whether it passes, the trap code and TVAL. -/
def firstFail : List (Bool × Nat × Nat) → Option (Nat × Word)
  | [] => none
  | (ok, code, v) :: r => if ok then firstFail r else some (code, BitVec.ofNat 32 v)

/-- Checks at step 4: a range of a scratchpad of `alloc` bytes; an empty one is inside. -/
def inAlloc (alloc o n : Nat) : Bool × Nat × Nat := (n = 0 || decide (o + n ≤ alloc), 0x04, o)

/-- Step 4 for the elements of rows [r0, r0 + rn) and columns [k0, k0 + kn) of a tile: the last row's last granule reaches furthest
(R98, R408). -/
def Tile.inAlloc (t : Tile) (alloc r0 rn k0 kn : Nat) : List (Bool × Nat × Nat) :=
  if rn = 0 || kn = 0 then []
  else
    let o := t.granule ((r0 + rn - 1) / 16) (k0 / tyP t.ty)
    [Machine.inAlloc alloc o (t.rowEnd (r0 + rn - 1) k0 (k0 + kn - 1) - o)]

/-- Checks at step 5 of a field of the block at `off`, and of its reserved words. -/
def blkCheck (off : Nat) (ok : Bool) (o : Nat) : Bool × Nat × Nat := (ok, 0x0B, off + o)
def blkZero (off : Nat) (b : List Byte) (os : List Nat) : List (Bool × Nat × Nat) :=
  os.map (fun o => (blkW b o = 0, 0x0B, off + o))

/-- Step 4 for a generic address and the n bytes from it: a local window is checked over its whole extent; an address
that R107 refuses fails. Any other is translated during execution (R406). -/
def State.engPlace (s : State) (a n : Nat) : Bool × Nat × Nat :=
  let core := s.cur.core
  let first := s.place core (BitVec.ofNat 64 a) (max n 1)
  let last := s.place core (BitVec.ofNat 64 (a + n - 1)) 1
  let ok : Bool := match first, last with
    | .invalid, _ => false
    | .window _, _ => true
    | .virt _, .virt _ => true
    | .virt _, _ => n ≤ 1
  (ok, 0x04, a % 4294967296)

/-- A header check at step 5. An offset that is not 32-byte aligned (R70) fails at the block's word that holds it (R181; log 34,
DEDUCED). -/
def hdrCheck (mma : Bool) (word off : Nat) (h : List Byte) : Bool × Nat × Nat :=
  if off % 32 ≠ 0 then (false, 0x0B, word)
  else match hdrBad mma off h with
    | some o => (false, 0x0B, o)
    | none => (true, 0, 0)

/-! ### MMA (R76 to R78, R361) -/

/-- The fields of an MMA block. -/
structure MmaBlk where
  aoff : Nat
  boff : Nat
  arow : Nat
  brow : Nat
  k0 : Nat
  kgc : Nat
  mg : Nat
  ng : Nat
  accum : Bool
  vr : Nat
  vc : Nat
  vd : Nat
  arem : Nat
  brem : Nat
  deriving DecidableEq, Repr

def mmaBlk (b : List Byte) : MmaBlk :=
  let x := blkW b 0x18
  let y := blkW b 0x1C
  ⟨blkW b 0x10, blkW b 0x14, nbits x 5 0, nbits x 11 6, nbits x 17 12, nbits x 22 18, nbits x 24 23, nbits x 26 25,
   nbits x 27 27 = 1, nbits y 6 0, nbits y 14 8, nbits y 26 16, blkW b 0x20, blkW b 0x24⟩

/-- Does an AREM or BREM ask for anything remote or shared (R78)? -/
def remAsks (r : Nat) : Bool := nbits r 15 0 ≠ 0

/-- The core that holds a tile, for an issue on a core (R78). -/
def remCore (core r : Nat) : Option Nat :=
  coreAt (coreDie core) ((coreX core : Int) + sextInt 4 (nbits r 3 0)) ((coreY core : Int) + sextInt 4 (nbits r 7 4))

/-- Is the core the host of a workgroup of the launch whose workgroup another core hosts? -/
def State.sameLaunch (s : State) (a b : Nat) : Bool :=
  match s.wg? a, s.wg? b with
  | some x, some y => x.launch = y.launch
  | _, _ => false

/-- The conditions of R78, with the reserved byte. -/
def State.remOk (s : State) (core r : Nat) : Bool :=
  nbits r 31 24 = 0 && (!remAsks r ||
    ((s.hdr core).cluster
      && (match remCore core r with
          | some c => clusterOf c = clusterOf core && s.sameLaunch core c
          | none => false)
      && (nbits r 15 8 = 0 || nbits r 15 8 / 2 ^ clusterIndex core % 2 = 1)
      && (-3 ≤ sextInt 4 (nbits r 3 0) && sextInt 4 (nbits r 3 0) ≤ 3)
      && (-1 ≤ sextInt 4 (nbits r 7 4) && sextInt 4 (nbits r 7 4) ≤ 1)))

/-- The header of an operand, read from its core. -/
def State.mmaHdr (s : State) (core r off : Nat) : List Byte :=
  s.readBytes (scratchKey ((remCore core r).getD core) off) 32

/-- Step 4 for one operand: its header, then the granules and bands that the region touches, in its core's allocation. An
operand whose remote field fails R78 is not read. The region is MG, NG and KGC's, as MMA's own entry has it (R361), whatever COUNT and
VR are (R73; log 34, DEDUCED). -/
def State.mmaBounds (s : State) (core r off row0 gs k0 kgc : Nat) : List (Bool × Nat × Nat) :=
  if !s.remOk core r then []
  else
    let c := (remCore core r).getD core
    let al := s.scratchBytes c
    let h := s.mmaHdr core r off
    if al < off + 32 then [inAlloc al off 32]
    else if off % 32 ≠ 0 || (hdrBad true off h).isSome || 6 < (tileOf c off h).ty then []
    else
      let t := tileOf c off h
      (List.range gs).map (fun i => inAlloc al (t.granule (row0 + i) k0) (kgc * tyGS t.ty))
        ++ (if t.ty ≤ 1 || t.band = 0 then []
            else [inAlloc al (t.band + 2 * (row0 / 4)) (2 * ((row0 + gs - 1) / 4 - row0 / 4 + 1))])

/-- MMA's checks at steps 4 and 5 (R361). -/
def State.mmaCheck (s : State) (off : Nat) (b : List Byte) : List (Bool × Nat × Nat) :=
  let core := s.cur.core
  let m := mmaBlk b
  let chk := blkCheck off
  let ha := s.mmaHdr core m.arem m.aoff
  let hb := s.mmaHdr core m.brem m.boff
  let ta := tileOf core m.aoff ha
  let tb := tileOf core m.boff hb
  List.flatten [
    s.mmaBounds core m.arem m.aoff m.arow (m.mg + 1) m.k0 m.kgc,
    s.mmaBounds core m.brem m.boff m.brow (m.ng + 1) m.k0 m.kgc,
    (if blkD b 0 = 0 then [] else [s.engPlace (blkD b 0) 4]),
    [chk (blkD b 0 % 4 = 0) 0, chk (blkW b 0x0C = 0) 0x0C,
     chk (1 ≤ m.kgc && m.kgc ≤ 16 && nbits (blkW b 0x18) 31 28 = 0) 0x18,
     chk (1 ≤ m.vr && m.vr ≤ 16 * (m.mg + 1) && 1 ≤ m.vc && m.vc ≤ 16 * (m.ng + 1) && m.vd ≠ 0
       && nbits (blkW b 0x1C) 7 7 = 0 && nbits (blkW b 0x1C) 15 15 = 0 && nbits (blkW b 0x1C) 31 27 = 0) 0x1C,
     chk (s.remOk core m.arem) 0x20, chk (s.remOk core m.brem) 0x24],
    blkZero off b [0x28, 0x2C, 0x30, 0x34, 0x38, 0x3C],
    [hdrCheck true (off + 0x10) m.aoff ha, (ta.ty ≤ 6, 0x0B, m.aoff), hdrCheck true (off + 0x14) m.boff hb, (tb.ty ≤ 6, 0x0B, m.boff),
     chk (tyBits ta.ty = tyBits tb.ty) 0x14,
     chk (m.arow + m.mg + 1 ≤ ta.rows / 16 && m.brow + m.ng + 1 ≤ tb.rows / 16 && m.k0 + m.kgc ≤ ta.kgn
       && m.k0 + m.kgc ≤ tb.kgn) 0x18,
     chk (m.vd ≤ m.kgc * tyP ta.ty) 0x1C]]

/-! ### ALD, AST, ASWAP, AZERO (R79, R80, R295, R301) -/

def guardChecks (s : State) (off : Nat) (b : List Byte) : List (Bool × Nat × Nat) :=
  (if blkD b 0 = 0 then [] else [s.engPlace (blkD b 0) 4]) ++ [blkCheck off (blkD b 0 % 4 = 0) 0]

/-- The checks of ALD and AST (R295). A misaligned ADDR gives its bits [31:0] as TVAL, as a copy command's address does (R181, R406;
log 34, DEDUCED). -/
def State.aldCheck (s : State) (off : Nat) (b : List Byte) : List (Bool × Nat × Nat) :=
  let y := blkW b 0x1C
  let ty := nbits y 19 16
  let size := tyBits ty / 8
  let addr := blkD b 0x10
  let rs := blkW b 0x18
  let vr := nbits y 6 0
  let vc := nbits y 14 8
  let rows := min (blkW b 8) vr
  let chk := blkCheck off
  List.flatten [
    [chk (ty = 8 || ty ≤ 1) 0x1C, (addr % size = 0, 0x03, addr % 4294967296)],
    (if rows = 0 || vc = 0 then [] else [s.engPlace addr ((rows - 1) * rs + vc * size)]),
    guardChecks s off b,
    [chk (blkW b 0x0C = 0) 0x0C, chk (rs % size = 0) 0x18,
     chk (1 ≤ vr && vr ≤ 64 && 1 ≤ vc && vc ≤ 64 && nbits y 7 7 = 0 && nbits y 15 15 = 0 && nbits y 31 20 = 0) 0x1C],
    blkZero off b [0x20, 0x24, 0x28, 0x2C, 0x30, 0x34, 0x38, 0x3C]]

def State.bankCheck (s : State) (off : Nat) (b : List Byte) (one : Bool) : List (Bool × Nat × Nat) :=
  List.flatten [
    guardChecks s off b,
    [blkCheck off (!one || blkW b 8 = 1) 8],
    blkZero off b [0x0C, 0x10, 0x14, 0x18, 0x1C, 0x20, 0x24, 0x28, 0x2C, 0x30, 0x34, 0x38, 0x3C]]

/-! ### Copy commands (R82 to R87, R97, R98, R406 to R408, R413) -/

/-- Step 4 and step 5 for ARRIVE (R406). -/
def arriveBound (al : Nat) (b : List Byte) : List (Bool × Nat × Nat) :=
  match arriveOff b with
  | some o => [inAlloc al o 8]
  | none => []
def arriveCheck (off : Nat) (b : List Byte) : Bool × Nat × Nat :=
  blkCheck off (match arriveOff b with | some o => o % 8 = 0 | none => true) 0x0C

/-- The fields of a TCOPY block (R82). -/
structure CopyBlk where
  maddr : Nat
  mstride : Nat
  toff : Nat
  dir : Nat
  layout : Nat
  mty : Nat
  rnd : Nat
  klen : Nat
  row0 : Nat
  prow0 : Nat
  tpp : Nat
  bandaddr : Nat
  npages : Nat
  deriving DecidableEq, Repr

def copyBlk (b : List Byte) : CopyBlk :=
  let x := blkW b 0x20
  let y := blkW b 0x24
  ⟨blkD b 0x10, blkW b 0x18, blkW b 0x1C, nbits x 1 0, nbits x 3 2, nbits x 7 4, nbits x 9 8, nbits y 15 0, nbits y 31 16,
   blkW b 0x28, blkW b 0x2C, blkD b 0x30, blkW b 0x38⟩

/-- s of R83; a blocked type without layout 3 is refused at step 5. -/
def CopyBlk.size (c : CopyBlk) : Nat := if c.layout = 3 then 1 else max 1 (tyBits c.mty / 8)

/-- Bytes of one row in storage by layout 3, or of a row-major one. -/
def CopyBlk.rowBytes (c : CopyBlk) : Nat := if c.layout = 3 then c.klen / 2 + c.klen / 8 else c.klen * c.size

/-- Does the command read or write the tile's band entries (R84)? -/
def CopyBlk.usesBands (c : CopyBlk) (ty : Nat) : Bool :=
  c.bandaddr ≠ 0 || (c.dir = 1 && c.mty ≠ ty && !((c.mty ≤ 1 || c.mty = 8) && (ty ≤ 1 || ty = 8)))

/-- The checks of TCOPY (R408). Where several places fail step 4, TVAL names the first of this list: ARRIVE, the header, the tile, its
bands, storage, the storage's bands (R73; log 50, DESIGN CHOICE; the other commands likewise, each by its list). -/
def State.copyCheck (s : State) (off : Nat) (b : List Byte) : List (Bool × Nat × Nat) :=
  let core := s.cur.core
  let al := s.scratchBytes core
  let c := copyBlk b
  let n := blkW b 8
  let chk := blkCheck off
  let h := s.readBytes (scratchKey core c.toff) 32
  let t := tileOf core c.toff h
  let blk := tyBlocked c.mty
  let goodHdr := c.toff % 32 = 0 && (hdrBad false c.toff h).isNone
  let span := if c.layout = 1 then (c.klen - 1) * c.mstride + n * c.size else (n - 1) * c.mstride + c.rowBytes
  let some' := n ≠ 0 && c.klen ≠ 0
  List.flatten [
    [chk (tyDefined c.mty) 0x20, (c.layout = 2 || c.maddr % c.size = 0, 0x03, c.maddr % 4294967296)],
    arriveBound al b,
    [inAlloc al c.toff 32],
    (if goodHdr && some' then
      t.inAlloc al c.row0 n 0 c.klen
      ++ (if t.band ≠ 0 && c.usesBands t.ty then
           [inAlloc al (t.band + 2 * (c.row0 / 64)) (2 * ((c.row0 + n - 1) / 64 - c.row0 / 64 + 1))] else [])
     else []),
    (if !some' then []
     else if c.layout = 2 then
       (if c.tpp = 0 then []
        else [s.engPlace (c.maddr + 8 * (c.prow0 / c.tpp)) (8 * ((c.prow0 + n - 1) / c.tpp - c.prow0 / c.tpp + 1))])
     else [s.engPlace c.maddr span]),
    (if some' && c.bandaddr ≠ 0 then
       [s.engPlace (c.bandaddr + 2 * (c.row0 / 64)) (2 * ((c.row0 + n - 1) / 64 - c.row0 / 64 + 1))] else []),
    guardChecks s off b,
    [arriveCheck off b, chk (c.layout ≠ 2 || c.maddr % 8 = 0) 0x10,
     chk (c.mstride % c.size = 0) 0x18,
     chk (c.dir ≤ 1 && nbits (blkW b 0x20) 31 10 = 0) 0x20, chk (c.klen ≠ 0) 0x24,
     chk (c.layout ≠ 2 || c.tpp ≠ 0) 0x2C, chk (c.bandaddr % 2 = 0) 0x30, chk (blkW b 0x3C = 0) 0x3C,
     hdrCheck false (off + 0x1C) c.toff h,
     chk ((c.mty = t.ty || c.mty = 8 || t.ty = 8) && (blk == (c.layout = 3))) 0x20,
     chk (c.klen ≤ t.kgn * tyP t.ty && (!(blk || tyBlocked t.ty) || c.klen % 8 = 0) && c.row0 + n ≤ t.rows) 0x24,
     chk (c.layout ≠ 2 || c.prow0 + n ≤ c.npages * c.tpp) 0x28,
     chk (c.layout ≠ 2 || c.tpp * c.mstride ≤ 131072) 0x2C]]

/-- The fields of a TQST block (R97). -/
structure QstBlk where
  maddr : Nat
  mstride : Nat
  toff : Nat
  mty : Nat
  axis : Nat
  len : Nat
  line0 : Nat
  pos0 : Nat
  resoff : Nat
  band : Nat
  deriving DecidableEq, Repr

def qstBlk (b : List Byte) : QstBlk :=
  let x := blkW b 0x20
  ⟨blkD b 0x10, blkW b 0x18, blkW b 0x1C, nbits x 3 0, nbits x 4 4, nbits (blkW b 0x24) 15 0, nbits (blkW b 0x24) 31 16,
   nbits (blkW b 0x28) 15 0, blkW b 0x2C, blkW b 0x30⟩

/-- Bytes that a TQST line covers in storage, for a line of `len` elements (R99). -/
def QstBlk.lineBytes (q : QstBlk) : Nat :=
  if tyBlocked q.mty then 4 * ((q.len + 7) / 8) + (q.len + 7) / 8 else q.len

def State.qstCheck (s : State) (off : Nat) (b : List Byte) : List (Bool × Nat × Nat) :=
  let core := s.cur.core
  let al := s.scratchBytes core
  let q := qstBlk b
  let n := blkW b 8
  let chk := blkCheck off
  let h := s.readBytes (scratchKey core q.toff) 32
  let t := tileOf core q.toff h
  let goodHdr := q.toff % 32 = 0 && (hdrBad false q.toff h).isNone && t.ty = 8
  let r0 := if q.axis = 0 then q.line0 else q.pos0
  let rn := if q.axis = 0 then n else q.len
  let k0 := if q.axis = 0 then q.pos0 else q.line0
  let kn := if q.axis = 0 then q.len else n
  List.flatten [
    arriveBound al b,
    [inAlloc al q.toff 32],
    (if goodHdr then t.inAlloc al r0 rn k0 kn else []),
    (if q.resoff ≠ 0 then [inAlloc al q.resoff (4 * n)] else []),
    (if q.band ≠ 0 && n ≠ 0 then
      [inAlloc al (q.band + 2 * (q.line0 / 64)) (2 * ((q.line0 + n - 1) / 64 - q.line0 / 64 + 1))] else []),
    (if n ≠ 0 then [s.engPlace q.maddr ((n - 1) * q.mstride + q.lineBytes)] else []),
    guardChecks s off b,
    [arriveCheck off b, chk (2 ≤ q.mty && q.mty ≤ 6 && nbits (blkW b 0x20) 31 5 = 0) 0x20,
     chk (1 ≤ q.len && q.len ≤ 1024) 0x24, chk (q.pos0 % 8 = 0 && nbits (blkW b 0x28) 31 16 = 0) 0x28,
     chk (q.resoff % 4 = 0) 0x2C, chk (q.band % 2 = 0) 0x30, chk (blkW b 0x34 = 0) 0x34, chk (blkW b 0x38 = 0) 0x38,
     chk (blkW b 0x3C = 0) 0x3C, hdrCheck false (off + 0x1C) q.toff h, (t.ty = 8, 0x0B, q.toff),
     chk (q.line0 + n ≤ (if q.axis = 0 then t.rows else 8 * t.kgn)) 0x24,
     chk (q.pos0 + q.len ≤ (if q.axis = 0 then 8 * t.kgn else t.rows)) 0x28]]

/-- The fields of a TCHAIN block (R85). -/
structure ChainBlk where
  src : Nat
  dst : Nat
  ss : Nat
  ds : Nat
  len : Nat
  sty : Nat
  dty : Nat
  nops : Nat
  rnd : Nat
  oplist : Nat
  deriving DecidableEq, Repr

def chainBlk (b : List Byte) : ChainBlk :=
  let x := blkW b 0x28
  ⟨blkD b 0x10, blkD b 0x18, blkW b 0x20, blkW b 0x24, nbits x 15 0, nbits x 19 16, nbits x 23 20, nbits x 27 24,
   nbits x 29 28, blkW b 0x2C⟩

/-- Operation entry j of a list: its word and its operand (R86). -/
def opEntry (ops : List Byte) (j : Nat) : Nat × Nat := (blkW ops (8 * j), blkW ops (8 * j + 4))

/-- The two checks of an operation entry at a scratchpad offset (R407). -/
def opCheck (o : Nat) (e : Nat × Nat) : List (Bool × Nat × Nat) :=
  let lo := nbits e.2 15 0
  let hi := nbits e.2 31 16
  [(e.1 < 10, 0x0B, o),
   ((e.1 ≠ 5 || (!bf16.isNan lo && !bf16.isNan hi && (bf16.value lo).cmp (bf16.value hi) ≤ 0))
     && (e.1 ≠ 9 || nbits e.2 3 0 ≤ 3) && ((e.1 ≠ 2 && e.1 ≠ 3) || e.2 % 4 = 0), 0x0B, o + 4)]

def State.chainCheck (s : State) (off : Nat) (b : List Byte) : List (Bool × Nat × Nat) :=
  let core := s.cur.core
  let al := s.scratchBytes core
  let c := chainBlk b
  let n := blkW b 8
  let chk := blkCheck off
  let zs := tyBits c.sty / 8
  let zd := tyBits c.dty / 8
  let k := min c.nops 8
  let ops := s.readBytes (scratchKey core c.oplist) (8 * k)
  let es := (List.range k).map (fun j => (j, opEntry ops j))
  let some' := n ≠ 0 && c.len ≠ 0
  List.flatten [
    [chk (c.sty = 8 || c.sty ≤ 1) 0x28, chk (c.dty = 8 || c.dty ≤ 3) 0x28,
     (c.src % zs = 0, 0x03, c.src % 4294967296), (c.dst % zd = 0, 0x03, c.dst % 4294967296)],
    arriveBound al b,
    [inAlloc al c.oplist (8 * k)],
    (es.filter (fun e => nbits e.2.1 3 0 = 2 || nbits e.2.1 3 0 = 3)).map (fun e => inAlloc al e.2.2 (4 * c.len)),
    (if some' then [s.engPlace c.src ((n - 1) * c.ss + c.len * zs), s.engPlace c.dst ((n - 1) * c.ds + c.len * zd)] else []),
    guardChecks s off b,
    [arriveCheck off b, chk (c.ss % zs = 0) 0x20, chk (c.ds % zd = 0) 0x24,
     chk (1 ≤ c.len && c.len ≤ 16384 && 1 ≤ c.nops && c.nops ≤ 8 && nbits (blkW b 0x28) 31 30 = 0) 0x28,
     chk (c.oplist % 8 = 0) 0x2C],
    blkZero off b [0x30, 0x34, 0x38, 0x3C],
    es.flatMap (fun e => opCheck (c.oplist + 8 * e.1) e.2)]

/-- The fields of a TROT block (R87). -/
structure RotBlk where
  plist : Nat
  rstride : Nat
  tpp : Nat
  frm : Nat
  delta : Int
  dim : Nat
  ty : Nat
  pairs : Nat
  base : Nat
  heads : Nat
  npages : Nat
  deriving DecidableEq, Repr

def rotBlk (b : List Byte) : RotBlk :=
  let x := blkW b 0x28
  ⟨blkD b 0x10, blkW b 0x18, blkW b 0x1C, blkW b 0x20, sextInt 32 (blkW b 0x24), nbits x 15 0, nbits x 19 16, nbits x 20 20,
   blkW b 0x2C, blkW b 0x30, blkW b 0x34⟩

def State.rotCheck (s : State) (off : Nat) (b : List Byte) : List (Bool × Nat × Nat) :=
  let core := s.cur.core
  let al := s.scratchBytes core
  let r := rotBlk b
  let n := blkW b 8
  let chk := blkCheck off
  let size := tyBits r.ty / 8
  let lo : Int := min (r.frm : Int) (r.frm + r.delta)
  let hi : Int := max (r.frm : Int) (r.frm + r.delta) + n - 1
  List.flatten [
    [chk (r.ty = 8 || r.ty ≤ 1) 0x28],
    arriveBound al b,
    (if n = 0 || r.tpp = 0 || lo < 0 then []
     else [s.engPlace (r.plist + 8 * (lo.toNat / r.tpp)) (8 * (hi.toNat / r.tpp - lo.toNat / r.tpp + 1))]),
    guardChecks s off b,
    [arriveCheck off b, chk (r.plist % 8 = 0) 0x10, chk (r.rstride % size = 0) 0x18, chk (r.tpp ≠ 0) 0x1C,
     chk (r.dim % 2 = 0 && 2 ≤ r.dim && r.dim ≤ 512 && nbits (blkW b 0x28) 31 21 = 0) 0x28,
     chk (!fp32.isNan r.base && (fp32.value r.base).isInf == false && (fp32.value r.base).cmp (.fin false 1 1) = 1) 0x2C,
     chk (1 ≤ r.heads && r.heads ≤ 64) 0x30, chk (blkW b 0x38 = 0) 0x38, chk (blkW b 0x3C = 0) 0x3C,
     chk (r.heads * r.dim * size ≤ r.rstride) 0x30, chk (r.tpp * r.rstride ≤ 131072) 0x1C,
     chk (0 ≤ (r.frm : Int) + r.delta) 0x20,
     chk ((r.frm : Int) + n + r.delta.natAbs ≤ (r.npages * r.tpp : Nat)) 0x20]]

/-! ### The issue (R73, R74) -/

/-- Steps 3 to 5 of R73 for a command whose block is named by an offset. The block is checked for its place before its
fields are read. -/
def State.cmdCheck5 (s : State) (k : CmdKind) (off : Nat) : Option (Nat × Word) :=
  if off % 64 ≠ 0 then some (0x03, BitVec.ofNat 32 off)
  else if s.scratchBytes s.cur.core < off + 64 then some (0x04, BitVec.ofNat 32 off)
  else
    let b := s.readBytes (scratchKey s.cur.core off) 64
    firstFail (match k with
      | .mma => s.mmaCheck off b
      | .aswap => s.bankCheck off b true
      | .azero => s.bankCheck off b false
      | .ald => s.aldCheck off b
      | .ast => s.aldCheck off b
      | .tcopy => s.copyCheck off b
      | .tqst => s.qstCheck off b
      | .tchain => s.chainCheck off b
      | .trot => s.rotCheck off b)

/-- What a command copies beside its block (R74, R98): headers, and the operation list or band entries. -/
def State.cmdHdrs (s : State) (k : CmdKind) (b : List Byte) : List Byte :=
  let core := s.cur.core
  match k with
  | .mma => let m := mmaBlk b
            s.mmaHdr core m.arem m.aoff ++ s.mmaHdr core m.brem m.boff
  | .tcopy => s.readBytes (scratchKey core (copyBlk b).toff) 32
  | .tqst => s.readBytes (scratchKey core (qstBlk b).toff) 32
  | _ => []

def State.cmdOps (s : State) (k : CmdKind) (b : List Byte) : List Byte :=
  let core := s.cur.core
  match k with
  | .tchain => let c := chainBlk b
               s.readBytes (scratchKey core c.oplist) (8 * c.nops)
  | .tqst =>
    let q := qstBlk b
    let n := blkW b 8
    if q.band = 0 || n = 0 then []
    else s.readBytes (scratchKey core (q.band + 2 * (q.line0 / 64))) (2 * ((q.line0 + n - 1) / 64 - q.line0 / 64 + 1))
  | _ => []

/-- The multicast sets of a command of a core: whether it is operand B's, the source core, header offset, SET and WIN (R78). -/
def mmaSets (core : Nat) (k : CmdKind) (b : List Byte) : List (Bool × Nat × Nat × Nat × Nat) :=
  match k with
  | .mma =>
    let m := mmaBlk b
    [(false, m.arem, m.aoff), (true, m.brem, m.boff)].filterMap (fun p =>
      if nbits p.2.1 15 8 = 0 then none
      else some (p.1, (remCore core p.2.1).getD core, p.2.2, nbits p.2.1 15 8, nbits p.2.1 23 16))
  | _ => []

/-- The multicast fetches an MMA waits for, with their sets resolved against the cluster's cores that host the launch; a
set that the workgroup has left is fetched alone (R78). -/
def State.cmdMcast (s : State) (k : CmdKind) (b : List Byte) : List Mcast :=
  let core := s.cur.core
  let left := ((s.wg? core).map (·.leftSets)).getD []
  let issued := ((s.wg? core).map (·.mcIssued)).getD []
  (mmaSets core k b).filterMap (fun p =>
    let (second, src, off, set, win) := p
    if left.contains (src, off, set, win) then none
    else some ⟨src, off, set, win,
      (s.wgs.filter (fun e => clusterOf e.1 = clusterOf core && set / 2 ^ clusterIndex e.1 % 2 = 1
        && s.sameLaunch core e.1)).map (·.1), issued.count (src, off, set, win), second⟩)

/-- The engine that runs a command of a team (R28, R72): 0 the copy engine, 1 + p the tensor core of partition p. -/
def CmdKind.unit (k : CmdKind) (team : Nat) : Nat := if k.matrix then 1 + team % 6 else 0

/-- What a guard read gives: the word; nothing yet; or a fault (R74). -/
inductive GuardRes where
  | word (x : Nat)
  | wait (key : Nat)
  | miss
  | fault (kind : Nat)
  | refused
  deriving DecidableEq, Repr

/-- Read a guard word through the issuing core's die view (R74, R125). -/
def State.guardRead (s : State) (g : Nat) : GuardRes :=
  let core := s.cur.core
  let look := fun (key : Nat) =>
    if !s.firewallOk (s.ctxOf core) key then GuardRes.refused
    else if !s.dieReadable (coreDie core) key then .wait key
    else if isDevice key && homeDie key ≠ coreDie core then
      .word (ofBytes ((((kvGet s.copies (viewKey (coreDie core) (lineOf key))).getD []).drop (key % 128)).take 4))
    else .word (s.homeNat (s.ctxOf core) key 4)
  match s.place core (BitVec.ofNat 64 g) 4 with
  | .invalid => .fault 0
  | .window key => look key
  | .virt va =>
    match s.translate core (s.ctxOf core) va false true with
    | .ok key => look key
    | .miss => .miss
    | .sealed => .fault 4
    | .refused => .refused
    | .fault k => .fault k

/-- The workgroup's NULLCMDS: its sibling's live word guarded the command and read 0 (R216). -/
def State.countNull (s : State) (g : Nat) : State :=
  match s.wgLaunch? s.cur.core, (s.wg? s.cur.core).bind (·.tile) with
  | some l, some tile =>
    let i := l.hdr.sibOf tile
    (match s.groupOf l with
      | some (k, gr) =>
        if g = gr.live.toNat + 4 * i then
          { s with groups := kvPut s.groups k { gr with sibs := ((List.range gr.sibs.length).zip gr.sibs).map (fun p =>
            if p.1 = i then { p.2 with nullcmds := p.2.nullcmds + 1 } else p.2) } }
        else s
      | none => s)
  | _, _ => s

/-- Accept a command with its effective count: it counts at once, and with a count of 0 it is complete at once (R74, R88). It has then
issued its matching command of each multicast set that it names (R78). -/
def State.accept (s : State) (k : CmdKind) (acc off n : Nat) : State :=
  let b := s.readBytes (scratchKey s.cur.core off) 64
  let c : Cmd :=
    { id := s.nextSeq, team := s.cur.team, uid := s.team.uid, kind := k, acc := acc, blk := b, hdrs := s.cmdHdrs k b
      ops := s.cmdOps k b, n := n, begun := false, mc := if n = 0 then [] else s.cmdMcast k b, row := 0, pos := 0
      rowBytes := [], issued := false, bands := [], resumed := false, free := s.freeCtr, rowsDone := [], fetched := [], start := 0 }
  let used := ((mmaSets s.cur.core k b).map (·.2)).dedup
  let s : State := { s with freeCtr := s.freeCtr + 262144 * (n + 1), was := if cmdsIn s.wgs then s.was else [] }
  let s : State := s.bump.onTeam (fun t =>
    if k.matrix then { t with mx := t.mx ++ [⟨c.id, false⟩] } else { t with cp := t.cp ++ [⟨c.id, false⟩] })
  let s : State := s.modWg s.cur.core (fun w =>
    { w with cmds := w.cmds ++ [c], leftSets := w.leftSets.filter (fun x => !used.contains x), mcIssued := w.mcIssued ++ used })
  if n = 0 then s.cmdRetire c.id else s

/-- A command at its issue (R73, R74): a false guard does nothing; the guard word is read once, and until it can be read the
subset stays at the command. -/
def State.command (s : State) (i : Instr) (g : BitVec 3) (a : BitVec 7) (acc : BitVec 2) (k : CmdKind) : State :=
  let accs := (s.hdr s.cur.core).accs
  let off := (s.team.sr a.toNat).toNat
  s.unifUnit i (s.guardU g) (firstBad [(sOk a, 1, a.toNat), (!k.matrix || decide (acc.toNat < accs), 4, acc.toNat)]) false
    (fun s =>
      match s.cmdCheck5 k off with
      | some (c, v) => s.trapLanes s.subset c v true false false
      | none =>
        let gw := s.readNat (scratchKey s.cur.core off) 8
        let count := s.readNat (scratchKey s.cur.core (off + 8)) 4
        if gw = 0 then s.accept k acc.toNat off count
        else
          let m : Miss := ⟨s.ctxOf s.cur.core, BitVec.ofNat 64 gw, false, false, true, true, false⟩
          match s.guardRead gw with
          | .word x => (if x = 0 then s.countNull gw else s).accept k acc.toNat off (min count x)
          | .wait key => (s.sendRead (coreDie s.cur.core) s.nextSeq (lineOf key)).bump.hold s.subset (.guard key)
          | .miss => (s.needWalk s.cur.core m.ctx gw).hold s.subset (.walk m)
          | .fault kind => (s.newFault (.threads s.cur.core) kind m s.cur.core).hold s.subset (.fault s.nextSeq)
          | .refused => s.firewallFault s.cur.core gw (some (k.unit s.cur.team)))

def execMma (g : BitVec 3) (a : BitVec 7) (acc : BitVec 2) (s : State) : Host.Outcome State Fault Refusal :=
  .next (s.command (.mma g a acc) g a acc .mma)
def execAswap (g : BitVec 3) (a : BitVec 7) (acc : BitVec 2) (s : State) : Host.Outcome State Fault Refusal :=
  .next (s.command (.aswap g a acc) g a acc .aswap)
def execAzero (g : BitVec 3) (a : BitVec 7) (acc : BitVec 2) (s : State) : Host.Outcome State Fault Refusal :=
  .next (s.command (.azero g a acc) g a acc .azero)
def execAld (g : BitVec 3) (a : BitVec 7) (acc : BitVec 2) (s : State) : Host.Outcome State Fault Refusal :=
  .next (s.command (.ald g a acc) g a acc .ald)
def execAst (g : BitVec 3) (a : BitVec 7) (acc : BitVec 2) (s : State) : Host.Outcome State Fault Refusal :=
  .next (s.command (.ast g a acc) g a acc .ast)
def execTcopy (g : BitVec 3) (a : BitVec 7) (s : State) : Host.Outcome State Fault Refusal :=
  .next (s.command (.tcopy g a) g a 0 .tcopy)
def execTqst (g : BitVec 3) (a : BitVec 7) (s : State) : Host.Outcome State Fault Refusal :=
  .next (s.command (.tqst g a) g a 0 .tqst)
def execTchain (g : BitVec 3) (a : BitVec 7) (s : State) : Host.Outcome State Fault Refusal :=
  .next (s.command (.tchain g a) g a 0 .tchain)
def execTrot (g : BitVec 3) (a : BitVec 7) (s : State) : Host.Outcome State Fault Refusal :=
  .next (s.command (.trot g a) g a 0 .trot)

end Sys2Proof.Machine
end

