-- ==== Sys2Proof/Machine/Engine.lean ====
section
/-! DEFINITION. The engines at work (04, R68, R77 to R92; 03, R64; 05, R96 to R101; 06, R125; 19, R296 to R301, R310; 23, R405 to
R414): engine reads and writes, and the steps ENGINE_COMMAND_BEGIN, MULTICAST_FETCH, COPY_CHUNK_WRITE and
TENSOR_COMMAND_COMPLETE. -/

namespace Sys2Proof.Machine

/-! ### Engine accesses (R125, R195) -/

/-- The core, workgroup and record of an accepted command. -/
def State.cmd? (s : State) (id : Nat) : Option (Nat × Workgroup × Cmd) :=
  match s.wgs.find? (fun e => e.2.cmds.any (fun c => c.id = id)) with
  | none => none
  | some (core, w) => (w.cmds.find? (fun c => c.id = id)).map (fun c => (core, w, c))

def State.modCmd (s : State) (core id : Nat) (f : Cmd → Cmd) : State :=
  s.modWg core (fun w => { w with cmds := w.cmds.map (fun c => if c.id = id then f c else c) })

/-- May the command's engine go on: not frozen, and no fault of its own waiting for service (R195, R227)? -/
def State.engineFree (s : State) (core : Nat) (w : Workgroup) (id : Nat) : Bool :=
  !w.frozen && !w.cmds.any (fun c => c.id = id && w.enginesFrozen.contains (c.kind.unit c.team))
    && !s.faults.any (fun f => f.who = .engine core id)

/-- Where one engine access lands. -/
inductive EngAcc where
  | ok (key : Nat)
  | fault (kind : Nat)
  | refused
  | noMem (key : Nat)
  deriving DecidableEq, Repr

/-- Translate one access of an engine, within a line; the firewall checks it (R226). -/
def State.engAcc (s : State) (core a n : Nat) (write : Bool) : EngAcc :=
  let ctx := s.ctxOf core
  match s.place core (BitVec.ofNat 64 a) n with
  | .invalid => .fault 0
  | .window key => if s.firewallOk ctx key then .ok key else .refused
  | .virt va =>
    match s.translateNow core ctx va write true with
    | .ok key => if !s.firewallOk ctx key then .refused else if memExists s.part key then .ok key else .noMem key
    | .fault k => .fault k
    | .sealed => .fault 4
    | .refused => .refused
    | .miss => (match s.walk ctx va with | .noMem k => .noMem k | _ => .fault 0)

/-- Cut bytes at the 128-byte lines of their addresses. -/
def cutRange : Nat → Nat → Nat → List (Nat × Nat)
  | 0, _, _ => []
  | fuel + 1, a, n =>
    if n = 0 then [] else
    let m := min n (128 - a % 128)
    (a, m) :: cutRange fuel (a + m) (n - m)

/-- What keeps an engine from an access: the state with its fault, its refusal or its reads under way. -/
def State.engStop (s : State) (core id a : Nat) (write : Bool) (r : EngAcc) : State :=
  match r with
  | .ok _ => s
  | .fault k =>
    s.newFault (.engine core id) k ⟨s.ctxOf core, BitVec.ofNat 64 a, write, false, false, false, false⟩ core
  | .refused => s.firewallFault core a (some (match s.cmd? id with | some (_, _, c) => c.kind.unit c.team | none => 0))
  | .noMem key => { s with stop := some (.noSuchMemory key) }

/-- The bytes a die's units read at a place within a line, for a context (R114 item 4, R230). -/
def State.dieBytes (s : State) (ctx die key n : Nat) : List Byte :=
  if isDevice key && homeDie key ≠ die then (((kvGet s.copies (viewKey die (lineOf key))).getD []).drop (key % 128)).take n
  else if homeDie key = 5 then s.crypt ctx key (s.portBytes key n)
  else s.readBytes key n

/-! ### Reads that meet other agents' writes (R362, R405; log 37, DEDUCED) -/

/-- When a command reads: the number that its free choices go by, its own number, and the steps between which it reads. -/
structure Look where
  num : Nat
  own : Nat
  lo : Nat
  hi : Nat
  deriving DecidableEq, Repr

/-- The `n` bytes at a key as they were before a write. -/
def Was.under (key n : Nat) (bs : List Byte) (w : Was) : List Byte :=
  (List.range n).map (fun i =>
    let a := key + i
    if w.key ≤ a && a < w.key + w.old.length then w.old.getD (a - w.key) 0 else bs.getD i 0)

/-- The writes of other agents to bytes that fall among the steps of a command's reading, or after them, youngest first. -/
def State.wasMeets (s : State) (v : Look) (key n : Nat) : List Was :=
  (s.was.filter (fun x => v.lo < x.seq && rangesMeet x.key x.old.length key n && x.owner.cmd? ≠ some v.own)).reverse

/-- The values that bytes have had while a command reads, where they are `now` at present. -/
def State.valuesAt (s : State) (v : Look) (key : Nat) (now : List Byte) : List (List Byte) :=
  ((s.wasMeets v key now.length).foldl (fun (p : List Byte × List (List Byte)) x =>
    let old := x.under key now.length p.1
    (old, if v.hi < x.seq then [old] else p.2 ++ [old])) (now, [now])).2

/-- What a command reads of bytes, as one unit: one of those values, freely chosen. -/
def State.seen (s : State) (v : Look) (key sub : Nat) (now : List Byte) : List Byte :=
  if s.was.isEmpty then now
  else
    let vs := s.valuesAt v key now
    vs.getD (Config.race v.num (2 * key + sub) % vs.length) now

/-- The same of a run of units of some bytes each. -/
def State.seenRun (s : State) (v : Look) (unit key : Nat) (now : List Byte) : List Byte :=
  if s.was.isEmpty || unit = 0 then now
  else (List.range ((now.length + unit - 1) / unit)).flatMap (fun i =>
    s.seen v (key + i * unit) 0 ((now.drop (i * unit)).take unit))

/-- The reading of a command that has begun. -/
def State.lookOf (s : State) (c : Cmd) : Look := ⟨c.id, c.id, c.start, s.nextSeq⟩

/-- An engine reads ranges of addresses, whole units of `unit` bytes each. Lines that the die does not hold are asked for, and nothing is
read yet. -/
def State.engRead (s : State) (core : Nat) (c : Cmd) (unit : Nat) (rs : List (Nat × Nat)) : Except State (List Byte) :=
  let die := coreDie core
  let ctx := s.ctxOf core
  let pieces := rs.flatMap (fun r => cutRange (r.2 + 1) r.1 r.2)
  let accs := pieces.map (fun p => (p.1, p.2, s.engAcc core p.1 p.2 false))
  match accs.find? (fun p => match p.2.2 with | .ok _ => false | _ => true) with
  | some p => .error (s.engStop core c.id p.1 false p.2.2)
  | none =>
    let keys := accs.filterMap (fun p => match p.2.2 with | .ok k => some (k, p.2.1) | _ => none)
    let lacking := keys.filter (fun k => !s.dieReadable die k.1)
    if lacking.isEmpty then
      .ok (keys.flatMap (fun k => s.seenRun (s.lookOf c) unit (wasKey die k.1) (s.dieBytes ctx die k.1 k.2)))
    else .error ((lacking.filter (fun k => isDevice k.1)).foldl (fun s k => s.sendRead die c.id (lineOf k.1)) s)

/-- Has another agent written some of the ranges of addresses since the command began (R414)? -/
def State.engMet (s : State) (core : Nat) (c : Cmd) (rs : List (Nat × Nat)) : Bool :=
  !s.was.isEmpty && (rs.flatMap (fun r => cutRange (r.2 + 1) r.1 r.2)).any (fun p =>
    match s.engAcc core p.1 p.2 false with
    | .ok k => !(s.wasMeets (s.lookOf c) (wasKey (coreDie core) k) p.2).isEmpty
    | _ => false)

/-- Bytes of the core's scratchpad as a copy command reads them, each by itself (R405). -/
def State.scratchSeen (s : State) (core : Nat) (c : Cmd) (off n : Nat) : List Byte :=
  s.seenRun (s.lookOf c) 1 (scratchKey core off) (s.readBytes (scratchKey core off) n)

/-! ### Tiles as an engine reads them (R71) -/

/-- An element's code: read whole by an MMA (R362), byte by byte by a copy (R405). -/
def State.tileCode (s : State) (v : Look) (whole : Bool) (t : Tile) (row k : Nat) : Nat :=
  let key := scratchKey t.core (t.elemOff row k)
  if tyBits t.ty = 4 then
    ofBytes (s.seen v key (if whole then k % 2 else 0) (s.readBytes key 1)) / 16 ^ (k % 2) % 16
  else
    let n := tyBits t.ty / 8
    ofBytes (s.seenRun v (if whole then n else 1) key (s.readBytes key n))

/-- An element's block scale, 0 for a type without, and its row's band, 1.0 where the tile has none. -/
def State.tileScale (s : State) (v : Look) (t : Tile) (row k : Nat) : Nat :=
  let key := scratchKey t.core (t.scaleOff row k)
  if tyBlocked t.ty then ofBytes (s.seen v key 0 (s.readBytes key 1)) else 0
def State.tileBand (s : State) (v : Look) (whole : Bool) (t : Tile) (row : Nat) : Nat :=
  match t.bandOff row with
  | some o => ofBytes (s.seenRun v (if whole then 2 else 1) (scratchKey t.core o) (s.readBytes (scratchKey t.core o) 2))
  | none => 0x3F80

/-- The decoded value of a tile's element (R53). -/
def State.tileVal (s : State) (v : Look) (t : Tile) (row k : Nat) : FVal :=
  decodeElem t.ty (s.tileCode v true t row k) (s.tileScale v t row k) (s.tileBand v true t row)

/-! ### Engine writes (R125) -/

/-- A write that an engine makes: an address, its bytes, whether they count at the arrival word, and whether it merges a
low nibble (R99). -/
structure EngWrite where
  addr : Nat
  data : List Byte
  counted : Bool
  nibble : Bool
  deriving DecidableEq, Repr

/-- Cut an engine write at lines. -/
def EngWrite.cut (w : EngWrite) : List EngWrite :=
  (cutRange (w.data.length + 1) w.addr w.data.length).map (fun p =>
    { w with addr := p.1, data := (w.data.drop (p.1 - w.addr)).take p.2 })

/-- One engine write at its place: the issuing core's L1 view drops the bytes, and the write is performed or sent (R125). -/
def State.engPut (s : State) (core launch id key : Nat) (va : Nat) (w : EngWrite) : State :=
  let e : WEntry := ⟨s.nextSeq, core, s.nextSeq, .cmd launch id w.counted, key, w.data,
    if w.nibble then some (8, 0) else none, some (s.ctxOf core), BitVec.ofNat 64 va, false⟩
  let s : State := s.bump.track e
  let s : State := if isDevice key then { s with l1 := kvDel s.l1 (viewKey core (lineOf key)) } else s
  s.dispatch (coreDie core) e

/-- Writes of the copy commands of a core that are outstanding. -/
def State.copyWrites (s : State) (core : Nat) : Nat :=
  let ids := ((s.wg? core).map (fun w => (w.cmds.filter (fun c => !c.kind.matrix)).map (·.id))).getD []
  (s.writes.filter (fun (t : WTrack) => match t.owner with | .cmd _ i _ => ids.contains i | _ => false)).length

/-- An engine makes writes: all of them, or none where one faults or is refused, or where a copy engine would have more than 1,024
outstanding (R19). -/
def State.engWrites (s : State) (core launch id : Nat) (copy : Bool) (ws : List EngWrite) : Except State State :=
  let pieces := ws.flatMap EngWrite.cut
  let accs := pieces.map (fun w => (w, s.engAcc core w.addr w.data.length true))
  let away := (accs.filter (fun p => match p.2 with | .ok k => !isScratch k | _ => true)).length
  match accs.find? (fun p => match p.2 with | .ok _ => false | _ => true) with
  | some p => .error (s.engStop core id p.1.addr true p.2)
  | none =>
    if copy && 0 < s.copyWrites core && 1024 < s.copyWrites core + away then .error s
    else .ok (accs.foldl (fun s p => match p.2 with
      | .ok key => s.engPut core launch id key p.1.addr p.1
      | _ => s) s)

/-- Issue a command's writes and mark how far it has come. -/
def State.engCommit (s : State) (core launch : Nat) (c : Cmd) (ws : List EngWrite) (f : Cmd → Cmd) : State :=
  match s.engWrites core launch c.id (!c.kind.matrix) ws with
  | .error s => s
  | .ok s => (s.modCmd core c.id f).cmdCheck c.id

/-! ### MMA (R64, R77) -/

/-- The tile of an MMA operand, on the core that its remote field names (R78). -/
def Cmd.mmaTile (c : Cmd) (core : Nat) (second : Bool) : Tile :=
  let m := mmaBlk c.blk
  if second then tileOf ((remCore core m.brem).getD core) m.boff (c.hdrs.drop 32)
  else tileOf ((remCore core m.arem).getD core) m.aoff (c.hdrs.take 32)

/-- Truncate a term toward zero to a multiple of 2^e, counted in 2^e. -/
def alignTrunc (e : Int) : FVal → Int
  | .fin neg num den => let p := scalePow num den (-e)
                        sgnNum neg (p.1 / p.2)
  | _ => 0

/-- group_sum of R64. -/
def groupSum (terms : List FVal) : Nat :=
  let pinf := terms.contains (.inf false)
  let ninf := terms.contains (.inf true)
  if terms.any (·.isNan) || (pinf && ninf) then 0x7FC00000
  else if pinf then 0x7F800000
  else if ninf then 0xFF800000
  else if terms.all (·.isZero) then
    (if terms.all (fun t => match t with | .fin n _ _ => n | _ => false) then 0x80000000 else 0)
  else
    let logs := (terms.filter (fun t => !t.isZero)).map (fun t => match t with
      | .fin _ n d => floorLog2 n d
      | _ => 0)
    let emax := logs.foldl max (logs.headD 0)
    let e := emax - 31
    let x := terms.foldl (fun a t => a + alignTrunc e t) 0
    if x = 0 then 0
    else
      let p := scalePow x.natAbs 1 e
      fp32.rne (.fin (x < 0) p.1 p.2)

/-- One product of decoded elements; ∞ × 0 is a NaN (R61). -/
def mmaTerm (a b : FVal) : FVal :=
  if a.isNan || b.isNan || infTimesZero a b then .nan false else a.mul b

/-- When an MMA reads an operand: a multicast fetch has read it for all that it serves (R78). -/
def State.mmaLook (s : State) (c : Cmd) (second : Bool) : Look :=
  match c.fetched.find? (fun f => f.1 = second) with
  | some (_, lo, hi) => ⟨hi, c.id, lo, hi⟩
  | none => s.lookOf c

/-- One output element (R64). -/
def State.mmaElem (s : State) (va vb : Look) (m : MmaBlk) (ta tb : Tile) (i j : Nat) (acc : Nat) : Nat :=
  let p := tyP ta.ty
  (List.range m.kgc).foldl (fun c g =>
    if m.vd ≤ g * p then c
    else groupSum (fp32.value c :: (List.range p).map (fun n =>
      let k := g * p + n
      if k < m.vd then
        mmaTerm (s.tileVal va ta (16 * m.arow + i) (m.k0 * p + k)) (s.tileVal vb tb (16 * m.brow + j) (m.k0 * p + k))
      else .fin false 0 1))) acc

/-- Change the accumulator tile of a command's team. -/
def State.modAcc (s : State) (core : Nat) (c : Cmd) (f : AccTile → AccTile) : State :=
  s.modTeam core c.team (fun t =>
    { t with accs := kvSetD ⟨[], []⟩ t.accs c.acc (f (kvGetD ⟨[], []⟩ t.accs c.acc)) })

def State.accTile (s : State) (core : Nat) (c : Cmd) : AccTile :=
  ((s.team? core c.team).map (fun t => kvGetD ⟨[], []⟩ t.accs c.acc)).getD ⟨[], []⟩

/-- Write elements of a bank: (row, column, code). -/
def bankPut (b : List (Nat × Word)) (xs : List (Nat × Nat × Nat)) : List (Nat × Word) :=
  xs.foldl (fun b x => kvSetD 0 b (64 * x.1 + x.2.1) (BitVec.ofNat 32 x.2.2)) b

def State.doMma (s : State) (core : Nat) (c : Cmd) : State :=
  let m := mmaBlk c.blk
  let ta := c.mmaTile core false
  let tb := c.mmaTile core true
  let a := s.accTile core c
  let xs := (List.range (min m.vr c.n)).flatMap (fun i => (List.range m.vc).map (fun j =>
    (i, j, s.mmaElem (s.mmaLook c false) (s.mmaLook c true) m ta tb i j (if m.accum then (kvGetD 0 a.work (64 * i + j)).toNat else 0))))
  (s.modAcc core c (fun a => { a with work := bankPut a.work xs })).cmdRetire c.id

/-! ### AZERO, ASWAP, ALD, AST -/

def State.doAzero (s : State) (core : Nat) (c : Cmd) : State :=
  (s.modAcc core c (fun a => { a with work := a.work.filter (fun e => 64 * min c.n 64 ≤ e.1) })).cmdRetire c.id

def State.doAswap (s : State) (core : Nat) (c : Cmd) : State :=
  (s.modAcc core c (fun a => ⟨a.vis, a.work⟩)).cmdRetire c.id

/-- The rows of an ALD or AST, their address, the columns, the element size and the type (R79). -/
structure BankBlk where
  addr : Nat
  rs : Nat
  rows : Nat
  vc : Nat
  size : Nat
  ty : Nat
  deriving DecidableEq, Repr

def bankBlk (c : Cmd) : BankBlk :=
  let y := blkW c.blk 0x1C
  ⟨blkD c.blk 0x10, blkW c.blk 0x18, min (nbits y 6 0) c.n, nbits y 14 8, tyBits (nbits y 19 16) / 8, nbits y 19 16⟩

/-- The n-byte number at index i of a list of bytes. -/
def elemAt (bs : List Byte) (size i : Nat) : Nat := ofBytes ((bs.drop (i * size)).take size)

/-- ALD: the rows are read and widened exactly (R296). -/
def State.doAld (s : State) (core : Nat) (c : Cmd) : State :=
  let b := bankBlk c
  match s.engRead core c b.size ((List.range b.rows).map (fun i => (b.addr + i * b.rs, b.vc * b.size))) with
  | .error s => s
  | .ok bs =>
    let xs := (List.range b.rows).flatMap (fun i => (List.range b.vc).map (fun j =>
      let x := elemAt bs b.size (i * b.vc + j)
      (i, j, if b.ty = 8 then x else fp32.rne ((tyFmt b.ty).value x))))
    (s.modAcc core c (fun a => { a with vis := bankPut a.vis xs })).cmdRetire c.id

/-- The writes of an AST: row by row, or, where rows overlap, element by element in a free order, since which of two elements gives a
byte is not defined (R299; log 7, DESIGN CHOICE). -/
def BankBlk.writes (b : BankBlk) (free : Nat) (code : Nat → Nat → Nat) : List EngWrite :=
  if b.rs < b.vc * b.size && 1 < b.rows then
    freeOrder free ((List.range b.rows).flatMap (fun i => (List.range b.vc).map (fun j =>
      ⟨b.addr + i * b.rs + j * b.size, toBytes b.size (code i j), false, false⟩)))
  else (List.range b.rows).map (fun i =>
    ⟨b.addr + i * b.rs, (List.range b.vc).flatMap (fun j => toBytes b.size (code i j)), false, false⟩)

/-- AST: the rows are rounded and written (R299). -/
def State.doAst (s : State) (core launch : Nat) (c : Cmd) : State :=
  let b := bankBlk c
  let a := s.accTile core c
  let code := fun (i j : Nat) =>
    let x := (kvGetD 0 a.vis (64 * i + j)).toNat
    let f := tyFmt b.ty
    if fp32.isNan x then f.defNan else if b.ty = 8 then x else f.rne (fp32.value x)
  s.engCommit core launch c (b.writes c.free code) (fun c => { c with issued := true })

/-! ### Conversions of TCOPY (R84) -/

/-- RND of a magnitude to a half-step grid: n of n + 0.5, before saturation (R84). -/
def halfStepN (rnd : Nat) (neg : Bool) (num den : Nat) : Int :=
  -- v = u - 1/2 = vn / (2·den)
  let vn : Int := 2 * sgnNum neg num - den
  let vd : Int := 2 * den
  let fl := vn / vd
  let up := if vn % vd = 0 then fl else fl + 1
  match rnd with
  | 0 =>
    let r := 2 * (vn % vd)
    if r < vd then fl else if vd < r then fl + 1 else if fl % 2 = 0 then fl else fl + 1
  | 1 => if 2 * num < den then (if neg then -1 else 0) else if neg then up else fl
  | 2 => fl
  | _ => up

/-- Round ± num / den by RND to the grid of a half-step or blocked type, saturated: its code (R84). -/
def gridRnd (ty rnd : Nat) (neg : Bool) (num den : Nat) : Nat :=
  if tyHalfStep ty then
    let hi : Int := if ty = 4 then 127 else 7
    let lo : Int := if ty = 4 then -128 else -8
    (BitVec.ofInt (tyBits ty) (max lo (min hi (halfStepN rnd neg num den)))).toNat
  else if num = 0 then 0
  else (e2m1.round rnd false neg num den).1

/-- What a conversion from FP32 writes for an element of a type without blocks (R84). -/
def fromF32 (ty rnd band x : Nat) : Nat :=
  let v := fp32.value x
  if ty ≤ 1 then ((tyFmt ty).convert rnd false v).1
  else if !bandValid band then invalidCode ty (.nan false)
  else match bandVal band with
    | .fin _ bn bd =>
      (match v with
        | .fin neg num den =>
          if ty = 4 then gridRnd 4 rnd neg (num * bd) (den * bn)
          else ((tyFmt ty).convert rnd false (.fin neg (num * bd) (den * bn))).1
        | .inf neg => if ty = 4 then (if neg then 0x80 else 0x7F) else ((tyFmt ty).convert rnd false v).1
        | .nan _ => if ty = 4 then 0 else (tyFmt ty).defNan)
    | _ => invalidCode ty (.nan false)

/-- The codes and scale byte of one block of a blocked type (R84, R95). -/
def blockF32 (ty rnd band : Nat) (xs : List Nat) : List Nat × Nat :=
  let bad := xs.any (fun x => match fp32.value x with | .fin _ _ _ => false | _ => true)
  if !bandValid band || bad then (xs.map (fun _ => 0), 0xFF)
  else
    let m := maxAbs xs
    let sc := blockScale ty m.1 m.2 (bandVal band)
    if sc = 0 then (xs.map (fun _ => 0), 0)
    else
      match bandVal band with
      | .fin _ bn bd => (xs.map (fun x => match fp32.value x with
          | .fin neg num den => gridRnd ty rnd neg (num * bd * 256) (den * bn * scaleNum sc)
          | _ => 0), sc)
      | _ => (xs.map (fun _ => 0), 0xFF)

/-- Convert a run of elements, whole blocks for a blocked type: source codes with the scale of each block, to codes and
scales (R84). -/
def convRun (sty dty rnd band : Nat) (codes scales : List Nat) : List Nat × List Nat :=
  if sty = dty then (codes, scales)
  else if dty = 8 then
    (((List.range codes.length).zip codes).map (fun p => fp32.rne (decodeElem sty p.2 (scales.getD (p.1 / 8) 0) band)), [])
  else if tyBlocked dty then
    let blks := (List.range ((codes.length + 7) / 8)).map (fun i => blockF32 dty rnd band ((codes.drop (8 * i)).take 8))
    (blks.flatMap (·.1), blks.map (·.2))
  else (codes.map (fromF32 dty rnd band), [])

/-- Pack codes into bytes, low nibble first for 4-bit types (R49). -/
def packCodes (ty : Nat) (l : List Nat) : List Byte :=
  if tyBits ty = 4 then
    (List.range ((l.length + 1) / 2)).map (fun i => BitVec.ofNat 8 (l.getD (2 * i) 0 + 16 * l.getD (2 * i + 1) 0))
  else l.flatMap (toBytes (tyBits ty / 8))

/-- The code at index i of packed bytes. -/
def packedAt (ty : Nat) (bs : List Byte) (i : Nat) : Nat :=
  if tyBits ty = 4 then (bs.getD (i / 2) 0).toNat / 16 ^ (i % 2) % 16 else elemAt bs (tyBits ty / 8) i

/-- How many positions of a row a chunk may hold at most (R92). -/
def chunkMax (ty : Nat) : Nat := if tyBlocked ty then 8 * (4094 / 5) else 4094 / (tyBits ty / 8)

/-- The positions of a chunk of an asked-for length: at most the bound and what is left of the row, whole blocks where the
types are blocked, at least one block (R92). -/
def chunkLen (ty : Nat) (blocked : Bool) (len left : Nat) : Nat :=
  let k := min (min len (chunkMax ty)) left
  if !blocked || k = left then k else min left (max 8 (k / 8 * 8))

/-! ### Rows and lines (R92, R101, R407) -/

/-- The row or line under work: rows are taken in any order, by the step's choice, but for TROT, whose order is fixed (R87); the
positions of a row are taken in order (R92), and a row that has begun is finished first (log 37, DEDUCED). -/
def State.rowFor (s : State) (c : Cmd) : Nat :=
  if c.pos ≠ 0 || c.kind = .trot then c.row
  else
    let rest := (List.range c.n).filter (fun y => !c.rowsDone.contains y)
    rest.getD (s.choice % rest.length) c.row

/-- A row or line is complete; with the last of them every write of the command is issued. -/
def Cmd.rowOver (c : Cmd) (y : Nat) : Cmd :=
  { c with row := y + 1, pos := 0, rowBytes := [], rowsDone := c.rowsDone ++ [y], issued := c.n ≤ c.rowsDone.length + 1 }

/-- A chunk of k positions of row y, of `total` positions, is written. -/
def Cmd.chunkOver (c : Cmd) (y k total : Nat) : Cmd :=
  if total ≤ c.pos + k then c.rowOver y else { c with row := y, pos := c.pos + k }

/-! ### TCOPY -/

/-- The address of storage row y for layout 2, from the page entry (R83). -/
def CopyBlk.pageRow (c : CopyBlk) (entry t : Nat) : Nat := entry / 131072 * 131072 + t % c.tpp * c.mstride

/-- The storage ranges of positions [p, p + k) of a row at an address, and of their scales (R83). -/
def CopyBlk.codeRanges (c : CopyBlk) (base p k y : Nat) : List (Nat × Nat) :=
  if c.layout = 1 then (List.range k).map (fun i => (c.maddr + (p + i) * c.mstride + y * c.size, c.size))
  else if c.layout = 3 then [(base + p / 2, k / 2)]
  else [(base + p * c.size, k * c.size)]
def CopyBlk.scaleRange (c : CopyBlk) (base p k : Nat) : Nat × Nat := (base + c.klen / 2 + p / 8, k / 8)

/-- Writes into a tile's scratchpad are made through the own scratchpad window (R108). -/
def ownWindow : Nat := 0x01FF000000000000

/-- The band entry of a tile row in storage. -/
def CopyBlk.bandAt (c : CopyBlk) (r : Nat) : Nat := c.bandaddr + 2 * (r / 64)

/-- One chunk of a TCOPY (R84): the storage row's base, then the run. -/
def State.copyChunk (s : State) (core launch : Nat) (c : Cmd) (len : Nat) : State :=
  let b := copyBlk c.blk
  let t := tileOf core b.toff c.hdrs
  let y := s.rowFor c
  let r := b.row0 + y
  let blocked := tyBlocked b.mty || tyBlocked t.ty
  let k := chunkLen (if b.dir = 0 then t.ty else b.mty) blocked (if b.layout = 1 then min len 1000 else len) (b.klen - c.pos)
  let tok := b.prow0 + y
  let entry : Except State (List Byte) :=
    if b.layout = 2 then s.engRead core c 1 [(b.maddr + 8 * (tok / b.tpp), 8)] else .ok []
  match entry with
  | .error s => s
  | .ok e =>
    let base := if b.layout = 2 then b.pageRow (ofBytes e) tok else b.maddr + y * b.mstride
    let next := fun (c : Cmd) =>
      let c := if b.bandaddr = 0 then c else { c with bands := if c.bands.contains (r / 64) then c.bands else c.bands ++ [r / 64] }
      c.chunkOver y k b.klen
    let firstBand := !c.bands.contains (r / 64)
    if b.dir = 0 then
      -- expand: storage to tile
      let rs := b.codeRanges base c.pos k y ++ (if tyBlocked b.mty then [b.scaleRange base c.pos k] else [])
        ++ (if b.bandaddr = 0 then [] else [(b.bandAt r, 2)])
      match s.engRead core c 1 rs with
      | .error s => s
      | .ok bs =>
        let nc := k * tyBits b.mty / 8
        let codes := (List.range k).map (packedAt b.mty bs)
        let scales := if tyBlocked b.mty then ((bs.drop nc).take (k / 8)).map (·.toNat) else []
        let band := if b.bandaddr = 0 then 0x3F80 else ofBytes (bs.drop (bs.length - 2))
        let o := convRun b.mty t.ty b.rnd band codes scales
        let cw : List EngWrite :=
          if tyBits t.ty = 4 then (List.range (k / 2)).map (fun i =>
            ⟨ownWindow + t.elemOff r (c.pos + 2 * i), [BitVec.ofNat 8 (o.1.getD (2 * i) 0 + 16 * o.1.getD (2 * i + 1) 0)], true, false⟩)
          else (List.range k).map (fun i =>
            ⟨ownWindow + t.elemOff r (c.pos + i), toBytes (tyBits t.ty / 8) (o.1.getD i 0), true, false⟩)
        let sw : List EngWrite := if tyBlocked t.ty then (List.range (k / 8)).map (fun i =>
            ⟨ownWindow + t.scaleOff r (c.pos + 8 * i), [BitVec.ofNat 8 (o.2.getD i 0)], true, false⟩) else []
        let bw : List EngWrite := match t.bandOff r with
          | some off => if b.bandaddr ≠ 0 && firstBand then [⟨ownWindow + off, toBytes 2 band, true, false⟩] else []
          | none => []
        s.engCommit core launch c (cw ++ sw ++ bw) next
    else
      -- contract: tile to storage
      let codes := (List.range k).map (fun i => s.tileCode (s.lookOf c) false t r (c.pos + i))
      let scales := if tyBlocked t.ty then (List.range (k / 8)).map (fun i => s.tileScale (s.lookOf c) t r (c.pos + 8 * i)) else []
      let band := s.tileBand (s.lookOf c) false t r
      let o := convRun t.ty b.mty b.rnd band codes scales
      let bytes := packCodes b.mty o.1
      let cw : List EngWrite :=
        if b.layout = 1 then (b.codeRanges base c.pos k y).zipIdx.map (fun p =>
          ⟨p.1.1, (bytes.drop (p.2 * b.size)).take b.size, true, false⟩)
        else (b.codeRanges base c.pos k y).map (fun p => ⟨p.1, bytes, true, false⟩)
      let sw : List EngWrite := if tyBlocked b.mty then
          [⟨(b.scaleRange base c.pos k).1, o.2.map (BitVec.ofNat 8), true, false⟩] else []
      let bw : List EngWrite := if b.bandaddr ≠ 0 && firstBand then [⟨b.bandAt r, toBytes 2 band, true, false⟩] else []
      s.engCommit core launch c (cw ++ sw ++ bw) next

/-! ### TQST: the chunk is the line (R101) -/

/-- A write of line i of a TQST, where its bytes that another line's storage row covers too, or with `all` all of its bytes, are free
(R99, R101; log 7, DESIGN CHOICE). -/
def QstBlk.freed (q : QstBlk) (c : Cmd) (i : Nat) (all : Bool) (w : EngWrite) : EngWrite :=
  { w with data := w.data.zipIdx.map (fun p =>
      let a := w.addr + p.2
      let met := (List.range c.n).any (fun j => j ≠ i && rangesMeet a 1 (q.maddr + j * q.mstride) q.lineBytes)
      if all || met then Config.freeByte (c.free + i * 262144 + (a - (q.maddr + i * q.mstride))) else p.1) }

/-- The writes of line i's codes, and of its scales (R99). -/
def QstBlk.codeWrites (q : QstBlk) (i : Nat) (codes : List Nat) : List EngWrite :=
  let base := q.maddr + i * q.mstride
  if tyBlocked q.mty then
    ⟨base, packCodes q.mty (codes.take (q.len / 2 * 2)), true, false⟩
      :: (if q.len % 2 = 0 then [] else [⟨base + q.len / 2, [BitVec.ofNat 8 (codes.getD (q.len - 1) 0)], true, true⟩])
  else [⟨base, packCodes q.mty codes, true, false⟩]
def QstBlk.scaleWrites (q : QstBlk) (i : Nat) (scales : List Nat) : List EngWrite :=
  if tyBlocked q.mty then
    [⟨q.maddr + i * q.mstride + 4 * ((q.len + 7) / 8), scales.map (BitVec.ofNat 8), true, false⟩]
  else []

/-- Has a store reached the residue entry of line i since the command's issue (R101)? -/
def State.entryStored (s : State) (core : Nat) (c : Cmd) (q : QstBlk) (i : Nat) : Bool :=
  q.resoff ≠ 0 && s.was.any (fun x => c.id < x.seq && rangesMeet x.key x.old.length (scratchKey core (q.resoff + 4 * i)) 4
    && (match x.owner with | .team _ _ _ _ => true | _ => false))

/-- One line of a TQST (R96, R99). A store to its residue entry while that is in use makes every code of the line free, with the last
line also those of lines already written (R101; log 7, DESIGN CHOICE). -/
def State.qstLine (s : State) (core launch : Nat) (c : Cmd) : State :=
  let q := qstBlk c.blk
  let t := tileOf core q.toff c.hdrs
  let i := s.rowFor c
  let line := q.line0 + i
  let band := if q.band = 0 then 0x3F80 else elemAt c.ops 2 (line / 64 - q.line0 / 64)
  let xs := (List.range q.len).map (fun k =>
    if q.axis = 0 then s.tileCode (s.lookOf c) false t line (q.pos0 + k) else s.tileCode (s.lookOf c) false t (q.pos0 + k) line)
  let res := if q.resoff = 0 then 0 else s.readNat (scratchKey core (q.resoff + 4 * i)) 4
  let nblk := (q.len + 7) / 8
  let o := shapeLine q.mty res ((List.range nblk).map (fun b => (band, (xs.drop (8 * b)).take 8)))
  let codes := o.1.map (·.code)
  let scales := (List.range nblk).map (fun b => (o.1.getD (8 * b) ⟨0, 0, false⟩).scale)
  let rw : List EngWrite :=
    if q.resoff = 0 then [] else [⟨ownWindow + q.resoff + 4 * i, toBytes 4 o.2, false, false⟩]
  let again : List EngWrite := if c.n ≤ c.rowsDone.length + 1 then
      (c.rowsDone.filter (s.entryStored core c q)).flatMap (fun j =>
        (q.codeWrites j codes).map (fun w => { q.freed c j true w with counted := false }))
    else []
  s.engCommit core launch c
    (rw ++ (q.codeWrites i codes).map (q.freed c i (s.entryStored core c q i)) ++ (q.scaleWrites i scales).map (q.freed c i false) ++ again)
    (fun c => c.rowOver i)

/-! ### TCHAIN (R85, R86, R407) -/

/-- One operation on an FP32 code at position k (R86). Which of two codes within 1 ulp it returns depends on the operation and its
operand (R66; log 5, DESIGN CHOICE). -/
def State.chainOp (s : State) (core : Nat) (c : Cmd) (k : Nat) (e : Nat × Nat) (x : Nat) : Nat :=
  let pick := Config.ulpBit (256 + e.1 % 16) x
  let vec := ofBytes (s.scratchSeen core c (e.2 + 4 * k) 4)
  let act := fun (f : Bool → Bool → Nat → Nat → Nat) (atNeg : Nat) => match fp32.value x with
    | .nan _ => 0x7FC00000
    | .inf neg => if neg then atNeg else 0x7F800000
    | .fin neg num den => if num = 0 then x else f pick neg num den
  match e.1 % 16 with
  | 0 => (fp32.add 0 x e.2).1
  | 1 => (fp32.mul 0 x e.2).1
  | 2 => (fp32.add 0 x vec).1
  | 3 => (fp32.mul 0 x vec).1
  | 4 => (fp32.minMax 0 true x e.2).1
  | 5 =>
    if fp32.isNan x then 0x7FC00000
    else
      let lo := e.2 % 65536 * 65536
      let hi := e.2 / 65536 * 65536
      (fp32.minMax 0 false (fp32.minMax 0 true x lo).1 hi).1
  | 6 => act siluVal 0x80000000
  | 7 => act geluVal 0x80000000
  | 8 => (match fp32.value x with
    | .nan _ => 0x7FC00000
    | .inf neg => if neg then 0 else 0x7F800000
    | .fin neg num den => if num = 0 then 0x3F800000 else (exp2Val pick neg num den).1)
  | _ => fp32.rne ((tyFmt (e.2 % 16)).value ((tyFmt (e.2 % 16)).convert 0 false (fp32.value x)).1)

/-- Does a source row of a TCHAIN meet destination row y? Its values are then undefined (R85; log 7, DESIGN CHOICE). -/
def ChainBlk.met (b : ChainBlk) (n y : Nat) : Bool :=
  (List.range n).any (fun j => rangesMeet (b.src + j * b.ss) (b.len * (tyBits b.sty / 8)) (b.dst + y * b.ds) (b.len * (tyBits b.dty / 8)))

def State.chainChunk (s : State) (core launch : Nat) (c : Cmd) (len : Nat) : State :=
  let b := chainBlk c.blk
  let zs := tyBits b.sty / 8
  let zd := tyBits b.dty / 8
  let y := s.rowFor c
  let k := chunkLen b.dty false len (b.len - c.pos)
  match s.engRead core c 1 [(b.src + y * b.ss + c.pos * zs, k * zs)] with
  | .error s => s
  | .ok bs =>
    let out := (List.range k).map (fun i =>
      let pos := c.pos + i
      let x0 := fp32.rne ((tyFmt b.sty).value (elemAt bs zs i))
      let x := (List.range b.nops).foldl (fun x j =>
        s.chainOp core c pos (opEntry c.ops j) x)
        (if b.sty = 8 then elemAt bs zs i else x0)
      if b.dty = 8 then (if fp32.isNan x then 0x7FC00000 else x) else ((tyFmt b.dty).convert b.rnd false (fp32.value x)).1)
    let bytes := out.flatMap (toBytes zd)
    let bytes := if b.met c.n y then (List.range bytes.length).map (fun i =>
        Config.freeByte (c.free + y * 262144 + c.pos * zd + i)) else bytes
    s.engCommit core launch c [⟨b.dst + y * b.ds + c.pos * zd, bytes, true, false⟩] (fun c => c.chunkOver y k b.len)

/-! ### TROT (R87, R413, R414) -/

/-- The new code of element e of a row: its pair rotated by the pair's angle, whose sine and cosine depend on the base, the pair, D and Δ
(R66; log 5, DESIGN CHOICE). -/
def rotElem (b : RotBlk) (row : List Byte) (e : Nat) : Nat :=
  let size := tyBits b.ty / 8
  let h := e / b.dim
  let j := e % b.dim
  let half := b.dim / 2
  let i := if b.pairs = 0 then j / 2 else j % half
  let second := if b.pairs = 0 then j % 2 = 1 else half ≤ j
  let ex := if b.pairs = 0 then 2 * i else i
  let ez := if b.pairs = 0 then 2 * i + 1 else i + half
  let f := tyFmt b.ty
  let cx := elemAt row size (h * b.dim + ex)
  let cz := elemAt row size (h * b.dim + ez)
  if f.isNan cx || f.isNan cz then f.defNan
  else if b.delta = 0 then (if second then cz else cx)
  else
    let x := b.base + 4294967296 * (i + 65536 * (b.dim + 65536 * (BitVec.ofInt 32 b.delta).toNat))
    let cs := rotPair (Config.ulpBit 512 x) (Config.ulpBit 513 x) b.delta i b.dim b.base
    let x := f.value cx
    let z := f.value cz
    let vc := fp32.value cs.1
    let vs := fp32.value cs.2
    let r := if second then fp32.addVal 0 false (mmaTerm x vs) (mmaTerm z vc)
             else fp32.addVal 0 false (mmaTerm x vc) (mmaTerm z.negate vs)
    if b.ty = 8 then r.1 else (f.convert 0 false (fp32.value r.1)).1

/-- The address of a token's row, from its page entry. -/
def RotBlk.rowAt (b : RotBlk) (entry t : Nat) : Nat := entry / 131072 * 131072 + t % b.tpp * b.rstride

/-- One chunk of a TROT. A page entry or a source row that another agent has written during the command makes the codes free (R414;
log 7, DESIGN CHOICE). -/
def State.rotChunk (s : State) (core launch : Nat) (c : Cmd) (len : Nat) : State :=
  let b := rotBlk c.blk
  let size := tyBits b.ty / 8
  let total := b.heads * b.dim
  let y := if 0 < b.delta then c.n - 1 - c.row else c.row
  let src := b.frm + y
  let dst := ((src : Int) + b.delta).toNat
  let k := chunkLen b.ty false len (total - c.pos)
  let plist := [(b.plist + 8 * (src / b.tpp), 8), (b.plist + 8 * (dst / b.tpp), 8)]
  match s.engRead core c 1 plist with
  | .error s => s
  | .ok es =>
    let from' := [(b.rowAt (elemAt es 8 0) src, total * size)]
    let row : Except State (List Byte) := if c.rowBytes.isEmpty then s.engRead core c 1 from' else .ok c.rowBytes
    match row with
    | .error s => s
    | .ok bs =>
      let met := s.engMet core c (plist ++ from')
      let bytes := (List.range k).flatMap (fun i => toBytes size (rotElem b bs (c.pos + i)))
      let bytes := if met then (List.range bytes.length).map (fun i =>
          Config.freeByte (c.free + y * 262144 + c.pos * size + i)) else bytes
      s.engCommit core launch c [⟨b.rowAt (elemAt es 8 1) dst + c.pos * size, bytes, true, false⟩]
        (fun c => if total ≤ c.pos + k then c.rowOver c.row else { c with pos := c.pos + k, rowBytes := bs })

/-! ### The steps -/

/-- Does an earlier command of the workgroup keep a command from beginning (R81, R92, R100)? -/
def Cmd.blockedBy (c o : Cmd) : Bool :=
  o.id < c.id &&
  ((o.resumed && !o.begun)
   || (c.kind.matrix && o.kind.matrix && o.team = c.team && o.acc = c.acc
       && (c.kind = .aswap || o.kind = .aswap || ((c.kind = .ald || c.kind = .ast) == (o.kind = .ald || o.kind = .ast))))
   || (match c.residue, o.residue with
       | some a, some b => !o.issued && rangesMeet a.1 a.2 b.1 b.2
       | _, _ => false))

/-- Is another MMA or AZERO begun on the tensor core of the command's partition (R92)? -/
def Cmd.coreBusy (c o : Cmd) : Bool :=
  (c.kind = .mma || c.kind = .azero) && (o.kind = .mma || o.kind = .azero) && o.begun && o.id ≠ c.id
    && o.team % 6 = c.team % 6

def Workgroup.canBegin (w : Workgroup) (c : Cmd) : Bool :=
  !c.begun && c.mc.isEmpty && w.stopping.isNone && !w.cmds.any (fun o => c.blockedBy o || c.coreBusy o)

/-- ENGINE_COMMAND_BEGIN (R81, R92). -/
def execEngineCommandBegin (id : Nat) (s : State) : Host.Outcome State Fault Refusal :=
  finish (match s.cmd? id with
    | none => s
    | some (core, w, c) =>
      if s.engineFree core w id && w.canBegin c then
        s.bump.modCmd core id (fun c => { c with begun := true, start := s.nextSeq })
      else s)

/-- The set of a multicast fetch (R78). -/
def Mcast.key (m : Mcast) : Nat × Nat × Nat × Nat := (m.src, m.off, m.set, m.win)

/-- The members of a set that still stand: their workgroups have not exited, been cancelled or left it (R78). -/
def State.mcMembers (s : State) (m : Mcast) : List (Nat × Workgroup) :=
  m.members.filterMap (fun k => match s.wg? k with
    | some w => if w.cancelled || w.ended || w.leftSets.contains m.key then none else some (k, w)
    | none => none)

/-- Deliver a fetch to a command: its operands of the set are as the fetch read them. -/
def Cmd.deliver (c : Cmd) (key : Nat × Nat × Nat × Nat) (lo hi : Nat) : Cmd :=
  { c with mc := c.mc.filter (fun x => x.key ≠ key)
           fetched := c.fetched ++ (c.mc.filter (fun x => x.key = key)).map (fun x => (x.second, lo, hi)) }

/-- MULTICAST_FETCH (R78): once every member of the set that still stands has issued the matching command, one fetch
delivers the tile to all of them, as it stands at the source core between the last of those issues and the fetch. -/
def execMulticastFetch (id : Nat) (s : State) : Host.Outcome State Fault Refusal :=
  finish (match s.cmd? id with
    | none => s
    | some (core, w, c) =>
      match c.mc.head? with
      | none => s
      | some m =>
        let here := s.mcMembers m
        if here.all (fun p => m.round < p.2.mcIssued.count m.key) then
          let cmds := ((core, w) :: here).filterMap (fun p =>
            (p.2.cmds.find? (fun c => c.mc.any (fun x => x.key = m.key))).map (fun o => (p.1, o.id)))
          let lo := (cmds.map (·.2)).foldl max 0
          cmds.foldl (fun t p => t.modCmd p.1 p.2 (fun o => o.deliver m.key lo s.nextSeq)) s.bump
        else s)

/-- A command of a workgroup leaves its threads behind; the workgroup ends with its last command (R34). -/
def State.afterCmd (s : State) (core : Nat) : State := s.endWorkgroup core

/-- COPY_CHUNK_WRITE (R92): the copy engine reads, converts and writes a chunk of at most `len` positions. -/
def execCopyChunkWrite (id len : Nat) (s : State) : Host.Outcome State Fault Refusal :=
  finish (match s.cmd? id with
    | none => s
    | some (core, w, c) =>
      if c.begun && !c.issued && !c.kind.matrix && 0 < len && w.stopping.isNone && s.engineFree core w id then
        (match c.kind with
          | .tcopy => s.copyChunk core w.launch c len
          | .tqst => s.qstLine core w.launch c
          | .tchain => s.chainChunk core w.launch c len
          | .trot => s.rotChunk core w.launch c len
          | _ => s).afterCmd core
      else s)

/-- TENSOR_COMMAND_COMPLETE (R81): a matrix command that has begun acts, whole. -/
def execTensorCommandComplete (id : Nat) (s : State) : Host.Outcome State Fault Refusal :=
  finish (match s.cmd? id with
    | none => s
    | some (core, w, c) =>
      if c.begun && !c.issued && c.kind.matrix && s.engineFree core w id then
        (match c.kind with
          | .mma => s.doMma core c
          | .azero => s.doAzero core c
          | .aswap => s.doAswap core c
          | .ald => s.doAld core c
          | .ast => s.doAst core w.launch c
          | _ => s).afterCmd core
      else s)

end Sys2Proof.Machine
end

