-- ==== Sys2Proof/Machine/Ordering.lean ====
section
/-! DEFINITION. The steps of the ordering machine (06, R114 to R123, R426): LOAD_SATISFY, STORE_BUFFER_DRAIN,
WRITE_PATH_LEAVE, CLUSTER_ATOMIC_PATH_LEAVE, L1_VIEW_DROP, L1_VIEW_FILL, DIE_COPY_DROP, GATE_APPLY, PORT_ACKNOWLEDGE,
FENCE_COMPLETE and WAITM_POLL (23, R423). A step that is not enabled changes nothing. -/

namespace Sys2Proof.Machine

/-! ### What orders an access behind others -/

/-- The release that an arrival makes (R43, R124). -/
def Arrival.release (a : Arrival) : FenceReq :=
  ⟨a.id, a.core, a.uid, a.agents ++ [a.uid], match a.bar with | some k => k.scope | none => 0, true, false, []⟩

/-- The release that a push makes to a SCOPED queue (R133). -/
def QOp.release (x : QOp) (scope : Nat) : FenceReq := ⟨x.id, x.core, x.uid, x.agents, scope, true, false, []⟩

/-- Does a push still wait for its release? -/
def State.pushHeld (s : State) (x : QOp) : Bool :=
  x.op = 0 && (match kvGet s.hwqs x.q with
    | some q => !q.early && !s.fenceEnabled (x.release q.scope)
    | none => false)

/-- Is every fence, and everything that acts as one, behind which an agent's access stands complete (R123, R124, R375)? -/
def State.ordered (s : State) (agent id : Nat) : Bool :=
  !s.fences.any (fun f => f.agents.contains agent && f.id < id)
  && !s.arrivals.any (fun a => a.id < id && a.release.agents.contains agent && !s.fenceEnabled a.release)
  && !s.qops.any (fun x => x.id < id && x.agents.contains agent && (x.op = 2 || s.pushHeld x))

/-- A step of an access, by its choice, may go ahead of the QTRYs before it, which then find nothing and are no fence (R375). -/
def State.pastTries (s : State) (agent id : Nat) : State :=
  if s.choice = 0 then s
  else { s with qops := s.qops.map (fun (x : QOp) => if x.op = 2 && x.id < id && x.agents.contains agent then { x with op := 3 } else x) }

/-- Does a RED of the core that waits at a fault in its write path act on the bytes? -/
def State.heldMeets (s : State) (w : WEntry) (key n : Nat) : Bool :=
  w.held && (match w.ctx with
    | some c => (match s.translateNow w.core c w.va.toNat true false with
      | .ok k => rangesMeet k w.data.length key n
      | _ => false)
    | none => false)

/-- Workgroups whose last thread and last command are gone end (R34). -/
def State.sweep (s : State) : State := s.wgs.foldl (fun s e => s.endWorkgroup e.1) s

/-! ### Where a core's loads and atomics look -/

/-- The path of a core, or with `cl` of its cluster's atomic unit (R113, R426). -/
def State.pointPath (s : State) (core : Nat) (cl : Bool) : List WEntry :=
  if cl then s.capath.filter (fun w => clusterOf w.core = clusterOf core) else s.wpath.filter (fun w => w.core = core)

/-- The line in a core's L1 view, or its cluster's atomic view. -/
def State.pointView (s : State) (core : Nat) (cl : Bool) (line : Nat) : Option (List Byte) :=
  if cl then kvGet s.caview (viewKey (clusterOf core) line) else kvGet s.l1 (viewKey core line)

def State.setPointView (s : State) (core : Nat) (cl : Bool) (line : Nat) (bs : List Byte) : State :=
  if cl then { s with caview := kvPut s.caview (viewKey (clusterOf core) line) bs }
  else { s with l1 := kvPut s.l1 (viewKey core line) bs }

def State.dropPointView (s : State) (core : Nat) (cl : Bool) (line : Nat) : State :=
  if cl then { s with caview := kvDel s.caview (viewKey (clusterOf core) line) } else { s with l1 := kvDel s.l1 (viewKey core line) }

/-- The line at an atomic's point, as its view has it or a fill from the die gives it, and with the path's writes over it, which the
atomic reads (R426). -/
def State.pointLine (s : State) (core : Nat) (cl : Bool) (line : Nat) : Option (List Byte × List Byte) :=
  let path := s.pointPath core cl
  let view : Option (List Byte) := match s.pointView core cl line with
    | some bs => some bs
    | none => if s.dieReadable (coreDie core) (128 * line) then some (s.dieBytes (s.ctxOf core) (coreDie core) (128 * line) 128) else none
  view.map (fun bs => (bs, path.foldl (WEntry.over (128 * line) 128) bs))

/-- An atomic's result at its point: into the view and, as a plain write, into the path (R426). -/
def State.pointPut (s : State) (cl : Bool) (w : WEntry) (view : List Byte) : State :=
  let s : State := s.setPointView w.core cl (lineOf w.key) (overlay view (w.key % 128) w.data)
  if cl then { s with capath := s.capath ++ [w] } else { s with wpath := s.wpath ++ [w] }

/-- A write leaves its path: a view that has been filled with other bytes since drops the line, as it may at any step (R117, R426), so
that the point and its core's threads do not lose their own write (R403, R426; log 13, DEDUCED). -/
def State.leaveView (s : State) (cl : Bool) (w : WEntry) : State :=
  if !isDevice w.key then s
  else match s.pointView w.core cl (lineOf w.key) with
  | some bs => if w.red.isSome || (bs.drop (w.key % 128)).take w.data.length ≠ w.data then s.dropPointView w.core cl (lineOf w.key) else s
  | none => s

/-! ### LOAD_SATISFY -/

/-- Bytes into a lane register and those after it (R359). -/
def Thread.putLoad (t : Thread) (d n x : Nat) (signed : Bool) : Thread :=
  if n ≤ 4 then t.setV d (if signed then BitVec.ofInt 32 (sextInt (8 * n) x) else BitVec.ofNat 32 x)
  else (List.range (n / 4)).foldl (fun t i => t.setV (d + i) (BitVec.ofNat 32 (x / 4294967296 ^ i))) t

/-- What AWQRY writes (R308). -/
def awqryWord (x : Nat) : Word := BitVec.ofNat 32 (min (x % 4294967296) 16777215 + x / 72057594037927936 % 256 * 16777216)

/-- A load or returning atomic gets its value, and its operation retires with the last of its issue (R88, R114). -/
def State.loadDone (s : State) (l : LoadReq) (x : Nat) : State :=
  let s : State := { s with loads := s.loads.filter (fun o => o.id ≠ l.id) }
  let s : State := match l.dst with
    | .lane d signed => s.modTid l.core l.agent (fun t => t.putLoad d l.n x signed)
    | .unif d => s.modUid l.uid (fun t =>
        if l.n = 8 then t.setSr2 d (BitVec.ofNat 64 x) else t.setSr d (BitVec.ofNat 32 x))
    | .atom d _ _ => s.modTid l.core l.agent (fun t => t.setV d (BitVec.ofNat 32 x))
    | .cas d _ _ => s.modTid l.core l.agent (fun t => t.putLoad d l.n x false)
    | .awqry d => s.modUid l.uid (fun t => t.setSr d (awqryWord x))
    | .refill => (s.modTid l.core l.agent (fun t => t.pop [BitVec.ofNat 64 x])).regroupCore l.core
  if s.loads.any (fun o => o.tok = l.tok) then s else s.modUid l.uid (fun m => m.tokDone l.tok)

/-- What keeps a load from being satisfied: an earlier access of its agent to the bytes, a fence, or a RED that still
carries only its operand (R114, R123). -/
def State.loadBlocked (s : State) (l : LoadReq) : Bool :=
  s.loads.any (fun o => o.agent = l.agent && o.id < l.id && rangesMeet o.key o.n l.key l.n)
  || !s.ordered l.agent l.id
  || s.stbuf.any (fun w => w.agent = l.agent && w.id < l.id && w.red.isSome && w.meets l.key l.n)
  || s.wpath.any (fun w => w.core = l.core && w.red.isSome && (w.meets l.key l.n || s.heldMeets w l.key l.n))

/-- A plain load: byte by byte the youngest of its own buffered stores, the core's write path, the L1 view, and the
scratchpad, home, port or die view (R114; log 27, DEDUCED). A line that the die lacks is asked for. -/
def State.loadPlain (s : State) (l : LoadReq) : State :=
  let newer := s.pointPath l.core false ++ s.stbuf.filter (fun w => w.agent = l.agent && w.id < l.id)
  let die := coreDie l.core
  let line := lineOf l.key
  let covered := (List.range l.n).all (fun i => newer.any (fun w => w.meets (l.key + i) 1))
  let base : Option (List Byte) :=
    match (if isDevice l.key then s.pointView l.core false line else none) with
    | some bs => some ((bs.drop (l.key % 128)).take l.n)
    | none => if covered then some [] else if s.dieReadable die l.key then some (s.dieBytes (s.ctxOf l.core) die l.key l.n) else none
  match base with
  | some bs => s.loadDone l (ofBytes (newer.foldl (WEntry.over l.key l.n) bs))
  | none => if isDevice l.key then s.sendRead die l.id line else s

def LoadDst.atomic : LoadDst → Bool
  | .lane _ _ => false
  | .unif _ => false
  | .atom _ _ _ => true
  | .cas _ _ _ => true
  | .awqry _ => false
  | .refill => false

/-- The value an atomic writes over n bytes, or none where a CAS fails (R303, R331). -/
def LoadDst.newValue (d : LoadDst) (n old : Nat) : Option Nat :=
  match d with
  | .atom _ op y => some (atomNew op (BitVec.ofNat 32 old) y).toNat
  | .cas _ e y => if old = e.toNat % 256 ^ n then some (y.toNat % 256 ^ n) else none
  | .lane _ _ => none
  | .unif _ => none
  | .awqry _ => none
  | .refill => none

/-- The write of a returning atomic. It is in no store counter, and no EARLY pop waits for it (R88, R134). -/
def State.atomEntry (s : State) (l : LoadReq) (x : Nat) : WEntry :=
  ⟨l.id, l.core, l.agent, .team (((s.wg? l.core).map (·.launch)).getD 0) l.uid l.id (BitVec.allOnes 64), l.key,
    toBytes l.n x, none, some (s.ctxOf l.core), l.va, false⟩

/-- One read-modify-write step at an atomic's point: `old` was read there and `put` makes the write. -/
def State.atomAct (s : State) (l : LoadReq) (old : Nat) (put : State → WEntry → State) : State :=
  match l.dst.newValue l.n old with
  | none => s.loadDone l old
  | some x =>
    let w := s.atomEntry l x
    (put (s.track w) w).loadDone l old

/-- A returning atomic or CAS at the point that its address and scope select (R111, R114, R426). -/
def State.loadAtomic (s : State) (l : LoadReq) : State :=
  let die := coreDie l.core
  let home := homeDie l.key
  let line := lineOf l.key
  if s.stbuf.any (fun w => w.agent = l.agent && w.id < l.id && w.meets l.key l.n) then s
  else if isScratch l.key then s.atomAct l (s.readNat l.key l.n) (fun s w => s.performAt die w)
  else if isDevice l.key && l.scope < 2 then
    let cl : Bool := l.scope = 1
    if (s.pointPath l.core cl).any (fun w => w.red.isSome && w.meets l.key l.n) then s
    else match s.pointLine l.core cl line with
      | some (view, bs) => s.atomAct l (ofBytes ((bs.drop (l.key % 128)).take l.n)) (fun s w => s.pointPut cl w view)
      | none => s.sendRead die l.id line
  else if (s.wpath ++ s.capath).any (fun w => w.core = l.core && w.meets l.key l.n) then s
  else if home = 5 then
    s.atomAct l (s.homeNat (s.ctxOf l.core) l.key l.n) (fun s w => s.toPort die w)
  else if s.remoteReady die home then
    let s : State := if home = die then s else { s with copies := kvDel s.copies (viewKey die line) }
    s.atomAct l (s.readNat l.key l.n) (fun s w => s.performAt home w)
  else s

/-- LOAD_SATISFY (R114): the firewall checks the access (R226). -/
def execLoadSatisfy (id : Nat) (s : State) : Host.Outcome State Fault Refusal :=
  match s.loads.find? (fun l => l.id = id) with
  | none => .next s
  | some l =>
    let t : State := s.pastTries l.agent l.id
    if t.loadBlocked l then .next s
    else if !s.firewallOk (s.ctxOf l.core) l.key then .next (s.firewallFault l.core l.va.toNat none)
    else accessing s l.key (if l.dst.atomic then t.loadAtomic l else t.loadPlain l).sweep

/-! ### STORE_BUFFER_DRAIN -/

/-- A RED executes at a core's L1 or its cluster's atomic unit as it drains (R115, R426). -/
def State.redAtPoint (s : State) (w : WEntry) (op : Nat) (cl : Bool) : State :=
  let line := lineOf w.key
  if (s.pointPath w.core cl).any (fun o => o.red.isSome && o.meets w.key w.data.length) then s
  else match s.pointLine w.core cl line with
    | none => s.sendRead (coreDie w.core) w.id line
    | some (view, bs) =>
      let old := BitVec.ofNat 32 (ofBytes ((bs.drop (w.key % 128)).take 4))
      let x := atomNew op old (BitVec.ofNat 32 (ofBytes w.data))
      let s : State := { s with stbuf := s.stbuf.filter (fun o => o.id ≠ w.id) }
      s.pointPut cl { w with data := toBytes 4 x.toNat, red := none } view

/-- An entry leaves its pending-store buffer (R115). -/
def State.drain (s : State) (w : WEntry) : State :=
  let t : State := { s with stbuf := s.stbuf.filter (fun o => o.id ≠ w.id) }
  let line := lineOf w.key
  if isScratch w.key then t.dispatch (coreDie w.core) w
  else match w.red with
    | none =>
      let t : State := match (if isDevice w.key then t.pointView w.core false line else none) with
        | some bs => t.setPointView w.core false line (overlay bs (w.key % 128) w.data)
        | none => t
      { t with wpath := t.wpath ++ [w] }
    | some (op, sc) =>
      if isDevice w.key && sc < 2 then s.redAtPoint w op (sc = 1)
      else { t with wpath := t.wpath ++ [w], l1 := kvDel t.l1 (viewKey w.core line) }

/-- Is it an older store of the same instruction, by a lower lane, to some of the same bytes (R67, R403)? Of such stores the highest lane's
comes last. -/
def WEntry.lowerLane (o w : WEntry) : Bool :=
  o.red.isNone && o.id < w.id && o.meets w.key w.data.length
    && (match o.owner, w.owner with | .team _ _ a _, .team _ _ b _ => a = b | _, _ => false)

/-- STORE_BUFFER_DRAIN (R115): no older entry of the buffer, no store of a lower lane by the same instruction (R403), and no earlier load
of the agent not yet satisfied, overlaps it (R114), and no fence stands before it (R123). -/
def execStoreBufferDrain (id : Nat) (s : State) : Host.Outcome State Fault Refusal :=
  .next (match s.stbuf.find? (fun w => w.id = id) with
    | none => s
    | some w =>
      let t : State := s.pastTries w.agent w.id
      if s.stbuf.any (fun o => (o.agent = w.agent && o.id < w.id && o.meets w.key w.data.length) || o.lowerLane w)
          || s.loads.any (fun o => o.agent = w.agent && o.id < w.id && rangesMeet o.key o.n w.key w.data.length)
          || !t.ordered w.agent w.id then s
      else (t.drain w).sweep)

/-! ### The write paths -/

/-- The firewall refuses a write as it leaves a path: it performs nothing, and its master's context faults (R226, R227). The
core may host another launch's workgroup by then. -/
def State.refuseWrite (s : State) (w : WEntry) : State :=
  let s : State := s.completeWrite w.id
  match w.ctx with
  | none => s
  | some c =>
    let engine : Option Nat := match w.owner with
      | .cmd _ id _ => some (match s.cmd? id with | some (_, _, c) => c.kind.unit c.team | none => 0)
      | _ => none
    if w.owner.launch?.isSome && (s.wg? w.core).map (·.launch) = w.owner.launch? then s.firewallFault w.core w.va.toNat engine
    else
      let s : State := s.logWrite false 5 (coreDie w.core) (coreX w.core) (coreY w.core) (BitVec.ofNat 64 c) 0
      let q := match w.owner.launch?.bind s.launch? with | some l => (l.queue, l.tag.toNat) | none => (0, 0)
      s.contextFault c ⟨0x20, 0, 0, w.va.toNat, coreDie w.core, coreX w.core, coreY w.core, engine.isSome, 0, q.1, q.2⟩

/-- Does the firewall let a write through? -/
def State.writeOk (s : State) (w : WEntry) : Bool :=
  match w.ctx with
  | some c => s.firewallOk c w.key
  | none => true

/-- Does an older entry of a path keep an entry in it (R116)? -/
def State.olderMeets (s : State) (path : List WEntry) (w : WEntry) : Bool :=
  (path.takeWhile (fun o => o.id ≠ w.id)).any (fun o =>
    o.meets w.key w.data.length || s.heldMeets o w.key w.data.length)

/-- WRITE_PATH_LEAVE (R116). -/
def execWritePathLeave (id : Nat) (s : State) : Host.Outcome State Fault Refusal :=
  match s.wpath.find? (fun w => w.id = id) with
  | none => .next s
  | some w =>
    if w.held || s.olderMeets (s.pointPath w.core false) w then .next s
    else
      let t : State := ({ s with wpath := s.wpath.filter (fun o => o.id ≠ id) } : State).leaveView false w
      if s.writeOk w then accessing s w.key (t.dispatch (coreDie w.core) w).sweep else .next (t.refuseWrite w).sweep

/-- CLUSTER_ATOMIC_PATH_LEAVE (R426, R116). -/
def execClusterAtomicPathLeave (id : Nat) (s : State) : Host.Outcome State Fault Refusal :=
  match s.capath.find? (fun w => w.id = id) with
  | none => .next s
  | some w =>
    if s.olderMeets (s.pointPath w.core true) w then .next s
    else
      let t : State := ({ s with capath := s.capath.filter (fun o => o.id ≠ id) } : State).leaveView true w
      if s.writeOk w then accessing s w.key (t.dispatch (coreDie w.core) w).sweep else .next (t.refuseWrite w).sweep

/-! ### Views and copies (R117) -/

/-- L1_VIEW_DROP (R117): a core's L1 view drops a line, or, with an odd choice, the view of its cluster's atomic unit does (R426). -/
def execL1ViewDrop (core line : Nat) (s : State) : Host.Outcome State Fault Refusal :=
  .next (s.dropPointView core (s.choice % 2 = 1) line)

/-- L1_VIEW_FILL (R117): from the die view, where the die holds the line, at any step. -/
def execL1ViewFill (core line : Nat) (s : State) : Host.Outcome State Fault Refusal :=
  let key := 128 * line
  .next (
    if coreExists s.part core && isDevice key && memExists s.part key && s.dieReadable (coreDie core) key then
      s.setPointView core false line (s.dieBytes (s.ctxOf core) (coreDie core) key 128)
    else s)

def execDieCopyDrop (die line : Nat) (s : State) : Host.Outcome State Fault Refusal :=
  .next { s with copies := kvDel s.copies (viewKey die line) }

/-! ### GATE_APPLY -/

/-- The write that a message carries (R120). -/
def Payload.carries : Payload → Option Nat
  | .write w => some w.id
  | .update id _ _ _ => some id
  | .read _ _ => none
  | .reply _ _ _ => none
  | .clock => none

/-- May the gate of the message's die apply it (R120)? -/
def State.gateOpen (s : State) (m : Msg) : Bool := !s.dueBefore m.dst m.stamp m.body.carries

/-- A line of another die as a die holds it: its own writes that are on their way stand over what the home has sent, so that its threads
do not lose them (R403; log 13, DEDUCED). -/
def State.ownOver (s : State) (h line : Nat) (bs : List Byte) : List Byte :=
  let own := fun (id : Nat) => s.writes.any (fun (t : WTrack) => t.id = id && t.numberedBy h)
  let back := s.chans.filterMap (fun m => match m.body with
    | .update id l off data => if m.dst = h && l = line && own id then some (off, data) else none
    | _ => none)
  let out := s.chans.filterMap (fun m => match m.body with
    | .write w => if m.src = h && w.red.isNone && isDevice w.key && lineOf w.key = line then some (w.key % 128, w.data) else none
    | _ => none)
  (back ++ out).foldl (fun bs p => overlay bs p.1 p.2) bs

/-- A reply installs the line in the die view and in the L1 view of the core that asked (R114). -/
def State.installLine (s : State) (h load line : Nat) (data : List Byte) : State :=
  let bs := s.ownOver h line data
  let s : State := { s with copies := kvPut s.copies (viewKey h line) bs }
  match s.loads.find? (fun l => l.id = load) with
  | some l => s.setPointView l.core false line bs
  | none => s

/-- What a message does at its die (R120). -/
def State.applyMsg (s : State) (m : Msg) : State :=
  match m.body with
  | .write w => s.performAt m.dst w
  | .update id line off data =>
    let owner := ((s.writes.find? (fun (t : WTrack) => t.id = id)).map (·.owner)).getD .keystone
    let s : State := match kvGet s.copies (viewKey m.dst line) with
      | some bs => s.noteWas (wasKey m.dst (128 * line + off)) id owner false ((bs.drop off).take data.length)
      | none => s
    let s : State := { s with
      copies := kvMod s.copies (viewKey m.dst line) (fun bs => s.ownOver m.dst line (overlay bs off data))
      writes := s.writes.map (fun (t : WTrack) => if t.id = id then { t with updPending := t.updPending.erase m.dst } else t) }
    s.checkWrite id
  | .read load line => s.send m.dst m.src (.reply load line (s.readBytes (128 * line) 128))
  | .reply load line data => s.installLine m.dst load line data
  | .clock => s

/-- A message is applied: its stamp is merged, its effect takes place with the updates that it sends, and the changed clock
is sent behind them, since no message depends on a write sent after it (R119 to R121). -/
def State.acceptMsg (s : State) (m : Msg) : State :=
  if s.merged m.dst m.stamp = s.vcOf m.dst then s.applyMsg m
  else ((s.mergeOnly m.dst m.stamp).applyMsg m).sendClock m.dst

/-- The place in memory that a message reaches, if it reaches one. -/
def Payload.place : Payload → Option Nat
  | .write w => some w.key
  | .read _ line => some (128 * line)
  | .update _ _ _ _ => none
  | .reply _ _ _ => none
  | .clock => none

/-- On ADK-9201 both ring links join the two compute dies (R12): which of the two a step means, as its turn's choice says, 128 for the
second. -/
def State.linkSel (s : State) (a b : Nat) : Nat := if s.part = .adk9201 && a < 2 && b < 2 && s.choice = 1 then 128 else 0

/-- GATE_APPLY (R13, R119, R120): the oldest message of the channel. Its flits have passed the link they crossed. -/
def execGateApply (src dst : Nat) (s : State) : Host.Outcome State Fault Refusal :=
  match s.chans.find? (fun m => m.src = src && m.dst = dst) with
  | none => .next s
  | some m =>
    if s.gateOpen m then
      let t : State := { s with
        chans := s.chans.eraseP (fun m => m.src = src && m.dst = dst), retries := kvDel s.retries (8 * src + dst + s.linkSel src dst) }
      match m.body.place with
      | some key => accessing s key (t.acceptMsg m).sweep
      | none => .next (t.acceptMsg m).sweep
    else .next s

/-! ### Ports, fences, polls -/

/-- Viaduct ports of a part (R1, R21). -/
def Part.viaducts (p : Part) : Nat := match p with | .adk9601 => 12 | .adk9405 => 6 | .adk9201 => 4

/-- The cipher engine that a packet of a write passes, of those of R231: the PCIe port's, the CXL port's, or a Viaduct port's. -/
def WEntry.engine (w : WEntry) (port : Nat) : Nat := match spaceOf w.key with | 1 => 0 | 2 => 1 | _ => 2 + port

/-- Has a cipher engine acknowledged the kill of a context's key (R231)? -/
def State.keyAcked (s : State) (ctx engine : Nat) : Bool :=
  s.keys.any (fun k => k.2.ctx = ctx && k.2.state = 2 && k.2.acks.getLsbD engine)

/-- PORT_ACKNOWLEDGE (R113, R122): a fabric write goes through a Viaduct port that is up, by the turn's choice (R221). A packet under a
key whose kill its engine has acknowledged is dropped (R231). -/
def execPortAcknowledge (id : Nat) (s : State) : Host.Outcome State Fault Refusal :=
  .next (match s.ports.find? (fun w => w.id = id) with
    | none => s
    | some w =>
      let up := (List.range s.part.viaducts).filter (fun p => !s.viaductDown.contains p)
      if s.olderMeets s.ports w || (spaceOf w.key = 3 && up.isEmpty) then s
      else
        let port := up.getD (s.choice % up.length) 0
        let t : State := { s with ports := s.ports.filter (fun o => o.id ≠ id)
                                  retries := if spaceOf w.key = 3 then kvDel s.retries (64 + port) else s.retries }
        if (match w.ctx with | some c => s.keyAcked c (w.engine port) | none => false) then (t.completeWrite id).sweep
        else (t.performAt 5 w).sweep)

/-- FENCE_COMPLETE (R123). -/
def execFenceComplete (id : Nat) (s : State) : Host.Outcome State Fault Refusal :=
  .next (match s.fences.find? (fun f => f.id = id) with
    | none => s
    | some f => if s.fenceEnabled f then s.finishFence f else s)

/-- The threads of a team that wait on a word, by lane: its address, its place, the condition and the value. -/
def Team.waitmLanes (t : Team) : List (Nat × DWord × Nat × Nat × Word) :=
  t.lanes.filterMap (fun l => match l.2.wait with
    | .waitm va key cond y => some (l.1, va, key, cond, y)
    | _ => none)

/-- The waits of a team on one address are tested again (R423): the address is translated anew; a fault holds the threads
at their WAITM (R195), and where no TLB holds the page the walk is made within the step (log 15, DESIGN CHOICE). -/
def State.waitmPollAt (s : State) (core team uid : Nat) (ws : List (Nat × DWord × Nat × Nat × Word)) (va : DWord)
    (key : Nat) : State :=
  let lanes := ws.map (·.1)
  let tids := fun (s : State) (ls : List Nat) => ls.filterMap (fun l => (s.thread? core team l).map (·.tid))
  let test := fun (s : State) (k : Nat) =>
    let x : Word := BitVec.ofNat 32 (s.homeNat (s.ctxOf core) k 4)
    let hit := (ws.filter (fun w => intCond w.2.2.2.1 x w.2.2.2.2)).map (·.1)
    let s : State := s.modLanes core team lanes (fun _ t => match t.wait with
      | .waitm a _ c y => { t with wait := .waitm a k c y }
      | _ => t)
    if hit.isEmpty then s else s.acquire core uid (tids s hit) 2 (s.stampFrom core k)
  let ctx := s.ctxOf core
  match s.place core va 4 with
  | .invalid => test s key
  | .window k => if s.firewallOk ctx k then test s k else s.firewallFault core va.toNat none
  | .virt a =>
    match s.translateNow core ctx a false false with
    | .ok k => if s.firewallOk ctx k then test (s.checkMem k) k else s.firewallFault core a none
    | .miss => s.needWalk core ctx a
    | .refused => s.firewallFault core a none
    | .sealed => s
    | .fault k =>
      let m : Miss := ⟨ctx, va, false, false, true, false, false⟩
      ((s.newFault (.threads core) k m core).modLanes core team lanes
        (fun _ t => { t with pc := t.pc - 4, wait := .fault s.nextSeq })).regroupCore core

/-- WAITM_POLL (R423): a test of the words that a team's threads wait on. -/
def execWaitmPoll (core team : Nat) (s : State) : Host.Outcome State Fault Refusal :=
  finish (match s.team? core team with
    | none => s
    | some t =>
      let ws := t.waitmLanes
      ((ws.map (fun w => (w.2.1, w.2.2.1))).dedup).foldl (fun s p =>
        s.waitmPollAt core team t.uid (ws.filter (fun w => w.2.1 = p.1)) p.1 p.2) s)

end Sys2Proof.Machine
end

