-- ==== Sys2Proof/Machine/Special.lean ====
section
/-! DEFINITION. Special registers (18, R291, R292; 22, R399), the issue of a special function (R389), and the estate
instructions WILL and HEIRQ (07, R136 to R138, R145, R146). -/

namespace Sys2Proof.Machine

/-! ### Special registers -/

/-- ESTATUS from the status words of a birth's claims (R145). -/
def estatus (claims : List Word) : Word :=
  let mask := fun (bit : Nat) =>
    ((List.range claims.length).filter (fun j => ((claims.getD j 0).getLsbD bit))).foldl (fun m j => m + 2 ^ j) 0
  BitVec.ofNat 32 (mask 0 + mask 1 * 256 + mask 2 * 65536 + mask 3 * 16777216)

/-- TILE: the tile number, or all ones where no tile was received (R33). -/
def tileNo (t : Option Nat) : DWord := match t with | some n => BitVec.ofNat 64 n | none => 0xFFFFFFFFFFFFFFFF

/-- SFLAST: the latest token, 0 before any SFQ (R91, R291). -/
def Team.sfLast (t : Team) : Word := if t.sfNo = 0 then 0 else BitVec.ofNat 32 ((t.sfNo - 1) % 16)

/-- The selectors that a launch, a core, a workgroup or a team holds (R291); CLOCK is apart. -/
def State.sharedReg (s : State) (sel : Nat) : Word :=
  let c := s.cur.core
  let h := s.hdr c
  let tile := (s.wg? c).bind (·.tile)
  match sel with
  | 0x00 => BitVec.ofNat 32 teamWidth
  | 0x02 => BitVec.ofNat 32 s.cur.team
  | 0x03 => BitVec.ofNat 32 h.teams
  | 0x06 => loWord (tileNo tile)
  | 0x07 => hiWord (tileNo tile)
  | 0x08 => BitVec.ofNat 32 (coreX c)
  | 0x09 => BitVec.ofNat 32 (coreY c)
  | 0x0A => BitVec.ofNat 32 (coreDie c)
  | 0x0D => s.team.modeWord
  | 0x0E => capsOf s.part c
  | 0x10 => s.team.sfLast
  | 0x15 => BitVec.ofNat 32 ((tile.map h.sibOf).getD 0)
  | 0x16 => BitVec.ofNat 32 (s.ctxOf c)
  | _ => 0

/-- The selectors that a thread holds (R291). -/
def Thread.ownReg (t : Thread) (l sel : Nat) : Word :=
  match sel with
  | 0x01 => BitVec.ofNat 32 l
  | 0x04 => loWord t.workid
  | 0x05 => hiWord t.workid
  | 0x0F => estatus t.claims
  | 0x11 => t.tcause
  | 0x12 => loWord (t.tpc.zeroExtend 64)
  | 0x13 => hiWord (t.tpc.zeroExtend 64)
  | 0x14 => t.tval
  | 0x17 => loWord t.stackBase
  | 0x18 => BitVec.ofNat 32 (nbits t.stackBase.toNat 56 32)
  | _ => 0

def isOwnSel (sel : Nat) : Bool := [0x01, 0x04, 0x05, 0x0F, 0x11, 0x12, 0x13, 0x14, 0x17, 0x18].contains sel

/-- Is the selector readable in the handler only (R183)? -/
def handlerSel (sel : Nat) : Bool := 0x11 ≤ sel && sel ≤ 0x14

/-- One thread reads a selector into d: CLOCK_LO keeps the upper half, which the next CLOCK_HI returns (R292). -/
def State.sreadThread (s : State) (l : Nat) (d sel : Nat) (t : Thread) : Thread :=
  let now := s.clock s.cur.core
  if sel = 0x0B then { t.setV d (loWord now) with clockHi := some (hiWord now) }
  else if sel = 0x0C then { t.setV d (t.clockHi.getD (hiWord now)) with clockHi := none }
  else t.setV d (if isOwnSel sel then t.ownReg l sel else s.sharedReg sel)

/-- SREAD (R399): where a thread of the subset outside its handler names a handler register, PRIVILEGE, a check on the word, traps every
thread whose guard is true (R182, R183). -/
def execSread (g : BitVec 3) (d sel : BitVec 7) (s : State) : Host.Outcome State Fault Refusal :=
  let gl := s.guarded g
  .next (s.laneUnit (.sread g d sel) gl false (bad1 s.curAlloc d)
    (handlerSel sel.toNat && gl.any (fun l => !(s.lane l).inHandler))
    (fun t => t.onLanes gl (fun l th => s.sreadThread l d.toNat sel.toNat th)))

/-- SSR: the team's read of a selector that R291 allows it. -/
def execSsr (g : BitVec 3) (d sel : BitVec 7) (s : State) : Host.Outcome State Fault Refusal :=
  let now := s.clock s.cur.core
  .next (s.unifUnit (.ssr g d sel) (s.guardU g) (badS1 d) false (fun s =>
    let r := s.sharedReg sel.toNat
    s.onTeam (fun t =>
      if sel = 0x0B then { t.setSr d.toNat (loWord now) with clockHi := some (hiWord now) }
      else if sel = 0x0C then { t.setSr d.toNat (t.clockHi.getD (hiWord now)) with clockHi := none }
      else t.setSr d.toNat r)))

/-! ### Special functions -/

/-- SFQ: every issue takes the team's next token; with no guard true it is complete at once. The operands are read at
issue (R91, R389); SFQ_RESULT writes the results. -/
def execSfq (g : BitVec 3) (d a code : BitVec 7) (s : State) : Host.Outcome State Fault Refusal :=
  let gl := s.guarded g
  .next (s.laneUnit (.sfq g d a code) gl false (bad2 s.curAlloc d a) false (fun s =>
    let x : Sfq := ⟨s.nextSeq, s.cur.core, s.cur.team, s.team.uid, s.team.sfNo, code.toNat, d.toNat,
      gl.map (fun l => (l, (s.lane l).tid, (s.lane l).v a.toNat))⟩
    let s : State := s.onTeam (fun t => { t with sfNo := t.sfNo + 1 })
    if gl.isEmpty then s else { s.bump with sfqs := s.sfqs ++ [x] }))

/-! ### WILL and HEIRQ -/

/-- WILL (R137), with its checks in R138's order. -/
def execWill (g : BitVec 3) (a b : BitVec 7) (s : State) : Host.Outcome State Fault Refusal :=
  let gl := s.guarded g
  let al := s.curAlloc
  .next (s.laneUnit (.will g a b) gl false none false (fun s =>
    if 9 ≤ b.toNat then s.trapLanes gl 0x0D (b.zeroExtend 32) false false false
    else if al ≤ a.toNat || al < a.toNat + b.toNat then
      s.trapLanes gl 0x02 (BitVec.ofNat 32 (a.toNat + 256)) false false false
    else if !(s.hdr s.cur.core).test then s
    else s.onLanes gl (fun _ t => { t with mark := (a.toNat, b.toNat) })))

/-- HEIRQ's three words for a thread (R146). -/
def Thread.heirq (t : Thread) (h : Header) (j : Nat) : DWord × Word :=
  if !h.heir || h.claim < j || !t.hasItem then (0, 0)
  else (t.birthId * BitVec.ofNat 64 (h.claim + 1) + BitVec.ofNat 64 j, t.claims.getD j 0x80)

def execHeirq (g : BitVec 3) (d b : BitVec 7) (s : State) : Host.Outcome State Fault Refusal :=
  let gl := s.guarded g
  let bad := firstBad [(decide (d.toNat + 2 < s.curAlloc), 0, d.toNat)]
  .next (s.laneSet (.heirq g d b) gl false bad (fun s _ t =>
    let r := t.heirq (s.hdr s.cur.core) b.toNat
    ((t.setV d.toNat (loWord r.1)).setV (d.toNat + 1) (hiWord r.1)).setV (d.toNat + 2) r.2))

end Sys2Proof.Machine
end

