-- ==== Sys2Proof/Machine/Waits.lean ====
section
/-! DEFINITION. The steps that end waits: BARRIER_ARRIVAL_COUNTED (02, R42 to R44; 19, R314), TFETCH_COMPLETE (02, R33),
REFORM_BIN_TIMEOUT (R40), STARVATION_PRIORITY (R45), SFQ_RESULT (22, R390, R391), QPUSH_ENTER_RING and QPOP_DELIVER (06, R132 to
R134; 10, R203, R204; 21, R373 to R375), SEAL_COMPLETE and UNSEAL_COMPLETE (06, R128, R129; 22, R387, R388). -/

namespace Sys2Proof.Machine

/-! ### Arrivals -/

/-- A team's arrival at a workgroup barrier, or at TFETCH's, stands where its last member's does (R44). -/
def State.orderArrival (s : State) (core team : Nat) (k : Option BarKey) : State :=
  s.modWg core (fun w => { w with arriveOrder := w.arriveOrder.filter (· ≠ (k, team)) ++ [(k, team)] })

/-- A thread whose arrival in a phase is counted: BAR.SYNC waits for the phase; a second BAR.ARV goes on (R43, R314). -/
def Thread.counted (t : Thread) (a : Arrival) (k : BarKey) (phase : Nat) : Thread :=
  let t := t.setArrival k phase (a.sync || t.wait = .barrier k phase)
  if t.wait = .arrive a.id then { t with wait := (if a.sync then .barrier k phase else .ready) } else t

/-- What the die of an arrival knows joins what the release of a grid barrier acquires (R119, R124). -/
def Barrier.joined (b : Barrier) (k : BarKey) (v : List Word) : List Word :=
  match k with
  | .grid _ => joinStamp b.stamp v
  | _ => b.stamp

/-- Arrivals at a numbered barrier are added to A; a thread that has arrived in the phase under way stays behind (R43). -/
def State.countBarrier (s : State) (a : Arrival) (k : BarKey) : State :=
  let b := s.barrier a.core a.team k
  let now := a.agents.filter (fun tid => match s.findTid a.core tid with
    | some (_, _, t) => (match t.lastArrival k with | some (p, _) => p ≠ b.phase | none => true)
    | none => true)
  let rest := a.agents.filter (fun tid => !now.contains tid)
  if now.isEmpty then s
  else
    let s : State := { s with arrivals :=
      (if rest.isEmpty then s.arrivals.filter (fun x => x.id ≠ a.id)
       else s.arrivals.map (fun (x : Arrival) => if x.id = a.id then { x with agents := rest } else x)) }
    let s : State := s.setBarrier a.core a.team k { b with a := b.a + now.length, stamp := b.joined k (s.vcOf (coreDie a.core)) }
    let s : State := now.foldl (fun s tid => s.modTid a.core tid (fun t => t.counted a k b.phase)) s
    let s : State := match k with
      | .wg _ => s.orderArrival a.core a.team (some k)
      | _ => s
    s.checkPhase a.core a.team k

/-- Where the workgroup of an arrival is: on its core still, or saved. -/
def State.arrivalHere (s : State) (a : Arrival) : Bool :=
  match s.wg? a.core with | some w => w.launch = a.launch && w.num = a.num | none => false
def State.arrivalSaved (s : State) (a : Arrival) : Bool :=
  match s.launch? a.launch with | some l => l.saved.any (fun v => v.num = a.num) | none => false

/-- An arrival at a cluster or grid barrier counts although its workgroup has ended since and the core has gone on (R34, R43). -/
def State.countLate (s : State) (a : Arrival) : State :=
  let s : State := { s with arrivals := s.arrivals.filter (fun x => x.id ≠ a.id) }
  let more := fun (k : BarKey) (b : Barrier) =>
    { b with a := b.a + a.agents.length, stamp := b.joined k (s.vcOf (coreDie a.core)) }
  match a.bar with
  | some (.grid n) =>
    (s.modLaunch a.launch (fun l => { l with gbars := kvPut l.gbars n (more (.grid n) (kvGetD barZero l.gbars n)) })).checkBars a.launch
  | some (.cluster n) =>
    (s.modLaunch a.launch (fun l =>
      { l with cbars := kvPut l.cbars (8 * a.grp + n) (more (.cluster n) (kvGetD barZero l.cbars (8 * a.grp + n))) })).checkBars a.launch
  | _ => s

/-- BARRIER_ARRIVAL_COUNTED (R43): once the release it makes has completed. A second arrival of a saved workgroup stays in its wait
(R314). -/
def execBarrierArrivalCounted (id : Nat) (s : State) : Host.Outcome State Fault Refusal :=
  .next (match s.arrivals.find? (fun a => a.id = id) with
    | none => s
    | some a =>
      if !s.fenceEnabled a.release || s.arrivalSaved a then s
      else if !s.arrivalHere a then (s.countLate a).sweep
      else
        let done : State := { s with arrivals := s.arrivals.filter (fun x => x.id ≠ id) }
        (match a.bar, a.join with
          | some k, _ => s.countBarrier a k
          | none, some k =>
            (done.setWaits a.core (fun t => t.wait = Wait.arrive id) (.join k)).joinTest a.core a.team
          | none, none =>
            let t : State := done.setWaits a.core (fun t => t.wait = Wait.arrive id) .tfetch
            ((t.modWg a.core (fun w => { w with tfArrived := w.tfArrived ++ a.agents })).orderArrival a.core a.team
              none).tfetchCheck a.core).sweep)

/-! ### TFETCH -/

/-- Steps 4 and 5 of R33 for one thread: born into the tile's work item, or without one. -/
def State.tfThread (s : State) (core team lane : Nat) (h : Header) (tile : Option Nat) (t : Thread) : Thread :=
  match tile with
  | some n => t.born h (h.workId n team lane) (s.claims.filter (fun c => c.core = core && c.team = team && c.lane = lane))
  | none => { t with workid := BitVec.allOnes 64, hasItem := false, claims := [] }

/-- TFETCH_COMPLETE (R33): every claim of the tile has been served; the threads are born, the predicates written, the ranks
renewed, and the waiters released as an acquire at BLOCK scope (R124). -/
def execTfetchComplete (core : Nat) (s : State) : Host.Outcome State Fault Refusal :=
  .next (match s.wg? core, s.wgLaunch? core with
    | some w, some l =>
      match w.tfTile with
      | none => s
      | some tile =>
        if w.frozen then s
        else
          let s : State := s.modWg core (fun w => { w with
            tile := tile, tfTile := none, tfArrived := [], tfPreds := []
            teams := w.teams.map (fun e =>
              let t := (w.tfPreds.filter (fun p => p.1 = e.1)).foldl (fun t p => t.setQ p.2 tile.isNone) e.2
              (e.1, { t with lanes := t.lanes.map (fun x => (x.1, s.tfThread core e.1 x.1 l.hdr tile x.2)) })) })
          let s : State := s.claimsDone core
          let s : State := s.modWg core (fun w => w.renew none)
          w.teams.foldl (fun s e =>
            let tids := e.2.lanes.filterMap (fun x => if x.2.wait = .tfetch then some x.2.tid else none)
            if tids.isEmpty then s else s.acquire core e.2.uid tids 0 []) s
    | _, _ => s)

/-! ### REFORM's bins, starvation, special functions -/

/-- Is a bin due: 256 cycles after its first thread entered (R40)? -/
def Bin.due (b : Bin) (now : Nat) : Bool := b.since + 256 ≤ (now : Int)

/-- REFORM_BIN_TIMEOUT (R40): of the bins that are due the one whose first thread entered first is drawn (R378); the bins stand in the
order in which they began. -/
def execReformBinTimeout (core : Nat) (key : PC) (s : State) : Host.Outcome State Fault Refusal :=
  .next (match s.wg? core with
    | none => s
    | some w =>
      match w.bins.find? (fun b => b.due (s.cluster (clusterOf core)).cycles) with
      | some b => if w.runs && b.key = key then s.draw core key else s
      | none => s)

/-- STARVATION_PRIORITY (R45): a team of the partition whose counter for the slot has reached 80 is served next. -/
def execStarvationPriority (core part : Nat) (unif : Bool) (s : State) : Host.Outcome State Fault Refusal :=
  .next (match s.pick core part unif with
    | none => s
    | some (team, _) =>
      match s.team? core team with
      | some t => if 80 ≤ (if unif then t.starveU else t.starveL) then
          { s with agenda := Turn.issue core part unif :: s.agenda } else s
      | none => s)

/-- SFQ_RESULT (R390, R391): one lane's result and flags; a lane that has exited drops the result, not the flags. Which of two codes
within 1 ulp it is depends on the function and its operand (R66; log 5, DESIGN CHOICE). -/
def execSfqResult (id lane : Nat) (s : State) : Host.Outcome State Fault Refusal :=
  .next (match s.sfqs.find? (fun x => x.id = id) with
    | none => s
    | some x =>
      match x.todo.find? (fun p => p.1 = lane) with
      | none => s
      | some (_, tid, a) =>
        let r := sfqVal x.fn (Config.ulpBit x.fn a.toNat) a.toNat
        let s : State := s.modTid x.core tid (fun t => t.setV x.d (BitVec.ofNat 32 r.1))
        let s : State := s.modUid x.uid (fun t => { t with mode := t.mode ||| r.2 })
        let todo := x.todo.filter (fun p => p.1 ≠ lane)
        { s with sfqs := if todo.isEmpty then s.sfqs.filter (fun y => y.id ≠ id)
            else s.sfqs.map (fun (y : Sfq) => if y.id = id then { y with todo := todo } else y) })

/-! ### Hardware queues -/

/-- The vocabulary check of R204: the record, and whether it was truncated. -/
def vocabCheck (v : Nat) (bs : List Byte) : List Byte × Bool :=
  let word := fun (i : Nat) => ofBytes ((bs.drop (4 * i)).take 4)
  let len := word 2 % 16
  let lim := min len 13
  let l := (findTile (fun i => v ≤ word (3 + i)) lim 0).getD lim
  let oov : Bool := l ≠ len
  let w2 := word 2 / 65536 * 65536 + word 2 / 8192 % 8 * 8192 + (if oov then 4096 else 0) + len * 256
    + word 2 / 16 % 16 * 16 + l
  (bs.take 8 ++ toBytes 4 w2 ++ (bs.drop 12).take (4 * l) ++ zeros (4 * (13 - l)), oov)

/-- Has an earlier queue instruction of the same team to act at the queue first (R372)? A push into a full ring waits there, and pops and
tries go past it. -/
def State.queueTurn (s : State) (x : QOp) (full : Bool) : Bool :=
  !s.qops.any (fun y => y.q = x.q && y.uid = x.uid && y.id < x.id && (x.op = 0 || y.op ≠ 0 || !full))

/-- May a push enter: its release is complete, and, where it goes to the queue's home as a message, the messages before it are
applied (R133, R203)? -/
def State.pushArrived (s : State) (x : QOp) (q : HwQueue) : Bool :=
  !s.pushHeld x && ((q.early && !q.span) || s.remoteReady (coreDie x.core) q.home)

/-- A write of a unit of the Keystone die that is performed at its home at once. -/
def State.homeWrite (s : State) (key : Nat) (bs : List Byte) : State :=
  let w : WEntry := ⟨s.nextSeq, 0, s.nextSeq, .keystone, key, bs, none, none, 0, false⟩
  (s.bump.track w).performAt (homeDie key) w

/-- The bytes of an entry, and its place in the ring, a whole number of entries from its start: entry i of those that have entered
(R131; log 48, DESIGN CHOICE); none where RING names no device memory of the context. -/
def HwQueue.size (q : HwQueue) : Nat := if q.long then 64 else 8
def State.ringKey (s : State) (q : HwQueue) (i : Nat) (write : Bool) : Option Nat :=
  match s.ksPlace q.ctx (q.ring + BitVec.ofNat 64 (q.size * (i % 2 ^ q.logcap))) write with
  | some k => if isDevice k && memExists s.part k then some k else none
  | none => none

/-- An entry's bytes are written into the ring's memory, at their home and in the step of the push (R131, R132). -/
def State.ringPut (s : State) (q : HwQueue) (bs : List Byte) : State :=
  match s.ringKey q q.recv.toNat true with
  | some k => (cutLines (bs.length + 1) k bs).foldl (fun s p => s.homeWrite p.1 p.2) s
  | none => s

/-- The oldest entry's bytes, as the ring's memory holds them. -/
def State.ringGet (s : State) (q : HwQueue) (e : QEntry) : List Byte :=
  match s.ringKey q (q.recv - BitVec.ofNat 32 q.entries.length).toNat false with
  | some k => s.readBytes k e.data.length
  | none => e.data

/-- QPUSH_ENTER_RING (R132, R133, R134, R203): the pushes of a team enter a queue's ring in order. -/
def execQpushEnterRing (id : Nat) (s : State) : Host.Outcome State Fault Refusal :=
  .next (match s.qops.find? (fun x => x.id = id && x.op = 0) with
    | none => s
    | some x =>
      match kvGet s.hwqs x.q with
      | none => s
      | some q =>
        if !s.pushArrived x q || 2 ^ q.logcap ≤ q.entries.length || !s.queueTurn x false then s
        else
          let r := if q.vocab = 0 then (x.data, false) else vocabCheck q.vocab.toNat x.data
          let s : State := s.ringPut q r.1
          let s : State := { s with
            hwqs := kvPut s.hwqs x.q { q with
              entries := q.entries ++ [⟨r.1, x.uid, x.count⟩], recv := q.recv + 1
              oovcnt := if r.2 then satInc q.oovcnt else q.oovcnt }
            qops := s.qops.filter (fun y => y.id ≠ id) }
          let s : State := s.modUid x.uid (fun t => t.tokDone id)
          (s.setWaits x.core (fun t => t.wait = .queue id) .ready).sweep)

/-- Can the oldest entry be popped: in an EARLY queue, every write of its producing team up to its count is complete
(R134)? -/
def State.poppable (s : State) (q : HwQueue) : Option QEntry :=
  match q.entries with
  | [] => none
  | e :: _ =>
    if q.early && s.writes.any (fun (w : WTrack) => match w.owner with
        | .team _ u _ c => u = e.uid && c.toNat ≤ e.count.toNat
        | _ => false) then none
    else some e

/-- A pop or try ends: its operation retires (R374, R375). -/
def State.qopDone (s : State) (x : QOp) : State :=
  ({ s with qops := s.qops.filter (fun y => y.id ≠ x.id) } : State).modUid x.uid (fun t => t.tokDone x.id)

/-- The status bit of QTRY (R375). -/
def State.qtryStatus (s : State) (x : QOp) (empty : Bool) : State :=
  if 2 ≤ x.op then
    s.modUid x.uid (fun t => t.setSr x.d (BitVec.ofNat 32 ((t.sr x.d).toNat % 2147483648 + if empty then 2147483648 else 0)))
  else s

/-- The entry's bytes: to the register pair, or to the scratchpad (R374). -/
def State.qopWrite (s : State) (x : QOp) (long : Bool) (bs : List Byte) : State :=
  if long then (s.writeBytes (scratchKey x.core x.a) bs).waitmTouched (scratchKey x.core x.a) 64
  else s.modUid x.uid (fun t => t.setSr2 x.a (BitVec.ofNat 64 (ofBytes bs)))

/-- The acquire of a pop (R133, R134): QPOP's threads wait for it; QTRY's go on, and their later accesses wait. -/
def State.qopAcquire (s : State) (x : QOp) (scope : Nat) (stamp : List Word) : State :=
  if x.op = 1 then s.acquire x.core x.uid (x.agents.filter (· ≠ x.uid)) scope stamp
  else
    let f : FenceReq := ⟨x.id, x.core, x.uid, x.agents, scope, false, true, stamp⟩
    let s : State := { s with fences := s.fences ++ [f] }
    if s.fenceEnabled f then s.finishFence f else s

/-- QPOP_DELIVER (R132, R374, R375): the step at the queue's home slice. -/
def execQpopDeliver (id : Nat) (s : State) : Host.Outcome State Fault Refusal :=
  .next (match s.qops.find? (fun x => x.id = id && x.op ≠ 0) with
    | none => s
    | some x =>
      match kvGet s.hwqs x.q with
      | none => s
      | some q =>
        if !s.remoteReady (coreDie x.core) q.home || !s.queueTurn x (decide (2 ^ q.logcap ≤ q.entries.length)) then s
        else match s.poppable q with
          | none => if 2 ≤ x.op then (s.qtryStatus x true).qopDone x else s
          | some e =>
            if x.op = 3 then s
            else
            let s : State := { s with hwqs := kvPut s.hwqs x.q { q with entries := q.entries.tail } }
            let s : State := ((s.qopWrite x q.long (s.ringGet q e)).qtryStatus x false).qopDone x
            s.qopAcquire x (if q.early then 2 else q.scope) (s.stampOf x.core q.home))

/-! ### SEAL, UNSEAL -/

/-- The entry that maps an address: its place, its SIZE and its value. -/
def State.walkPte (s : State) (va : Nat) : List (Nat × Nat × Option Nat) → Nat → Option (Nat × Nat × Nat)
  | [], _ => none
  | (sh, w, size) :: rest, table =>
    let key := keyOf spDevice (table + 8 * (va / 2 ^ sh % 2 ^ w))
    let e := s.readNat key 8
    if e % 2 = 0 then none
    else if nbits e 1 1 = 1 then some (key, size.getD 0, e)
    else s.walkPte va rest (nbits e 56 7 * 128)

/-- A leaf of a region: its entry's place and value, its first address, its bytes and the place it maps. -/
structure Leaf where
  pte : Nat
  val : Nat
  va : Nat
  bytes : Nat
  key : Nat
  deriving DecidableEq, Repr

/-- The leaves that map a region (R387). Fuel: its 128 KiB units. -/
def State.regionLeaves (s : State) (root stop : Nat) : Nat → Nat → List Leaf
  | 0, _ => []
  | fuel + 1, va =>
    if stop ≤ va then []
    else match s.walkPte va walkLevels root with
      | none => s.regionLeaves root stop fuel (va + 131072)
      | some (k, size, e) =>
        let n := 2 ^ pageBits size
        ⟨k, e, va / n * n, n, keyOf (nbits e 7 6) (nbits e 63 24 * 131072)⟩
          :: s.regionLeaves root stop fuel ((va / n + 1) * n)

/-- Drop what the TLBs hold of a context in a range (R128, R129, R194). -/
def State.dropTlb (s : State) (ctx lo hi : Nat) : State :=
  let keep := fun (e : TlbEntry) =>
    !(e.ctx = ctx && rangesMeet (e.vbase * 2 ^ pageBits e.size) (2 ^ pageBits e.size) lo (hi - lo))
  let cut := fun (m : List (Nat × List TlbEntry)) =>
    (m.map (fun e => (e.1, e.2.filter keep))).filter (fun e => !e.2.isEmpty)
  { s with l1tlb := cut s.l1tlb, cltlb := cut s.cltlb, lltlb := cut s.lltlb }

/-- Are the accesses named all complete (R128, R194)? -/
def State.allOver (s : State) (ids : List Nat) : Bool :=
  !s.writes.any (fun (t : WTrack) => ids.contains t.id) && !s.loads.any (fun l => ids.contains l.id)

/-- Writes and atomics under way to a range of places (R128 step 3). -/
def State.writesTo (s : State) (key n : Nat) : List Nat :=
  (s.writes.filter (fun (t : WTrack) => key ≤ t.key && t.key < key + n)).map (·.id)
    ++ (s.loads.filter (fun l => l.dst.atomic && key ≤ l.key && l.key < key + n)).map (·.id)

/-- May the Keystone controller accept the command: its fence is complete, the team's earlier ones are accepted, and no
overlapping one is under way (R128, R388)? -/
def State.sealReady (s : State) (r : SealReq) : Bool :=
  !r.accepted && !s.fences.any (fun f => f.id = r.id)
  && !s.seals.any (fun o => o.uid = r.uid && o.id < r.id && !o.accepted)
  && !s.seals.any (fun o => o.id ≠ r.id && o.accepted && o.ctx = r.ctx
      && rangesMeet o.base.toNat (131072 * o.pages) r.base.toNat (131072 * r.pages))

/-- The leaves of a command's region. -/
def State.sealLeaves (s : State) (r : SealReq) : List Leaf :=
  s.regionLeaves (((s.context? r.ctx).map (·.reg.root)).getD 0) (r.base.toNat + 131072 * r.pages) r.pages r.base.toNat

/-- The granules of device memory that leaves map. -/
def leafFrames (ls : List Leaf) : List Nat :=
  (ls.filter (fun f => isDevice f.key)).flatMap (fun f => (List.range (f.bytes / 131072)).map (fun i => offOf f.key / 131072 + i))

/-- The command ends and its threads go on. -/
def State.sealDone (s : State) (r : SealReq) : State :=
  ({ s with seals := s.seals.filter (fun o => o.id ≠ r.id) } : State).setWaits r.core (fun t => t.wait = .seal r.id) .ready

/-- SEAL_COMPLETE (R128): accepted, the leaves are sealed and the TLBs cut; it completes once the writes under way are. Dies may then hold
replicas of the lines, which get no updates. -/
def execSealComplete (id : Nat) (s : State) : Host.Outcome State Fault Refusal :=
  .next (match s.seals.find? (fun r => r.id = id && !r.unsl) with
    | none => s
    | some r =>
      if r.accepted then
        (if s.allOver r.awaiting then
          { s.sealDone r with sealedFrames := (s.sealedFrames ++ leafFrames (s.sealLeaves r)).dedup }
        else s)
      else if !s.sealReady r then s
      else
        let ls := s.sealLeaves r
        let s : State := ls.foldl (fun s f =>
          (s.homeWrite f.pte (toBytes 8 (f.val / 64 * 64 + 32 + f.val % 32))).dropTlb r.ctx f.va (f.va + f.bytes)) s
        let wait := ls.flatMap (fun f => s.writesTo f.key f.bytes)
        { s with seals := s.seals.map (fun (o : SealReq) =>
            if o.id = id then { o with accepted := true, awaiting := wait } else o) })

/-- Drop every replica of a range of device memory, from dies and from L1 views (R129). -/
def State.dropLines (s : State) (key n : Nat) : State :=
  let keep := fun (e : Nat × List Byte) => !(lineOf key ≤ viewLine e.1 && viewLine e.1 < lineOf (key + n))
  if isDevice key then { s with copies := s.copies.filter keep, l1 := s.l1.filter keep } else s

/-- UNSEAL_COMPLETE (R129). -/
def execUnsealComplete (id : Nat) (s : State) : Host.Outcome State Fault Refusal :=
  .next (match s.seals.find? (fun r => r.id = id && r.unsl) with
    | none => s
    | some r =>
      if !s.sealReady r then s
      else
        let ls := s.sealLeaves r
        let s : State := ls.foldl (fun s f => s.dropLines f.key f.bytes) s
        let s : State := { s with sealedFrames := s.sealedFrames.filter (fun g => !(leafFrames ls).contains g) }
        let s : State := ls.foldl (fun s f =>
          (s.homeWrite f.pte (toBytes 8 (f.val / 64 * 64 + f.val % 32))).dropTlb r.ctx f.va (f.va + f.bytes)) s
        s.sealDone r)

end Sys2Proof.Machine
end

