-- ==== Sys2Proof/Machine/Secure.lean ====
section
/-! DEFINITION. Protection (11, R222 to R232): what a function's contexts lose in a reset sequence, the interface states,
key slots, the registration and the end of contexts (17, R263; 09, R190; 07, R151), and the steps LOCK_, START_ and
STOP_INTERFACE_REQUEST, IDE_STREAM_FAILURE, FUNCTION_LEVEL_RESET, KEY_KILL_ACK, KEY_EXCHANGE, CONTEXT_REGISTRATION,
CONTEXT_END and HOST_REQUEST. -/

namespace Sys2Proof.Machine

/-- Does the device run: powered, and not in recovery, where the host reaches only the recovery window (R237)? -/
def State.up (s : State) : Bool := s.powered && !s.recov.active

/-! ### Key slots (R231) -/

/-- The engines that are absent: they read as having acknowledged (R231). -/
def Part.absentEngines (p : Part) : BitVec 14 :=
  let ports := if p.vcipher then (match p with | .adk9601 => 12 | .adk9405 => 6 | .adk9201 => 4) else 0
  BitVec.ofNat 14 (16384 - 2 ^ (2 + ports))

def State.key (s : State) (k : Nat) : KeySlot := (kvGet s.keys k).getD ⟨0, 0, 0⟩

/-- Retire a key: the slot is KILLING and a kill is broadcast. -/
def State.killKey (s : State) (k : Nat) : State :=
  if (s.key k).state = 1 then { s with keys := kvPut s.keys k { s.key k with state := 2, acks := s.part.absentEngines } } else s

/-! ### Reset sequences (R232) -/

def State.fnContexts (s : State) (fn : Nat) : List Nat := (s.contexts.filter (fun e => e.2.reg.fn = fn)).map (·.1)

/-- The granules of a context: its device granules and its die-shared ones, by first key (R226, R109). -/
def granuleKeys (r : CtxReg) : List Nat :=
  r.granules.map (fun g => keyOf spDevice (g * 131072)) ++ r.dieShared.map (fun p => sharedKey p.1 (p.2 * 131072))

/-- On-chip state of a core scrubbed (R229, R232). -/
def State.scrubCore (s : State) (core : Nat) : State :=
  let s : State := (s.zeroRange (scratchKey core 0) 524288).dropL1 core
  { s with l1tlb := kvDel s.l1tlb core }

/-- The tag of a granule that a reset sequence has closed to every master (R232 step 3): no CTXID[15:0]. -/
def closedTag : Nat := 65536

/-- A context's granules are closed to every master, its translations go, and with them every pending store, path and port entry,
translation fault and replay (R232 step 3). -/
def State.closeMemory (s : State) (ctx : Nat) : State :=
  let mine := fun (w : WEntry) => w.ctx = some ctx
  let gone := (s.writes.filter (fun (t : WTrack) => t.ctx = some ctx && !t.performed)).map (·.id)
  { s.dropTlb ctx 0 (2 ^ 57) with
    walks := s.walks.filter (fun w => w.ctx ≠ ctx)
    faults := s.faults.filter (fun f => f.m.ctx ≠ ctx)
    replay := s.replay.filter (fun e => !mine e.2)
    stbuf := s.stbuf.filter (fun w => !mine w)
    wpath := s.wpath.filter (fun w => !mine w)
    capath := s.capath.filter (fun w => !mine w)
    ports := s.ports.filter (fun w => !mine w)
    chans := s.chans.filter (fun m => match m.body with | .write w => !mine w | _ => true)
    writes := s.writes.filter (fun (t : WTrack) => !gone.contains t.id)
    owners := match s.context? ctx with
      | some c => (granuleKeys c.reg).foldl (fun m k => kvSetD 0 m (granuleOf k) closedTag) s.owners
      | none => s.owners }

/-- Steps 2 and 3 of R232 for one context: its work is discarded with no image and no status. -/
def State.stopContext (s : State) (ctx : Nat) : State :=
  let s : State := s.dropWork ctx
  let cores := (s.wgs.filter (fun e => match s.launch? e.2.launch with | some l => l.ctx = ctx | none => true)).map (·.1)
  let s : State := cores.foldl (fun s c => s.discardWg c) s
  let s : State := { s with links := s.links.filter (fun c => !cores.contains c.core)
                            launches := s.launches.filter (fun e => e.2.ctx ≠ ctx)
                            deferredCpl := s.deferredCpl.filter (fun d => match d.2 with
                              | .irq (.faultRecord c) => c ≠ ctx
                              | _ => true) }
  s.closeMemory ctx

/-- Step 5 of R232 for one context, once the clear sequences of its clusters have run: its granules are zero and open, its estates and
queues are gone, and no core that hosts no workgroup holds anything of it. -/
def State.scrubContext (s : State) (ctx : Nat) : State :=
  match s.context? ctx with
  | none => s
  | some c =>
    let s : State := ((List.range 608).filter (fun k => (s.wg? k).isNone)).foldl (fun s k => s.scrubCore k) s
    let keys := granuleKeys c.reg
    let s : State := keys.foldl (fun s k =>
      let s : State := (s.zeroRange k 131072).dropLines k 131072
      { s with owners := kvDel s.owners (granuleOf k)
               caview := s.caview.filter (fun e => !(lineOf k ≤ viewLine e.1 && viewLine e.1 < lineOf (k + 131072))) }) s
    let s : State := s.dropEstates ctx
    { s with contexts := kvDel s.contexts ctx
             hwqs := s.hwqs.filter (fun e => e.2.ctx ≠ ctx)
             sealedFrames := s.sealedFrames.filter (fun g => !(keys.map granuleOf).contains g) }

/-- The host queues of a function (R154). -/
def State.fnQueues (s : State) (fn : Nat) : List Nat := (s.queues.filter (fun e => e.2.fn = fn)).map (·.1)

/-- Steps 1 to 4 of R232: parsing stops, and no packet of the function has a status any more; the work of its contexts goes, their memory
closes, and their keys are killed. -/
def State.beginReset (s : State) (fn kind : Nat) : State :=
  let qs := s.fnQueues fn
  let s : State := qs.foldl (fun s q => s.setQueue q { s.queue q with enable := false, busy := none, fenceWait := false }) s
  let s : State := { s with deferredCpl := s.deferredCpl.filter (fun d => match d.2 with
    | .status q _ _ _ => !qs.contains q
    | _ => true) }
  let cs := s.fnContexts fn
  let s : State := cs.foldl (fun s c => s.stopContext c) s
  let s : State := cs.foldl (fun s c => match s.context? c with
    | some x => if x.prot then s.killKey x.reg.keySlot else s
    | none => s) s
  s.setIface fn { s.iface fn with resetting := kind, starting := false }

/-- Registers of the physical function return to their reset values (R8, R10, R220). PENDING among them: a fault of another function's
context that is posted stands as one that is not (R197; log 18, DESIGN CHOICE). -/
def State.resetPhysical (s : State) : State :=
  { s with faultLog := Log.empty true, eventLog := Log.empty false, fb := ⟨0, 0, false, false, 0, 0, 0⟩
           inval := ⟨0, 0, 0, false, []⟩, cxlCoherent := false
           faults := s.faults.map (fun (f : FaultReq) => { f with seq := none }) }

/-- What a barrier's stamp held is below the clocks that start again (R119). -/
def Barrier.unstamped (b : Barrier) : Barrier := { b with stamp := [] }

/-- Every die clock is 0, and what was stamped with one stands below it (R119). -/
def State.zeroClocks (s : State) : State :=
  { s with
    vc := []
    launches := s.launches.map (fun e => (e.1, { e.2 with
      gbars := e.2.gbars.map (fun b => (b.1, b.2.unstamped))
      cbars := e.2.cbars.map (fun b => (b.1, b.2.unstamped))
      saved := e.2.saved.map (fun (v : SavedWg) => { v with stamp := [] }) }))
    fences := s.fences.map (fun (f : FenceReq) => { f with stamp := [] }) }

/-- The clusters on which one of some contexts is active. -/
def State.activeOn (s : State) (cs : List Nat) : List Nat :=
  (s.clusters.filter (fun e => match e.2.active with | some x => cs.contains x | none => false)).map (·.1)

/-- Steps 5 and 6: once every acknowledgement is collected the clear sequences run on the clusters of the function's contexts (R229); once
they are over, and nothing that a die clock numbered is on its way (R119), the contexts are scrubbed. After a function-level reset the
clocks are 0 and the interface is CONFIG_UNLOCKED. -/
def State.finishReset (s : State) (fn : Nat) : State :=
  let i := s.iface fn
  let cs := s.fnContexts fn
  let killing := cs.any (fun c => match s.context? c with | some x => x.prot && (s.key x.reg.keySlot).state = 2 | none => false)
  let quiet := s.chans.isEmpty && s.writes.all (fun (t : WTrack) => t.nums.isEmpty)
  let act := s.activeOn cs
  if i.resetting = 0 || killing then s
  else if !act.isEmpty then
    { s with clusters := s.clusters.map (fun e => if act.contains e.1 && e.2.clearing.isNone then
        (e.1, { e.2 with clearing := some e.2.cycles }) else e) }
  else if i.resetting = 1 && !quiet then s
  else
    let s : State := cs.foldl (fun s c => s.scrubContext c) s
    if i.resetting = 2 then s.setIface fn { i with resetting := 0 }
    else
      let s : State := ({ s with queues := s.queues.filter (fun e => e.2.fn ≠ fn), ifaces := kvDel s.ifaces fn } : State).zeroClocks
      if fn = 0 then s.resetPhysical else s

/-- Every reset sequence under way goes on. -/
def State.finishResets (s : State) : State := (List.range 32).foldl (fun s fn => s.finishReset fn) s

/-- FUNCTION_LEVEL_RESET (R232): begun, and, once its keys are dead and its clusters clear, ended. Function 0 is the physical function; in
recovery its registers there, SLEN and STAGE, return to 0 (R8, R237). -/
def execFunctionLevelReset (fn : Nat) (s : State) : Host.Outcome State Fault Refusal :=
  .next (
    if s.powered && s.recov.active && fn = 0 then { s with recov := { s.recov with slen := 0, stage := 0 } }
    else if !s.up || 32 ≤ fn then s
    else
      let s : State := if (s.iface fn).resetting = 1 then s else s.beginReset fn 1
      s.finishReset fn)

/-- The interface enters ERROR, and its contexts go through the reset sequence as far as step 5, at once (R222). -/
def State.enterError (s : State) (fn : Nat) (lockwr fwall ide : Bool) : State :=
  let i := s.iface fn
  let s : State := s.setIface fn { i with state := 3, lockwr := lockwr, fwall := fwall, ideerr := ide }
  (s.beginReset fn 2).finishReset fn

/-- A write to a locked register of a function: taken, or not performed because of the interface's state (R223). -/
def State.lockedWrite (s : State) (fn : Nat) (f : State → State) : State :=
  match (s.iface fn).state with
  | 0 => f s
  | 3 => s
  | _ => s.enterError fn true false false

/-! ### TDISP (R222, R224, R239) -/

/-- KEY_EXCHANGE (R239): a secure session of the function's SPDM requester. -/
def execKeyExchange (fn : Nat) (s : State) : Host.Outcome State Fault Refusal :=
  .next (if s.up && fn < 32 then s.setIface fn { s.iface fn with session := true } else s)

def execLockInterfaceRequest (fn : Nat) (s : State) : Host.Outcome State Fault Refusal :=
  .next (
    let i := s.iface fn
    if s.up && i.session && i.state = 0 && i.resetting = 0 then s.setIface fn { i with state := 1 } else s)

/-- START_INTERFACE_REQUEST (R224): accepted at its transition point; its response moves the interface to RUN, unless a
locked write has come between. -/
def execStartInterfaceRequest (fn : Nat) (respond : Bool) (s : State) : Host.Outcome State Fault Refusal :=
  .next (
    let i := s.iface fn
    if !s.up || !i.session || i.state ≠ 1 then s
    else if respond then (if i.starting then s.setIface fn { i with state := 2, starting := false } else s)
    else s.setIface fn { i with starting := true })

def execStopInterfaceRequest (fn : Nat) (s : State) : Host.Outcome State Fault Refusal :=
  .next (
    let i := s.iface fn
    if s.up && i.session && i.resetting ≠ 1 then (s.beginReset fn 1).finishReset fn else s)

def execIdeStreamFailure (fn : Nat) (s : State) : Host.Outcome State Fault Refusal :=
  .next (
    let i := s.iface fn
    if s.up && (i.state = 1 || i.state = 2) then s.enterError fn false false true else s)

/-- KEY_KILL_ACK (R231): the slot is EMPTY once every engine has acknowledged; a reset that waits for it goes on (R232). -/
def execKeyKillAck (slot engine : Nat) (s : State) : Host.Outcome State Fault Refusal :=
  .next (
    let k := s.key slot
    if k.state ≠ 2 || 14 ≤ engine then s
    else
      let acks := k.acks ||| BitVec.twoPow 14 engine
      let s : State := { s with keys := if acks = BitVec.allOnes 14 then kvDel s.keys slot else kvPut s.keys slot { k with acks := acks } }
      s.finishResets)

/-! ### Contexts -/

/-- CONTEXT_REGISTRATION (R263, R226): a context registered through a function in RUN is protected: its key is loaded, where
its slot is one of the 64 and EMPTY (R231), and its granules are tagged. Registrations are locked registers in CONFIG_LOCKED and, for a
context that stands, in RUN; in CONFIG_UNLOCKED the registration of a context that stands is written anew, and its save counter and slots
stay (R223; log 20, DESIGN CHOICE). None is taken during a reset sequence (R232). -/
def execContextRegistration (r : CtxReg) (s : State) : Host.Outcome State Fault Refusal :=
  .next (
    let i := s.iface r.fn
    let run : Bool := i.state = 2
    if !s.up || 32 ≤ r.fn || i.state = 3 || i.resetting ≠ 0 then s
    else if i.state = 1 || (run && (s.context? r.ctx).isSome) then s.enterError r.fn true false false
    else match s.context? r.ctx with
      | some c => if c.reg.fn = r.fn then { s with contexts := kvPut s.contexts r.ctx { c with reg := r } } else s
      | none =>
        if run && (64 ≤ r.keySlot || (s.key r.keySlot).state ≠ 0) then s
        else
          let s : State := { s with contexts := kvPut s.contexts r.ctx ⟨r, run, 0, [], false⟩ }
          if run then
            { s with keys := kvPut s.keys r.keySlot ⟨1, 0, r.ctx⟩
                     owners := (granuleKeys r).foldl (fun m k => kvSetD 0 m (granuleOf k) (r.ctx % 65536)) s.owners }
          else s)

/-- CONTEXT_END (R151, R217, R226): of a context with no launch. Its estates go without a record, its OPEN groups close, its
owner tags return to 0, and its key is retired. -/
def execContextEnd (ctx : Nat) (s : State) : Host.Outcome State Fault Refusal :=
  .next (match s.context? ctx with
    | none => s
    | some c =>
      if !s.up || s.launches.any (fun e => e.2.ctx = ctx) then s
      else
        let s : State := s.dropEstates ctx
        let s : State := if c.prot then s.killKey c.reg.keySlot else s
        { s with
          groups := s.groups.map (fun (e : Nat × Group) =>
            if e.2.ctx = ctx && e.2.state = GState.opened then (e.1, e.2.closed) else e)
          owners := (granuleKeys c.reg).foldl (fun m k => kvDel m (granuleOf k)) s.owners
          hwqs := s.hwqs.filter (fun e => e.2.ctx ≠ ctx)
          contexts := kvDel s.contexts ctx })

/-! ### Host requests -/

/-- May a request through a Keystone port reach the granules it names (R226): every tag is 0, or the request arrives in the
owner's IDE stream? A function in ERROR, or one that has been refused, is refused (R222, R227). -/
def State.requestOk (s : State) (r : HostReq) : Bool :=
  let n := match r.data with | some bs => bs.length | none => r.n
  (32 ≤ r.fn || ((s.iface r.fn).state ≠ 3 && !(s.iface r.fn).fwall))
  && (pagePieces (n / 131072 + 2) r.pa n).all (fun p =>
      let o := s.owner (keyOf spDevice p.1)
      o = 0 || (match r.ide with | some c => c % 65536 = o | none => false))

/-- Does a request arrive under a key whose kill the PCIe engine has acknowledged (R231)? -/
def State.ideDead (s : State) (r : HostReq) : Bool :=
  match r.ide.bind s.context? with
  | some c => c.prot && ((s.key c.reg.keySlot).state = 0 || ((s.key c.reg.keySlot).state = 2 && (s.key c.reg.keySlot).acks.getLsbD 0))
  | none => false

/-- A refused request (R227): logged, and, of a function, every later one is refused too; the context of its IDE stream takes the
context fault, which names no launch (R189), and the interface enters ERROR from where R222's table lets it (log 20, DESIGN CHOICE). -/
def State.refuseRequest (s : State) (r : HostReq) : State :=
  let ctx := r.ide.getD 0
  if r.fn < 32 then
    let s : State := s.logWrite false 5 5 0 0 (BitVec.ofNat 64 ctx) 1
    let s : State := match r.ide with
      | some c => s.contextFault c ⟨0x20, 0, 0, r.pa, 5, 0, 0, false, 0, 0, 0⟩
      | none => s
    let i := s.iface r.fn
    if i.state = 1 || i.state = 2 then s.enterError r.fn false true false else s.setIface r.fn { i with fwall := true }
  else s.logWrite false 5 5 0 0 (BitVec.ofNat 64 ctx) 0

/-- HOST_REQUEST (06, R113; R226): a write is a message of die 5; a read is served from the home. A refused read returns all
ones and a refused write performs nothing. A request under a key that is dead is dropped, and its IDE stream has failed (R231). What a
read returns leaves the device. The host also writes its own memory, which the device may read (17, R265). -/
def execHostRequest (r : HostReq) (s : State) : Host.Outcome State Fault Refusal :=
  let key := keyOf spDevice r.pa
  let n := match r.data with | some bs => bs.length | none => r.n
  if r.host then .next (match r.data with
    | some bs => (s.writeBytes (keyOf spHost r.pa) bs).waitmTouched (keyOf spHost r.pa) bs.length
    | none => s)
  else if !s.up || n = 0 then .next s
  else if s.ideDead r then
    .next (if r.fn < 32 && ((s.iface r.fn).state = 1 || (s.iface r.fn).state = 2) then s.enterError r.fn false false true else s)
  else if s.requestOk r then
    if !memExists s.part key then .fault (.noSuchMemory key)
    else accessing s (key + n - 1) (match r.data with
      | some bs => s.ksWrite key bs
      | none => s)
  else .next (s.refuseRequest r)

end Sys2Proof.Machine
end

