-- ==== Sys2Proof/Machine/Queue.lean ====
section
/-! DEFINITION. The host's side (08, R154 to R169; 01, R10; 09, R194, R197; 10, R205; 11, R220, R225, R231, R237): register writes and
what registers read as, doorbells, the withdraw set, and the packets LAUNCH, FENCE, SIGNAL, BATCH, SIBOPEN, LINEAGE_CLOSE, SAVE and RESTORE. -/

namespace Sys2Proof.Machine

/-! ### Registers -/

/-- A 64-bit register with one of its words written. -/
def setHalf (x : DWord) (hi : Bool) (val : Word) : DWord := if hi then pairOf (loWord x) val else pairOf val (hiWord x)

/-- A write of a word of a queue's block that has no behaviour of its own: BASE and CTXID, ignored while ENABLE is 1 (R154).
A queue belongs to the function through which it was first written (log 20, DESIGN CHOICE). -/
def State.queueWord (s : State) (fn q off : Nat) (val : Word) : State :=
  let x := s.queue q
  let mine := (kvGet s.queues q).isNone || x.fn = fn
  if !mine || 1024 ≤ q || (off ≠ 0 && off ≠ 4 && off ≠ 12) then s
  else s.lockedWrite fn (fun s =>
    if x.enable then s
    else s.setQueue q (if off = 12 then { x with fn := fn, ctx := val.toNat }
                       else { x with fn := fn, base := setHalf x.base (off = 4) val }))

/-- A write of word 0x08 of the fault buffer's block: FBLOGSZ is locked, ENABLE and INTEN are not (R197, R223; log 20, DESIGN CHOICE). -/
def State.fbControl (s : State) (val : Word) : State :=
  let n := val.toNat % 32
  let put := fun (s : State) => { s with fb := { s.fb with logsz := n, enable := val.getLsbD 5, inten := val.getLsbD 6 } }
  if n = s.fb.logsz then put s else s.lockedWrite 0 put

/-- REGISTER_WRITE (R6): by function and offset in its BAR 0. The CXL mode, to which the spec gives no offset, stands at 2^32
(log 20, DESIGN CHOICE). Logs, fault buffer, invalidation, recovery and CXL mode are the physical function's. In recovery only SLEN and the
staging area are reached (R237). -/
def execRegisterWrite (fn off : Nat) (val : Word) (s : State) : Host.Outcome State Fault Refusal :=
  .next (
    if off % 4 ≠ 0 || 32 ≤ fn || !s.powered then s
    else if s.recov.active then
      if fn ≠ 0 then s
      else if off = 0x2008 then { s with recov := { s.recov with slen := val } }
      else if 0x2000000 ≤ off && off < 0x4000000 then s.writeBytes (keyOf spStage (off - 0x2000000)) (toBytes 4 val.toNat)
      else s
    else if 0x100000 ≤ off && off < 0x110000 then s.queueWord fn ((off - 0x100000) / 64) (off % 64) val
    else if 0x90000 ≤ off && off < 0x98000 then
      let q := (off - 0x90000) / 8
      if off % 8 ≠ 0 || !((kvGet s.hwqs q).map (fun x => decide (x.fn = fn))).getD false then s
      else { s with hwqs := kvMod s.hwqs q (fun x => { x with oovcnt := val }) }
    else if fn ≠ 0 then s
    else match off with
      | 0x3004 => { s with faultLog := { s.faultLog with rptr := val } }
      | 0x300C => { s with faultLog := { s.faultLog with inten := val.getLsbD 0 } }
      | 0x3044 => { s with eventLog := { s.eventLog with rptr := val } }
      | 0x304C => { s with eventLog := { s.eventLog with inten := val.getLsbD 0 } }
      | 0x80000 => s.lockedWrite 0 (fun s => { s with fb := { s.fb with base := setHalf s.fb.base false val } })
      | 0x80004 => s.lockedWrite 0 (fun s => { s with fb := { s.fb with base := setHalf s.fb.base true val } })
      | 0x80008 => s.fbControl val
      | 0x80010 => { s with fb := { s.fb with rptr := val } }
      | 0x80040 => { s with inval := { s.inval with va := setHalf s.inval.va false val } }
      | 0x80044 => { s with inval := { s.inval with va := setHalf s.inval.va true val } }
      | 0x80048 => { s with inval := { s.inval with pages := val } }
      | 0x8004C => { s with inval := { s.inval with ctx := val } }
      | 0x100000000 => s.lockedWrite 0 (fun s => { s with cxlCoherent := val.getLsbD 0 })
      | _ => s)

/-! ### What a register reads as (R6, R7): the value of its fields, 0 for a reserved or write-only field -/

/-- A word from its fields: value and place. -/
def fieldsWord (fs : List (Nat × Nat)) : Word := BitVec.ofNat 32 ((fs.map (fun p => p.1 * 2 ^ p.2)).sum)

def bitVal (b : Bool) : Nat := if b then 1 else 0

/-- A word of a queue's block (R154). -/
def State.queueRead (s : State) (q off : Nat) : Word :=
  let x := s.queue q
  match off with
  | 0x00 => loWord x.base
  | 0x04 => hiWord x.base
  | 0x08 => fieldsWord [(x.logsz, 0), (x.prio, 5), (bitVal x.enable, 8)]
  | 0x0C => BitVec.ofNat 32 x.ctx
  | 0x10 => x.wptr
  | 0x14 => x.rptr
  | 0x20 => fieldsWord [(bitVal (x.rptr = x.wptr && x.busy.isNone && !s.statusHeld q), 0), (bitVal x.error, 1),
      (bitVal x.fenceWait, 2), (x.lasterr, 8)]
  | _ => 0

/-- A word of a log's block (R10). -/
def Log.read (l : Log) (off : Nat) : Word :=
  match off with
  | 0x00 => l.wptr
  | 0x04 => l.rptr
  | 0x08 => l.lost
  | 0x0C => fieldsWord [(bitVal l.inten, 0)]
  | _ => 0

/-- A word of a log's record window (R10, R11). -/
def Log.windowRead (l : Log) (off : Nat) : Word := BitVec.ofNat 32 (ofBytes (((l.windowRec (off / 32)).drop (off % 32)).take 4))

/-- A word of the fault buffer's block (R197). -/
def State.fbRead (s : State) (off : Nat) : Word :=
  match off with
  | 0x00 => loWord s.fb.base
  | 0x04 => hiWord s.fb.base
  | 0x08 => fieldsWord [(s.fb.logsz, 0), (bitVal s.fb.enable, 5), (bitVal s.fb.inten, 6)]
  | 0x0C => s.fb.wptr
  | 0x10 => s.fb.rptr
  | 0x14 => BitVec.ofNat 32 (s.faults.filter (fun f => f.seq.isSome)).length
  | _ => 0

/-- A word of the invalidation registers (R194). -/
def Inval.read (i : Inval) (off : Nat) : Word :=
  match off with
  | 0x00 => loWord i.va
  | 0x04 => hiWord i.va
  | 0x08 => i.pages
  | 0x0C => i.ctx
  | 0x10 => fieldsWord [(bitVal i.busy, 1)]
  | _ => 0

/-- IFSTATE (R225). -/
def Iface.read (i : Iface) : Word :=
  fieldsWord [(i.state, 0), (bitVal (i.state = 3 && i.lockwr), 2), (bitVal (i.state = 3 && i.fwall), 3), (bitVal (i.state = 3 && i.ideerr), 4)]

/-- KSLOT of a slot (R231): absent engines read as having acknowledged. -/
def State.keyRead (s : State) (k : Nat) : Word :=
  fieldsWord [((s.key k).state, 0), (((s.key k).acks ||| s.part.absentEngines).toNat, 16)]

/-- A word of the recovery window, from offset 0x2000, or of the staging area (R237). -/
def State.recoveryRead (s : State) (off : Nat) : Option Word :=
  let r := s.recov
  if off = 0x2000 then some (fieldsWord [(1, 0), (bitVal r.busy, 1)])
  else if off = 0x2004 then some (fieldsWord [(r.aerr, 0), (r.berr, 8), (r.stage, 16), (r.varerr, 24)])
  else if off = 0x2008 then some r.slen
  else if off = 0x200C then some 0
  else if 0x3000 ≤ off && off < 0x3A20 then
    some (BitVec.ofNat 32 (ofBytes ((List.range 4).map (fun i => Config.idKeyByte (off - 0x3000 + i)))))
  else if 0x2000000 ≤ off && off < 0x4000000 then some (BitVec.ofNat 32 (s.readNat (keyOf spStage (off - 0x2000000)) 4))
  else none

/-- What a host read of the word at an offset of a function's BAR 0 returns (R6, R7). In recovery, and without power, what is not
reached reads all ones (R237; log 32, DESIGN CHOICE). -/
def State.regRead (s : State) (fn off : Nat) : Word :=
  if off % 4 ≠ 0 || 32 ≤ fn || !s.powered then BitVec.allOnes 32
  else if s.recov.active then (if fn = 0 then (s.recoveryRead off).getD (BitVec.allOnes 32) else BitVec.allOnes 32)
  else if 0x100000 ≤ off && off < 0x110000 then
    let q := (off - 0x100000) / 64
    if (kvGet s.queues q).all (fun x => x.fn = fn) then s.queueRead q (off % 64) else 0
  else if 0x90000 ≤ off && off < 0x98000 then
    (match kvGet s.hwqs ((off - 0x90000) / 8) with
    | some x => if x.fn = fn then (if off % 8 = 0 then x.oovcnt else x.recv) else 0
    | none => 0)
  else if off = 0x1000 then (s.iface fn).read
  else if fn ≠ 0 then 0
  else if 0x1100 ≤ off && off < 0x1200 then s.keyRead ((off - 0x1100) / 4)
  else if 0x3000 ≤ off && off < 0x3040 then s.faultLog.read (off - 0x3000)
  else if 0x3040 ≤ off && off < 0x3080 then s.eventLog.read (off - 0x3040)
  else if 0x40000 ≤ off && off < 0x48000 then s.faultLog.windowRead (off - 0x40000)
  else if 0x48000 ≤ off && off < 0x50000 then s.eventLog.windowRead (off - 0x48000)
  else if 0x80000 ≤ off && off < 0x80040 then s.fbRead (off - 0x80000)
  else if 0x80040 ≤ off && off < 0x80080 then s.inval.read (off - 0x80040)
  else if off = 0x100000000 then fieldsWord [(bitVal s.cxlCoherent, 0)]
  else 0

/-! ### Queue registers with behaviour of their own (R154) -/

/-- QUEUE_DOORBELL (R155): WPTR. -/
def execQueueDoorbell (q : Nat) (wptr : Word) (s : State) : Host.Outcome State Fault Refusal :=
  .next (if s.up && q < 1024 then s.setQueue q { s.queue q with wptr := wptr } else s)

/-- QUEUE_ENABLE_WRITE (R154): word 0x08. LOGSZ and PRIO are locked; a write that changes neither is no write to a locked
register (R223; log 20, DESIGN CHOICE). A function in a reset sequence parses nothing (R232). -/
def execQueueEnableWrite (q : Nat) (val : Word) (s : State) : Host.Outcome State Fault Refusal :=
  .next (
    let x := s.queue q
    let n := val.toNat % 32
    let prio := val.toNat / 32 % 8
    let on := val.getLsbD 8
    if !s.up || 1024 ≤ q || (s.iface x.fn).resetting ≠ 0 then s
    else
      let put := fun (s : State) =>
        if x.enable then s.setQueue q { x with prio := prio, enable := on }
        else s.setQueue q { x with logsz := n, prio := prio, enable := on && 4 ≤ n && n ≤ 16 }
      if prio = x.prio && (x.enable || n = x.logsz) then put s else s.lockedWrite x.fn put)

/-- The group of a launch that completes with no sibling run is UNDECIDED, with every tile in TILESND (R208, R217). -/
def State.releaseUnrun (s : State) (l : Launch) : State :=
  match s.groupOf l with
  | none => s
  | some (k, g) =>
    let tiles := List.range l.hdr.tiles
    let sibs := ((List.range g.sibs.length).zip g.sibs).map (fun p =>
      { p.2 with tilesnd := p.2.tilesnd + BitVec.ofNat 32 (tiles.filter (fun n => l.hdr.sibOf n = p.1)).length })
    { s with groups := kvPut s.groups k { g with state := .releasing, outcome := 3, winner := 0, dseq := 0, sibs := sibs } }

/-- A parsed launch that holds no core is withdrawn (R169). -/
def State.withdrawLaunch (s : State) (l : Launch) : State :=
  let s : State := s.releaseUnrun l
  let s : State := { s with launches := kvDel s.launches l.id }
  s.completePacket l.queue 0x02 0

/-- WITHDRAW (R169): a nonzero tag joins the set of at most 16; a LAUNCH or BATCH that waits for cores under it ends. -/
def execWithdraw (q : Nat) (tag : Word) (s : State) : Host.Outcome State Fault Refusal :=
  .next (
    if !s.up || tag = 0 || 1024 ≤ q then s
    else
      let x := s.queue q
      let set := if x.withdrawn.contains tag then x.withdrawn
                 else (x.withdrawn ++ [tag]).drop (x.withdrawn.length + 1 - 16)
      let s : State := s.setQueue q { x with withdrawn := set }
      match s.launches.find? (fun e => e.2.queue = q && e.2.tag = tag && e.2.state = .waiting) with
      | some (_, l) => s.withdrawLaunch l
      | none =>
        ((s.launches.filter (fun e => e.2.queue = q)).map (·.1)).foldl (fun s l => s.siblingsQuiet l) s)

def execWclear (q : Nat) (s : State) : Host.Outcome State Fault Refusal :=
  .next (if s.up && q < 1024 then s.setQueue q { s.queue q with withdrawn := [] } else s)

/-- QUEUE_RESET (R154): at once, or once the packet in progress completes. -/
def execQueueReset (q : Nat) (s : State) : Host.Outcome State Fault Refusal :=
  .next (
    let x := s.queue q
    if !s.up || 1024 ≤ q then s
    else if x.busy.isSome || s.statusHeld q then s.setQueue q { x with resetReq := true }
    else s.setQueue q { x with rptr := x.wptr, error := false, withdrawn := [] })

def execQueueResume (q : Nat) (s : State) : Host.Outcome State Fault Refusal :=
  .next (if s.up && q < 1024 then s.setQueue q { s.queue q with error := false } else s)

/-! ### Parsing (R155 to R157) -/

/-- Parse the packet at RPTR as one of a TYPE: a withdrawn tag is examined first, then a reserved TYPE or header bit; a
packet of another TYPE is another step's. It is read whole then, and stays what was read (R155); one that has begun and waits is the body's
again. A withdrawn packet does nothing but complete (R169). -/
def State.parse (s : State) (q type : Nat) (body : State → Packet → State) : State :=
  let x := s.queue q
  match x.busy with
  | some .waiting => if s.up && !s.statusHeld q && pkt x.packet.bytes 0 1 = type then body s x.packet else s
  | some _ => s
  | none =>
    if !s.up || !x.enable || x.error || x.rptr = x.wptr || s.statusHeld q || (s.context? x.ctx).isNone
        || (s.iface x.fn).resetting ≠ 0 then s
    else
      let p : Packet := ⟨x.headAddr, x.ctx, s.ksRead x.ctx x.headAddr 64⟩
      let t := pkt p.bytes 0 1
      let tag : Word := BitVec.ofNat 32 (pkt p.bytes 4 4)
      let r : State := s.setQueue q { x with packet := p }
      if tag ≠ 0 && x.withdrawn.contains tag then r.completeNow q 0x02 0 (0, 0)
      else if t = 0 || 8 < t then r.completePacket q 0x04 0
      else if t ≠ type then s
      else if 2 ≤ pkt p.bytes 1 1 then r.completePacket q 0x04 0
      else body r p

/-- A packet that has begun waits (R165, R208): it is the packet in progress. -/
def State.waitPacket (s : State) (q : Nat) : State := s.setQueue q { s.queue q with busy := some .waiting }

/-- Are the bytes of a packet from an offset on all 0 (a reserved field)? -/
def zeroFrom (p : List Byte) (off : Nat) : Bool := (p.drop off).all (· = 0)

/-! ### The launch header (R27, R29, R159) -/

def parseHeader (b : List Byte) : Header where
  entry := BitVec.ofNat 64 (pkt b 0 8)
  handler := BitVec.ofNat 64 (pkt b 8 8)
  args := BitVec.ofNat 64 (pkt b 0x10 8)
  stkArea := BitVec.ofNat 64 (pkt b 0x18 8)
  w := (List.range 5).map (fun i => pkt b 0x20 4 / 64 ^ i % 64) ++ [pkt b 0x24 4 % 64]
  sibf := pkt b 0x24 4 / 64 % 8
  cluster := pkt b 0x24 4 / 512 % 2 = 1
  ext := (List.range 4).map (fun i => pkt b (0x28 + 4 * i) 4)
  teams := pkt b 0x38 4 % 128
  regs8 := pkt b 0x38 4 / 256 % 32
  accs := pkt b 0x38 4 / 8192 % 8
  scratch := pkt b 0x38 4 / 65536 % 1024
  tlin := pkt b 0x3C 2
  test := pkt b 0x3C 4 / 65536 % 2 = 1
  hlin := pkt b 0x40 2
  heir := pkt b 0x40 4 / 65536 % 2 = 1
  close := pkt b 0x40 4 / 131072 % 2 = 1
  claim := pkt b 0x40 4 / 262144 % 8
  into := pkt b 0x40 4 / 2097152 % 128
  count := pkt b 0x40 4 / 268435456
  sibgrp := BitVec.ofNat 32 (pkt b 0x44 4)
  closebuf := BitVec.ofNat 64 (pkt b 0x48 8)
  stkSize := pkt b 0x50 4

/-- The reserved fields of a header (R27). -/
def headerReserved (b : List Byte) : Bool :=
  pkt b 0x20 4 / 1073741824 ≠ 0 || pkt b 0x24 4 / 1024 ≠ 0 || pkt b 0x38 4 / 128 % 2 ≠ 0 || pkt b 0x38 4 / 67108864 ≠ 0
    || pkt b 0x3C 4 / 131072 ≠ 0 || !zeroFrom b 0x54

/-- The address checks of ENTRY and HANDLER (R29). -/
def entryOk (a : DWord) : Bool := nbits a.toNat 63 57 = 0 && a.toNat % 4 = 0 && nbits a.toNat 56 48 ≠ 0x1FF

/-- The OPEN group that a handle names (R208, R217). -/
def State.openGroup (s : State) (handle : Word) : Option (Nat × Group) :=
  let k := handle.toNat % 256
  match kvGet s.groups k with
  | some g => if g.state = GState.opened && g.gen = handle.toNat / 256 then some (k, g) else none
  | none => none

/-- The DETAIL of the first condition of R159 that a header breaks. -/
def State.headerDetail (s : State) (b : List Byte) : Option Nat :=
  let h := parseHeader b
  let per := (h.teams + 5) / 6
  let k := h.claim + 1
  let sibOk : Bool := h.sibf = 0 || (2 ≤ h.sibf && h.sibf ≤ 5 && (match s.openGroup h.sibgrp with
    | some (_, g) => h.ext.getD (h.sibf - 2) 0 = g.n
    | none => false))
  [(!headerReserved b, 0x01), (decide (h.width 0 = 6), 0x02), (decide (h.teams ≤ 2 ^ h.width 1), 0x03),
   (decide (h.w.sum ≤ 64), 0x04),
   ((List.range 4).all (fun i => decide (1 ≤ h.ext.getD i 0) && decide (h.ext.getD i 0 ≤ 2 ^ h.width (i + 2))), 0x05),
   (sibOk, 0x06),
   (decide (1 ≤ h.teams && h.teams ≤ 96 && 1 ≤ h.regs8 && h.regs8 ≤ 16 && h.accs ≤ 4 && h.scratch ≤ 512
      && per * (8 * h.regs8) ≤ 1024 && per * h.accs ≤ 8 && per ≤ 16), 0x07),
   (!h.heir || decide (h.into + k * h.count ≤ 8 * h.regs8), 0x08),
   (!h.heir || decide (1 ≤ h.count && h.count ≤ 8 && k * h.count ≤ 32), 0x09),
   (!(h.test && h.heir && h.tlin = h.hlin), 0x0A),
   (entryOk h.entry && (h.handler = 0 || entryOk h.handler) && decide (h.stkArea.toNat % 16 = 0) && decide (h.stkSize % 16 = 0),
     0x0B)].find? (fun p => !p.1) |>.map (·.2)

/-- Cores that exist on the present dies that a mask names. -/
def State.coresOn (s : State) (dies : BitVec 5) : List Nat :=
  (List.range 608).filter (fun c => coreExists s.part c && dies.getLsbD (coreDie c))

/-- Condition 0x0C of R159. -/
def State.coresDetail (s : State) (cmin cmax : Nat) (dies : BitVec 5) : Option Nat :=
  if 1 ≤ cmin && cmin ≤ cmax && cmax ≤ 608 && cmin ≤ (s.coresOn dies).length then none else some 0x0C

/-- Rounded up to whole clusters (R160). -/
def Header.cores (h : Header) (n : Nat) : Nat := if h.cluster then (n + 7) / 8 * 8 else n

/-- A launch is parsed: it consumes its group's handle and waits for cores (R160, R172, R208). -/
def State.queueLaunch (s : State) (q : Nat) (p : Packet) (h : Header) (cmin cmax : Nat) (dies : BitVec 5) (cpl : DWord × DWord)
    (batch : Option (Nat × DWord × Nat)) : State :=
  let id := s.nextSeq
  let l : Launch := ⟨id, p.ctx, q, BitVec.ofNat 32 (pkt p.bytes 4 4), (s.queue q).prio, h, h.cores cmin, h.cores cmax, dies, cpl.1, cpl.2,
    .waiting, [], [], [], batch, [], [], [], 0⟩
  let s : State := s.bump
  let s : State := { s with launches := kvPut s.launches id l }
  let s : State := if h.sibf = 0 then s else match s.openGroup h.sibgrp with
    | some (k, g) => { s with groups := kvPut s.groups k { g with state := .voting, launch := id } }
    | none => s
  s.setQueue q { s.queue q with busy := some (.launch id) }

/-- LAUNCH (R160). -/
def execLaunch (q : Nat) (s : State) : Host.Outcome State Fault Refusal :=
  .next (s.parse q 0x01 (fun s k =>
    let p := k.bytes
    let hdr := pkt p 8 8
    let dies : BitVec 5 := BitVec.ofNat 5 (pkt p 0x14 4)
    let cpl := pkt p 0x18 8
    if 32 ≤ pkt p 0x14 4 || !zeroFrom p 0x28 || hdr % 128 ≠ 0 || cpl % 8 ≠ 0 then s.completePacket q 0x04 0
    else
      let b := s.ksRead k.ctx (BitVec.ofNat 64 hdr) 128
      match s.headerDetail b, s.coresDetail (pkt p 0x10 2) (pkt p 0x12 2) dies with
      | some d, _ => s.completePacket q 0x03 d
      | none, some d => s.completePacket q 0x03 d
      | none, none =>
        s.queueLaunch q k (parseHeader b) (pkt p 0x10 2) (pkt p 0x12 2) dies
          (BitVec.ofNat 64 cpl, BitVec.ofNat 64 (pkt p 0x20 8)) none))

/-! ### BATCH (R166, R167) -/

/-- The snapshot of one entry. The reads of an attempt stand in one step, so the three attempts agree (log 24, DEDUCED). -/
def State.snapEntry (s : State) (ctx : Nat) (wset : List Word) (table snap : DWord) (i : Nat) : State :=
  let a := snap + BitVec.ofNat 64 (64 * i)
  let e := s.ksRead ctx (table + BitVec.ofNat 64 (64 * i)) 64
  let old := s.ksRead ctx a 64
  let st := pkt old 0 4 % 4
  let new := if pkt e 0 4 % 2 = 0 then toBytes 4 1 ++ e.drop 4
    else if st = 1 || st = 2 then toBytes 4 (pkt old 0 4 / 4 * 4 + 2) ++ old.drop 4 else old
  let new := if pkt new 0 4 % 4 ≠ 0 && wset.contains (BitVec.ofNat 32 (pkt new 4 4)) then
      toBytes 4 (pkt new 0 4 / 4 * 4 + 3) ++ new.drop 4 else new
  if new = old then s else s.ksStore ctx a new

/-- BATCH (R166): condition 0x0D follows the launch's. -/
def execBatch (q : Nat) (s : State) : Host.Outcome State Fault Refusal :=
  .next (s.parse q 0x04 (fun s k =>
    let p := k.bytes
    let hdr := pkt p 8 8
    let table := pkt p 0x10 8
    let snap := pkt p 0x18 8
    let nent := pkt p 0x20 4 % 8192
    let bf := pkt p 0x20 4 / 8192 % 8
    let dies : BitVec 5 := BitVec.ofNat 5 (pkt p 0x28 4)
    let cpl := pkt p 0x30 8
    if 65536 ≤ pkt p 0x20 4 || 32 ≤ pkt p 0x28 4 || pkt p 0x2C 4 ≠ 0 || hdr % 128 ≠ 0 || table % 64 ≠ 0 || snap % 64 ≠ 0
        || cpl % 8 ≠ 0 then s.completePacket q 0x04 0
    else
      let b := s.ksRead k.ctx (BitVec.ofNat 64 hdr) 128
      let h := parseHeader b
      match s.headerDetail b, s.coresDetail (pkt p 0x24 2) (pkt p 0x26 2) dies with
      | some d, _ => s.completePacket q 0x03 d
      | none, some d => s.completePacket q 0x03 d
      | none, none =>
        if nent = 0 || 4096 < nent || bf < 2 || 5 < bf || h.ext.getD (bf - 2) 0 ≠ nent then s.completePacket q 0x03 0x0D
        else
          let s : State := (List.range nent).foldl
            (fun s i => s.snapEntry k.ctx (s.queue q).withdrawn (BitVec.ofNat 64 table) (BitVec.ofNat 64 snap) i) s
          s.queueLaunch q k h (pkt p 0x24 2) (pkt p 0x26 2) dies (BitVec.ofNat 64 cpl, BitVec.ofNat 64 (pkt p 0x38 8))
            (some (bf, BitVec.ofNat 64 snap, nent))))

/-! ### FENCE (R161) -/

/-- FENCE_PACKET_POLL (R161). -/
def execFencePacketPoll (q : Nat) (s : State) : Host.Outcome State Fault Refusal := .next (s.pollFence q)

/-- FENCE_PACKET (R161): the list is read once. -/
def execFencePacket (q : Nat) (s : State) : Host.Outcome State Fault Refusal :=
  .next (s.parse q 0x02 (fun s k =>
    let p := k.bytes
    let list := pkt p 8 8
    let n := pkt p 0x10 4 % 16
    if 32 ≤ pkt p 0x10 4 || !zeroFrom p 0x14 || n = 0 || 12 < n || list % 16 ≠ 0 then s.completePacket q 0x04 0
    else
      let es := (List.range n).map (fun i => s.ksRead k.ctx (BitVec.ofNat 64 (list + 16 * i)) 16)
      let bad := es.any (fun e =>
        let a := pkt e 0 8
        5 ≤ nbits a 59 57 || nbits a 63 61 ≠ 0 || nbits a 56 0 % (if nbits a 60 60 = 1 then 4 else 8) ≠ 0)
      if bad then s.completePacket q 0x04 0
      else
        let cs := es.map (fun e =>
          let a := pkt e 0 8
          ((BitVec.ofNat 64 (nbits a 56 0) : DWord), nbits a 59 57, decide (nbits a 60 60 = 1), (BitVec.ofNat 64 (pkt e 8 8) : DWord)))
        (s.setQueue q { s.queue q with busy := some (.fence cs (pkt p 0x10 1 / 16 % 2 = 1)), fenceWait := true }).pollFence q))

/-! ### SIGNAL, SIBOPEN, LINEAGE_CLOSE -/

/-- The writes that the Keystone die has made since a sequence number and that are not complete. -/
def State.writesSince (s : State) (n : Nat) : List Nat := (s.writes.filter (fun (t : WTrack) => n ≤ t.id)).map (·.id)

/-- A packet whose own writes are complete is done (R162, R163); the FENCEs that wait read their counters again (R161). -/
def State.writesDone (s : State) (q : Nat) : State :=
  match (s.queue q).busy with
  | some (.writes ids) => if s.allOver ids && !s.statusHeld q then (s.completePacket q 0x01 0).pollFences else s
  | _ => s

/-- A packet waits for the writes it has made. -/
def State.awaitWrites (s : State) (q since : Nat) : State :=
  (s.setQueue q { s.queue q with busy := some (.writes (s.writesSince since)) }).writesDone q

/-- SIGNAL (R162): performed by die 5 at SYSTEM scope; complete with its write. An addition is one step at the counter's home. The FENCEs
that wait read their counters again after its store (R161). -/
def execSignal (q : Nat) (s : State) : Host.Outcome State Fault Refusal :=
  .next (
    let s : State := s.writesDone q
    s.parse q 0x03 (fun s k =>
      let p := k.bytes
      let a := pkt p 8 8
      let v := pkt p 0x10 8
      let op := pkt p 0x18 4
      if 3 ≤ op || !zeroFrom p 0x1C || a % (if op = 2 then 4 else 8) ≠ 0 then s.completePacket q 0x04 0
      else
        let n := s.nextSeq
        let addr : DWord := BitVec.ofNat 64 a
        let s : State := match op with
          | 0 => s.ksStoreNat k.ctx addr 8 v
          | 1 => s.ksAdd k.ctx addr v
          | _ => s.ksStoreNat k.ctx addr 4 (v % 4294967296)
        (s.awaitWrites q n).pollFences))

/-- The lowest free group slot of 256, with its generation (R208). -/
def State.freeGroup (s : State) : Option (Nat × Nat) :=
  (List.range 256).findSome? (fun k => match kvGet s.groups k with
    | none => some (k, 0)
    | some g => if g.state = GState.closed then some (k, g.gen) else none)

/-- May die 5 push to the queue that a FREEQ handle names (R159, R163)? -/
def State.freeqOk (s : State) (ctx handle : Nat) : Bool :=
  handle < 4096 && (match kvGet s.hwqs handle with
    | some f => f.ctx = ctx && !f.long && (f.early || 2 ≤ f.scope)
    | none => false)

/-- SIBOPEN (R163): with no free slot the packet waits (R208). -/
def execSibopen (q : Nat) (s : State) : Host.Outcome State Fault Refusal :=
  .next (
    let s : State := s.writesDone q
    s.parse q 0x05 (fun s x =>
      let p := x.bytes
      let n := pkt p 0x28 4 % 128
      let t := pkt p 0x28 4 / 128 % 128
      let live := pkt p 8 8
      let freeq := pkt p 0x2C 4
      if 16384 ≤ pkt p 0x28 4 || !zeroFrom p 0x30 || live % 4 ≠ 0 then s.completePacket q 0x04 0
      else if t = 0 || n < t || 64 < n || !s.freeqOk x.ctx freeq then s.completePacket q 0x03 0x10
      else match s.freeGroup with
        | none => s.waitPacket q
        | some (k, gen) =>
          let g : Group := ⟨gen, .opened, x.ctx, (s.queue q).fn, BitVec.ofNat 64 live, BitVec.ofNat 64 (pkt p 0x10 8),
            BitVec.ofNat 64 (pkt p 0x18 8), BitVec.ofNat 32 freeq, n, t, 0, 0,
            List.replicate n ⟨none, 0, 0, 0, 0, false, false⟩, 0, 0, 0, 0, 0, 0, (0, none, 0)⟩
          let since := s.nextSeq
          let s : State := { s with groups := kvPut s.groups k g }
          let s : State := (List.range n).foldl (fun s i => s.ksStoreNat x.ctx (BitVec.ofNat 64 (live + 4 * i)) 4 1) s
          let s : State := s.ksStoreNat x.ctx (BitVec.ofNat 64 (pkt p 0x20 8)) 4 (k + 256 * gen)
          s.awaitWrites q since))

/-- LINEAGE_CLOSE (R164): done after step 4 of R152. -/
def execLineageClose (q : Nat) (s : State) : Host.Outcome State Fault Refusal :=
  .next (s.parse q 0x06 (fun s x =>
    let p := x.bytes
    if 65536 ≤ pkt p 8 4 || pkt p 0x0C 4 ≠ 0 || !zeroFrom p 0x18 then s.completePacket q 0x04 0
    else
      let s : State := s.startClose x.ctx (pkt p 8 2) q none (BitVec.ofNat 64 (pkt p 0x10 8))
      match s.closes.getLast? with
      | some c => s.setQueue q { s.queue q with busy := some (.closing c.id) }
      | none => s))

/-! ### SAVE and RESTORE (R165) -/

/-- The launch that a SAVE or RESTORE names: of the packet's context, most recently parsed. -/
def State.namedLaunch (s : State) (ctx : Nat) (p : List Byte) : Option Launch :=
  let q := pkt p 8 4
  let tag : Word := BitVec.ofNat 32 (pkt p 0x0C 4)
  if (s.queue q).ctx ≠ ctx || tag = 0 then none
  else (s.launches.filter (fun e => e.2.queue = q && e.2.tag = tag)).getLast?.map (·.2)

/-- Is a workgroup of the launch being stopped, resumed or still being placed? -/
def State.moving (s : State) (l : Launch) : Bool :=
  !l.toPlace.isEmpty || s.wgs.any (fun e => e.2.launch = l.id && (e.2.stopping.isSome || e.2.unborn || s.commanded e.1))
    || s.links.any (fun c => match c with | .resume k _ _ => k = l.id | _ => false)

/-- May a running workgroup of a launch being saved be stopped now: a protected context's only at the end of its cluster's slice (R180)? -/
def State.sliceLets (s : State) (ctx core : Nat) (atEnd : Option Nat) : Bool :=
  (match s.context? ctx with | some c => !c.prot | none => true) || atEnd = some (clusterOf core)

/-- A SAVE is done once every live workgroup's image lies in its slot; the launch is suspended (R165), unless it only has its closing left to
do. -/
def State.saveDone (s : State) (q : Nat) (atEnd : Option Nat) : State :=
  match (s.queue q).busy with
  | some (.saving lid img stride _) =>
    if s.statusHeld q then s
    else match s.launch? lid with
    | none => s.completePacket q 0x01 0
    | some l =>
      let here := s.wgs.filter (fun e => e.2.launch = lid && !e.2.ended)
      let s : State := here.foldl (fun s e =>
        if e.2.stopping.isNone && !s.commanded e.1 && s.permit e.1 && !e.2.cancelled && s.sliceLets l.ctx e.1 atEnd then
          let s : State := s.modLaunch lid (fun l => { l with mask := l.mask.erase e.1 })
          { s with links := s.links ++ [.stop e.1 l.ctx (img + BitVec.ofNat 64 (stride * e.2.num)) none] } else s) s
      if here.isEmpty && l.toPlace.isEmpty then
        (s.modLaunch lid (fun l => if l.state = .closing then l else { l with state := .suspended, mask := [] })).completePacket q 0x01 0
      else s
  | _ => s

/-- The SAVE packet that saves a launch, with its slot stride. -/
def State.saveOf (s : State) (lid : Nat) : Option (Nat × Nat) :=
  s.queues.findSome? (fun e => match e.2.busy with
    | some (.saving k _ stride _) => if k = lid then some (e.1, stride) else none
    | _ => none)

/-- An image already saved moves unchanged to its IMG slot, and its save-area slot is free (R165). -/
def State.moveImage (s : State) (l : Launch) (img : DWord) (stride : Nat) (v : SavedWg) : State :=
  let a := img + BitVec.ofNat 64 (stride * v.num)
  let prot : Bool := match s.context? l.ctx with | some c => c.prot | none => false
  let s : State := s.ksStore l.ctx a (s.ksRead l.ctx v.addr (v.wg.imageSize l.hdr prot))
  let s : State := match v.slot with
    | some k => s.modContext l.ctx (fun c => { c with slots := c.slots.erase k })
    | none => s
  s.modLaunch l.id (fun l => { l with saved := l.saved.map (fun (u : SavedWg) =>
    if u.num = v.num then { u with addr := a, stride := stride, slot := none } else u) })

/-- The body of a SAVE or RESTORE is well formed (R157, R165). -/
def saveBodyOk (p : List Byte) : Bool :=
  pkt p 8 4 < 1024 && pkt p 0x0C 4 ≠ 0 && pkt p 0x10 8 % 64 = 0 && pkt p 0x18 4 % 64 = 0 && zeroFrom p 0x20

/-- SAVE (R165): it waits until no workgroup of the launch is being stopped or resumed, checks, and stops them all. The launch has started
and is neither complete nor suspended. -/
def execSave (q : Nat) (s : State) : Host.Outcome State Fault Refusal :=
  .next (
    let s : State := s.saveDone q none
    s.parse q 0x07 (fun s x =>
      let p := x.bytes
      if !saveBodyOk p then s.completePacket q 0x04 0
      else match s.namedLaunch x.ctx p with
        | none => s.completePacket q 0x03 0x0E
        | some l =>
          if s.moving l then s.waitPacket q
          else if l.state ≠ .running && l.state ≠ .closing then s.completePacket q 0x03 0x0E
          else
            let img : DWord := BitVec.ofNat 64 (pkt p 0x10 8)
            let stride := pkt p 0x18 4
            let nslot := pkt p 0x1C 4
            let prot : Bool := match s.context? l.ctx with | some c => c.prot | none => false
            let fits := fun (w : Workgroup) => w.imageSize l.hdr prot ≤ stride && w.num < nslot
            let here := s.wgs.filter (fun e => e.2.launch = l.id && !e.2.ended)
            if !(here.all (fun e => fits e.2) && l.saved.all (fun v => fits v.wg)) then s.completePacket q 0x03 0x0F
            else
              let s : State := l.saved.foldl (fun s v => s.moveImage l img stride v) s
              (s.setQueue q { s.queue q with busy := some (.saving l.id img stride nslot) }).saveDone q none))

/-- RESTORE (R165, R201): the images in ascending slot order; the first failure decides the status. A failing tag ends it as the packet in
progress of a context fault (R188). -/
def execRestore (q : Nat) (s : State) : Host.Outcome State Fault Refusal :=
  .next (s.parse q 0x08 (fun s x =>
    let p := x.bytes
    if !saveBodyOk p then s.completePacket q 0x04 0
    else match s.namedLaunch x.ctx p with
      | none => s.completePacket q 0x03 0x0E
      | some l =>
        if l.state ≠ .suspended then s.completePacket q 0x03 0x0E
        else match s.context? l.ctx with
          | none => s
          | some c =>
            let img : DWord := BitVec.ofNat 64 (pkt p 0x10 8)
            let stride := pkt p 0x18 4
            let nums := (List.range (pkt p 0x1C 4 ⊓ 608)).filter (fun n => l.saved.any (fun v => v.num = n))
            let here := nums.filterMap (fun n => (l.saved.find? (fun v => v.num = n)).map (fun v =>
              { v with addr := img + BitVec.ofNat 64 (stride * n), stride := stride, slot := none }))
            if l.saved.any (fun v => pkt p 0x1C 4 ≤ v.num) then s.completePacket q 0x03 0x0F
            else match (here.map (s.checkImage l c)).find? (· ≠ .ok) with
              | none =>
                (s.modLaunch l.id (fun l => { l with state := .running, saved := here })).completePacket q 0x01 0
              | some .mismatch => s.completePacket q 0x03 0x0F
              | some .capacity => s.completePacket q 0x21 0
              | some .stale => s.completePacket q 0x22 0
              | some .tag =>
                (s.waitPacket q).contextFault l.ctx ⟨0x23, 0, 0, 0, 5, 0, 0, false, 0, l.queue, l.tag.toNat⟩
              | some .ok => s))

end Sys2Proof.Machine
end

