-- ==== Sys2Proof/Machine/Pier.lean ====
section
/-! DEFINITION. Piers and workgroups (02, R31, R32; 08, R170 to R180; 09, R196, R199 to R201; 17, R263, R264): PIER_PLACE,
WORKGROUP_BIRTH, PIER_STOP, SAVE_IMAGE_WRITTEN, PIER_RESUME, PIER_DISCARD and SAVED_WORKGROUP_EXCHANGE. -/

namespace Sys2Proof.Machine

/-- Is a context protected (R226)? -/
def State.isProt (s : State) (ctx : Nat) : Bool := match s.context? ctx with | some c => c.prot | none => false

/-- The oldest command on a pier's link (R171): the only one the pier may execute. -/
def State.pierNext (s : State) (core : Nat) : Option PierCmd := s.links.find? (fun c => clusterOf c.core = clusterOf core)

/-- The pier takes its oldest command; the permit returns. -/
def State.pierTake (s : State) (c : PierCmd) : State := { s with links := s.links.erase c }

/-! ### Spilling (R141, R149) -/

/-- The lowest free spill slot of a context. -/
def State.freeSpill (s : State) (ctx : Nat) : Option Nat :=
  match s.context? ctx with
  | none => none
  | some c => (List.range c.reg.spillSlots).find? (fun k => !s.spilled.any (fun p => p.ctx = ctx && p.slot = k))

/-- An entry leaves a core's store for the spill area, NREG written last; with no free slot it is discarded and counted, and
the event log records it (R141, R142). -/
def State.spillOut (s : State) (core : Nat) (e : Estate) : State :=
  let s : State := { s with stores := kvMod s.stores core (fun es => es.filter (fun x => x.order ≠ e.order)) }
  match s.freeSpill e.ctx with
  | some k =>
    let a := s.spillAddr e.ctx k
    let r := estateRecord e.ident e.lin e.regs
    let s : State := s.ksStore e.ctx a (r.take 8)
    let s : State := s.ksStore e.ctx (a + 16) (r.drop 16)
    let s : State := s.ksStore e.ctx (a + 8) ((r.drop 8).take 8)
    let s : State := { s with spilled := s.spilled ++ [⟨e.ctx, e.lin, e.ident, k, e.regs.length, coreDie core, false, e.launch⟩] }
    s.modLineage e.ctx e.lin (fun c => { c with spilled := satInc c.spilled })
  | none =>
    let s : State := s.modLineage e.ctx e.lin (fun c => { c with discarded := satInc c.discarded })
    s.logWrite true 0x0102 (coreDie core) (coreX core) (coreY core) (BitVec.ofNat 64 e.ctx) (BitVec.ofNat 64 e.lin)

/-- The entries of a core's store that pass a test move to the spill area, in the order of their settling (R149). -/
def State.spillAll (s : State) (core : Nat) (p : Estate → Bool) : State :=
  ((kvGetD [] s.stores core).filter (fun e => !e.pinned && p e)).foldl (fun s e => s.spillOut core e) s

/-- Does the core's store hold an entry of another context that a claim has pinned (R144)? The core is given to no context until its heir
has it. -/
def State.pinnedOther (s : State) (core ctx : Nat) : Bool := (kvGetD [] s.stores core).any (fun e => e.pinned && e.ctx ≠ ctx)

/-- Before a core is given to a context, every other context's entries leave its store (R149). -/
def State.reclaimFor (s : State) (core ctx : Nat) : State := s.spillAll core (fun e => e.ctx ≠ ctx)

/-! ### PIER_PLACE, WORKGROUP_BIRTH -/

/-- A workgroup of a launch that never starts: its threads are no members of the grid barriers, nor its core of the mask
(R31, R43). -/
def State.unstarted (s : State) (core : Nat) (l : Launch) : State :=
  let n := 64 * l.hdr.teams
  let k := clusterOf core
  let less := fun (b : Barrier) => { b with m := b.m - n }
  let s : State := s.modLaunch l.id (fun l => { l with
    mask := l.mask.erase core
    gbars := l.gbars.map (fun e => (e.1, less e.2))
    cbars := l.cbars.map (fun e => if e.1 / 8 = k then (e.1, less e.2) else e) })
  s.checkBars l.id

/-- A cluster's first slice begins with the placement of its protected context's first workgroup (R228). -/
def State.sliceBegins (s : State) (core ctx : Nat) : State :=
  let k := clusterOf core
  let c := s.cluster k
  if s.isProt ctx && c.sliceStart.isNone then
    s.setCluster k { c with sliceStart := some c.cycles }
  else s

/-- PIER_PLACE (R31, R171): the core asks for a first tile; one that receives none never starts. -/
def execPierPlace (core : Nat) (s : State) : Host.Outcome State Fault Refusal :=
  .next (match s.pierNext core with
    | some (.place lid c num) =>
      if c ≠ core || (s.cluster (clusterOf core)).clearing.isSome
          || (match s.launch? lid with | some l => s.pinnedOther core l.ctx | none => false) then s
      else
        let s : State := s.pierTake (.place lid c num)
        match s.launch? lid with
        | none => s
        | some l =>
          let s : State := (s.reclaimFor core l.ctx).modLaunch lid (fun l => { l with toPlace := l.toPlace.filter (fun p => p.1 ≠ core) })
          match s.dispense l core with
          | none => ((s.unstarted core l).siblingsQuiet lid).heirClose lid
          | some n =>
            let w : Workgroup := ⟨lid, num, clusterOf core, some n, [], [], [], [], none, [], [], [], true, false, false, none, false,
              [], [], 0, []⟩
            let s : State := s.modLaunch lid (fun l => { l with handed := l.handed ++ [n] })
            let s : State := { s with wgs := kvPut s.wgs core w }
            let who := (List.range l.hdr.teams).flatMap (fun t => (List.range teamWidth).map (fun i => (t, i)))
            ((s.claimTile l core n who).sliceBegins core l.ctx).siblingsQuiet lid
    | _ => s)

/-- A thread as it is born with its workgroup (R32). -/
def State.bornThread (s : State) (l : Launch) (core num n base t i : Nat) : Thread :=
  let h := l.hdr
  let th : Thread := { Thread.empty with
    tid := base + 65 * t + i
    pc := BitVec.ofNat 57 h.entry.toNat
    stackBase := h.stkArea + BitVec.ofNat 64 (((num * h.teams + t) * teamWidth + i) * h.stkSize) }
  th.born h (h.workId n t i) (s.claims.filter (fun c => c.core = core && c.team = t && c.lane = i))

/-- A team as it is born with its workgroup (R32, R44): the more urgent the lower its number. -/
def State.bornTeam (s : State) (l : Launch) (core num n base : Nat) (args : List Byte) (t : Nat) : Team :=
  let h := l.hdr
  { Team.empty with
    uid := base + 65 * t + 64
    sregs := sparseWords args 16
    rank := h.teams - t
    order := [BitVec.ofNat 57 h.entry.toNat]
    bars := barsOf teamWidth 8
    lanes := (List.range teamWidth).map (fun i => (i, s.bornThread l core num n base t i)) }

/-- The views that an acquire at SYSTEM scope drops (R123, R124). -/
def State.freshViews (s : State) (core : Nat) : State :=
  { s.dropL1 core with caview := s.caview.filter (fun e => viewUnit e.1 ≠ clusterOf core) }

/-- The argument block of a launch: 64 bytes at ARGS, and zeros where ARGS is 0 (R27). -/
def State.argBytes (s : State) (l : Launch) : List Byte := if l.hdr.args = 0 then zeros 64 else s.ksRead l.ctx l.hdr.args 64

/-- WORKGROUP_BIRTH (R32, R143, R144): every claim of the first tile is served, and the threads are born, with an acquire at
SYSTEM scope (R124). No thread of a launch is born before every core of its initial mask has asked for its first tile (R31). -/
def execWorkgroupBirth (core : Nat) (s : State) : Host.Outcome State Fault Refusal :=
  .next (match s.wg? core, s.wgLaunch? core with
    | some w, some l =>
      if !w.unborn || w.frozen || !l.toPlace.isEmpty then s
      else
        let base := s.nextSeq
        let n := w.tile.getD 0
        let args := s.argBytes l
        let teams := (List.range l.hdr.teams).map (fun t => (t, s.bornTeam l core w.num n base args t))
        let s : State := { s with nextSeq := base + 65 * l.hdr.teams }
        let s : State := s.modWg core (fun w => { w with teams := teams, bars := barsOf (teamWidth * l.hdr.teams) 16, unborn := false })
        let s : State := s.zeroRange (scratchKey core 0) (1024 * l.hdr.scratch)
        (s.claimsDone core).freshViews core
    | _, _ => s)

/-! ### PIER_STOP -/

/-- A save-area slot is free again (R263). -/
def State.freeSave (s : State) (ctx : Nat) (slot : Option Nat) : State :=
  match slot with
  | some k => s.modContext ctx (fun c => { c with slots := c.slots.erase k })
  | none => s

/-- The bytes that the place of an image holds: a save-area slot's stride, or the stride of the SAVE packet (R165, R263). -/
def State.imageRoom (s : State) (w : Workgroup) (slot : Option Nat) : Nat :=
  match slot, s.launch? w.launch with
  | some _, some l => ((s.context? l.ctx).map (fun c => c.reg.saStride)).getD 0
  | none, _ => ((s.saveOf w.launch).map (·.2)).getD 0
  | _, none => 0

/-- A core whose stop comes to nothing is in its launch's mask again. -/
def State.unstop (s : State) (core : Nat) (w : Workgroup) : State :=
  s.modLaunch w.launch (fun l => { l with mask := if l.mask.contains core then l.mask else l.mask ++ [core] })

/-- PIER_STOP (R175 steps 2 and 3): issue stops. A workgroup that is gone or has ended, or that already stops at a cancellation point
(R213), leaves no image; one that has accepted commands since, so that its image no longer fits where it is to go, runs on (R165, R263). -/
def execPierStop (core : Nat) (s : State) : Host.Outcome State Fault Refusal :=
  .next (match s.pierNext core with
    | some (.stop c ctx addr slot) =>
      if c ≠ core then s
      else
        let s : State := s.pierTake (.stop c ctx addr slot)
        match s.wg? core with
        | none => s.freeSave ctx slot
        | some w =>
          if w.cancelled || w.ended then s.freeSave ctx slot
          else if s.imageRoom w slot < w.imageSize (s.hdr core) (s.isProt ctx) then (s.freeSave ctx slot).unstop core w
          else s.modWg core (fun w => { w with stopping := some (addr, slot) })
    | _ => s)

/-! ### SAVE_IMAGE_WRITTEN -/

/-- Is the arrival the second of its threads in the phase under way, which waits for that phase's end (R43, R314)? -/
def State.secondArrival (s : State) (a : Arrival) : Bool :=
  match a.bar with
  | none => false
  | some k => a.agents.all (fun tid => match s.findTid a.core tid with
    | some (_, _, t) => (match t.lastArrival k with | some (p, _) => p = (s.barrier a.core a.team k).phase | none => false)
    | none => false)

/-- Is a write one that the workgroup of a core has issued, or may have: a launch's write of a team that stands on no other core
(R264)? -/
def State.writeOf (s : State) (core : Nat) (w : Workgroup) (o : Owner) : Bool :=
  match o with
  | .team l u _ _ => l = w.launch && !s.wgs.any (fun e => e.1 ≠ core && e.2.launch = l && e.2.teams.any (fun t => t.2.uid = u))
  | .cmd _ i _ => w.cmds.any (fun c => c.id = i)
  | .keystone => false

/-- Has everything ended that a stop waits for (R92, R175, R264, R322; 09, R200): loads, writes, fences, arrivals, special
functions, posts, seals, claims, matrix commands that have begun, and copies that wait at a fault? REDs held at a fault do
not hold it (R196), and a second arrival stays in its wait (R314). -/
def State.stopReady (s : State) (core : Nat) (w : Workgroup) : Bool :=
  let uids := w.teams.map (fun e => e.2.uid)
  let held := (s.wpath.filter (fun e => e.held)).map (·.id) ++ s.replay.map (fun e => e.2.id)
  !s.loads.any (fun x => x.core = core)
    && !s.writes.any (fun (t : WTrack) => !held.contains t.id && s.writeOf core w t.owner)
    && !s.fences.any (fun x => uids.contains x.uid)
    && !s.arrivals.any (fun x => uids.contains x.uid && !s.secondArrival x)
    && !s.sfqs.any (fun x => uids.contains x.uid)
    && !s.posts.any (fun x => uids.contains x.uid) && !s.seals.any (fun x => uids.contains x.uid)
    && !s.settles.any (fun x => x.core = core && x.est.ctx = s.ctxOf core) && w.tfTile.isNone
    && !s.qops.any (fun x => uids.contains x.uid && 2 ≤ x.op)
    && w.cmds.all (fun c => !c.issued && !(c.kind.matrix && c.begun) && !s.faults.any (fun f => f.who = .engine core c.id))

/-- A thread as it is saved: one held at a walk, a fault or a guard read stands at its unit (R196); an accepted pop or push
waits on. -/
def Thread.saved (t : Thread) : Thread :=
  match t.wait with
  | .walk _ => { t with wait := .ready }
  | .fault _ => { t with wait := .ready }
  | .guard _ => { t with wait := .ready }
  | .retry => { t with wait := .ready }
  | _ => t

/-- The multicast sets that a workgroup leaves as it is saved: those in which another waits for it to issue (R78). -/
def State.setsLeft (s : State) (core : Nat) (w : Workgroup) : List (Nat × Nat × Nat × Nat) :=
  ((s.wgs.filter (fun e => e.1 ≠ core)).flatMap (fun e => e.2.cmds.flatMap (fun c => c.mc.filterMap (fun m =>
    if m.members.contains core && w.mcIssued.count m.key ≤ m.round then some m.key else none)))).dedup

/-- A workgroup as it is saved: LD and ST are 0 (R264); commands are recorded (R92); a bin's `since` is its age (R200); the multicast
sets it has left are noted (R78). -/
def Workgroup.saved (w : Workgroup) (now : Nat) (left : List (Nat × Nat × Nat × Nat)) : Workgroup :=
  { w with
    stopping := none
    teams := w.teams.map (fun e => (e.1, { e.2 with ld := [], st := [], lanes := e.2.lanes.map (fun x => (x.1, x.2.saved)) }))
    bins := w.bins.map (fun (b : Bin) => { b with since := (now : Int) - b.since })
    cmds := w.cmds.map (fun c => { c with resumed := true, mc := [], rowBytes := [] })
    leftSets := w.leftSets ++ left.filter (fun k => !w.leftSets.contains k) }

/-- Does a launch of another context wait for cores of a die? -/
def State.othersWait (s : State) (ctx die : Nat) : Bool :=
  s.launches.any (fun e => e.2.ctx ≠ ctx && e.2.dies.getLsbD die
    && (e.2.state = .waiting || (e.2.state = .running && !e.2.saved.isEmpty)))

/-- SAVE_IMAGE_WRITTEN (R175 steps 5 to 7). The context's estates stay in the core's store until the core is given to another context
(R149; PIER_PLACE, a resume). Of a launch that is over nothing is saved: a DISCARD is on its way. -/
def execSaveImageWritten (core : Nat) (s : State) : Host.Outcome State Fault Refusal :=
  .next (match s.wg? core, s.wgLaunch? core with
    | some w, some l =>
      match w.stopping, s.context? l.ctx with
      | some (addr, slot), some c =>
        if w.frozen || w.cancelled || l.state = .done || !s.stopReady core w then s
        else
          let ctr := c.savectr + 1
          let uids := w.teams.map (fun (e : Nat × Team) => e.2.uid)
          let ops := s.qops.filter (fun x => uids.contains x.uid)
          let v := w.saved (s.cluster (clusterOf core)).cycles (s.setsLeft core w)
          let scratch := s.readBytes (scratchKey core 0) (1024 * l.hdr.scratch)
          let bytes := v.image l c scratch ctr
          let s : State := s.modContext l.ctx (fun c => { c with savectr := ctr })
          let s : State := s.ksStore l.ctx addr bytes
          let g : SavedWg := ⟨w.num, addr, s.imageRoom w slot, slot, ctr, v, scratch, ops, core, s.vcOf (coreDie core)⟩
          let s : State := s.modLaunch l.id (fun l => { l with saved := l.saved ++ [g] })
          let s : State := { s with wgs := kvDel s.wgs core, qops := s.qops.filter (fun x => !uids.contains x.uid) }
          ((s.queues.filter (fun e => match e.2.busy with | some (.saving k _ _ _) => k = l.id | _ => false)).map (·.1)).foldl
            (fun s q => s.saveDone q none) s
      | _, _ => s
    | _, _ => s)

/-! ### PIER_RESUME -/

/-- A saved workgroup is dropped, its slot free, and its threads leave the barriers as stopped ones do (R179, R213); INSNS of one that
had been told joins its sibling's (R216). -/
def State.dropSaved (s : State) (l : Launch) (v : SavedWg) : State :=
  let s : State := s.addInsns l v.wg
  let n := v.wg.liveCount
  let less := fun (b : Barrier) => { b with m := b.m - n }
  let s : State := (s.freeSave l.ctx v.slot).modLaunch l.id (fun l => { l with
    saved := l.saved.filter (fun u => u.num ≠ v.num)
    gbars := l.gbars.map (fun e => (e.1, less e.2))
    cbars := l.cbars.map (fun e => if e.1 / 8 = v.wg.grp then (e.1, less e.2) else e) })
  ((s.checkBars l.id).siblingsQuiet l.id).heirClose l.id

/-- The sibling of a saved workgroup is cancelled (R179). -/
def State.savedCancelled (s : State) (l : Launch) (v : SavedWg) : Bool :=
  match v.wg.tile with | some n => s.sibCancelled l (l.hdr.sibOf n) | none => false

/-- What has come about while a workgroup was saved releases its threads: phases that have completed, words that have changed,
a tile request that now stands. -/
def State.catchUp (s : State) (core : Nat) : State :=
  match s.wg? core with
  | none => s
  | some w =>
    let s : State := w.teams.foldl (fun s e =>
      (wgBars ++ clusterBars ++ gridBars).foldl (fun s k => s.releaseTeam core e.1 k (s.barrier core e.1 k).phase) s) s
    let keys := (w.threads.filterMap (fun e => match e.2.2.wait with | .waitm _ k _ _ => some k | _ => none)).dedup
    let s : State := keys.foldl (fun s k => s.waitmTestAt k [core]) s
    s.tfetchCheck core

/-- The place that a thread's WAITM names, which for a word of a scratchpad goes with its core (R107, R423). -/
def State.waitmMoved (s : State) (core : Nat) : State :=
  s.modWg core (fun w => { w with teams := w.teams.map (fun e => (e.1, { e.2 with lanes := e.2.lanes.map (fun x =>
    match x.2.wait with
    | .waitm va k cond y => (match s.place core va 4 with
      | .window k' => (x.1, { x.2 with wait := .waitm va k' cond y })
      | _ => (x.1, { x.2 with wait := .waitm va k cond y }))
    | _ => x) })) })

/-- A multicast set on another cluster: its source core has the same place there (R78, R177). -/
def movedSet (core : Nat) (k : Nat × Nat × Nat × Nat) : Nat × Nat × Nat × Nat :=
  ((((List.range 608).find? (fun c => clusterOf c = clusterOf core && clusterIndex c = clusterIndex k.1)).getD k.1), k.2)

/-- The image is loaded onto the core, and its workgroup goes on (R177, R178). -/
def State.loadSaved (s : State) (l : Launch) (c : Context) (v : SavedWg) (core : Nat) : State :=
  let body := s.imageBody l c v
  let w := v.wg.loadImage l v.scratch body
  let now := (s.cluster (clusterOf core)).cycles
  let w := { w with
    bins := w.bins.map (fun (b : Bin) => { b with since := (now : Int) - b.since })
    cmds := w.cmds.map (fun c => { c with begun := false })
    leftSets := w.leftSets.map (movedSet core)
    mcIssued := w.mcIssued.map (movedSet core) }
  let s : State := s.reclaimFor core l.ctx
  let s : State := (s.zeroRange (scratchKey core 0) (1024 * l.hdr.scratch)).writeBytes (scratchKey core 0) (v.wg.sectionOf l.hdr body 9)
  let s : State := (s.freeSave l.ctx v.slot).modLaunch l.id (fun l => { l with
    saved := l.saved.filter (fun u => u.num ≠ v.num)
    mask := if l.mask.contains core then l.mask else l.mask ++ [core] })
  let s : State := { s with
    wgs := kvPut s.wgs core w
    qops := s.qops ++ v.qops.map (fun x => { x with core := core })
    arrivals := s.arrivals.map (fun (a : Arrival) => if a.launch = l.id && a.num = v.num then { a with core := core } else a) }
  (((s.waitmMoved core).freshViews core).sliceBegins core l.ctx).catchUp core

/-- A resume with no packet ends in a context fault (R178, R201). -/
def State.imageFault (s : State) (l : Launch) (core code : Nat) : State :=
  s.contextFault l.ctx ⟨code, 0, 0, 0, coreDie core, coreX core, coreY core, false, 0, l.queue, l.tag.toNat⟩

/-- The core of a resume that came to nothing leaves the mask. -/
def State.giveBack (s : State) (lid core : Nat) : State := s.modLaunch lid (fun l => { l with mask := l.mask.erase core })

/-- May the pier execute a resume: the core is free, no claim has pinned another context's estate there, the cluster's clear sequence is
done, and the core's die has applied what the workgroup's former die had (R119; log 22, DEDUCED)? -/
def State.resumeReady (s : State) (core ctx : Nat) (v : SavedWg) : Bool :=
  (s.wg? core).isNone && !s.pinnedOther core ctx && (s.cluster (clusterOf core)).clearing.isNone
    && (List.zip (s.vcOf (coreDie core)) v.stamp).all (fun p => serialGe p.1 p.2)

/-- PIER_RESUME (R171, R178, R179, R201). -/
def execPierResume (core : Nat) (s : State) : Host.Outcome State Fault Refusal :=
  .next (match s.pierNext core with
    | some (.resume lid c num) =>
      if c ≠ core then s
      else
        let cmd := PierCmd.resume lid c num
        match s.launch? lid with
        | none => s.pierTake cmd
        | some l =>
          match s.context? l.ctx, l.saved.find? (fun v => v.num = num) with
          | some x, some v =>
            if l.state ≠ .running then (s.pierTake cmd).giveBack lid core
            else if s.savedCancelled l v then ((s.pierTake cmd).giveBack lid core).dropSaved l v
            else if !s.resumeReady core l.ctx v then s
            else
              let s : State := s.pierTake cmd
              match s.checkImage l x v with
              | .ok => s.loadSaved l x v core
              | .capacity => s.giveBack lid core
              | .tag => s.imageFault l core 0x23
              | _ => s.imageFault l core 0x26
          | _, _ => (s.pierTake cmd).giveBack lid core
    | _ => s)

/-! ### PIER_DISCARD -/

/-- PIER_DISCARD (R171, R188, R227): the launch of the last core discarded is gone. -/
def execPierDiscard (core : Nat) (s : State) : Host.Outcome State Fault Refusal :=
  .next (match s.pierNext core with
    | some (.discard c) =>
      if c ≠ core then s
      else
        let s : State := s.pierTake (.discard c)
        match s.wg? core with
        | none => s
        | some w =>
          let s : State := s.discardWg core
          (s.forget w.launch).siblingsQuiet w.launch
    | _ => s)

/-! ### SAVED_WORKGROUP_EXCHANGE (R178) -/

/-- Does a thread of a launch still wait at one of R178's waits: a grid or cluster barrier, WAITM, QPOP, AWWAIT, or TFETCH's barrier? What
it waits for may have come about while its workgroup was saved. `grp` is its workgroup's first cluster, `ops` its queue operations. -/
def State.waitsYet (s : State) (l : Launch) (grp : Nat) (ops : List QOp) (t : Thread) : Bool :=
  let phase := fun (k : BarKey) => match k with
    | .cluster n => some (kvGetD barZero l.cbars (8 * grp + n)).phase
    | .grid n => some (kvGetD barZero l.gbars n).phase
    | _ => none
  match t.wait with
  | .barrier k p => (match phase k with | some q => q ≤ p | none => false)
  | .arrive id => (match (s.arrivals.find? (fun a => a.id = id)).bind (·.bar) with
    | some k => (match phase k, t.lastArrival k with | some q, some (p, _) => q ≤ p | _, _ => false)
    | none => false)
  | .waitm _ k cond y => isScratch k || !intCond cond (BitVec.ofNat 32 (s.homeNat l.ctx k 4)) y
  | .queue id => ops.any (fun x => x.id = id && x.op = 1 && ((kvGet s.hwqs x.q).bind s.poppable).isNone)
  | .awwait _ _ => true
  | .tfetch => true
  | _ => false

/-- Is every live thread of a workgroup descheduled (R178)? One all of whose threads stand at TFETCH has its tile to ask for. -/
def State.allWait (s : State) (l : Launch) (w : Workgroup) (ops : List QOp) : Bool :=
  w.bins.isEmpty && w.threads.all (fun e => s.waitsYet l w.grp ops e.2.2) && !w.threads.all (fun e => e.2.2.wait = .tfetch)

/-- Does a saved workgroup still wait? -/
def State.savedWaits (s : State) (l : Launch) (v : SavedWg) : Bool := s.allWait l v.wg v.qops

/-- Is a resume of a saved workgroup on its way? -/
def State.resuming (s : State) (lid num : Nat) : Bool :=
  s.links.any (fun c => match c with | .resume l _ n => l = lid && n = num | _ => false)

/-- May a saved workgroup stand on a core (R177): none saved from a compute core goes to the drafting die, and its image fits
the cores of the launch (R178), and this one (R201)? -/
def State.fitsCore (s : State) (l : Launch) (v : SavedWg) (core : Nat) : Bool :=
  !(coreDie core = 4 && coreDie v.core ≠ 4) && v.wg.binsUsed ≤ binsOf core && !s.resuming l.id v.num && !s.savedCancelled l v
    && (match s.context? l.ctx with | some c => s.checkImage l c v ≠ .capacity | none => false)

/-- The lowest free save-area slot of a context, where an image of a size fits (R263). -/
def Context.saveSlot (c : Context) (size : Nat) : Option Nat :=
  if size ≤ c.reg.saStride then (List.range c.reg.saSlots).find? (fun k => !c.slots.contains k) else none

def Context.saveAddr (c : Context) (k : Nat) : DWord := c.reg.saBase + BitVec.ofNat 64 (k * c.reg.saStride)

/-- Take a slot and send STOP to a core (R171, R175 steps 1 and 2). -/
def State.stopCore (s : State) (l : Launch) (core : Nat) (w : Workgroup) : Option State :=
  match s.context? l.ctx with
  | none => none
  | some c =>
    match c.saveSlot (w.imageSize l.hdr c.prot) with
    | none => none
    | some k =>
      if !s.permit core then none
      else
        let s : State := s.modContext l.ctx (fun c => { c with slots := c.slots ++ [k] })
        some { s with links := s.links ++ [.stop core l.ctx (c.saveAddr k) (some k)] }

/-- Is the launch being saved by a SAVE packet? -/
def State.beingSaved (s : State) (lid : Nat) : Bool :=
  s.queues.any (fun e => match e.2.busy with | some (.saving k _ _ _) => k = lid | _ => false)

/-- May a workgroup be stopped: it has threads, and neither a stop nor a cancellation is under way? -/
def State.stoppable (s : State) (core : Nat) (w : Workgroup) : Bool :=
  !w.unborn && !w.ended && !w.frozen && !w.cancelled && w.stopping.isNone && !s.commanded core

/-- Stop the workgroups of cores one after another; none where one of them cannot be. -/
def State.stopCores (l : Launch) : List (Nat × Workgroup) → State → Option State
  | [], s => some s
  | (core, w) :: rest, s => (s.stopCore l core w).bind (State.stopCores l rest)

/-- SAVED_WORKGROUP_EXCHANGE (R178): a workgroup all of whose threads are descheduled is stopped while a saved one of its launch
does not wait. The core stays in the mask, and CORE_ASSIGN gives it to the saved one, ahead of any other use. A CLUSTER
launch's workgroups are exchanged with their whole cluster (R177). -/
def execSavedWorkgroupExchange (core : Nat) (s : State) : Host.Outcome State Fault Refusal :=
  .next (match s.wg? core, s.wgLaunch? core with
    | some w, some l =>
      let here := if l.hdr.cluster then s.wgs.filter (fun e => e.2.launch = l.id && e.2.grp = w.grp) else [(core, w)]
      let other := l.saved.any (fun v => !s.savedWaits l v && s.fitsCore l v core)
      if !s.up || l.state ≠ .running || s.beingSaved l.id || !other
          || !here.all (fun e => s.stoppable e.1 e.2 && s.allWait l e.2 s.qops && e.2.tfTile.isNone) then s
      else (State.stopCores l here s).getD s
    | _, _ => s)

end Sys2Proof.Machine
end

