-- ==== Sys2Proof/Machine/Sched.lean ====
section
/-! DEFINITION. The Keystone controller's scheduling (08, R170 to R180; 01, R24; 11, R228, R229): CORE_ASSIGN, TIME_SLICE_END,
CLEAR_SEQUENCE_COMPLETE and LAUNCH_COMPLETE (06, R127); and estates in their stores (07, R139 to R141, R150, R152, R153):
ESTATE_SETTLE and LINEAGE_CLOSE_FINISH. -/

namespace Sys2Proof.Machine

/-! ### Clocks of clusters (R11, R24) -/

/-- CORE_X and CORE_Y of the first core of a cluster. -/
def clusterX (cl : Nat) : Nat := 4 * (cl % 32 % (if cl / 32 = 4 then 2 else 6))
def clusterY (cl : Nat) : Nat := 2 * (cl % 32 / (if cl / 32 = 4 then 2 else 6))

/-- A change of a cluster's clock, recorded in the event log. -/
def State.setClock (s : State) (cl mhz : Nat) : State :=
  let c := s.cluster cl
  if c.mhz = mhz then s
  else (s.setCluster cl { c with mhz := mhz }).logWrite true 0x0101 (cl / 32) (clusterX cl) (clusterY cl)
    (BitVec.ofNat 64 c.mhz) (BitVec.ofNat 64 mhz)

def clusterCores (cl : Nat) : List Nat := (List.range 608).filter (fun c => clusterOf c = cl)

/-! ### Eligible cores (R172, R228) -/

/-- Is a core of no launch's mask, with no workgroup and no command on its way? -/
def State.coreFree (s : State) (core : Nat) : Bool :=
  (s.wg? core).isNone && !s.commanded core && !s.launches.any (fun e => e.2.mask.contains core)

/-- May a launch's context use a cluster: a protected context alone, an ordinary one where no protected one is active (R228)? -/
def State.clusterOk (s : State) (l : Launch) (cl : Nat) : Bool :=
  let c := s.cluster cl
  let shared := s.wgs.any (fun e => clusterOf e.1 = cl && s.ctxOf e.1 ≠ l.ctx)
    || s.launches.any (fun e => e.2.ctx ≠ l.ctx && e.2.mask.any (fun k => clusterOf k = cl))
  c.clearing.isNone && (if s.isProt l.ctx then c.active = some l.ctx || (c.active.isNone && !shared) else c.active.isNone)

/-- Whole clusters alone, for a CLUSTER launch. -/
def Launch.whole (l : Launch) (cs : List Nat) : List Nat :=
  if l.hdr.cluster then cs.filter (fun c => (cs.filter (fun k => clusterOf k = clusterOf c)).length = 8) else cs

/-- The free eligible cores of a launch, ascending. -/
def State.eligible (s : State) (l : Launch) : List Nat :=
  l.whole ((s.coresOn l.dies).filter (fun c => s.coreFree c && s.clusterOk l (clusterOf c)))

/-- Does a core's store hold entries of HLIN for the context (R173)? -/
def State.holdsHeirs (s : State) (l : Launch) (core : Nat) : Bool :=
  l.hdr.heir && (kvGetD [] s.stores core).any (fun e => e.ctx = l.ctx && e.lin = l.hdr.hlin)

/-- `n` elements of a list that a choice picks one after another; 0 picks the first n. -/
def pickSome {α : Type} : Nat → Nat → List α → List α
  | 0, _, _ => []
  | n + 1, c, l =>
    match l[c % l.length]? with
    | some x => x :: pickSome n (c / l.length) (l.eraseIdx (c % l.length))
    | none => []

/-- `n` of the eligible cores: those an heir launch prefers first (R173), else whichever the turn's choice picks (R257, R266; log 25,
DESIGN CHOICE); ascending. -/
def State.chooseCores (s : State) (l : Launch) (cs : List Nat) (n : Nat) : List Nat :=
  let good := cs.filter (s.holdsHeirs l)
  let rest := cs.filter (fun c => !good.contains c)
  if l.hdr.cluster then
    let g := (good.map clusterOf).dedup
    let r := (rest.map clusterOf).dedup.filter (fun k => !g.contains k)
    let first := pickSome (n / 8) s.choice g
    let pick := first ++ pickSome (n / 8 - first.length) s.choice r
    cs.filter (fun c => pick.contains (clusterOf c))
  else
    let first := pickSome n s.choice good
    let pick := first ++ pickSome (n - first.length) s.choice rest
    cs.filter (fun c => pick.contains c)

/-! ### Assigning -/

/-- A protected context becomes active on the clusters of the cores it is given: the clear sequence runs first, at 0.90 GHz
(R24, R228, R229). -/
def State.protectClusters (s : State) (ctx : Nat) (cores : List Nat) : State :=
  if !s.isProt ctx then s
  else ((cores.map clusterOf).dedup).foldl (fun s cl =>
    if (s.cluster cl).active.isSome then s
    else
      let s : State := s.setClock cl 900
      let c := s.cluster cl
      s.setCluster cl { c with active := some ctx, sliceStart := none, clearing := some c.cycles }) s

/-- A waiting launch is given its initial mask (R160, R31, R43). -/
def State.giveCores (s : State) (l : Launch) (cores : List Nat) : State :=
  let m := teamWidth * l.hdr.teams
  let cls := if l.hdr.cluster then (cores.map clusterOf).dedup else []
  let s : State := s.modLaunch l.id (fun l => { l with
    state := .running
    mask := cores
    toPlace := cores.zip (List.range cores.length)
    started := s.nextSeq
    gbars := barsOf (m * cores.length) 4
    cbars := cls.foldl (fun b cl => (List.range 8).foldl (fun b n => kvPut b (8 * cl + n) ⟨8 * m, 0, 0, []⟩) b) [] })
  s.bump.protectClusters l.ctx cores

/-- PLACE goes out to the cores that wait for it, as permits allow and once a clear sequence is done (R171, R229). -/
def State.sendPlaces (s : State) : State :=
  s.launches.foldl (fun s e => e.2.toPlace.foldl (fun s p =>
    if s.permit p.1 && !s.commanded p.1 && (s.cluster (clusterOf p.1)).clearing.isNone then
      { s with links := s.links ++ [.place e.1 p.1 p.2] } else s) s) s

/-! ### Saved workgroups (R177, R178) -/

/-- The cores of a launch's mask that host nothing. -/
def State.idleCores (s : State) (l : Launch) : List Nat :=
  l.mask.filter (fun c => (s.wg? c).isNone && !s.commanded c && !l.toPlace.any (fun p => p.1 = c))

/-- RESUME of saved workgroups onto cores, where the pier has permits for them all. -/
def State.sendResumes (s : State) (l : Launch) (ps : List (Nat × Nat)) : State :=
  match ps with
  | [] => s
  | (core, _) :: _ =>
    if (s.links.filter (fun c => clusterOf c.core = clusterOf core)).length + ps.length ≤ 8 then
      let s : State := { s with links := s.links ++ ps.map (fun p => .resume l.id p.1 p.2) }
      let s : State := s.modLaunch l.id (fun l => { l with
        mask := l.mask ++ (ps.map (·.1)).filter (fun c => !l.mask.contains c) })
      s.protectClusters l.ctx (ps.map (·.1))
    else s

/-- The saved workgroup for a core: one that does not wait, before one that does (R178). -/
def State.savedFor (s : State) (l : Launch) (core : Nat) : Option SavedWg :=
  let fit := l.saved.filter (fun v => s.fitsCore l v core)
  match fit.find? (fun v => !s.savedWaits l v) with
  | some v => some v
  | none => fit.head?

/-- The members of a saved cluster, where all that live are saved (R177). -/
def State.savedCluster (s : State) (l : Launch) (cl : Nat) : Option (List (Nat × Nat)) :=
  let grps := (l.saved.map (fun v => v.wg.grp)).dedup.filter (fun g => !s.wgs.any (fun e => e.2.launch = l.id && e.2.grp = g))
  let mem := fun (g : Nat) => l.saved.filter (fun v => v.wg.grp = g)
  let fits := grps.filter (fun g => (mem g).all (fun v => s.fitsCore l v ((clusterCores cl).headD 0)))
  let pick := match fits.find? (fun g => (mem g).any (fun v => !s.savedWaits l v)) with
    | some g => some g
    | none => fits.head?
  pick.map (fun g => (mem g).filterMap (fun v =>
    ((clusterCores cl).find? (fun c => clusterIndex c = clusterIndex v.core)).map (fun c => (c, v.num))))

/-- Saved workgroups onto cores of a list, each of which is the launch's to use (R177). -/
def State.resumeOn (s : State) (lid : Nat) (cores : List Nat) : State :=
  match s.launch? lid with
  | none => s
  | some l0 =>
    if l0.hdr.cluster then
      ((cores.map clusterOf).dedup).foldl (fun s cl =>
        match s.launch? lid with
        | none => s
        | some l =>
          if (cores.filter (fun c => clusterOf c = cl)).length = 8 then
            (match s.savedCluster l cl with | some ps => s.sendResumes l ps | none => s)
          else s) s
    else cores.foldl (fun s core =>
      match s.launch? lid with
      | none => s
      | some l => (match s.savedFor l core with | some v => s.sendResumes l [(core, v.num)] | none => s)) s

/-- Idle cores of the mask, which an exchange has left, resume saved workgroups that do not wait, ahead of any other use; a core for which
there is none leaves the mask and is free (R177, R178). -/
def State.resumeIdle (s : State) (lid : Nat) : State :=
  match s.launch? lid with
  | none => s
  | some l =>
    let idle := s.idleCores l
    if idle.isEmpty || l.state ≠ .running || s.beingSaved lid then s
    else
      let going := l.saved.any (fun v => !s.resuming lid v.num && !s.savedCancelled l v && !s.savedWaits l v)
      let cores := if l.hdr.cluster then
          ((idle.map clusterOf).dedup.flatMap clusterCores).filter (fun c => idle.contains c || s.coreFree c) else idle
      let s : State := if going then s.resumeOn lid cores else s
      match s.launch? lid with
      | none => s
      | some l =>
        let left := l.saved.any (fun v => !s.resuming lid v.num && !s.savedCancelled l v && !s.savedWaits l v)
        if left then s else s.modLaunch lid (fun l => { l with mask := l.mask.filter (fun c => !(s.idleCores l).contains c) })

/-- Saved workgroups of cancelled siblings that no resume is on its way for are dropped (R179). -/
def State.dropCancelled (s : State) (lid : Nat) : State :=
  match s.launch? lid with
  | none => s
  | some l => (l.saved.filter (fun v => s.savedCancelled l v && !s.resuming lid v.num)).foldl (fun s v =>
      match s.launch? lid with | some l => s.dropSaved l v | none => s) s

/-! ### Pre-emption (R174) -/

/-- A list with an element put before the first that it precedes. -/
def insertBy {α : Type} (lt : α → α → Bool) (x : α) : List α → List α
  | [] => [x]
  | y :: r => if lt x y then x :: y :: r else y :: insertBy lt x r

def sortBy {α : Type} (lt : α → α → Bool) (l : List α) : List α := l.foldr (insertBy lt) []

/-- Cores being taken: a stop is under way, and they have left their mask. -/
def State.leaving (s : State) : List Nat :=
  ((s.wgs.filter (fun e => e.2.stopping.isSome)).map (·.1)
    ++ s.links.filterMap (fun c => match c with | .stop k _ _ _ => some k | _ => none)).filter
      (fun c => !s.launches.any (fun e => e.2.mask.contains c))

/-- The cores that would be eligible once those of a list are free. -/
def State.wouldFit (s : State) (l : Launch) (gone : List Nat) : List Nat :=
  let mixes := fun (c : Nat) => s.wgs.any (fun e => clusterOf e.1 = clusterOf c && !gone.contains e.1 && s.ctxOf e.1 ≠ l.ctx
    && (s.isProt l.ctx || s.isProt (s.ctxOf e.1)))
  l.whole ((s.coresOn l.dies).filter (fun c => (gone.contains c || s.coreFree c) && !mixes c))

/-- What a victim may lose to a launch, on the dies that one may use, in order: its highest-numbered running workgroups first, by whole
clusters where R174 says so. -/
def State.victimUnits (s : State) (l v : Launch) : List (List (Nat × Workgroup)) :=
  let here := sortBy (fun a b => decide (b.2.num < a.2.num))
    (s.wgs.filter (fun e => e.2.launch = v.id && v.mask.contains e.1 && l.dies.getLsbD (coreDie e.1) && s.stoppable e.1 e.2))
  if l.hdr.cluster || v.hdr.cluster then
    ((here.map (fun e => clusterOf e.1)).dedup).map (fun cl => here.filter (fun e => clusterOf e.1 = cl))
  else here.map (fun e => [e])

/-- The launches that may lose cores to a launch: lowest priority first, the latest started first. -/
def State.victims (s : State) (l : Launch) : List Launch :=
  sortBy (fun a b => decide (a.prio < b.prio) || (a.prio = b.prio && decide (b.started < a.started)))
    ((s.launches.map (·.2)).filter (fun v => v.state = .running && v.prio < l.prio && !s.beingSaved v.id))

/-- Does the context have save-area slots for the images of a unit, beside those planned (R263)? -/
def Context.slotsFor (c : Context) (planned : Nat) (h : Header) (u : List (Nat × Workgroup)) : Bool :=
  c.slots.length + planned + u.length ≤ c.reg.saSlots && u.all (fun e => e.2.imageSize h c.prot ≤ c.reg.saStride)

/-- The cores to take, in order, until CMIN cores would be eligible; none where that cannot be reached. -/
def State.planTake (s : State) (l : Launch) : Option (List (Launch × Nat × Workgroup)) :=
  let units := (s.victims l).flatMap (fun v => (s.victimUnits l v).map (fun u => (v, u)))
  let start := s.leaving
  let r := units.foldl (fun (a : List (Launch × Nat × Workgroup)) p =>
    let gone := start ++ a.map (fun x => x.2.1)
    if l.cmin ≤ (s.wouldFit l gone).length then a
    else match s.context? p.1.ctx with
      | none => a
      | some c =>
        if c.slotsFor (a.filter (fun x => x.1.ctx = p.1.ctx)).length p.1.hdr p.2 then a ++ p.2.map (fun e => (p.1, e.1, e.2)) else a) []
  if l.cmin ≤ (s.wouldFit l (start ++ r.map (fun x => x.2.1))).length then some r else none

/-- A list that begins at another of its elements. -/
def rotated {α : Type} (k : Nat) (l : List α) : List α := l.drop (k % l.length) ++ l.take (k % l.length)

/-- Take cores for a launch (R174, R175 steps 1 and 2); a protected context's only at the end of its slice (R180). Which of them is stopped
first, and so has the lowest save-area slot, is the turn's choice (R266; log 25, DESIGN CHOICE). -/
def State.preempt (s : State) (l : Launch) (atEnd : Option Nat) : State :=
  match s.planTake l with
  | none => s
  | some r => (rotated s.choice r).foldl (fun s x =>
      if s.isProt x.1.ctx && atEnd ≠ some (clusterOf x.2.1) then s
      else match s.stopCore x.1 x.2.1 x.2.2 with
        | some t => t.giveBack x.1.id x.2.1
        | none => s) s

/-! ### CORE_ASSIGN -/

/-- A waiting launch that lacks cores: its priority and place in the order of parsing, and whether cores are being collected for it. -/
structure Blocked where
  prio : Nat
  id : Nat
  collects : Bool
  deriving DecidableEq, Repr

/-- Is a launch barred from taking cores: by a waiting launch of at least its priority, parsed earlier (R172), or by one of a higher
priority for which cores are being taken (R174, R266)? -/
def barred (blocked : List Blocked) (l : Launch) : Bool :=
  blocked.any (fun b => (l.prio ≤ b.prio && b.id < l.id) || (b.collects && l.prio < b.prio))

/-- Serve one launch. -/
def State.serve (a : State × List Blocked) (lid : Nat) (atEnd : Option Nat) : State × List Blocked :=
  let s := a.1
  match s.launch? lid with
  | none => a
  | some l =>
    if barred a.2 l then a
    else if l.state = .waiting then
      let cs := s.eligible l
      if l.cmin ≤ cs.length then (s.giveCores l (s.chooseCores l cs (min l.cmax cs.length)), a.2)
      else (s.preempt l atEnd, a.2 ++ [⟨l.prio, l.id, (s.planTake l).isSome⟩])
    else (s.resumeOn lid (s.eligible l), a.2)

/-- The launches that wait for cores, in the order of service (R172, R177). -/
def State.toServe (s : State) : List Nat :=
  (sortBy (fun (a b : Launch) => decide (b.prio < a.prio) || (a.prio = b.prio && decide (a.id < b.id)))
    ((s.launches.map (·.2)).filter (fun l => l.state = .waiting
      || (l.state = .running && !s.beingSaved l.id && l.saved.any (fun v => !s.resuming l.id v.num))))).map (·.id)

def State.assign (s : State) (atEnd : Option Nat) : State :=
  let s : State := (s.launches.map (·.1)).foldl (fun s l => s.dropCancelled l) s
  let s : State := (s.launches.map (·.1)).foldl (fun s l => s.resumeIdle l) s
  let s : State := (s.toServe.foldl (fun a l => State.serve a l atEnd) (s, [])).1
  s.sendPlaces.sendDiscards

/-- CORE_ASSIGN (R172 to R174, R177). -/
def execCoreAssign (s : State) : Host.Outcome State Fault Refusal := .next (if s.up then s.assign none else s)

/-! ### Slices and clear sequences (R228, R229) -/

/-- What was held to the end of a cluster's slice is written, in order (R228). -/
def State.flushSlice (s : State) (cl : Nat) : State :=
  let mine := s.deferredCpl.filter (fun d => d.1 = cl)
  let s : State := { s with deferredCpl := s.deferredCpl.filter (fun d => d.1 ≠ cl) }
  (mine.foldl (fun (s : State) d =>
    match d.2 with
    | .irq i => { s with irqs := s.irqs ++ [i] }
    | .status q status detail sig =>
      let gone := (s.queue q).busy
      let s : State := s.writeStatus q status detail sig
      (match gone with
        | some (.launch lid) => s.forget lid
        | _ => s)) s).pollFences

/-- The SAVE packets under way go on at the end of a cluster's slice (R180). -/
def State.savesAtEnd (s : State) (cl : Nat) : State :=
  (s.queues.map (·.1)).foldl (fun s q => s.saveDone q (some cl)) s

/-- TIME_SLICE_END (R180, R228): after 2 ms, 1,800,000 cycles at 0.90 GHz. The cluster whose context has nothing left to run
there passes on, through the clear sequence, where another context waits. -/
def execTimeSliceEnd (s : State) : Host.Outcome State Fault Refusal :=
  .next (
    let cl := s.choice
    let c := s.cluster cl
    match c.active, c.sliceStart, c.clearing with
    | some x, some t0, none =>
      if c.cycles < t0 + 1800000 then s
      else
        let s : State := (s.flushSlice cl).setCluster cl { c with sliceStart := some (t0 + 1800000) }
        let s : State := { ({ s with choice := 0 } : State).assign (some cl) with choice := cl }
        let s : State := s.savesAtEnd cl
        let out := s.leaving
        let stays := s.wgs.any (fun e => clusterOf e.1 = cl && !out.contains e.1)
          || s.launches.any (fun e => e.2.ctx = x && e.2.mask.any (fun k => clusterOf k = cl))
        if !stays && s.othersWait x (cl / 32) then s.setCluster cl { s.cluster cl with clearing := some c.cycles } else s
    | _, _, _ => s)

/-- A cluster scrubbed (R229), its estates moved first (R149): what the spill area cannot take is discarded and counted. -/
def State.scrubCluster (s : State) (cl : Nat) (leaves : TlbEntry → Bool) : State :=
  let s : State := (clusterCores cl).foldl (fun s k =>
    let s : State := (s.spillAll k (fun _ => true)).scrubCore k
    { s with stores := kvDel s.stores k }) s
  { s with cltlb := kvDel s.cltlb cl, caview := s.caview.filter (fun e => viewUnit e.1 ≠ cl)
           lltlb := kvMod s.lltlb (cl / 32) (fun es => es.filter (fun e => !leaves e)) }

/-- Is the clear sequence of a cluster still to begin: a workgroup there, a stop or a DISCARD on its way, a settle or a pinned estate
(R144, R229)? A RESUME waits for the sequence. -/
def State.clearWaits (s : State) (cl : Nat) : Bool :=
  s.wgs.any (fun e => clusterOf e.1 = cl)
    || s.links.any (fun k => clusterOf k.core = cl && (match k with | .stop _ _ _ _ => true | .discard _ => true | _ => false))
    || s.settles.any (fun e => clusterOf e.core = cl)
    || s.stores.any (fun e => clusterOf e.1 = cl && e.2.any (·.pinned))

/-- CLEAR_SEQUENCE_COMPLETE (R229): 10,800 cycles after the outgoing context's last workgroup has left. The cluster is then the
incoming protected context's, or open to ordinary ones at 1.05 GHz (R24). A reset sequence that waits for it goes on (R232). -/
def execClearSequenceComplete (s : State) : Host.Outcome State Fault Refusal :=
  .next (
    let cl := s.choice
    let c := s.cluster cl
    match c.active, c.clearing with
    | some x, some t0 =>
      if s.clearWaits cl then s.setCluster cl { c with clearing := some c.cycles }
      else if c.cycles < t0 + 10800 then s
      else
        let coming := s.launches.any (fun e => e.2.ctx = x && e.2.mask.any (fun k => clusterOf k = cl))
        let s : State := s.scrubCluster cl (fun e => if coming then e.ctx ≠ x else e.ctx = x)
        if coming then s.setCluster cl { c with clearing := none }
        else ((s.setCluster cl { c with active := none, sliceStart := none, clearing := none }).setClock cl 1050).finishResets
    | _, _ => s)

/-! ### LAUNCH_COMPLETE (R127) -/

/-- Do the conditions of R127 hold, with those of R147, R152 and R216? -/
def State.launchOver (s : State) (l : Launch) : Bool :=
  s.launchEnded l && !s.wgs.any (fun e => e.2.launch = l.id)
    && (!(l.hdr.heir && l.hdr.close) || l.state = .closing)
    && !s.closes.any (fun c => c.launch = some l.id)
    && !s.settles.any (fun x => x.launch = l.id)
    && (l.hdr.sibf = 0 || ((s.groupOf l).isNone && !s.posts.any (fun p => p.handle = l.hdr.sibgrp)))
    && !s.writes.any (fun (t : WTrack) => match t.owner with
      | .team k _ _ _ => k = l.id
      | .cmd k _ _ => k = l.id
      | .keystone => false)
    && !s.chans.any (fun m => match m.body with
      | .read k _ => !s.loads.any (fun x => x.id = k)
      | .reply k _ _ => !s.loads.any (fun x => x.id = k)
      | _ => false)

/-- LAUNCH_COMPLETE (R127, R157, R228): the launch is the turn's choice. -/
def execLaunchComplete (s : State) : Host.Outcome State Fault Refusal :=
  .next (match s.launch? s.choice with
    | none => s
    | some l =>
      if !s.launchOver l then s
      else
        let s : State := s.modLaunch l.id (fun l => { l with state := .done, mask := [] })
        let t := s.completeLaunchPacket l 0x01 0
        if t.statusHeld l.queue then t else t.forget l.id)

/-! ### ESTATE_SETTLE (R139 to R141, R150) -/

/-- The entry settled earliest (R141): of the lineage whose oldest entry is the oldest. -/
def oldestEstate (es : List Estate) : Option Estate :=
  es.foldl (fun (m : Option Estate) e => match m with
    | none => some e
    | some x => if e.order < x.order then some e else m) none

def execEstateSettle (id : Nat) (s : State) : Host.Outcome State Fault Refusal :=
  .next (match s.settles.find? (fun x => x.id = id) with
    | none => s
    | some x =>
      let e := x.est
      let gone : Bool := match s.launch? x.launch with
        | some l => l.hdr.sibf ≠ 0 && s.sibCancelled l (l.hdr.sibOfId e.ident)
        | none => false
      let unq := fun (s : State) => ({ s with settles := s.settles.filter (fun y => y.id ≠ id) } : State)
      let count := fun (s : State) (n c : Nat) => s.modLineage e.ctx e.lin (fun k =>
        { k with bequeathed := satInc k.bequeathed, discarded := satInc k.discarded n, cancelled := satInc k.cancelled c })
      if gone then unq (count s 1 1)
      else
        let held := kvGetD [] s.stores x.core
        let kept := held.filter (fun y => y.pinned || !(y.ctx = e.ctx && y.lin = e.lin && y.ident = e.ident))
        let put := fun (s : State) =>
          let s : State := unq (count s (held.length - kept.length) 0)
          let es := (kvGetD [] s.stores x.core).filter (fun y => y.pinned || !(y.ctx = e.ctx && y.lin = e.lin && y.ident = e.ident))
          { s.bump with stores := kvPut s.stores x.core (es ++ [{ e with order := s.nextSeq }]) }
        if kept.length < 4096 then put s
        else match oldestEstate (held.filter (fun y => !y.pinned)) with
          | none => s
          | some v => put (s.spillOut x.core v))

/-! ### LINEAGE_CLOSE_FINISH (R152, R153) -/

/-- The counts of a close record, from offset 0x08 to its end. -/
def Lineage.words (c : Lineage) : List Byte :=
  [c.bequeathed, c.claimed, c.short, c.trimmed, c.surplus, c.migrated, c.spilled, c.membacked, c.unclaimed, c.discarded,
    c.cancelled].flatMap (fun w => toBytes 4 w.toNat) ++ zeros 12

/-- LINEAGE_CLOSE_FINISH (R152 step 4): once every estate that was pinned at step 1 is with its heir, the record, its word 0x00 last. -/
def execLineageCloseFinish (id : Nat) (s : State) : Host.Outcome State Fault Refusal :=
  .next (match s.closes.find? (fun c => c.id = id) with
    | none => s
    | some c =>
      let ctx := c.counts.ctx
      let lin := c.counts.lin
      if !c.pins.isEmpty then s
      else
        let s : State := { s with closes := s.closes.filter (fun d => d.id ≠ id) }
        let s : State := if c.buf = 0 then s else
          (s.ksStore ctx (c.buf + 8) c.counts.words).ksStoreNat ctx c.buf 4 (lin + 65536 + if c.overCap then 131072 else 0)
        match c.launch with
        | none => s.completePacket c.queue 0x01 0
        | some _ => s)

end Sys2Proof.Machine
end

