-- ==== Sys2Proof/Machine/Ballot.lean ====
section
/-! DEFINITION. The ballot unit (10, R208 to R218; 16, R260; 19, R321, R323): BALLOT_POST_ACCEPT, SIBLING_CANCEL_NOTIFY,
BPOST_STATUS_DELIVER, BQRY_RESULT_DELIVER, PAGE_RELEASE_WALK, ACCOUNTING_RECORD_WRITE and SIBCLOSE. -/

namespace Sys2Proof.Machine

/-- The group that a handle names, while its generation stands and it is not closed (R208). -/
def State.liveGroup (s : State) (handle : Word) : Option (Nat × Group) :=
  let k := handle.toNat % 256
  match kvGet s.groups k with
  | some g => if g.gen = handle.toNat / 256 && g.state ≠ GState.closed then some (k, g) else none
  | none => none

/-- Change the record of a sibling. -/
def Group.modSib (g : Group) (i : Nat) (f : Sibling → Sibling) : Group :=
  { g with sibs := ((List.range g.sibs.length).zip g.sibs).map (fun p => if p.1 = i then f p.2 else p.2) }

/-! ### Posts (R210 to R212) -/

/-- Must another post be accepted first: an earlier one of its team, or one before it on its die's link (R210, R321)? -/
def State.postBefore (s : State) (p : Post) : Bool :=
  s.posts.any (fun o => o.id < p.id && o.hash.isSome && o.answer.isNone
    && (o.uid = p.uid || (coreDie o.core = coreDie p.core && s.postLeft o)))

/-- A THRESHOLD outcome (R211 item 1, R212): the siblings without a counted post are cancelled, their undispensed tiles
withdrawn and counted, and the exchanges of their live words are sent. -/
def State.decideGroup (s : State) (k : Nat) (g : Group) (hash : DWord) (seq : Word) : State :=
  let l := s.launch? g.launch
  let undone := fun (i : Nat) => match l with
    | some l => ((List.range l.hdr.tiles).filter (fun n => l.hdr.sibOf n = i && !l.handed.contains n)).length
    | none => 0
  let lose := (List.range g.sibs.length).filter (fun i => match g.sibs[i]? with | some b => b.post.isNone | none => false)
  let g := lose.foldl (fun (g : Group) i => g.modSib i (fun b =>
    { b with cancelled := true, tilesnd := b.tilesnd + BitVec.ofNat 32 (undone i) })) g
  let s : State := { s with groups := kvPut s.groups k { g with state := .decided, outcome := 1, winner := hash, dseq := seq } }
  lose.foldl (fun s i => s.ksStoreNat g.ctx (g.live + BitVec.ofNat 64 (4 * i)) 4 0) s

/-- May the ballot unit apply a post: it has left its core, no message of its die stands before it, and what its stamp, its die's clock,
covers has its effect at die 5 (R119, R120, R210)? -/
def State.postArrives (s : State) (p : Post) : Bool :=
  s.postLeft p && !s.postBefore p && !s.chans.any (fun m => m.src = coreDie p.core && m.dst = 5)
    && s.gateOpen ⟨coreDie p.core, 5, 0, s.vcOf (coreDie p.core), .clock⟩

/-- BALLOT_POST_ACCEPT (R210, R211): the unit accepts posts one at a time; its die's clock takes over the stamp of each (R119). -/
def execBallotPostAccept (id : Nat) (s : State) : Host.Outcome State Fault Refusal :=
  .next (match s.posts.find? (fun p => p.id = id && p.answer.isNone) with
    | none => s
    | some p =>
      match p.hash with
      | none => s
      | some (hash, work) =>
        if !s.postArrives p then s
        else
          let s : State := s.mergeStamp 5 (s.vcOf (coreDie p.core))
          let say := fun (s : State) (x : Word) =>
            ({ s with posts := s.posts.map (fun (o : Post) => if o.id = id then { o with answer := some x } else o) } : State)
          match s.liveGroup p.handle with
          | none => say s 2
          | some (k, g) =>
            let seq := g.nposts + 1
            let g := ({ g with nposts := seq } : Group).modSib p.sib (fun b => { b with work := b.work + work })
            let b : Sibling := (g.sibs[p.sib]?).getD ⟨none, 0, 0, 0, 0, false, false⟩
            if g.state = GState.voting then
              if b.post.isSome then say { s with groups := kvPut s.groups k g } 1
              else
                let g := g.modSib p.sib (fun b => { b with post := some (hash, seq) })
                let s : State := say s 0
                let n := (g.counted.filter (fun e => e.2.1 = hash)).length
                if g.t ≤ n then (s.decideGroup k g hash seq).siblingsQuiet g.launch
                else ({ s with groups := kvPut s.groups k g } : State).siblingsQuiet g.launch
            else say { s with groups := kvPut s.groups k g } (if b.cancelled then 3 else 2))

/-- Is the exchange of a live word complete (R122)? -/
def State.exchangeDone (s : State) (g : Group) (i : Nat) : Bool :=
  match s.ksPlace g.ctx (g.live + BitVec.ofNat 64 (4 * i)) true with
  | some key => !s.writes.any (fun (t : WTrack) => t.owner = .keystone && t.key = key)
  | none => true

/-- Does a thread wait at a cancellation point: at a barrier of workgroup level or above, counted or not (R213)? -/
def State.atCancelPoint (s : State) (core : Nat) (t : Thread) : Bool :=
  let high := fun (k : BarKey) => match k with | .team _ => false | _ => true
  match t.wait with
  | .barrier k _ => high k
  | .arrive id => s.arrivals.any (fun a => a.core = core && a.id = id && (match a.bar with | some k => high k | none => false))
  | _ => false

/-- Estates that a cancelled sibling has bequeathed are discarded (R150). -/
def State.dropSibling (s : State) (l : Launch) (i : Nat) : State :=
  if !l.hdr.test then s
  else
    let hit := fun (launch : Nat) (ident : DWord) (pinned : Bool) => launch = l.id && !pinned && l.hdr.sibOfId ident = i
    let held := (s.stores.flatMap (fun c => c.2.filter (fun e => hit e.launch e.ident e.pinned))).length
    let slots := (s.spilled.filter (fun p => hit p.launch p.ident p.pinned)).map (·.slot)
    let n := held + slots.length
    if n = 0 then s
    else
      let s : State := { s with stores := s.stores.map (fun c => (c.1, c.2.filter (fun e => !hit e.launch e.ident e.pinned))) }
      let s : State := slots.foldl (fun s k => s.freeSlot l.ctx k) s
      s.modLineage l.ctx l.hdr.tlin (fun c => { c with discarded := satInc c.discarded n, cancelled := satInc c.cancelled n })

/-- Step 3 of R212 for one sibling: its workgroups' piers are told, saved ones are dropped (R179), estates go (R150), and a
workgroup that waits at a cancellation point stops (R213). -/
def State.tellSibling (s : State) (k : Nat) (l : Launch) (i : Nat) : State :=
  let s : State := { s with groups := kvMod s.groups k (fun g => g.modSib i (fun b => { b with told := true })) }
  let cores := (s.wgs.filter (fun e => e.2.launch = l.id && (match e.2.tile with | some n => l.hdr.sibOf n = i | none => false))).map (·.1)
  let s : State := cores.foldl (fun s c => s.modWg c (fun w => { w with told := true, insns := 0 })) s
  let s : State := (s.dropSibling l i).dropCancelled l.id
  cores.foldl (fun s c => match s.wg? c with
    | some w => if !w.cancelled && !w.frozen && w.stopping.isNone && w.threads.any (fun e => s.atCancelPoint c e.2.2) then
        s.cancelStop c else s
    | none => s) s

/-- SIBLING_CANCEL_NOTIFY (R212 step 3): for each cancelled sibling whose exchange is complete. -/
def execSiblingCancelNotify (slot : Nat) (s : State) : Host.Outcome State Fault Refusal :=
  .next (match kvGet s.groups slot with
    | none => s
    | some g =>
      let due := (List.range g.sibs.length).filter (fun i => match g.sibs[i]? with
        | some b => b.cancelled && !b.told && s.exchangeDone g i
        | none => false)
      if g.state = GState.closed || due.isEmpty then s
      else
        let s : State := match s.launch? g.launch with
          | some l => due.foldl (fun s i => s.tellSibling slot l i) s
          | none => due.foldl (fun (s : State) i =>
              { s with groups := kvMod s.groups slot (fun g => g.modSib i (fun b => { b with told := true })) }) s
        s.siblingsQuiet g.launch)

/-! ### Answers (R260, R323) -/

/-- May a message of die 5 under its present clock be applied at a die (R119, R120)? -/
def State.fiveReaches (s : State) (die : Nat) : Bool :=
  !s.chans.any (fun m => m.src = 5 && m.dst = die) && s.gateOpen ⟨5, die, 0, s.vcOf 5, .clock⟩

/-- An answer of the ballot unit is written to its uniform register, as the application of a message of die 5, under die 5's clock in the
step that sends it. -/
def State.deliver (s : State) (p : Post) (x : Word) : State :=
  let s : State := s.mergeStamp (coreDie p.core) (s.vcOf 5)
  { s.modUid p.uid (fun t => t.setSr p.d x) with posts := s.posts.filter (fun o => o.id ≠ p.id) }

/-- BPOST_STATUS_DELIVER (R210, R260): after every action that the post set off. -/
def execBpostStatusDeliver (id : Nat) (s : State) : Host.Outcome State Fault Refusal :=
  .next (match s.posts.find? (fun p => p.id = id && p.hash.isSome) with
    | none => s
    | some p =>
      let told : Bool := match s.liveGroup p.handle with
        | some (_, g) => g.sibs.all (fun b => !b.cancelled || b.told)
        | none => true
      match p.answer with
      | some x => if told && s.fiveReaches (coreDie p.core) then s.deliver p x else s
      | none => s)

/-- The result of BQRY (R323). -/
def queryWord (g : Option Group) (i : Nat) : Word :=
  match g with
  | none => 1
  | some g =>
    let b : Sibling := (g.sibs[i]?).getD ⟨none, 0, 0, 0, 0, false, false⟩
    BitVec.ofNat 32 ((if g.outcome ≠ 0 || g.state = GState.releasing then 1 else 0) + (if b.cancelled then 2 else 0)
      + (if b.post.isSome then 4 else 0) + 256 * g.counted.length)

/-- BQRY_RESULT_DELIVER (R323): the group is read in this step. -/
def execBqryResultDeliver (id : Nat) (s : State) : Host.Outcome State Fault Refusal :=
  .next (match s.posts.find? (fun p => p.id = id && p.hash.isNone) with
    | none => s
    | some p =>
      if s.fiveReaches (coreDie p.core) then s.deliver p (queryWord ((s.liveGroup p.handle).map (·.2)) p.sib) else s)

/-! ### Page release (R214, R215) -/

/-- Go on to the next list; `cut` counts in UNDERFLOW. -/
def Group.nextList (g : Group) (cut : Bool) : Group :=
  { g with walk := (g.walk.1 + 1, none, 0), underflow := if cut then g.underflow + 1 else g.underflow }

/-- Go on to the next entry. -/
def Group.nextEntry (g : Group) (bad : Bool) : Group :=
  { g with walk := (g.walk.1, g.walk.2.1, (g.walk.2.2 / 2 + 1) * 2), underflow := if bad then g.underflow + 1 else g.underflow }

/-- The push of a page to FREEQ (R215): it waits while the queue is full, and is dropped where FREEQ names no queue of 8-byte
entries. -/
def State.pushPage (s : State) (slot : Nat) (g : Group) (page : Nat) : State :=
  match (if g.freeq.toNat < 4096 then kvGet s.hwqs g.freeq.toNat else none) with
  | none => { s with groups := kvPut s.groups slot (g.nextEntry true) }
  | some q =>
    if q.long then { s with groups := kvPut s.groups slot (g.nextEntry true) }
    else if 2 ^ q.logcap ≤ q.entries.length || !s.remoteReady 5 q.home then s
    else
      let s : State := s.ringPut q (toBytes 8 page)
      { s with hwqs := kvPut s.hwqs g.freeq.toNat { q with entries := q.entries ++ [⟨toBytes 8 page, 0, 0⟩], recv := q.recv + 1 }
               groups := kvPut s.groups slot { g.nextEntry false with pagesfreed := g.pagesfreed + 1 } }

/-- One entry of a node: the decrement at the refcount's home. -/
def State.releaseEntry (s : State) (slot : Nat) (g : Group) (ref : Nat) : State :=
  let keep := fun (s : State) (g : Group) => ({ s with groups := kvPut s.groups slot { g with pagesrel := g.pagesrel + 1 } } : State)
  match (if ref % 4 = 0 then s.ksPlace g.ctx (BitVec.ofNat 64 ref) true else none) with
  | none => keep s (g.nextEntry true)
  | some key =>
    if !isDevice key then keep s (g.nextEntry true)
    else if !s.remoteReady 5 (homeDie key) then s
    else
      let old := s.readNat key 4
      let s : State := s.homeWrite key (toBytes 4 ((old + 4294967295) % 4294967296))
      if old = 1 then keep s { g with walk := (g.walk.1, g.walk.2.1, g.walk.2.2 + 1) }
      else keep s (g.nextEntry (old = 0))

/-- PAGE_RELEASE_WALK (R215): one list head, node end, decrement or push. -/
def execPageReleaseWalk (slot : Nat) (s : State) : Host.Outcome State Fault Refusal :=
  .next (match kvGet s.groups slot with
    | none => s
    | some g =>
      let put := fun (g : Group) => ({ s with groups := kvPut s.groups slot g } : State)
      if g.state ≠ GState.releasing || g.n ≤ g.walk.1 then s
      else match g.walk.2.1 with
        | none =>
          let a := g.pages + BitVec.ofNat 64 (8 * g.walk.1)
          (match s.ksPlace g.ctx a false with
          | none => put (g.nextList true)
          | some _ =>
            let head := s.ksReadNat g.ctx a 8
            if head = 0 then put (g.nextList false)
            else put { g with walk := (g.walk.1, some (BitVec.ofNat 64 head), 0) })
        | some a =>
          match s.ksPlace g.ctx a false with
          | none => put (g.nextList true)
          | some _ =>
            let node := s.ksRead g.ctx a 64
            let next := pkt node 0 8
            let num := pkt node 8 8
            let j := g.walk.2.2 / 2
            if 4 ≤ num || (num = 0 && next ≠ 0) then put (g.nextList true)
            else if num ≤ j then
              if next = 0 then put (g.nextList false) else put { g with walk := (g.walk.1, some (BitVec.ofNat 64 next), 0) }
            else if g.walk.2.2 % 2 = 1 then s.pushPage slot g (pkt node (0x10 + 16 * j) 8)
            else s.releaseEntry slot g (pkt node (0x18 + 16 * j) 8))

/-! ### The accounting record (R216) -/

/-- The header of the record, and an entry. -/
def Group.header (g : Group) : List Byte :=
  toBytes 4 (g.outcome + 4 + g.n * 65536 + g.t * 8388608) ++ toBytes 4 g.nposts.toNat ++ toBytes 8 g.winner.toNat
    ++ toBytes 4 g.dseq.toNat ++ toBytes 4 g.pagesrel.toNat ++ toBytes 4 g.pagesfreed.toNat ++ toBytes 4 g.underflow.toNat ++ zeros 32

def Sibling.entry (b : Sibling) : List Byte :=
  let p := b.post.getD (0, 0)
  toBytes 4 (if b.post.isSome then 1 else if b.cancelled then 2 else 3) ++ toBytes 4 p.2.toNat ++ toBytes 8 p.1.toNat
    ++ toBytes 4 b.work.toNat ++ toBytes 4 b.tilesnd.toNat ++ toBytes 4 b.nullcmds.toNat
    ++ toBytes 4 (if b.cancelled then b.insns.toNat else 0)

/-- Does a settle of a cancelled sibling of the group's launch still wait (R150)? It is discarded as such, and the group stands until it
is. -/
def State.settlesCancelled (s : State) (g : Group) : Bool :=
  match s.launch? g.launch with
  | some l => s.settles.any (fun x => x.launch = l.id && s.sibCancelled l (l.hdr.sibOfId x.est.ident))
  | none => false

/-- ACCOUNTING_RECORD_WRITE (R216, R217): after the walk, the record, its word 0x00 last; the group closes. -/
def execAccountingRecordWrite (slot : Nat) (s : State) : Host.Outcome State Fault Refusal :=
  .next (match kvGet s.groups slot with
    | none => s
    | some g =>
      if g.state ≠ GState.releasing || g.walk.1 < g.n || g.sibs.any (fun b => b.cancelled && !b.told) || s.settlesCancelled g then s
      else
        let r := g.header ++ g.sibs.flatMap Sibling.entry
        let s : State := s.ksStore g.ctx (g.acct + 4) (r.drop 4)
        let s : State := s.ksStore g.ctx g.acct (r.take 4)
        { s with groups := kvPut s.groups slot g.closed })

/-- SIBCLOSE (R217, R218): an OPEN group of a context registered through the writing function. -/
def execSibclose (fn : Nat) (handle : Word) (s : State) : Host.Outcome State Fault Refusal :=
  .next (match s.openGroup handle with
    | none => s
    | some (k, g) =>
      let mine : Bool := match s.context? g.ctx with | some c => c.reg.fn = fn | none => false
      if s.up && mine then { s with groups := kvPut s.groups k { g with state := .releasing, outcome := 3, winner := 0, dseq := 0 } }
      else s)

end Sys2Proof.Machine
end

