-- ==== Sys2Proof/Machine/Faults.lean ====
section
/-! DEFINITION. Walks and translation faults (09, R192 to R198): PAGE_WALK_COMPLETE, FAULT_POST, FAULT_RESP_REPLAY,
FAULT_RESP_FAIL, RED_REPLAY_BUFFER_MOVE; invalidation (R194): INVALIDATE_GO, TLB_INVALIDATION_DONE; and
SOFT_ERROR_UNCORRECTABLE (01, R11). -/

namespace Sys2Proof.Machine

/-! ### Walks -/

/-- The threads that wait for a walk: core, team, lane, PC and miss. -/
def State.walkers (s : State) (w : Walk) : List (Nat × Nat × Nat × PC × Miss) :=
  (s.wgs.filter (fun e => coreDie e.1 = w.die)).flatMap (fun e => e.2.threads.filterMap (fun x =>
    match x.2.2.wait with
    | .walk m => if m.ctx = w.ctx && m.va.toNat / 131072 = w.vpage then some (e.1, x.1, x.2.1, x.2.2.pc, m) else none
    | _ => none))

/-- The waiting threads that share one fault (R195): a lane access is its thread's own; a fetch, a uniform access and a
guard read are their whole subset's. -/
def sameAccess (a b : Nat × Nat × Nat × PC × Miss) : Bool :=
  a.1 = b.1 && a.2.1 = b.2.1 && a.2.2.2.1 = b.2.2.2.1 && a.2.2.2.2 = b.2.2.2.2
    && (a.2.2.1 = b.2.2.1 || a.2.2.2.2.fetch || a.2.2.2.2.unif || a.2.2.2.2.guard)

/-- One representative of each access. -/
def accessHeads : List (Nat × Nat × Nat × PC × Miss) → List (Nat × Nat × Nat × PC × Miss)
  | [] => []
  | a :: r => if r.any (sameAccess a) then accessHeads r else a :: accessHeads r

/-- A thread that a walk or a fault held may run its unit again (R195). -/
def Miss.again (m : Miss) : Wait := if m.fetch then .ready else .retry

/-- Set what the threads of some accesses wait for. -/
def State.setAccess (s : State) (who : List (Nat × Nat × Nat × PC × Miss)) (w : Miss → Wait) : State :=
  who.foldl (fun s x => s.modLanes x.1 x.2.1 [x.2.2.1] (fun _ t => { t with wait := w x.2.2.2.2 })) s

/-- A fault is recorded for each access, and holds its threads (R195). -/
def State.faultAccesses (s : State) (who : List (Nat × Nat × Nat × PC × Miss)) (kind : Nat) : State :=
  (accessHeads who).foldl (fun s a =>
    let id := s.nextSeq
    (s.newFault (.threads a.1) kind a.2.2.2.2 a.1).setAccess (who.filter (sameAccess a)) (fun _ => .fault id)) s

/-- The launches whose units wait for a walk. -/
def State.walkLaunches (s : State) (who : List (Nat × Nat × Nat × PC × Miss)) : List Nat :=
  (who.filterMap (fun x => (s.wg? x.1).map (·.launch))).dedup

/-- PAGE_WALK_COMPLETE (R192, R193): the leaf is cached for the cores whose accesses it serves, and their units run again; where it
faults, or faults a write, each access has its fault (R195), and nothing is cached for it. Where the firewall refuses the walker, the
first core that waits is frozen, and a walk of several launches names none (R189, R227). -/
def execPageWalkComplete (die ctx vpage : Nat) (s : State) : Host.Outcome State Fault Refusal :=
  finish (
    let w : Walk := ⟨die, ctx, vpage⟩
    if !s.walkRunning w then s
    else
      let s : State := { s with walks := s.walks.filter (· ≠ w) }
      let who := s.walkers w
      match s.walk ctx (vpage * 131072) with
      | .leaf e =>
        let bad := who.filter (fun x =>
          match e.check s.cxlCoherent x.2.2.2.2.va.toNat x.2.2.2.2.write false with | .fault _ => true | _ => false)
        let good := who.filter (fun x => !bad.contains x)
        let s : State := ((good.map (·.1)).dedup).foldl (fun s c => s.tlbFill c e) s
        (s.setAccess good Miss.again).faultAccesses bad 1
      | .fault k => s.faultAccesses who k
      | .refused =>
        match who.head? with
        | some x =>
          if (s.walkLaunches who).length ≤ 1 then s.firewallFault x.1 x.2.2.2.2.va.toNat none
          else (s.freeze x.1 none).contextFault ctx
            ⟨0x20, 0, 0, x.2.2.2.2.va.toNat, die, coreX x.1, coreY x.1, false, 0, 0, 0⟩
        | none => s
      | .noMem key => s.checkMem key)

/-! ### The fault buffer -/

/-- The place of a physical address that a register names in host or device memory (R197; log 18, DESIGN CHOICE). -/
def physKey (a : Nat) : Nat := if a < 1374389534720 then keyOf spDevice a else keyOf spHost a

/-- Does a workgroup hold a thread, in a team or in a bin? -/
def Workgroup.hasTid (w : Workgroup) (tid : Nat) : Bool :=
  w.threads.any (fun e => e.2.2.tid = tid) || w.bins.any (fun b => b.threads.any (fun e => e.2.2.tid = tid))

/-- Is a thread alive, on whatever core, or saved (R195, R196)? -/
def State.alive (s : State) (tid : Nat) : Bool :=
  s.wgs.any (fun e => e.2.hasTid tid) || s.launches.any (fun e => e.2.saved.any (fun v => v.wg.hasTid tid))

/-- Change a thread of a workgroup, in a team or in a bin. -/
def Workgroup.modTid (w : Workgroup) (tid : Nat) (f : Thread → Thread) : Workgroup :=
  { w with
    teams := w.teams.map (fun e => (e.1, { e.2 with lanes := e.2.lanes.map (fun l => if l.2.tid = tid then (l.1, f l.2) else l) }))
    bins := w.bins.map (fun (b : Bin) => { b with threads := b.threads.map (fun e => if e.2.2.tid = tid then (e.1, e.2.1, f e.2.2) else e) }) }

/-- A trap of a RED, to be taken at its thread's next unit (R195), wherever the thread stands. -/
def State.deferTrap (s : State) (tid code : Nat) (tval : Word) : State :=
  let g := fun (t : Thread) => { t with deferred := t.deferred ++ [(code, tval)] }
  { s with wgs := s.wgs.map (fun e => (e.1, e.2.modTid tid g))
           launches := s.launches.map (fun e => (e.1, { e.2 with saved := e.2.saved.map (fun (v : SavedWg) => { v with wg := v.wg.modTid tid g }) })) }

/-- The RED that a fault holds, in its core's write path or in a replay buffer. -/
def State.faultRed (s : State) (id : Nat) : Option (WEntry × Bool) :=
  match s.wpath.find? (fun w => w.id = id) with
  | some w => some (w, false)
  | none => (s.replay.find? (fun e => e.2.id = id)).map (fun e => (e.2, true))

/-- A held RED is dropped: it performs nothing. -/
def State.dropRed (s : State) (id : Nat) : State :=
  ({ s with wpath := s.wpath.filter (fun w => w.id ≠ id)
            replay := s.replay.filter (fun e => e.2.id ≠ id) } : State).completeWrite id

/-- FAULT_UNRESOLVED of a RED that its thread has left behind (R187, R189). -/
def State.unresolved (s : State) (f : FaultReq) (w : WEntry) (seq : Nat) : State :=
  let q : Nat × Nat := match w.owner with
    | .team l _ _ _ => (match s.launch? l with | some l => (l.queue, l.tag.toNat) | none => (0, 0))
    | _ => (0, 0)
  s.contextFault f.m.ctx ⟨0x24, 0, 0, f.m.va.toNat, f.die, f.cx, f.cy, false, seq, q.1, q.2⟩

/-- A fault is failed (R195, R197): XLATE_FAULT at the unit of each thread that it holds; of a RED at its thread's next
unit; a context fault for an engine, a guard read, or a RED whose thread is gone. -/
def State.failFault (s : State) (f : FaultReq) (seq : Word) : State :=
  let s : State := { s with faults := s.faults.filter (fun g => g.id ≠ f.id) }
  match f.who with
  | .threads core =>
    match s.wg? core with
    | none => s
    | some w =>
      let ths := w.threads.filter (fun e => e.2.2.wait = .fault f.id)
      if ths.isEmpty then s
      else if f.m.guard then s.coreFault core 0x24 0 0 f.m.va.toNat seq.toNat true
      else
        let cause := tcause 0x05 f.m.pfx f.m.unif f.m.write false
        (ths.foldl (fun s e => s.takeTrap core e.1 e.2.1 0x05 seq cause e.2.2.pc) s).regroupCore core
  | .red id =>
    match s.faultRed id with
    | none => s
    | some (w, _) =>
      let s : State := s.dropRed id
      if s.alive w.agent then s.deferTrap w.agent 0x05 seq else (s.unresolved f w seq.toNat).sweep
  | .engine core id =>
    if (s.wg? core).isSome && ((s.wg? core).map (fun w => w.cmds.any (fun c => c.id = id))).getD false then
      s.coreFault core 0x24 0 0 f.m.va.toNat seq.toNat true
    else s

/-- Is the fault an engine's, or a guard read's (R198)? -/
def FaultReq.engine (f : FaultReq) : Bool := f.m.guard || (match f.who with | .engine _ _ => true | _ => false)
def FaultReq.red (f : FaultReq) : Bool := match f.who with | .red _ => true | _ => false

/-- The words of a fault record after SEQ (R198). -/
def State.faultBody (s : State) (f : FaultReq) : List Byte :=
  let held : Bool := match f.who with | .red id => s.replay.any (fun e => e.2.id = id) | _ => false
  let prot : Bool := match s.context? f.m.ctx with | some c => c.prot | none => false
  let va := if prot then f.m.va.toNat / 131072 * 131072 else f.m.va.toNat
  let bit := fun (b : Bool) (n : Nat) => if b then 2 ^ n else 0
  toBytes 4 (f.kind + bit f.m.write 3 + bit f.m.fetch 4 + bit f.engine 5 + bit f.red 6 + bit held 7
      + f.die * 256 + f.cx * 4096 + f.cy * 131072)
    ++ toBytes 8 va ++ toBytes 4 f.m.ctx ++ zeros 12

/-- FAULT_POST (R195, R197): a record with a new sequence number, SEQ written last; a full ring waits; while the buffer is
not enabled the fault fails at once. An engine write to a sealed page is never serviceable (R130). -/
def execFaultPost (id : Nat) (s : State) : Host.Outcome State Fault Refusal :=
  .next (match s.faults.find? (fun f => f.id = id && f.seq.isNone) with
    | none => s
    | some f =>
      if !s.fb.enable then s.failFault f 0
      else if 2 ^ s.fb.logsz ≤ (s.fb.wptr - s.fb.rptr).toNat then s
      else
        let seq := s.fb.nextSeq
        let a := s.fb.base.toNat + 32 * (s.fb.wptr.toNat % 2 ^ s.fb.logsz)
        let s : State := (s.ksWrite (physKey (a + 4)) (s.faultBody f)).ksWriteNat (physKey a) 4 seq.toNat
        let s : State := { s with
          fb := { s.fb with wptr := s.fb.wptr + 1, nextSeq := seq + 1 }
          faults := s.faults.map (fun (g : FaultReq) => if g.id = id then { g with seq := some seq } else g)
          irqs := if s.fb.inten then s.irqs ++ [.faultBuffer] else s.irqs }
        if f.kind = 4 then
          match f.who with
          | .engine core _ => s.coreFault core 0x24 0 0 f.m.va.toNat seq.toNat true
          | _ => s
        else s)

/-- A held RED is tried again with a new walk (R195): in its core's write path it stands as an entry like any other; from a
replay buffer it is performed or sent. Onto a sealed leaf it is not posted (R130, R192): its thread takes the SEALED_STORE at its next
unit, and where it is gone the context faults as where the RED is failed (log 41, DEDUCED). -/
def State.replayRed (s : State) (f : FaultReq) (id : Nat) : State :=
  match s.faultRed id with
  | none => s
  | some (w, moved) =>
    match s.translateNow w.core f.m.ctx w.va.toNat true false with
    | .ok key =>
      let w' := { w with key := key, held := false }
      let s : State := { s with writes := s.writes.map (fun (t : WTrack) => if t.id = id then { t with key := key } else t) }
      if moved then
        let s : State := { s with replay := s.replay.filter (fun e => e.2.id ≠ id) }
        if s.writeOk w' then (s.checkMem key).dispatch (coreDie w.core) w' else s.refuseWrite w'
      else { s with wpath := s.wpath.map (fun (x : WEntry) => if x.id = id then w' else x) }
    | .fault k => s.newFault (.red id) k f.m w.core
    | .sealed =>
      let s : State := s.dropRed id
      if s.alive w.agent then s.deferTrap w.agent 0x06 (loWord w.va) else s.unresolved f w 0
    | .refused => (s.dropRed id).refuseWrite w
    | .miss => s.newFault (.red id) 0 f.m w.core

/-- FAULT_RESP_REPLAY (R195): the access is made again, with a new walk. -/
def execFaultRespReplay (seq : Word) (s : State) : Host.Outcome State Fault Refusal :=
  finish (match s.faults.find? (fun f => f.seq = some seq) with
    | none => s
    | some f =>
      let s : State := { s with faults := s.faults.filter (fun g => g.id ≠ f.id) }
      match f.who with
      | .threads core => (s.tlbEvict core f.m.ctx f.m.va.toNat).setWaits core (fun t => t.wait = .fault f.id) f.m.again
      | .red id => (match s.faultRed id with
        | some (w, _) => ((s.tlbEvict w.core f.m.ctx w.va.toNat).replayRed f id).sweep
        | none => s)
      | .engine core _ => s.tlbEvict core f.m.ctx f.m.va.toNat)

/-- FAULT_RESP_FAIL (R195). -/
def execFaultRespFail (seq : Word) (s : State) : Host.Outcome State Fault Refusal :=
  .next (match s.faults.find? (fun f => f.seq = some seq) with
    | none => s
    | some f => s.failFault f seq)

/-- RED_REPLAY_BUFFER_MOVE (R195): a held RED whose thread has exited moves to the replay buffer of a home slice of its
die, where a place is free. -/
def execRedReplayBufferMove (id : Nat) (s : State) : Host.Outcome State Fault Refusal :=
  .next (match s.wpath.find? (fun w => w.id = id && w.held) with
    | none => s
    | some w =>
      let die := coreDie w.core
      let slice := die * 256 + w.va.toNat / 131072 % 128 % homeSlices die
      if s.alive w.agent || 32 ≤ (s.replay.filter (fun e => e.1 = slice)).length then s
      else
        ({ s with wpath := s.wpath.filter (fun x => x.id ≠ id), replay := s.replay ++ [(slice, w)] } : State).sweep)

/-! ### Invalidation -/

/-- The range of an invalidation: INVPAGES 0 is the whole context. -/
def Inval.range (i : Inval) : Nat × Nat :=
  if i.pages = 0 then (0, 2 ^ 57) else (i.va.toNat, i.va.toNat + 131072 * i.pages.toNat)

/-- Accesses of a context under way through a range of its addresses; a RED held at a fault has been translated by no entry. -/
def State.accessesIn (s : State) (ctx lo hi : Nat) : List Nat :=
  (s.writes.filter (fun (t : WTrack) => t.ctx = some ctx && (s.faultRed t.id).all (fun e => !e.1.held) && lo ≤ t.va.toNat && t.va.toNat < hi)).map (·.id)
    ++ (s.loads.filter (fun l => s.ctxOf l.core = ctx && lo ≤ l.va.toNat && l.va.toNat < hi)).map (·.id)

/-- INVALIDATE_GO (R194): ignored while BUSY; the TLB entries go, and BUSY stands until the accesses made through them are
complete. -/
def execInvalidateGo (s : State) : Host.Outcome State Fault Refusal :=
  .next (
    if s.inval.busy then s
    else
      let r := s.inval.range
      let ctx := s.inval.ctx.toNat
      let wait := s.accessesIn ctx r.1 r.2
      { s.dropTlb ctx r.1 r.2 with inval := { s.inval with busy := true, awaiting := wait } })

/-- TLB_INVALIDATION_DONE (R194): BUSY clears once no walk covers the range and those accesses are complete. -/
def execTlbInvalidationDone (s : State) : Host.Outcome State Fault Refusal :=
  .next (
    let r := s.inval.range
    if s.inval.busy && s.allOver s.inval.awaiting
        && !s.walks.any (fun w => w.ctx = s.inval.ctx.toNat && r.1 ≤ w.vpage * 131072 && w.vpage * 131072 < r.2) then
      { s with inval := { s.inval with busy := false, awaiting := [] } }
    else s)

/-! ### Soft errors -/

/-- SOFT_ERROR_UNCORRECTABLE (R11): the word is lost to walks (R192), and the fault log records it; a protected context's
granule hides bits [16:0] of the address. -/
def execSoftErrorUncorrectable (pa : Nat) (s : State) : Host.Outcome State Fault Refusal :=
  .next (
    let key := keyOf spDevice pa
    if !memExists s.part key then s
    else
      let o := s.owner key
      let s : State := { s with softErrs := if s.softErrs.contains (pa / 8) then s.softErrs else s.softErrs ++ [pa / 8] }
      s.logWrite false 3 (homeDie key) 0 0 (BitVec.ofNat 64 (if o = 0 then pa else pa / 131072 * 131072)) (BitVec.ofNat 64 (o % 65536)))

end Sys2Proof.Machine
end

