-- ==== Sys2Proof/Machine/LaneCross.lean ====
section
/-! DEFINITION. Cross-lane work: VNBR, VSCAN, VRED and VVOTE (23, R416 to R419). -/

namespace Sys2Proof.Machine

/-- Where the neighbour of lane l of a team stands: its team slot and lane (R417). -/
def neighbour (teams team l : Nat) (right : Bool) : Nat × Nat :=
  if right then (if l = 63 then ((team + 1) % teams, 0) else (team, l + 1))
  else (if l = 0 then ((team + teams - 1) % teams, 63) else (team, l - 1))

/-- The neighbour's register; a lane that holds no thread reads 0. -/
def State.neighbourReg (s : State) (l : Nat) (right : Bool) (a : BitVec 7) : Word :=
  let p := neighbour (s.hdr s.cur.core).teams s.cur.team l right
  match s.thread? s.cur.core p.1 p.2 with
  | some t => t.v a.toNat
  | none => 0

def execVnbr (g : BitVec 3) (d a code : BitVec 7) (s : State) : Host.Outcome State Fault Refusal :=
  .next (s.laneSet (.vnbr g d a code) (s.guarded g) false (bad2 s.curAlloc d a)
    (fun s l t => t.setV d.toNat (s.neighbourReg l (code = 1) a)))

/-- combine(s, x) of R418 by its code of R289, with its flags. FTZO does not act on .FMIN and .FMAX, which R57 and R418 give FTZI alone
(log 46, DEDUCED). -/
def combine (m : BitVec 9) (code : Nat) (x y : Word) : Word × FlagSet :=
  match code with
  | 0 => (x + y, 0)
  | 1 => let r := fp32.add m x.toNat y.toNat; (BitVec.ofNat 32 r.1, r.2)
  | 2 => (if x.toInt ≤ y.toInt then x else y, 0)
  | 3 => (if x.toInt ≤ y.toInt then y else x, 0)
  | 4 => let r := fp32.minMax (m &&& 0x1F7) false x.toNat y.toNat; (BitVec.ofNat 32 r.1, r.2)
  | _ => let r := fp32.minMax (m &&& 0x1F7) true x.toNat y.toNat; (BitVec.ofNat 32 r.1, r.2)

/-- combine where either side may be absent. -/
def combineOpt (m : BitVec 9) (code : Nat) (x y : Option Word) : Option Word × FlagSet :=
  match x, y with
  | some x, some y => let r := combine m code x y; (some r.1, r.2)
  | some x, none => (some x, 0)
  | none, y => (y, 0)

/-- The running combination of the participants in lane order, one value for each, and the flags (R418). -/
def scanVals (m : BitVec 9) (code : Nat) : Option Word → FlagSet → List Word → List Word × FlagSet
  | _, f, [] => ([], f)
  | acc, f, x :: r =>
    let c := combineOpt m code acc (some x)
    let v := c.1.getD 0
    let rest := scanVals m code (some v) (f ||| c.2) r
    (v :: rest.1, rest.2)

/-- One stage of VRED's log-step order: lanes 2i and 2i + 1 of the list combine (R418). -/
def redStage (m : BitVec 9) (code : Nat) : List (Option Word) → List (Option Word) × FlagSet
  | x :: y :: r =>
    let c := combineOpt m code x y
    let rest := redStage m code r
    (c.1 :: rest.1, c.2 ||| rest.2)
  | l => (l, 0)

/-- The six stages over 64 lanes. -/
def redVals (m : BitVec 9) (code : Nat) : Nat → List (Option Word) → Option Word × FlagSet
  | 0, l => (l.headD none, 0)
  | n + 1, l =>
    let c := redStage m code l
    let rest := redVals m code n c.1
    (rest.1, c.2 ||| rest.2)

def execVscan (g : BitVec 3) (d a code : BitVec 7) (s : State) : Host.Outcome State Fault Refusal :=
  let gl := s.guarded g
  .next (s.laneUnit (.vscan g d a code) gl false (bad2 s.curAlloc d a) false (fun s =>
    let r := scanVals s.team.mode code.toNat none 0 (gl.map (fun l => (s.lane l).v a.toNat))
    (s.onLanes gl (fun l t => t.setV d.toNat (r.1.getD (gl.idxOf l) 0))).raise r.2))

def execVred (g : BitVec 3) (d a code : BitVec 7) (s : State) : Host.Outcome State Fault Refusal :=
  let gl := s.guarded g
  .next (s.laneUnit (.vred g d a code) gl false (bad2 s.curAlloc d a) false (fun s =>
    let r := redVals s.team.mode code.toNat 6
      ((List.range teamWidth).map (fun l => if gl.contains l then some ((s.lane l).v a.toNat) else none))
    (s.onLanes gl (fun _ t => t.setV d.toNat (r.1.getD 0))).raise r.2))

/-- VVOTE's word for a lane from the participants whose predicate is true (R419). -/
def voteWord (code : Nat) (part yes : List Nat) (l : Nat) : Word :=
  match code with
  | 0 => if yes.isEmpty then 0 else 1
  | 1 => if part.all (fun i => yes.contains i) then 1 else 0
  | _ => BitVec.ofNat 32 ((yes.filter (fun i => i / 32 = l / 32)).foldl (fun w i => w + 2 ^ (i % 32)) 0)

def execVvote (g : BitVec 3) (d : BitVec 7) (p : BitVec 3) (code : BitVec 7) (s : State) :
    Host.Outcome State Fault Refusal :=
  let gl := s.guarded g
  .next (s.laneSet (.vvote g d p code) gl false (bad1 s.curAlloc d)
    (fun s l t => t.setV d.toNat (voteWord code.toNat gl (gl.filter (fun i => (s.lane i).p p.toNat)) l)))

end Sys2Proof.Machine
end

