-- ==== Sys2Proof/Machine/LaneFp.lean ====
section
/-! DEFINITION. The lane floating-point instructions (19, 20: R311, R312, R334 to R336, R340 to R343, R346 to R348), over
the formats and flag computations of Flags. -/

namespace Sys2Proof.Machine

/-- FCMP (R342). -/
def execFcmp (g : BitVec 3) (cond : BitVec 4) (p : BitVec 3) (a b : BitVec 7) (s : State) :
    Host.Outcome State Fault Refusal :=
  .next (s.lanePred (.fcmp g cond p a b) g
    (firstBad [(vOk s.curAlloc a, 1, a.toNat), (vOk s.curAlloc b, 2, b.toNat)]) p
    (fun s m l _ => fcmpVal m cond.toNat (s.srcA l a).toNat (s.srcB l b).toNat))

def execFadd (g : BitVec 3) (d a b : BitVec 7) (s : State) : Host.Outcome State Fault Refusal :=
  .next (s.laneFp3 (.fadd g d a b) g d a b (fun m x y _ => fp32.add m x y))
def execFsub (g : BitVec 3) (d a b : BitVec 7) (s : State) : Host.Outcome State Fault Refusal :=
  .next (s.laneFp3 (.fsub g d a b) g d a b (fun m x y _ => fp32.sub m x y))
def execFmul (g : BitVec 3) (d a b : BitVec 7) (s : State) : Host.Outcome State Fault Refusal :=
  .next (s.laneFp3 (.fmul g d a b) g d a b (fun m x y _ => fp32.mul m x y))
def execFfma (g : BitVec 3) (d a b : BitVec 7) (s : State) : Host.Outcome State Fault Refusal :=
  .next (s.laneFp3 (.ffma g d a b) g d a b (fun m x y z => fp32.fma m x y z))
def execFmin (g : BitVec 3) (d a b : BitVec 7) (s : State) : Host.Outcome State Fault Refusal :=
  .next (s.laneFp3 (.fmin g d a b) g d a b (fun m x y _ => fp32.minMax m false x y))
def execFmax (g : BitVec 3) (d a b : BitVec 7) (s : State) : Host.Outcome State Fault Refusal :=
  .next (s.laneFp3 (.fmax g d a b) g d a b (fun m x y _ => fp32.minMax m true x y))

/-- FRND (R347). -/
def execFrnd (g : BitVec 3) (d a code : BitVec 7) (s : State) : Host.Outcome State Fault Refusal :=
  .next (s.laneFp (.frnd g d a code) (s.guarded g) false (bad2 s.curAlloc d a) (fun s m l t =>
    let r := frndVal m code.toNat (s.srcA l a)
    (t.setV d.toNat (BitVec.ofNat 32 r.1), r.2)))

/-- FCVT (R343). -/
def execFcvt (g : BitVec 3) (d a code : BitVec 7) (s : State) : Host.Outcome State Fault Refusal :=
  .next (s.laneFp (.fcvt g d a code) (s.guarded g) false (bad2 s.curAlloc d a) (fun s m l t =>
    let r := fcvtVal m code.toNat (s.srcA l a)
    (t.setV d.toNat (BitVec.ofNat 32 r.1), r.2)))

def execHadd2 (g : BitVec 3) (d a b : BitVec 7) (s : State) : Host.Outcome State Fault Refusal :=
  .next (s.lanePair3 (.hadd2 g d a b) g d a b (fun m x y _ => fp16.add m x y))
def execHmul2 (g : BitVec 3) (d a b : BitVec 7) (s : State) : Host.Outcome State Fault Refusal :=
  .next (s.lanePair3 (.hmul2 g d a b) g d a b (fun m x y _ => fp16.mul m x y))
def execHfma2 (g : BitVec 3) (d a b : BitVec 7) (s : State) : Host.Outcome State Fault Refusal :=
  .next (s.lanePair3 (.hfma2 g d a b) g d a b (fun m x y z => fp16.fma m x y z))
def execHmax2 (g : BitVec 3) (d a b : BitVec 7) (s : State) : Host.Outcome State Fault Refusal :=
  .next (s.lanePair3 (.hmax2 g d a b) g d a b (fun m x y _ => fp16.minMax m true x y))
def execBadd2 (g : BitVec 3) (d a b : BitVec 7) (s : State) : Host.Outcome State Fault Refusal :=
  .next (s.lanePair3 (.badd2 g d a b) g d a b (fun m x y _ => bf16.add m x y))
def execBmul2 (g : BitVec 3) (d a b : BitVec 7) (s : State) : Host.Outcome State Fault Refusal :=
  .next (s.lanePair3 (.bmul2 g d a b) g d a b (fun m x y _ => bf16.mul m x y))
def execBfma2 (g : BitVec 3) (d a b : BitVec 7) (s : State) : Host.Outcome State Fault Refusal :=
  .next (s.lanePair3 (.bfma2 g d a b) g d a b (fun m x y z => bf16.fma m x y z))
def execBmax2 (g : BitVec 3) (d a b : BitVec 7) (s : State) : Host.Outcome State Fault Refusal :=
  .next (s.lanePair3 (.bmax2 g d a b) g d a b (fun m x y _ => bf16.minMax m true x y))

def execDadd (g : BitVec 3) (d a b : BitVec 7) (s : State) : Host.Outcome State Fault Refusal :=
  .next (s.laneFp64 (.dadd g d a b) g d a b (fun m x y _ => fp64.add m x y))
def execDmul (g : BitVec 3) (d a b : BitVec 7) (s : State) : Host.Outcome State Fault Refusal :=
  .next (s.laneFp64 (.dmul g d a b) g d a b (fun m x y _ => fp64.mul m x y))
def execDfma (g : BitVec 3) (d a b : BitVec 7) (s : State) : Host.Outcome State Fault Refusal :=
  .next (s.laneFp64 (.dfma g d a b) g d a b (fun m x y z => fp64.fma m x y z))

/-- DCVT (R286, R336): the unit is checked before the kinds its code gives. -/
def execDcvt (g : BitVec 3) (d a code : BitVec 7) (s : State) : Host.Outcome State Fault Refusal :=
  let wide := code.toNat = 0x10 || code.toNat = 0x12
  let al := s.curAlloc
  let bad := firstBad [(if wide then v2Ok al d else vOk al d, 0, d.toNat), (if wide then vOk al a else v2Ok al a, 1, a.toNat)]
  .next (s.laneFp (.dcvt g d a code) (s.guarded g) (!hasFp64 s.part s.cur.core) bad (fun s m l t =>
    let r := dcvtVal m code.toNat (if wide then (s.srcA l a).zeroExtend 64 else s.srcA2 l a)
    (if wide then t.setV2 d.toNat (BitVec.ofNat 64 r.1) else t.setV d.toNat (BitVec.ofNat 32 r.1), r.2)))

end Sys2Proof.Machine
end

