-- ==== Sys2Proof/Machine/LaneMem.lean ====
section
/-! DEFINITION. Lane memory instructions: loads, stores and prefetch (21, R358 to R360, R370; 22, R401 to R403), returning
atomics (19, R302 to R304), RED (21, R376, R377) and CAS (20, R330 to R332). They put accesses into the ordering machine;
LOAD_SATISFY, STORE_BUFFER_DRAIN and the steps after it make them. -/

namespace Sys2Proof.Machine

/-- A load form: n bytes into d, sign-extended or not (R359). -/
def State.ldForm (s : State) (i : Instr) (g : BitVec 3) (d a sb : BitVec 7) (n : Nat) (signed : Bool) : State :=
  let gl := s.guarded g
  let al := s.curAlloc
  let dOk := if n = 16 then v4Ok al d else if n = 8 then v2Ok al d else vOk al d
  s.laneUnit i gl false (badLm al dOk d a sb) false (fun t =>
    t.laneLoads gl (fun l => s.lmAddr l a sb) n 0 false (fun _ => .lane d.toNat signed))

/-- The bytes of n data registers of a lane (R401). -/
def Thread.dataBytes (t : Thread) (d n : Nat) : List Byte :=
  ((List.range (max 1 (n / 4))).flatMap (fun i => toBytes 4 (t.v (d + i)).toNat)).take n

/-- A store form: n bytes from d (R402). -/
def State.stForm (s : State) (i : Instr) (g : BitVec 3) (d a sb : BitVec 7) (n : Nat) : State :=
  let gl := s.guarded g
  let al := s.curAlloc
  let dOk := if n = 16 then v4Ok al d else if n = 8 then v2Ok al d else vOk al d
  s.laneUnit i gl false (badLm al dOk d a sb) false (fun t =>
    t.laneStores gl (fun l => s.lmAddr l a sb) (fun l => (s.lane l).dataBytes d.toNat n) n none)

def execLdB (g : BitVec 3) (d a sb : BitVec 7) (s : State) : Host.Outcome State Fault Refusal :=
  .next (s.ldForm (.ldB g d a sb) g d a sb 1 false)
def execLdSb (g : BitVec 3) (d a sb : BitVec 7) (s : State) : Host.Outcome State Fault Refusal :=
  .next (s.ldForm (.ldSb g d a sb) g d a sb 1 true)
def execLdH (g : BitVec 3) (d a sb : BitVec 7) (s : State) : Host.Outcome State Fault Refusal :=
  .next (s.ldForm (.ldH g d a sb) g d a sb 2 false)
def execLdSh (g : BitVec 3) (d a sb : BitVec 7) (s : State) : Host.Outcome State Fault Refusal :=
  .next (s.ldForm (.ldSh g d a sb) g d a sb 2 true)
def execLdW (g : BitVec 3) (d a sb : BitVec 7) (s : State) : Host.Outcome State Fault Refusal :=
  .next (s.ldForm (.ldW g d a sb) g d a sb 4 false)
def execLdD (g : BitVec 3) (d a sb : BitVec 7) (s : State) : Host.Outcome State Fault Refusal :=
  .next (s.ldForm (.ldD g d a sb) g d a sb 8 false)
def execLdQ (g : BitVec 3) (d a sb : BitVec 7) (s : State) : Host.Outcome State Fault Refusal :=
  .next (s.ldForm (.ldQ g d a sb) g d a sb 16 false)

/-- PRF: the fill of an L1 view is a step that L1_VIEW_FILL may take anyway, and that of the die view a read that it may send; it orders
nothing and never traps at its address (R276, R370). -/
def execPrf (g : BitVec 3) (a sb : BitVec 7) (s : State) : Host.Outcome State Fault Refusal :=
  .next (s.laneUnit (.prf g a sb) (s.guarded g) false (badLm s.curAlloc true 0 a sb) false (fun t =>
    (s.guarded g).foldl (fun t l => t.prefetch (s.lmAddr l a sb)) t))

def execStB (g : BitVec 3) (d a sb : BitVec 7) (s : State) : Host.Outcome State Fault Refusal :=
  .next (s.stForm (.stB g d a sb) g d a sb 1)
def execStH (g : BitVec 3) (d a sb : BitVec 7) (s : State) : Host.Outcome State Fault Refusal :=
  .next (s.stForm (.stH g d a sb) g d a sb 2)
def execStW (g : BitVec 3) (d a sb : BitVec 7) (s : State) : Host.Outcome State Fault Refusal :=
  .next (s.stForm (.stW g d a sb) g d a sb 4)
def execStD (g : BitVec 3) (d a sb : BitVec 7) (s : State) : Host.Outcome State Fault Refusal :=
  .next (s.stForm (.stD g d a sb) g d a sb 8)
def execStQ (g : BitVec 3) (d a sb : BitVec 7) (s : State) : Host.Outcome State Fault Refusal :=
  .next (s.stForm (.stQ g d a sb) g d a sb 16)

/-- ATOM by its operation code of R252: every thread of the subset executes it (R303). -/
def State.atomForm (s : State) (i : Instr) (sc : BitVec 2) (d a b : BitVec 7) (op : Nat) : State :=
  let al := s.curAlloc
  let gl := s.subset
  s.laneUnit i gl false (firstBad [(vOk al d, 0, d.toNat), (v2Ok al a, 1, a.toNat), (vOk al b, 2, b.toNat)]) false (fun t =>
    t.laneLoads gl (fun l => (s.lane l).v2 a.toNat) 4 sc.toNat true
      (fun l => .atom d.toNat op ((s.lane l).v b.toNat)))

def execAtomAdd (sc : BitVec 2) (d a b : BitVec 7) (s : State) : Host.Outcome State Fault Refusal :=
  .next (s.atomForm (.atomAdd sc d a b) sc d a b 0)
def execAtomFadd (sc : BitVec 2) (d a b : BitVec 7) (s : State) : Host.Outcome State Fault Refusal :=
  .next (s.atomForm (.atomFadd sc d a b) sc d a b 1)
def execAtomMin (sc : BitVec 2) (d a b : BitVec 7) (s : State) : Host.Outcome State Fault Refusal :=
  .next (s.atomForm (.atomMin sc d a b) sc d a b 2)
def execAtomMax (sc : BitVec 2) (d a b : BitVec 7) (s : State) : Host.Outcome State Fault Refusal :=
  .next (s.atomForm (.atomMax sc d a b) sc d a b 3)
def execAtomAnd (sc : BitVec 2) (d a b : BitVec 7) (s : State) : Host.Outcome State Fault Refusal :=
  .next (s.atomForm (.atomAnd sc d a b) sc d a b 4)
def execAtomOr (sc : BitVec 2) (d a b : BitVec 7) (s : State) : Host.Outcome State Fault Refusal :=
  .next (s.atomForm (.atomOr sc d a b) sc d a b 5)
def execAtomXor (sc : BitVec 2) (d a b : BitVec 7) (s : State) : Host.Outcome State Fault Refusal :=
  .next (s.atomForm (.atomXor sc d a b) sc d a b 6)
def execAtomExch (sc : BitVec 2) (d a b : BitVec 7) (s : State) : Host.Outcome State Fault Refusal :=
  .next (s.atomForm (.atomExch sc d a b) sc d a b 7)

/-- RED (R376, R377): a store that carries its operand; a translation fault never holds its thread. -/
def execRed (sc : BitVec 2) (op : BitVec 3) (a b : BitVec 7) (s : State) : Host.Outcome State Fault Refusal :=
  let al := s.curAlloc
  let gl := s.subset
  .next (s.laneUnit (.red sc op a b) gl false (firstBad [(v2Ok al a, 1, a.toNat), (vOk al b, 2, b.toNat)]) false (fun t =>
    t.laneStores gl (fun l => (s.lane l).v2 a.toNat) (fun l => toBytes 4 ((s.lane l).v b.toNat).toNat) 4
      (some (op.toNat, sc.toNat))))

/-- CAS.W and CAS.D (R331): n bytes. -/
def State.casForm (s : State) (i : Instr) (sc : BitVec 2) (d a b : BitVec 7) (n : Nat) : State :=
  let al := s.curAlloc
  let gl := s.subset
  let ok := fun (x : BitVec 7) => if n = 8 then v2Ok al x else vOk al x
  let val := fun (l : Nat) (x : BitVec 7) =>
    if n = 8 then (s.lane l).v2 x.toNat else ((s.lane l).v x.toNat).zeroExtend 64
  s.laneUnit i gl false (firstBad [(ok d, 0, d.toNat), (v2Ok al a, 1, a.toNat), (ok b, 2, b.toNat)]) false (fun t =>
    t.laneLoads gl (fun l => (s.lane l).v2 a.toNat) n sc.toNat true (fun l => .cas d.toNat (val l d) (val l b)))

def execCasW (sc : BitVec 2) (d a b : BitVec 7) (s : State) : Host.Outcome State Fault Refusal :=
  .next (s.casForm (.casW sc d a b) sc d a b 4)
def execCasD (sc : BitVec 2) (d a b : BitVec 7) (s : State) : Host.Outcome State Fault Refusal :=
  .next (s.casForm (.casD sc d a b) sc d a b 8)

end Sys2Proof.Machine
end

