-- ==== Sys2Proof/Machine/Platform.lean ====
section
/-! DEFINITION. The platform: HARDWARE_QUEUE_REGISTRATION (06, R131); links (01, R11, R14; 11, R221): SPAN_FLIT_CRC_FAIL,
SPAN_LINK_DOWN, VIADUCT_LINK_DOWN; clocks under the power limit (R24): POWER_LIMIT_EXCEEDED, CLOCK_STEP_UP; firmware and
attestation (R233 to R239): POWER_ON, POWER_LOSS, RECOVERY_COMMIT, RECOVERY_REBOOT, GET_MEASUREMENTS. -/

namespace Sys2Proof.Machine

/-! ### Hardware queues (R131) -/

/-- May a descriptor be registered? -/
def descOk (d : List Byte) : Bool :=
  let c := pkt d 8 4
  let cap := c % 32
  1024 > c && 1 ≤ cap && cap ≤ 20 && pkt d 0x0C 4 < 4096 && zeroFrom d 0x14
    && (pkt d 0x10 4 = 0 || (c / 32 % 2 = 1 && c / 512 % 2 = 1))

/-- HARDWARE_QUEUE_REGISTRATION: the lowest free number, which is the handle; its home is the die of the descriptor (R132). -/
def execHardwareQueueRegistration (ctx : Nat) (desc : DWord) (s : State) : Host.Outcome State Fault Refusal :=
  .next (match s.context? ctx, s.ksPlace ctx desc false with
    | some x, some key =>
      let d := s.ksRead ctx desc 64
      match (List.range 4096).find? (fun n => (kvGet s.hwqs n).isNone) with
      | none => s
      | some n =>
        if !s.up || !descOk d then s
        else
          let c := pkt d 8 4
          let a := pkt d 0x0C 4
          let q : HwQueue := { num := n, ctx := ctx, fn := x.reg.fn, desc := desc, home := homeDie key
                               ring := BitVec.ofNat 64 (pkt d 0 8), logcap := c % 32, long := c / 32 % 2 = 1
                               early := c / 64 % 2 = 1, scope := c / 128 % 4, span := c / 512 % 2 = 1
                               adie := a % 16, ax := a / 16 % 32, ay := a / 512 % 8, vocab := BitVec.ofNat 32 (pkt d 0x10 4)
                               entries := [], oovcnt := 0, recv := 0 }
          { s with hwqs := kvPut s.hwqs n q }
    | _, _ => s)

/-! ### Links -/

/-- Are two dies of the part joined by a Span link (R12)? -/
def Part.spanLink (p : Part) (a b : Nat) : Bool :=
  let n := match p with | .adk9201 => 2 | _ => 4
  let one := fun (a b : Nat) => (a < 4 && b < 4 && b = (a + 1) % n) || (b = 5 && a < 5) || (a = 4 && b < 2)
  p.hasDie a && p.hasDie b && a ≠ b && (one a b || one b a)

/-- The key of a link, and the arguments of its log records (R11). -/
def linkKey (a b : Nat) : Nat := 8 * min a b + max a b
def linkArg (a b : Nat) : DWord := BitVec.ofNat 64 (min a b + 256 * max a b)
def linkDir (a b : Nat) : DWord := if a < b then 0 else 1

/-- Is the link between two dies up: of two such links, the one that the turn's choice means (R12)? -/
def State.linkUp (s : State) (a b : Nat) : Bool :=
  s.part.spanLink a b && (kvGet s.linksDown (linkKey a b + s.linkSel a b)).isNone

/-- Is a Viaduct port there and up (R221)? -/
def State.portUp (s : State) (p : Nat) : Bool := decide (p < s.part.viaducts) && !s.viaductDown.contains p

/-- One more failure in a row of a flit: the tenth and later ones count as nine. -/
def State.flitFails (s : State) (k : Nat) : State := { s with retries := kvPut s.retries k (min 9 (kvGetD 0 s.retries k + 1)) }

/-- SPAN_FLIT_CRC_FAIL (R14, R221): a flit on a link that carries traffic fails its check and is sent again; the messages stay as they
are. A source of 64 + p is Viaduct port p, whose flits are those of fabric writes. -/
def execSpanFlitCrcFail (src dst : Nat) (s : State) : Host.Outcome State Fault Refusal :=
  .next (
    if 64 ≤ src then
      if s.portUp (src - 64) && s.ports.any (fun w => decide (spaceOf w.key = spFabric)) then s.flitFails src else s
    else if s.linkUp src dst && !s.chans.isEmpty then s.flitFails (8 * src + dst + s.linkSel src dst)
    else s)

/-- SPAN_LINK_DOWN (R14): a flit has failed, and failed eight retransmissions in a row. Traffic between dies other than the
Keystone's goes through it from then on, in unchanged order. The records name the sending die, and a link of the Keystone die itself goes
on delivering, with no reroute to record (log 47, DESIGN CHOICE). -/
def execSpanLinkDown (src dst : Nat) (s : State) : Host.Outcome State Fault Refusal :=
  let sel := s.linkSel src dst
  .next (
    if s.linkUp src dst && 9 ≤ kvGetD 0 s.retries (8 * src + dst + sel) then
      let s : State := { s with linksDown := kvPut s.linksDown (linkKey src dst + sel) 1
                                retries := kvDel (kvDel s.retries (8 * src + dst + sel)) (8 * dst + src + sel) }
      let s : State := s.logWrite false 0x0001 src 0 0 (linkArg src dst) (linkDir src dst)
      if src = 5 || dst = 5 then s else s.logWrite true 0x0103 src 0 0 (linkArg src dst) (linkDir src dst)
    else s)

/-- VIADUCT_LINK_DOWN (R11, R14, R221): a flit of the port that is the turn's choice has failed, and failed eight retransmissions in a
row. -/
def execViaductLinkDown (s : State) : Host.Outcome State Fault Refusal :=
  .next (
    if s.portUp s.choice && 9 ≤ kvGetD 0 s.retries (64 + s.choice) then
      ({ s with viaductDown := s.viaductDown ++ [s.choice], retries := kvDel s.retries (64 + s.choice) } : State).logWrite
        false 0x0002 5 0 0 (BitVec.ofNat 64 s.choice) 0
    else s)

/-! ### Clocks under the power limit (R24) -/

/-- Is there such a cluster, with no protected context on it? -/
def State.openCluster (s : State) (cl : Nat) : Bool :=
  s.part.hasDie (cl / 32) && cl / 32 < 5 && cl % 32 < (if cl / 32 = 4 then 4 else 18) && (s.cluster cl).active.isNone

/-- POWER_LIMIT_EXCEEDED: the cluster that is the turn's choice goes down by 50 MHz, to no less than 600. -/
def execPowerLimitExceeded (s : State) : Host.Outcome State Fault Refusal :=
  .next (
    let m := (s.cluster s.choice).mhz
    if s.openCluster s.choice && 650 ≤ m then s.setClock s.choice (m - 50) else s)

/-- CLOCK_STEP_UP: once power allows, the cluster goes up by 50 MHz, to no more than 1,050. -/
def execClockStepUp (s : State) : Host.Outcome State Fault Refusal :=
  .next (
    let m := (s.cluster s.choice).mhz
    if s.openCluster s.choice && m ≤ 1000 then s.setClock s.choice (m + 50) else s)

/-! ### Flash (R233, R234, R238; log 21, DESIGN CHOICE) -/

def slotBytes : Nat := 33554432
def signatureBytes : Nat := 4627

/-- The places in flash of a slot, a marker record and the variant record. -/
def slotKey (b : Nat) : Nat := keyOf spFlash (b * slotBytes)
def markerKey (r : Nat) : Nat := keyOf spFlash (67108864 + r * 131072)
def variantAt : Nat := keyOf spFlash 67371008
def variantBytes : Nat := 8192

/-- SHA3-512 (log 9, DESIGN CHOICE). -/
def sha3 (m : List Byte) : List Byte := (List.range 64).map (Config.sha3Byte m)

/-- The digest and signature of an image, or none for a bad header. -/
def imageParts (bs : List Byte) : Option (List Byte × List Byte) :=
  match Config.imageBytes bs with
  | none => none
  | some n => if n + signatureBytes ≤ bs.length then some (sha3 (bs.take n), (bs.drop n).take signatureBytes) else none

/-- What keeps a slot from booting, coded as AERR (R233, R237); the digest is compared where one is given. The turn's choice says for
each slot whether its flash can be read: bit 0 for slot A, bit 1 for slot B (log 21, DESIGN CHOICE). -/
def State.slotError (s : State) (b : Nat) (digest : Option (List Byte)) : Nat :=
  if s.choice.testBit b then 4
  else match imageParts (s.readBytes (slotKey b) slotBytes) with
  | none => 1
  | some (d, sig) =>
    let other : Bool := match digest with | some x => decide (x ≠ d) | none => false
    if other then 2
    else if Config.mldsaVerify d sig then 0 else 3

/-- A marker record: its counter, slot and digest (R234). -/
structure Marker where
  counter : Word
  slot : Nat
  digest : List Byte
  deriving DecidableEq, Repr

/-- Record r, where it is valid. -/
def State.marker (s : State) (r : Nat) : Option Marker :=
  let b := s.readBytes (markerKey r) 128
  if pkt b 0 4 = 0x4D41524B && pkt b 8 4 < 2 && pkt b 0x0C 4 = 0 && ((b.drop 0x50).take 16).all (· = 0)
      && (b.drop 0x60).take 32 = (sha3 (b.take 0x60)).take 32 then
    some ⟨BitVec.ofNat 32 (pkt b 4 4), pkt b 8 4, (b.drop 0x10).take 64⟩
  else none

/-- The record that wins the selection, with its number (R235). -/
def State.winner (s : State) : Option (Nat × Marker) :=
  match s.marker 0, s.marker 1 with
  | some a, some b => some (if serialGe a.counter b.counter then (0, a) else (1, b))
  | some a, none => some (0, a)
  | none, some b => some (1, b)
  | none, none => none

/-- The bytes of a marker record (R234). -/
def markerRecord (counter slot : Nat) (digest : List Byte) : List Byte :=
  let b := toBytes 4 0x4D41524B ++ toBytes 4 counter ++ toBytes 4 slot ++ zeros 4 ++ digest ++ zeros 16
  b ++ (sha3 b).take 32

/-- Do the signature and binding of the variant record hold (R238)? -/
def State.variantOk (s : State) : Bool :=
  let v := s.readBytes variantAt variantBytes
  let n := variantBytes - signatureBytes
  Config.mldsaVerify (sha3 (v.take n)) (v.drop n) && Config.variantKey v = sha3 ((List.range 2592).map Config.idKeyByte)

/-! ### Booting and power (R235, R238) -/

/-- What outlives a loss of power: flash, and memory that is not the package's own. -/
def outlives (c : Host.Cell) : Bool := [spHost, spCxl, spFabric, spFlash].contains (spaceOf c.1)

/-- The device with all its volatile state at its reset values. -/
def State.cold (s : State) : State :=
  { State.reset with part := s.part, mem := s.mem.filter outlives, agenda := s.agenda, nextSeq := s.nextSeq, freeCtr := s.freeCtr
                     choice := s.choice }

/-- The part whose CAPS the variant record carries (R238; log 21, DESIGN CHOICE). -/
def variantPart (record : List Byte) : Part :=
  match Config.variantPart record with | 1 => .adk9405 | 2 => .adk9201 | _ => .adk9601

/-- The boot ROM (R235, R238): the variant record, then the named slot, else the other by its signature alone, else recovery. -/
def State.boot (s : State) : State :=
  let w := s.winner
  let named := match w with | some (_, m) => m.slot | none => 0
  let e1 := s.slotError named (w.map (fun p => p.2.digest))
  let e2 := s.slotError (1 - named) none
  let var := s.variantOk
  let s : State := if var then { s with part := variantPart (s.readBytes variantAt variantBytes) } else s
  if var && (e1 = 0 || e2 = 0) then
    { s with recov := { s.recov with active := false, running := some (if e1 = 0 then named else 1 - named) } }
  else
    { s with recov := { s.recov with
        active := true, running := none, varerr := if var then 0 else 1
        aerr := if named = 0 then e1 else e2
        berr := if named = 0 then e2 else e1 } }

/-- POWER_ON (R235). -/
def execPowerOn (s : State) : Host.Outcome State Fault Refusal := .next (if s.powered then s else s.cold.boot)

/-! ### Recovery (R236, R237) -/

/-- What a commit would write: the slot, the image, the record's number and bytes; or the code of STAGE. -/
def State.commitPlan (s : State) : Except Nat (Nat × List Byte × Nat × List Byte) :=
  let n := s.recov.slen.toNat
  if slotBytes < n then .error 2
  else
    let img := s.readBytes (keyOf spStage 0) n
    match imageParts img with
    | none => .error 3
    | some (d, sig) =>
      if !Config.mldsaVerify d sig then .error 3
      else
        let slot := if s.recov.aerr ≠ 0 then 0 else 1
        let w := s.winner
        let rec' := match w with | some (r, _) => 1 - r | none => 0
        let counter := match w with | some (_, m) => (m.counter + 1).toNat | none => 1
        .ok (slot, img, rec', markerRecord counter slot d)

/-- RECOVERY_COMMIT (R236, R237): the command sets BUSY; the commit's own turn verifies and writes. One that fails writes no
flash; the turn's choice may be 1, a write that flash refuses (R237; log 21, DESIGN CHOICE). -/
def execRecoveryCommit (s : State) : Host.Outcome State Fault Refusal :=
  .next (
    if !s.powered || !s.recov.active then s
    else if !s.recov.busy then { s with recov := { s.recov with busy := true } }
    else match s.commitPlan with
      | .error e => { s with recov := { s.recov with stage := e, busy := false } }
      | .ok (slot, img, r, rec') =>
        if s.choice = 1 then { s with recov := { s.recov with stage := 4, busy := false } }
        else
        let s : State := (s.writeBytes (slotKey slot) img).writeBytes (markerKey r) rec'
        { s with recov := { s.recov with stage := 1, busy := false } })

/-- RECOVERY_REBOOT (R237). -/
def execRecoveryReboot (s : State) : Host.Outcome State Fault Refusal :=
  .next (if s.powered && s.recov.active && !s.recov.busy then s.cold.boot else s)

/-- A write to flash that power fails in after `k` bytes: those are written, and the rest of the range holds bytes that nothing
fixes (R234, R236). -/
def State.tornWrite (s : State) (key k : Nat) (bs : List Byte) : State :=
  if bs.length ≤ k then s.writeBytes key bs
  else
    let rest := (List.range (bs.length - k)).map (fun i => Config.freeByte (s.freeCtr + i))
    ({ s with freeCtr := s.freeCtr + (bs.length - k) } : State).writeBytes key (bs.take k ++ rest)

/-- POWER_LOSS (R236): all volatile state goes. A choice of n + 1 lets power fail n bytes into the flash writes of a commit, of
its slot and then of its marker record. -/
def execPowerLoss (s : State) : Host.Outcome State Fault Refusal :=
  .next (
    if !s.powered then s
    else
      let t : State := match s.choice, s.recov.busy, s.commitPlan with
        | n + 1, true, .ok (slot, img, r, rec') =>
          if n < img.length then s.tornWrite (slotKey slot) n img
          else (s.writeBytes (slotKey slot) img).tornWrite (markerKey r) (n - img.length) rec'
        | _, _, _ => s
      { t.cold with powered := false })

/-! ### Attestation (R239) -/

/-- GET_MEASUREMENTS: ROM version, the digests of the running image and of the variant record, and the interface state of the
function that is the turn's choice; the answer is signed by the identity key. -/
def execGetMeasurements (s : State) : Host.Outcome State Fault Refusal :=
  .next (
    if !s.powered then s
    else
      let image : List Byte := match s.recov.running with
        | some b => (match imageParts (s.readBytes (slotKey b) slotBytes) with | some (d, _) => d | none => [])
        | none => []
      let blocks := [toBytes 4 Config.romVersion.toNat, image, sha3 (s.readBytes variantAt variantBytes),
        toBytes 4 (s.iface s.choice).state]
      { s with recov := { s.recov with measured := blocks, signature := Config.mldsaSign blocks.flatten } })

end Sys2Proof.Machine
end

