-- ==== Sys2Proof/Machine/Prefix.lean ====
section
/-! DEFINITION. The prefixes EXT and PAT (18, R277 to R279; 20, R337; 21, R368): the word they govern runs with the prefix's
immediate or patterns, as one unit. -/

namespace Sys2Proof.Machine

/-- EXT: an immediate for MOVI, or an offset for a lane load, store or prefetch (R276, R277). -/
def execExt (imm : BitVec 25) (w : Word) (s : State) : Host.Outcome State Fault Refusal :=
  if !extGoverns imm w then .next (s.badPrefix (Instr.ext imm w).word)
  else
  let s : State := { s with cur := { s.cur with pfx := .ext imm } }
  match decodeWord w.toNat with
  | some (.movi g d imm) => Sys2Proof.Machine.execMovi g d imm s
  | some (.ldB g d a sb) => Sys2Proof.Machine.execLdB g d a sb s
  | some (.ldSb g d a sb) => Sys2Proof.Machine.execLdSb g d a sb s
  | some (.ldH g d a sb) => Sys2Proof.Machine.execLdH g d a sb s
  | some (.ldSh g d a sb) => Sys2Proof.Machine.execLdSh g d a sb s
  | some (.ldW g d a sb) => Sys2Proof.Machine.execLdW g d a sb s
  | some (.ldD g d a sb) => Sys2Proof.Machine.execLdD g d a sb s
  | some (.ldQ g d a sb) => Sys2Proof.Machine.execLdQ g d a sb s
  | some (.prf g a sb) => Sys2Proof.Machine.execPrf g a sb s
  | some (.stB g d a sb) => Sys2Proof.Machine.execStB g d a sb s
  | some (.stH g d a sb) => Sys2Proof.Machine.execStH g d a sb s
  | some (.stW g d a sb) => Sys2Proof.Machine.execStW g d a sb s
  | some (.stD g d a sb) => Sys2Proof.Machine.execStD g d a sb s
  | some (.stQ g d a sb) => Sys2Proof.Machine.execStQ g d a sb s
  | _ => .next (s.illegalWord w)

/-- PAT: patterns for the lane sources of a lane arithmetic word (R278, R368). -/
def execPat (a b : BitVec 8) (w : Word) (s : State) : Host.Outcome State Fault Refusal :=
  if !patGoverns a b w then .next (s.badPrefix (Instr.pat a b w).word)
  else
  let s : State := { s with cur := { s.cur with pfx := .pat a b } }
  match decodeWord w.toNat with
  | some (.iadd g d a b) => Sys2Proof.Machine.execIadd g d a b s
  | some (.isub g d a b) => Sys2Proof.Machine.execIsub g d a b s
  | some (.imul g d a b) => Sys2Proof.Machine.execImul g d a b s
  | some (.imulh g d a b) => Sys2Proof.Machine.execImulh g d a b s
  | some (.imulhu g d a b) => Sys2Proof.Machine.execImulhu g d a b s
  | some (.imad g d a b) => Sys2Proof.Machine.execImad g d a b s
  | some (.imin g d a b) => Sys2Proof.Machine.execImin g d a b s
  | some (.imax g d a b) => Sys2Proof.Machine.execImax g d a b s
  | some (.iminu g d a b) => Sys2Proof.Machine.execIminu g d a b s
  | some (.imaxu g d a b) => Sys2Proof.Machine.execImaxu g d a b s
  | some (.isel n d a b) => Sys2Proof.Machine.execIsel n d a b s
  | some (.iabsd g d a b) => Sys2Proof.Machine.execIabsd g d a b s
  | some (.and g d a b) => Sys2Proof.Machine.execAnd g d a b s
  | some (.or g d a b) => Sys2Proof.Machine.execOr g d a b s
  | some (.xor g d a b) => Sys2Proof.Machine.execXor g d a b s
  | some (.andn g d a b) => Sys2Proof.Machine.execAndn g d a b s
  | some (.shl g d a b) => Sys2Proof.Machine.execShl g d a b s
  | some (.shr g d a b) => Sys2Proof.Machine.execShr g d a b s
  | some (.shra g d a b) => Sys2Proof.Machine.execShra g d a b s
  | some (.rotl g d a b) => Sys2Proof.Machine.execRotl g d a b s
  | some (.popc g d a) => Sys2Proof.Machine.execPopc g d a s
  | some (.clz g d a) => Sys2Proof.Machine.execClz g d a s
  | some (.brev g d a) => Sys2Proof.Machine.execBrev g d a s
  | some (.bfx g d a b) => Sys2Proof.Machine.execBfx g d a b s
  | some (.bfi g d a b) => Sys2Proof.Machine.execBfi g d a b s
  | some (.icmp g cond p a b) => Sys2Proof.Machine.execIcmp g cond p a b s
  | some (.fcmp g cond p a b) => Sys2Proof.Machine.execFcmp g cond p a b s
  | some (.mov g d a) => Sys2Proof.Machine.execMov g d a s
  | some (.fadd g d a b) => Sys2Proof.Machine.execFadd g d a b s
  | some (.fsub g d a b) => Sys2Proof.Machine.execFsub g d a b s
  | some (.fmul g d a b) => Sys2Proof.Machine.execFmul g d a b s
  | some (.ffma g d a b) => Sys2Proof.Machine.execFfma g d a b s
  | some (.fmin g d a b) => Sys2Proof.Machine.execFmin g d a b s
  | some (.fmax g d a b) => Sys2Proof.Machine.execFmax g d a b s
  | some (.frnd g d a code) => Sys2Proof.Machine.execFrnd g d a code s
  | some (.fcvt g d a code) => Sys2Proof.Machine.execFcvt g d a code s
  | some (.hadd2 g d a b) => Sys2Proof.Machine.execHadd2 g d a b s
  | some (.hmul2 g d a b) => Sys2Proof.Machine.execHmul2 g d a b s
  | some (.hfma2 g d a b) => Sys2Proof.Machine.execHfma2 g d a b s
  | some (.hmax2 g d a b) => Sys2Proof.Machine.execHmax2 g d a b s
  | some (.badd2 g d a b) => Sys2Proof.Machine.execBadd2 g d a b s
  | some (.bmul2 g d a b) => Sys2Proof.Machine.execBmul2 g d a b s
  | some (.bfma2 g d a b) => Sys2Proof.Machine.execBfma2 g d a b s
  | some (.bmax2 g d a b) => Sys2Proof.Machine.execBmax2 g d a b s
  | some (.dadd g d a b) => Sys2Proof.Machine.execDadd g d a b s
  | some (.dmul g d a b) => Sys2Proof.Machine.execDmul g d a b s
  | some (.dfma g d a b) => Sys2Proof.Machine.execDfma g d a b s
  | some (.dcvt g d a code) => Sys2Proof.Machine.execDcvt g d a code s
  | _ => .next (s.illegalWord w)

end Sys2Proof.Machine
end

