-- ==== Sys2Proof/Machine/Dispatch.lean ====
section
/-! DEFINITION. The dispatch: one arm for each constructor of Instr, each a direct call of its meaning. -/

namespace Sys2Proof.Machine

/-- What an instruction, or a step of another agent, does to the device. -/
def exec (i : Instr) (s : State) : Host.Outcome State Fault Refusal :=
  match i with
  | .iadd g d a b => Sys2Proof.Machine.execIadd g d a b s
  | .isub g d a b => Sys2Proof.Machine.execIsub g d a b s
  | .imul g d a b => Sys2Proof.Machine.execImul g d a b s
  | .imulh g d a b => Sys2Proof.Machine.execImulh g d a b s
  | .imulhu g d a b => Sys2Proof.Machine.execImulhu g d a b s
  | .imad g d a b => Sys2Proof.Machine.execImad g d a b s
  | .imin g d a b => Sys2Proof.Machine.execImin g d a b s
  | .imax g d a b => Sys2Proof.Machine.execImax g d a b s
  | .iminu g d a b => Sys2Proof.Machine.execIminu g d a b s
  | .imaxu g d a b => Sys2Proof.Machine.execImaxu g d a b s
  | .isel n d a b => Sys2Proof.Machine.execIsel n d a b s
  | .iabsd g d a b => Sys2Proof.Machine.execIabsd g d a b s
  | .and g d a b => Sys2Proof.Machine.execAnd g d a b s
  | .or g d a b => Sys2Proof.Machine.execOr g d a b s
  | .xor g d a b => Sys2Proof.Machine.execXor g d a b s
  | .andn g d a b => Sys2Proof.Machine.execAndn g d a b s
  | .shl g d a b => Sys2Proof.Machine.execShl g d a b s
  | .shr g d a b => Sys2Proof.Machine.execShr g d a b s
  | .shra g d a b => Sys2Proof.Machine.execShra g d a b s
  | .rotl g d a b => Sys2Proof.Machine.execRotl g d a b s
  | .popc g d a => Sys2Proof.Machine.execPopc g d a s
  | .clz g d a => Sys2Proof.Machine.execClz g d a s
  | .brev g d a => Sys2Proof.Machine.execBrev g d a s
  | .bfx g d a b => Sys2Proof.Machine.execBfx g d a b s
  | .bfi g d a b => Sys2Proof.Machine.execBfi g d a b s
  | .icmp g cond p a b => Sys2Proof.Machine.execIcmp g cond p a b s
  | .fcmp g cond p a b => Sys2Proof.Machine.execFcmp g cond p a b s
  | .mov g d a => Sys2Proof.Machine.execMov g d a s
  | .fadd g d a b => Sys2Proof.Machine.execFadd g d a b s
  | .fsub g d a b => Sys2Proof.Machine.execFsub g d a b s
  | .fmul g d a b => Sys2Proof.Machine.execFmul g d a b s
  | .ffma g d a b => Sys2Proof.Machine.execFfma g d a b s
  | .fmin g d a b => Sys2Proof.Machine.execFmin g d a b s
  | .fmax g d a b => Sys2Proof.Machine.execFmax g d a b s
  | .frnd g d a code => Sys2Proof.Machine.execFrnd g d a code s
  | .fcvt g d a code => Sys2Proof.Machine.execFcvt g d a code s
  | .hadd2 g d a b => Sys2Proof.Machine.execHadd2 g d a b s
  | .hmul2 g d a b => Sys2Proof.Machine.execHmul2 g d a b s
  | .hfma2 g d a b => Sys2Proof.Machine.execHfma2 g d a b s
  | .hmax2 g d a b => Sys2Proof.Machine.execHmax2 g d a b s
  | .badd2 g d a b => Sys2Proof.Machine.execBadd2 g d a b s
  | .bmul2 g d a b => Sys2Proof.Machine.execBmul2 g d a b s
  | .bfma2 g d a b => Sys2Proof.Machine.execBfma2 g d a b s
  | .bmax2 g d a b => Sys2Proof.Machine.execBmax2 g d a b s
  | .dadd g d a b => Sys2Proof.Machine.execDadd g d a b s
  | .dmul g d a b => Sys2Proof.Machine.execDmul g d a b s
  | .dfma g d a b => Sys2Proof.Machine.execDfma g d a b s
  | .dcvt g d a code => Sys2Proof.Machine.execDcvt g d a code s
  | .vnbr g d a code => Sys2Proof.Machine.execVnbr g d a code s
  | .vscan g d a code => Sys2Proof.Machine.execVscan g d a code s
  | .vred g d a code => Sys2Proof.Machine.execVred g d a code s
  | .vvote g d p code => Sys2Proof.Machine.execVvote g d p code s
  | .vqnsE2m1 g d a b => Sys2Proof.Machine.execVqnsE2m1 g d a b s
  | .vqnsI4h g d a b => Sys2Proof.Machine.execVqnsI4h g d a b s
  | .vqnsI8h g d a b => Sys2Proof.Machine.execVqnsI8h g d a b s
  | .vdq g d a b => Sys2Proof.Machine.execVdq g d a b s
  | .sfq g d a code => Sys2Proof.Machine.execSfq g d a code s
  | .sread g d sel => Sys2Proof.Machine.execSread g d sel s
  | .will g a b => Sys2Proof.Machine.execWill g a b s
  | .heirq g d b => Sys2Proof.Machine.execHeirq g d b s
  | .pand g d a b => Sys2Proof.Machine.execPand g d a b s
  | .por g d a b => Sys2Proof.Machine.execPor g d a b s
  | .pxor g d a b => Sys2Proof.Machine.execPxor g d a b s
  | .pnand g d a b => Sys2Proof.Machine.execPnand g d a b s
  | .movi g d imm => Sys2Proof.Machine.execMovi g d imm s
  | .iaddi g d a imm => Sys2Proof.Machine.execIaddi g d a imm s
  | .ldB g d a sb => Sys2Proof.Machine.execLdB g d a sb s
  | .ldSb g d a sb => Sys2Proof.Machine.execLdSb g d a sb s
  | .ldH g d a sb => Sys2Proof.Machine.execLdH g d a sb s
  | .ldSh g d a sb => Sys2Proof.Machine.execLdSh g d a sb s
  | .ldW g d a sb => Sys2Proof.Machine.execLdW g d a sb s
  | .ldD g d a sb => Sys2Proof.Machine.execLdD g d a sb s
  | .ldQ g d a sb => Sys2Proof.Machine.execLdQ g d a sb s
  | .prf g a sb => Sys2Proof.Machine.execPrf g a sb s
  | .stB g d a sb => Sys2Proof.Machine.execStB g d a sb s
  | .stH g d a sb => Sys2Proof.Machine.execStH g d a sb s
  | .stW g d a sb => Sys2Proof.Machine.execStW g d a sb s
  | .stD g d a sb => Sys2Proof.Machine.execStD g d a sb s
  | .stQ g d a sb => Sys2Proof.Machine.execStQ g d a sb s
  | .atomAdd sc d a b => Sys2Proof.Machine.execAtomAdd sc d a b s
  | .atomFadd sc d a b => Sys2Proof.Machine.execAtomFadd sc d a b s
  | .atomMin sc d a b => Sys2Proof.Machine.execAtomMin sc d a b s
  | .atomMax sc d a b => Sys2Proof.Machine.execAtomMax sc d a b s
  | .atomAnd sc d a b => Sys2Proof.Machine.execAtomAnd sc d a b s
  | .atomOr sc d a b => Sys2Proof.Machine.execAtomOr sc d a b s
  | .atomXor sc d a b => Sys2Proof.Machine.execAtomXor sc d a b s
  | .atomExch sc d a b => Sys2Proof.Machine.execAtomExch sc d a b s
  | .red sc op a b => Sys2Proof.Machine.execRed sc op a b s
  | .casW sc d a b => Sys2Proof.Machine.execCasW sc d a b s
  | .casD sc d a b => Sys2Proof.Machine.execCasD sc d a b s
  | .bra g off => Sys2Proof.Machine.execBra g off s
  | .call g off => Sys2Proof.Machine.execCall g off s
  | .ret g => Sys2Proof.Machine.execRet g s
  | .jmpr g a => Sys2Proof.Machine.execJmpr g a s
  | .exit g => Sys2Proof.Machine.execExit g s
  | .reform g => Sys2Proof.Machine.execReform g s
  | .join g k => Sys2Proof.Machine.execJoin g k s
  | .sfwait g mask => Sys2Proof.Machine.execSfwait g mask s
  | .nop g => Sys2Proof.Machine.execNop g s
  | .trapl g code => Sys2Proof.Machine.execTrapl g code s
  | .ext imm w => Sys2Proof.Machine.execExt imm w s
  | .pat a b w => Sys2Proof.Machine.execPat a b w s
  | .sadd g d a b => Sys2Proof.Machine.execSadd g d a b s
  | .ssub g d a b => Sys2Proof.Machine.execSsub g d a b s
  | .smul g d a b => Sys2Proof.Machine.execSmul g d a b s
  | .smulh g d a b => Sys2Proof.Machine.execSmulh g d a b s
  | .sand g d a b => Sys2Proof.Machine.execSand g d a b s
  | .sor g d a b => Sys2Proof.Machine.execSor g d a b s
  | .sxor g d a b => Sys2Proof.Machine.execSxor g d a b s
  | .sshl g d a b => Sys2Proof.Machine.execSshl g d a b s
  | .sshr g d a b => Sys2Proof.Machine.execSshr g d a b s
  | .sshra g d a b => Sys2Proof.Machine.execSshra g d a b s
  | .smin g d a b => Sys2Proof.Machine.execSmin g d a b s
  | .smax g d a b => Sys2Proof.Machine.execSmax g d a b s
  | .scmp g cond q a b => Sys2Proof.Machine.execScmp g cond q a b s
  | .ssel n d a b => Sys2Proof.Machine.execSsel n d a b s
  | .smov g d a => Sys2Proof.Machine.execSmov g d a s
  | .ssr g d sel => Sys2Proof.Machine.execSsr g d sel s
  | .smovi g d imm => Sys2Proof.Machine.execSmovi g d imm s
  | .saddi g d a imm => Sys2Proof.Machine.execSaddi g d a imm s
  | .sldW g d a imm => Sys2Proof.Machine.execSldW g d a imm s
  | .sldD g d a imm => Sys2Proof.Machine.execSldD g d a imm s
  | .sstW g d a imm => Sys2Proof.Machine.execSstW g d a imm s
  | .sstD g d a imm => Sys2Proof.Machine.execSstD g d a imm s
  | .qand g d a b => Sys2Proof.Machine.execQand g d a b s
  | .qor g d a b => Sys2Proof.Machine.execQor g d a b s
  | .qxor g d a b => Sys2Proof.Machine.execQxor g d a b s
  | .qnand g d a b => Sys2Proof.Machine.execQnand g d a b s
  | .sbra g off => Sys2Proof.Machine.execSbra g off s
  | .barSync g lvl n => Sys2Proof.Machine.execBarSync g lvl n s
  | .barArv g lvl n => Sys2Proof.Machine.execBarArv g lvl n s
  | .barWait g lvl n => Sys2Proof.Machine.execBarWait g lvl n s
  | .barQry g lvl n d => Sys2Proof.Machine.execBarQry g lvl n d s
  | .kset g d => Sys2Proof.Machine.execKset g d s
  | .kand g d a b => Sys2Proof.Machine.execKand g d a b s
  | .kor g d a b => Sys2Proof.Machine.execKor g d a b s
  | .kmov g d a => Sys2Proof.Machine.execKmov g d a s
  | .waitc g ld st cp mx => Sys2Proof.Machine.execWaitc g ld st cp mx s
  | .fence g sc k => Sys2Proof.Machine.execFence g sc k s
  | .smode g a => Sys2Proof.Machine.execSmode g a s
  | .yield g => Sys2Proof.Machine.execYield g s
  | .mma g a acc => Sys2Proof.Machine.execMma g a acc s
  | .aswap g a acc => Sys2Proof.Machine.execAswap g a acc s
  | .azero g a acc => Sys2Proof.Machine.execAzero g a acc s
  | .ald g a acc => Sys2Proof.Machine.execAld g a acc s
  | .ast g a acc => Sys2Proof.Machine.execAst g a acc s
  | .tcopy g a => Sys2Proof.Machine.execTcopy g a s
  | .tqst g a => Sys2Proof.Machine.execTqst g a s
  | .tchain g a => Sys2Proof.Machine.execTchain g a s
  | .trot g a => Sys2Proof.Machine.execTrot g a s
  | .awinit g a b => Sys2Proof.Machine.execAwinit g a b s
  | .awwait g a b => Sys2Proof.Machine.execAwwait g a b s
  | .awqry g a d => Sys2Proof.Machine.execAwqry g a d s
  | .tfetch g q => Sys2Proof.Machine.execTfetch g q s
  | .bpost g d a b => Sys2Proof.Machine.execBpost g d a b s
  | .bqry g d => Sys2Proof.Machine.execBqry g d s
  | .sibchk g => Sys2Proof.Machine.execSibchk g s
  | .waitm g cond a b => Sys2Proof.Machine.execWaitm g cond a b s
  | .seal g a b => Sys2Proof.Machine.execSeal g a b s
  | .unseal g a b => Sys2Proof.Machine.execUnseal g a b s
  | .qpushD g d a => Sys2Proof.Machine.execQpushD g d a s
  | .qpushL g d a => Sys2Proof.Machine.execQpushL g d a s
  | .qpopD g d a => Sys2Proof.Machine.execQpopD g d a s
  | .qpopL g d a => Sys2Proof.Machine.execQpopL g d a s
  | .qtryD g d a => Sys2Proof.Machine.execQtryD g d a s
  | .qtryL g d a => Sys2Proof.Machine.execQtryL g d a s
  | .trap g code => Sys2Proof.Machine.execTrap g code s
  | .rett g a => Sys2Proof.Machine.execRett g a s
  | .brkpt g => Sys2Proof.Machine.execBrkpt g s
  | .queueDoorbell q wptr => Sys2Proof.Machine.execQueueDoorbell q wptr s
  | .queueEnableWrite q val => Sys2Proof.Machine.execQueueEnableWrite q val s
  | .withdraw q tag => Sys2Proof.Machine.execWithdraw q tag s
  | .wclear q => Sys2Proof.Machine.execWclear q s
  | .queueReset q => Sys2Proof.Machine.execQueueReset q s
  | .queueResume q => Sys2Proof.Machine.execQueueResume q s
  | .registerWrite fn off val => Sys2Proof.Machine.execRegisterWrite fn off val s
  | .launch q => Sys2Proof.Machine.execLaunch q s
  | .fencePacket q => Sys2Proof.Machine.execFencePacket q s
  | .fencePacketPoll q => Sys2Proof.Machine.execFencePacketPoll q s
  | .signal q => Sys2Proof.Machine.execSignal q s
  | .batch q => Sys2Proof.Machine.execBatch q s
  | .sibopen q => Sys2Proof.Machine.execSibopen q s
  | .lineageClose q => Sys2Proof.Machine.execLineageClose q s
  | .save q => Sys2Proof.Machine.execSave q s
  | .restore q => Sys2Proof.Machine.execRestore q s
  | .pierPlace core => Sys2Proof.Machine.execPierPlace core s
  | .workgroupBirth core => Sys2Proof.Machine.execWorkgroupBirth core s
  | .pierStop core => Sys2Proof.Machine.execPierStop core s
  | .saveImageWritten core => Sys2Proof.Machine.execSaveImageWritten core s
  | .pierResume core => Sys2Proof.Machine.execPierResume core s
  | .pierDiscard core => Sys2Proof.Machine.execPierDiscard core s
  | .savedWorkgroupExchange core => Sys2Proof.Machine.execSavedWorkgroupExchange core s
  | .barrierArrivalCounted id => Sys2Proof.Machine.execBarrierArrivalCounted id s
  | .tfetchComplete core => Sys2Proof.Machine.execTfetchComplete core s
  | .reformBinTimeout core key => Sys2Proof.Machine.execReformBinTimeout core key s
  | .starvationPriority core part unif => Sys2Proof.Machine.execStarvationPriority core part unif s
  | .sfqResult id lane => Sys2Proof.Machine.execSfqResult id lane s
  | .estateSettle id => Sys2Proof.Machine.execEstateSettle id s
  | .lineageCloseFinish id => Sys2Proof.Machine.execLineageCloseFinish id s
  | .engineCommandBegin id => Sys2Proof.Machine.execEngineCommandBegin id s
  | .multicastFetch id => Sys2Proof.Machine.execMulticastFetch id s
  | .copyChunkWrite id len => Sys2Proof.Machine.execCopyChunkWrite id len s
  | .tensorCommandComplete id => Sys2Proof.Machine.execTensorCommandComplete id s
  | .loadSatisfy id => Sys2Proof.Machine.execLoadSatisfy id s
  | .storeBufferDrain id => Sys2Proof.Machine.execStoreBufferDrain id s
  | .writePathLeave id => Sys2Proof.Machine.execWritePathLeave id s
  | .clusterAtomicPathLeave id => Sys2Proof.Machine.execClusterAtomicPathLeave id s
  | .waitmPoll core team => Sys2Proof.Machine.execWaitmPoll core team s
  | .l1ViewDrop core line => Sys2Proof.Machine.execL1ViewDrop core line s
  | .l1ViewFill core line => Sys2Proof.Machine.execL1ViewFill core line s
  | .dieCopyDrop die line => Sys2Proof.Machine.execDieCopyDrop die line s
  | .gateApply src dst => Sys2Proof.Machine.execGateApply src dst s
  | .portAcknowledge id => Sys2Proof.Machine.execPortAcknowledge id s
  | .fenceComplete id => Sys2Proof.Machine.execFenceComplete id s
  | .qpushEnterRing id => Sys2Proof.Machine.execQpushEnterRing id s
  | .qpopDeliver id => Sys2Proof.Machine.execQpopDeliver id s
  | .sealComplete id => Sys2Proof.Machine.execSealComplete id s
  | .unsealComplete id => Sys2Proof.Machine.execUnsealComplete id s
  | .pageWalkComplete die ctx vpage => Sys2Proof.Machine.execPageWalkComplete die ctx vpage s
  | .faultPost id => Sys2Proof.Machine.execFaultPost id s
  | .faultRespReplay seq => Sys2Proof.Machine.execFaultRespReplay seq s
  | .faultRespFail seq => Sys2Proof.Machine.execFaultRespFail seq s
  | .redReplayBufferMove id => Sys2Proof.Machine.execRedReplayBufferMove id s
  | .softErrorUncorrectable pa => Sys2Proof.Machine.execSoftErrorUncorrectable pa s
  | .spanFlitCrcFail src dst => Sys2Proof.Machine.execSpanFlitCrcFail src dst s
  | .spanLinkDown src dst => Sys2Proof.Machine.execSpanLinkDown src dst s
  | .ballotPostAccept id => Sys2Proof.Machine.execBallotPostAccept id s
  | .siblingCancelNotify slot => Sys2Proof.Machine.execSiblingCancelNotify slot s
  | .bpostStatusDeliver id => Sys2Proof.Machine.execBpostStatusDeliver id s
  | .bqryResultDeliver id => Sys2Proof.Machine.execBqryResultDeliver id s
  | .pageReleaseWalk slot => Sys2Proof.Machine.execPageReleaseWalk slot s
  | .accountingRecordWrite slot => Sys2Proof.Machine.execAccountingRecordWrite slot s
  | .sibclose fn handle => Sys2Proof.Machine.execSibclose fn handle s
  | .lockInterfaceRequest fn => Sys2Proof.Machine.execLockInterfaceRequest fn s
  | .startInterfaceRequest fn respond => Sys2Proof.Machine.execStartInterfaceRequest fn respond s
  | .stopInterfaceRequest fn => Sys2Proof.Machine.execStopInterfaceRequest fn s
  | .ideStreamFailure fn => Sys2Proof.Machine.execIdeStreamFailure fn s
  | .functionLevelReset fn => Sys2Proof.Machine.execFunctionLevelReset fn s
  | .keyKillAck slot engine => Sys2Proof.Machine.execKeyKillAck slot engine s
  | .keyExchange fn => Sys2Proof.Machine.execKeyExchange fn s
  | .contextRegistration r => Sys2Proof.Machine.execContextRegistration r s
  | .contextEnd ctx => Sys2Proof.Machine.execContextEnd ctx s
  | .hardwareQueueRegistration ctx desc => Sys2Proof.Machine.execHardwareQueueRegistration ctx desc s
  | .hostRequest r => Sys2Proof.Machine.execHostRequest r s
  | .coreAssign => Sys2Proof.Machine.execCoreAssign s
  | .invalidateGo => Sys2Proof.Machine.execInvalidateGo s
  | .tlbInvalidationDone => Sys2Proof.Machine.execTlbInvalidationDone s
  | .powerOn => Sys2Proof.Machine.execPowerOn s
  | .recoveryCommit => Sys2Proof.Machine.execRecoveryCommit s
  | .recoveryReboot => Sys2Proof.Machine.execRecoveryReboot s
  | .powerLimitExceeded => Sys2Proof.Machine.execPowerLimitExceeded s
  | .powerLoss => Sys2Proof.Machine.execPowerLoss s
  | .getMeasurements => Sys2Proof.Machine.execGetMeasurements s
  | .clockStepUp => Sys2Proof.Machine.execClockStepUp s
  | .clearSequenceComplete => Sys2Proof.Machine.execClearSequenceComplete s
  | .timeSliceEnd => Sys2Proof.Machine.execTimeSliceEnd s
  | .viaductLinkDown => Sys2Proof.Machine.execViaductLinkDown s
  | .launchComplete => Sys2Proof.Machine.execLaunchComplete s

end Sys2Proof.Machine
end

