-- ==== Sys2Proof/Machine/Step.lean ====
section
/-! DEFINITION. One step of the device: the turn that the agenda names, or a default one (log 1, DESIGN CHOICE). -/

namespace Sys2Proof.Machine

/-- The unit at the issuing threads' PC runs (R267, R280). -/
def runUnit (s : State) : Host.Outcome State Fault Refusal :=
  if s.hasDeferred then .next s.takeDeferred
  else match s.fetchUnit s.cur.core s.cur.pc with
    | .unit w0 w1 => (match decodeUnit w0.toNat w1.toNat with
      | some i => exec i s
      | none => .next (s.illegalWord w0))
    | .invalid => .next s.badFetch
    | .noMem k => .fault (.noSuchMemory k)
    | .miss _ => .next s
    | .fault _ _ => .next s
    | .refused va => .next (s.firewallFault s.cur.core va.toNat none)

/-- A turn of a partition's slot: its windows fetch, and the entry it picks issues, if one is ready. -/
def runSlot (core part : Nat) (unif : Bool) (s : State) : Host.Outcome State Fault Refusal :=
  match s.pick core part unif with
  | some (team, pc) => runUnit (s.beginIssue core team pc unif)
  | none => .next (s.fetchAll core part)

/-- The turn that the agenda names. -/
def runTurn (t : Turn) (s : State) : Host.Outcome State Fault Refusal :=
  match t with
  | .issue core part unif => runSlot core part unif s
  | .event i n => if i.isEvent then exec i { s with choice := n } else .next s
  | .tick cl n => .next (s.tick cl n)

/-- The first step of a list that changes the state. -/
def firstEnabled (s : State) : List (Instr × Nat) → Host.Outcome State Fault Refusal
  | [] => .next (s.toFetch.foldl (fun s p => s.fetchAll p.1 p.2) s.idle)
  | (i, n) :: rest =>
    match exec i { s with choice := n } with
    | .next t => if { t with choice := s.choice } = s then firstEnabled s rest else .next t
    | o => o

/-- One step. -/
def step (s : State) : Host.Outcome State Fault Refusal :=
  match s.agenda with
  | t :: rest => runTurn t { s with agenda := rest }
  | [] =>
    match s.readySlot with
    | some (core, part, unif) => runSlot core part unif s
    | none => firstEnabled s s.candidates

/-- The header of the launch that stands in for a program's load: everything a launch may have, and a handler. -/
def probeHeader : Header := { Header.zero with handler := 0x2000, regs8 := 16, accs := 4, scratch := 512 }

/-- The state with one instruction where the next step fetches: a context, a launch and a workgroup of one team of 64
threads stand on core 0 at 0x1000, which the core's TLB maps to the same physical address; the words lie there; and
the agenda names the slot of the word's set (log 1, DESIGN CHOICE). -/
def State.withFetchWord (s : State) (nbits w : Nat) : State :=
  let bits := w % 2 ^ nbits
  let reg : CtxReg := ⟨0, 0, 0, 0, 0, 0, 0, 0, none, [], [], 0⟩
  let l : Launch := ⟨0, 0, 0, 0, 0, probeHeader, 1, 1, 1, 0, 0, .running, [0], [], [0], none, [], [], [], 0⟩
  let th := fun (i : Nat) => { Thread.empty with tid := i + 1, pc := 0x1000, hasItem := true }
  let t : Team := { Team.empty with uid := 65, order := [0x1000], lanes := (List.range 64).map (fun i => (i, th i)) }
  let wg : Workgroup := ⟨0, 0, 0, some 0, [(0, t)], [], [], [], none, [], [], [], false, false, false, none, false, [], [], 0, []⟩
  { s with
    mem := memPut s.mem 0x1000 (leBytes 8 bits)
    contexts := kvPut s.contexts 0 ⟨reg, false, 0, [], false⟩
    launches := kvPut s.launches 0 l
    wgs := kvPut s.wgs 0 wg
    l1tlb := kvPut s.l1tlb 0 [⟨0, 0, 0, true, false, 0, 0⟩]
    nextSeq := max s.nextSeq 66
    agenda := [.issue 0 0 (bits / 2147483648 % 2 = 1)] }

end Sys2Proof.Machine
end

