-- ==== Sys2Proof/Laws/Encoding.lean ====
section
/-! SUPPORT. What the decoder and the encoder do, a group and a constructor at a time. -/

namespace Sys2Proof

/-- A field of a word that holds the value of a bit vector is that bit vector. -/
theorem bits_of {n : Nat} (w lo : Nat) (x : BitVec n) (h : w / 2 ^ lo % 2 ^ n = x.toNat) : bits w lo n = x := by
  apply BitVec.eq_of_toNat_eq
  simp only [bits, fld, BitVec.toNat_ofNat, h]
  exact Nat.mod_eq_of_lt x.isLt

theorem bits_toNat (w lo len : Nat) : (bits w lo len).toNat = fld w lo len := by
  simp only [bits, fld, BitVec.toNat_ofNat, Nat.mod_mod]

/-- The bytes of a word give the word back. -/
theorem takeWord_leBytes (w : Nat) (rest : List Byte) (h : w < 2 ^ 32) : takeWord (leBytes 4 w ++ rest) = some (w, rest) := by
  simp only [leBytes, List.cons_append, List.nil_append, takeWord, BitVec.toNat_ofNat, Option.some.injEq, Prod.mk.injEq, and_true]
  omega

/-! ### The groups -/

theorem decodeWord_lane00 (w : Nat) (h : fld w 31 1 = 0) (k : fld w 26 5 = 0) : decodeWord w = decodeLane00 w := by
  unfold decodeWord; rw [h, k]; rfl
theorem decodeWord_lane01 (w : Nat) (h : fld w 31 1 = 0) (k : fld w 26 5 = 1) : decodeWord w = decodeLane01 w := by
  unfold decodeWord; rw [h, k]; rfl
theorem decodeWord_lane02 (w : Nat) (h : fld w 31 1 = 0) (k : fld w 26 5 = 2) : decodeWord w = decodeLane02 w := by
  unfold decodeWord; rw [h, k]; rfl
theorem decodeWord_lane03 (w : Nat) (h : fld w 31 1 = 0) (k : fld w 26 5 = 3) : decodeWord w = decodeLane03 w := by
  unfold decodeWord; rw [h, k]; rfl
theorem decodeWord_lane04 (w : Nat) (h : fld w 31 1 = 0) (k : fld w 26 5 = 4) : decodeWord w = decodeLane04 w := by
  unfold decodeWord; rw [h, k]; rfl
theorem decodeWord_lane05 (w : Nat) (h : fld w 31 1 = 0) (k : fld w 26 5 = 5) : decodeWord w = decodeLane05 w := by
  unfold decodeWord; rw [h, k]; rfl
theorem decodeWord_lane06 (w : Nat) (h : fld w 31 1 = 0) (k : fld w 26 5 = 6) : decodeWord w = decodeLane06 w := by
  unfold decodeWord; rw [h, k]; rfl
theorem decodeWord_lane07 (w : Nat) (h : fld w 31 1 = 0) (k : fld w 26 5 = 7) : decodeWord w = decodeLane07 w := by
  unfold decodeWord; rw [h, k]; rfl
theorem decodeWord_lane08 (w : Nat) (h : fld w 31 1 = 0) (k : fld w 26 5 = 8) : decodeWord w = decodeLane08 w := by
  unfold decodeWord; rw [h, k]; rfl
theorem decodeWord_lane09 (w : Nat) (h : fld w 31 1 = 0) (k : fld w 26 5 = 9) : decodeWord w = decodeLane09 w := by
  unfold decodeWord; rw [h, k]; rfl
theorem decodeWord_lane0A (w : Nat) (h : fld w 31 1 = 0) (k : fld w 26 5 = 10) : decodeWord w = decodeLane0A w := by
  unfold decodeWord; rw [h, k]; rfl
theorem decodeWord_lane0B (w : Nat) (h : fld w 31 1 = 0) (k : fld w 26 5 = 11) : decodeWord w = decodeLane0B w := by
  unfold decodeWord; rw [h, k]; rfl
theorem decodeWord_lane0C (w : Nat) (h : fld w 31 1 = 0) (k : fld w 26 5 = 12) : decodeWord w = decodeLane0C w := by
  unfold decodeWord; rw [h, k]; rfl
theorem decodeWord_lane0D (w : Nat) (h : fld w 31 1 = 0) (k : fld w 26 5 = 13) : decodeWord w = decodeLane0D w := by
  unfold decodeWord; rw [h, k]; rfl
theorem decodeWord_lane0E (w : Nat) (h : fld w 31 1 = 0) (k : fld w 26 5 = 14) : decodeWord w = decodeLane0E w := by
  unfold decodeWord; rw [h, k]; rfl
theorem decodeWord_lane0F (w : Nat) (h : fld w 31 1 = 0) (k : fld w 26 5 = 15) : decodeWord w = decodeLane0F w := by
  unfold decodeWord; rw [h, k]; rfl
theorem decodeWord_lane10 (w : Nat) (h : fld w 31 1 = 0) (k : fld w 26 5 = 16) : decodeWord w = decodeLane10 w := by
  unfold decodeWord; rw [h, k]; rfl
theorem decodeWord_lane11 (w : Nat) (h : fld w 31 1 = 0) (k : fld w 26 5 = 17) : decodeWord w = decodeLane11 w := by
  unfold decodeWord; rw [h, k]; rfl
theorem decodeWord_lane12 (w : Nat) (h : fld w 31 1 = 0) (k : fld w 26 5 = 18) : decodeWord w = decodeLane12 w := by
  unfold decodeWord; rw [h, k]; rfl
theorem decodeWord_lane13 (w : Nat) (h : fld w 31 1 = 0) (k : fld w 26 5 = 19) : decodeWord w = decodeLane13 w := by
  unfold decodeWord; rw [h, k]; rfl
theorem decodeWord_lane14 (w : Nat) (h : fld w 31 1 = 0) (k : fld w 26 5 = 20) : decodeWord w = decodeLane14 w := by
  unfold decodeWord; rw [h, k]; rfl
theorem decodeWord_lane15 (w : Nat) (h : fld w 31 1 = 0) (k : fld w 26 5 = 21) : decodeWord w = decodeLane15 w := by
  unfold decodeWord; rw [h, k]; rfl
theorem decodeWord_lane16 (w : Nat) (h : fld w 31 1 = 0) (k : fld w 26 5 = 22) : decodeWord w = decodeLane16 w := by
  unfold decodeWord; rw [h, k]; rfl
theorem decodeWord_lane17 (w : Nat) (h : fld w 31 1 = 0) (k : fld w 26 5 = 23) : decodeWord w = decodeLane17 w := by
  unfold decodeWord; rw [h, k]; rfl
theorem decodeWord_lane18 (w : Nat) (h : fld w 31 1 = 0) (k : fld w 26 5 = 24) : decodeWord w = decodeLane18 w := by
  unfold decodeWord; rw [h, k]; rfl
theorem decodeWord_lane19 (w : Nat) (h : fld w 31 1 = 0) (k : fld w 26 5 = 25) : decodeWord w = decodeLane19 w := by
  unfold decodeWord; rw [h, k]; rfl
theorem decodeWord_lane1C (w : Nat) (h : fld w 31 1 = 0) (k : fld w 26 5 = 28) : decodeWord w = decodeLane1C w := by
  unfold decodeWord; rw [h, k]; rfl
theorem decodeWord_lane1D (w : Nat) (h : fld w 31 1 = 0) (k : fld w 26 5 = 29) : decodeWord w = decodeLane1D w := by
  unfold decodeWord; rw [h, k]; rfl
theorem decodeWord_lane1E (w : Nat) (h : fld w 31 1 = 0) (k : fld w 26 5 = 30) : decodeWord w = decodeLane1E w := by
  unfold decodeWord; rw [h, k]; rfl
theorem decodeWord_lane1F (w : Nat) (h : fld w 31 1 = 0) (k : fld w 26 5 = 31) : decodeWord w = decodeLane1F w := by
  unfold decodeWord; rw [h, k]; rfl
theorem decodeWord_unif00 (w : Nat) (h : fld w 31 1 = 1) (k : fld w 26 5 = 0) : decodeWord w = decodeUnif00 w := by
  unfold decodeWord; rw [h, k]; rfl
theorem decodeWord_unif01 (w : Nat) (h : fld w 31 1 = 1) (k : fld w 26 5 = 1) : decodeWord w = decodeUnif01 w := by
  unfold decodeWord; rw [h, k]; rfl
theorem decodeWord_unif02 (w : Nat) (h : fld w 31 1 = 1) (k : fld w 26 5 = 2) : decodeWord w = decodeUnif02 w := by
  unfold decodeWord; rw [h, k]; rfl
theorem decodeWord_unif03 (w : Nat) (h : fld w 31 1 = 1) (k : fld w 26 5 = 3) : decodeWord w = decodeUnif03 w := by
  unfold decodeWord; rw [h, k]; rfl
theorem decodeWord_unif04 (w : Nat) (h : fld w 31 1 = 1) (k : fld w 26 5 = 4) : decodeWord w = decodeUnif04 w := by
  unfold decodeWord; rw [h, k]; rfl
theorem decodeWord_unif05 (w : Nat) (h : fld w 31 1 = 1) (k : fld w 26 5 = 5) : decodeWord w = decodeUnif05 w := by
  unfold decodeWord; rw [h, k]; rfl
theorem decodeWord_unif06 (w : Nat) (h : fld w 31 1 = 1) (k : fld w 26 5 = 6) : decodeWord w = decodeUnif06 w := by
  unfold decodeWord; rw [h, k]; rfl
theorem decodeWord_unif07 (w : Nat) (h : fld w 31 1 = 1) (k : fld w 26 5 = 7) : decodeWord w = decodeUnif07 w := by
  unfold decodeWord; rw [h, k]; rfl
theorem decodeWord_unif08 (w : Nat) (h : fld w 31 1 = 1) (k : fld w 26 5 = 8) : decodeWord w = decodeUnif08 w := by
  unfold decodeWord; rw [h, k]; rfl
theorem decodeWord_unif09 (w : Nat) (h : fld w 31 1 = 1) (k : fld w 26 5 = 9) : decodeWord w = decodeUnif09 w := by
  unfold decodeWord; rw [h, k]; rfl
theorem decodeWord_unif0A (w : Nat) (h : fld w 31 1 = 1) (k : fld w 26 5 = 10) : decodeWord w = decodeUnif0A w := by
  unfold decodeWord; rw [h, k]; rfl
theorem decodeWord_unif0B (w : Nat) (h : fld w 31 1 = 1) (k : fld w 26 5 = 11) : decodeWord w = decodeUnif0B w := by
  unfold decodeWord; rw [h, k]; rfl
theorem decodeWord_unif0C (w : Nat) (h : fld w 31 1 = 1) (k : fld w 26 5 = 12) : decodeWord w = decodeUnif0C w := by
  unfold decodeWord; rw [h, k]; rfl
theorem decodeWord_unif0D (w : Nat) (h : fld w 31 1 = 1) (k : fld w 26 5 = 13) : decodeWord w = decodeUnif0D w := by
  unfold decodeWord; rw [h, k]; rfl
theorem decodeWord_unif0E (w : Nat) (h : fld w 31 1 = 1) (k : fld w 26 5 = 14) : decodeWord w = decodeUnif0E w := by
  unfold decodeWord; rw [h, k]; rfl
theorem decodeWord_unif0F (w : Nat) (h : fld w 31 1 = 1) (k : fld w 26 5 = 15) : decodeWord w = decodeUnif0F w := by
  unfold decodeWord; rw [h, k]; rfl
theorem decodeWord_unif10 (w : Nat) (h : fld w 31 1 = 1) (k : fld w 26 5 = 16) : decodeWord w = decodeUnif10 w := by
  unfold decodeWord; rw [h, k]; rfl
theorem decodeWord_unif11 (w : Nat) (h : fld w 31 1 = 1) (k : fld w 26 5 = 17) : decodeWord w = decodeUnif11 w := by
  unfold decodeWord; rw [h, k]; rfl
theorem decodeWord_unif12 (w : Nat) (h : fld w 31 1 = 1) (k : fld w 26 5 = 18) : decodeWord w = decodeUnif12 w := by
  unfold decodeWord; rw [h, k]; rfl
theorem decodeWord_unif13 (w : Nat) (h : fld w 31 1 = 1) (k : fld w 26 5 = 19) : decodeWord w = decodeUnif13 w := by
  unfold decodeWord; rw [h, k]; rfl

/-! ### The words -/

theorem encodeWord_iadd (g : BitVec 3) (d : BitVec 7) (a : BitVec 7) (b : BitVec 7) :
    encodeWord (.iadd g d a b) = 0x00000000 + g.toNat * 8388608 + d.toNat * 65536 + a.toNat * 512 + b.toNat * 4 := rfl
theorem encodeWord_isub (g : BitVec 3) (d : BitVec 7) (a : BitVec 7) (b : BitVec 7) :
    encodeWord (.isub g d a b) = 0x00000001 + g.toNat * 8388608 + d.toNat * 65536 + a.toNat * 512 + b.toNat * 4 := rfl
theorem encodeWord_imul (g : BitVec 3) (d : BitVec 7) (a : BitVec 7) (b : BitVec 7) :
    encodeWord (.imul g d a b) = 0x00000002 + g.toNat * 8388608 + d.toNat * 65536 + a.toNat * 512 + b.toNat * 4 := rfl
theorem encodeWord_imulh (g : BitVec 3) (d : BitVec 7) (a : BitVec 7) (b : BitVec 7) :
    encodeWord (.imulh g d a b) = 0x00000003 + g.toNat * 8388608 + d.toNat * 65536 + a.toNat * 512 + b.toNat * 4 := rfl
theorem encodeWord_imulhu (g : BitVec 3) (d : BitVec 7) (a : BitVec 7) (b : BitVec 7) :
    encodeWord (.imulhu g d a b) = 0x04000000 + g.toNat * 8388608 + d.toNat * 65536 + a.toNat * 512 + b.toNat * 4 := rfl
theorem encodeWord_imad (g : BitVec 3) (d : BitVec 7) (a : BitVec 7) (b : BitVec 7) :
    encodeWord (.imad g d a b) = 0x04000001 + g.toNat * 8388608 + d.toNat * 65536 + a.toNat * 512 + b.toNat * 4 := rfl
theorem encodeWord_imin (g : BitVec 3) (d : BitVec 7) (a : BitVec 7) (b : BitVec 7) :
    encodeWord (.imin g d a b) = 0x04000002 + g.toNat * 8388608 + d.toNat * 65536 + a.toNat * 512 + b.toNat * 4 := rfl
theorem encodeWord_imax (g : BitVec 3) (d : BitVec 7) (a : BitVec 7) (b : BitVec 7) :
    encodeWord (.imax g d a b) = 0x04000003 + g.toNat * 8388608 + d.toNat * 65536 + a.toNat * 512 + b.toNat * 4 := rfl
theorem encodeWord_iminu (g : BitVec 3) (d : BitVec 7) (a : BitVec 7) (b : BitVec 7) :
    encodeWord (.iminu g d a b) = 0x08000000 + g.toNat * 8388608 + d.toNat * 65536 + a.toNat * 512 + b.toNat * 4 := rfl
theorem encodeWord_imaxu (g : BitVec 3) (d : BitVec 7) (a : BitVec 7) (b : BitVec 7) :
    encodeWord (.imaxu g d a b) = 0x08000001 + g.toNat * 8388608 + d.toNat * 65536 + a.toNat * 512 + b.toNat * 4 := rfl
theorem encodeWord_isel (n : BitVec 3) (d : BitVec 7) (a : BitVec 7) (b : BitVec 7) :
    encodeWord (.isel n d a b) = 0x08000002 + n.toNat * 8388608 + d.toNat * 65536 + a.toNat * 512 + b.toNat * 4 := rfl
theorem encodeWord_iabsd (g : BitVec 3) (d : BitVec 7) (a : BitVec 7) (b : BitVec 7) :
    encodeWord (.iabsd g d a b) = 0x08000003 + g.toNat * 8388608 + d.toNat * 65536 + a.toNat * 512 + b.toNat * 4 := rfl
theorem encodeWord_and (g : BitVec 3) (d : BitVec 7) (a : BitVec 7) (b : BitVec 7) :
    encodeWord (.and g d a b) = 0x0C000000 + g.toNat * 8388608 + d.toNat * 65536 + a.toNat * 512 + b.toNat * 4 := rfl
theorem encodeWord_or (g : BitVec 3) (d : BitVec 7) (a : BitVec 7) (b : BitVec 7) :
    encodeWord (.or g d a b) = 0x0C000001 + g.toNat * 8388608 + d.toNat * 65536 + a.toNat * 512 + b.toNat * 4 := rfl
theorem encodeWord_xor (g : BitVec 3) (d : BitVec 7) (a : BitVec 7) (b : BitVec 7) :
    encodeWord (.xor g d a b) = 0x0C000002 + g.toNat * 8388608 + d.toNat * 65536 + a.toNat * 512 + b.toNat * 4 := rfl
theorem encodeWord_andn (g : BitVec 3) (d : BitVec 7) (a : BitVec 7) (b : BitVec 7) :
    encodeWord (.andn g d a b) = 0x0C000003 + g.toNat * 8388608 + d.toNat * 65536 + a.toNat * 512 + b.toNat * 4 := rfl
theorem encodeWord_shl (g : BitVec 3) (d : BitVec 7) (a : BitVec 7) (b : BitVec 7) :
    encodeWord (.shl g d a b) = 0x10000000 + g.toNat * 8388608 + d.toNat * 65536 + a.toNat * 512 + b.toNat * 4 := rfl
theorem encodeWord_shr (g : BitVec 3) (d : BitVec 7) (a : BitVec 7) (b : BitVec 7) :
    encodeWord (.shr g d a b) = 0x10000001 + g.toNat * 8388608 + d.toNat * 65536 + a.toNat * 512 + b.toNat * 4 := rfl
theorem encodeWord_shra (g : BitVec 3) (d : BitVec 7) (a : BitVec 7) (b : BitVec 7) :
    encodeWord (.shra g d a b) = 0x10000002 + g.toNat * 8388608 + d.toNat * 65536 + a.toNat * 512 + b.toNat * 4 := rfl
theorem encodeWord_rotl (g : BitVec 3) (d : BitVec 7) (a : BitVec 7) (b : BitVec 7) :
    encodeWord (.rotl g d a b) = 0x10000003 + g.toNat * 8388608 + d.toNat * 65536 + a.toNat * 512 + b.toNat * 4 := rfl
theorem encodeWord_popc (g : BitVec 3) (d : BitVec 7) (a : BitVec 7) :
    encodeWord (.popc g d a) = 0x14000000 + g.toNat * 8388608 + d.toNat * 65536 + a.toNat * 512 := rfl
theorem encodeWord_clz (g : BitVec 3) (d : BitVec 7) (a : BitVec 7) :
    encodeWord (.clz g d a) = 0x14000001 + g.toNat * 8388608 + d.toNat * 65536 + a.toNat * 512 := rfl
theorem encodeWord_brev (g : BitVec 3) (d : BitVec 7) (a : BitVec 7) :
    encodeWord (.brev g d a) = 0x14000002 + g.toNat * 8388608 + d.toNat * 65536 + a.toNat * 512 := rfl
theorem encodeWord_bfx (g : BitVec 3) (d : BitVec 7) (a : BitVec 7) (b : BitVec 7) :
    encodeWord (.bfx g d a b) = 0x14000003 + g.toNat * 8388608 + d.toNat * 65536 + a.toNat * 512 + b.toNat * 4 := rfl
theorem encodeWord_bfi (g : BitVec 3) (d : BitVec 7) (a : BitVec 7) (b : BitVec 7) :
    encodeWord (.bfi g d a b) = 0x18000000 + g.toNat * 8388608 + d.toNat * 65536 + a.toNat * 512 + b.toNat * 4 := rfl
theorem encodeWord_icmp (g : BitVec 3) (cond : BitVec 4) (p : BitVec 3) (a : BitVec 7) (b : BitVec 7) :
    encodeWord (.icmp g cond p a b) = 0x18000001 + g.toNat * 8388608 + cond.toNat * 524288 + p.toNat * 65536 + a.toNat * 512 + b.toNat * 4 := rfl
theorem encodeWord_fcmp (g : BitVec 3) (cond : BitVec 4) (p : BitVec 3) (a : BitVec 7) (b : BitVec 7) :
    encodeWord (.fcmp g cond p a b) = 0x18000002 + g.toNat * 8388608 + cond.toNat * 524288 + p.toNat * 65536 + a.toNat * 512 + b.toNat * 4 := rfl
theorem encodeWord_mov (g : BitVec 3) (d : BitVec 7) (a : BitVec 7) :
    encodeWord (.mov g d a) = 0x18000003 + g.toNat * 8388608 + d.toNat * 65536 + a.toNat * 512 := rfl
theorem encodeWord_fadd (g : BitVec 3) (d : BitVec 7) (a : BitVec 7) (b : BitVec 7) :
    encodeWord (.fadd g d a b) = 0x1C000000 + g.toNat * 8388608 + d.toNat * 65536 + a.toNat * 512 + b.toNat * 4 := rfl
theorem encodeWord_fsub (g : BitVec 3) (d : BitVec 7) (a : BitVec 7) (b : BitVec 7) :
    encodeWord (.fsub g d a b) = 0x1C000001 + g.toNat * 8388608 + d.toNat * 65536 + a.toNat * 512 + b.toNat * 4 := rfl
theorem encodeWord_fmul (g : BitVec 3) (d : BitVec 7) (a : BitVec 7) (b : BitVec 7) :
    encodeWord (.fmul g d a b) = 0x1C000002 + g.toNat * 8388608 + d.toNat * 65536 + a.toNat * 512 + b.toNat * 4 := rfl
theorem encodeWord_ffma (g : BitVec 3) (d : BitVec 7) (a : BitVec 7) (b : BitVec 7) :
    encodeWord (.ffma g d a b) = 0x1C000003 + g.toNat * 8388608 + d.toNat * 65536 + a.toNat * 512 + b.toNat * 4 := rfl
theorem encodeWord_fmin (g : BitVec 3) (d : BitVec 7) (a : BitVec 7) (b : BitVec 7) :
    encodeWord (.fmin g d a b) = 0x20000000 + g.toNat * 8388608 + d.toNat * 65536 + a.toNat * 512 + b.toNat * 4 := rfl
theorem encodeWord_fmax (g : BitVec 3) (d : BitVec 7) (a : BitVec 7) (b : BitVec 7) :
    encodeWord (.fmax g d a b) = 0x20000001 + g.toNat * 8388608 + d.toNat * 65536 + a.toNat * 512 + b.toNat * 4 := rfl
theorem encodeWord_frnd (g : BitVec 3) (d : BitVec 7) (a : BitVec 7) (code : BitVec 7) :
    encodeWord (.frnd g d a code) = 0x20000002 + g.toNat * 8388608 + d.toNat * 65536 + a.toNat * 512 + code.toNat * 4 := rfl
theorem encodeWord_fcvt (g : BitVec 3) (d : BitVec 7) (a : BitVec 7) (code : BitVec 7) :
    encodeWord (.fcvt g d a code) = 0x20000003 + g.toNat * 8388608 + d.toNat * 65536 + a.toNat * 512 + code.toNat * 4 := rfl
theorem encodeWord_hadd2 (g : BitVec 3) (d : BitVec 7) (a : BitVec 7) (b : BitVec 7) :
    encodeWord (.hadd2 g d a b) = 0x24000000 + g.toNat * 8388608 + d.toNat * 65536 + a.toNat * 512 + b.toNat * 4 := rfl
theorem encodeWord_hmul2 (g : BitVec 3) (d : BitVec 7) (a : BitVec 7) (b : BitVec 7) :
    encodeWord (.hmul2 g d a b) = 0x24000001 + g.toNat * 8388608 + d.toNat * 65536 + a.toNat * 512 + b.toNat * 4 := rfl
theorem encodeWord_hfma2 (g : BitVec 3) (d : BitVec 7) (a : BitVec 7) (b : BitVec 7) :
    encodeWord (.hfma2 g d a b) = 0x24000002 + g.toNat * 8388608 + d.toNat * 65536 + a.toNat * 512 + b.toNat * 4 := rfl
theorem encodeWord_hmax2 (g : BitVec 3) (d : BitVec 7) (a : BitVec 7) (b : BitVec 7) :
    encodeWord (.hmax2 g d a b) = 0x24000003 + g.toNat * 8388608 + d.toNat * 65536 + a.toNat * 512 + b.toNat * 4 := rfl
theorem encodeWord_badd2 (g : BitVec 3) (d : BitVec 7) (a : BitVec 7) (b : BitVec 7) :
    encodeWord (.badd2 g d a b) = 0x28000000 + g.toNat * 8388608 + d.toNat * 65536 + a.toNat * 512 + b.toNat * 4 := rfl
theorem encodeWord_bmul2 (g : BitVec 3) (d : BitVec 7) (a : BitVec 7) (b : BitVec 7) :
    encodeWord (.bmul2 g d a b) = 0x28000001 + g.toNat * 8388608 + d.toNat * 65536 + a.toNat * 512 + b.toNat * 4 := rfl
theorem encodeWord_bfma2 (g : BitVec 3) (d : BitVec 7) (a : BitVec 7) (b : BitVec 7) :
    encodeWord (.bfma2 g d a b) = 0x28000002 + g.toNat * 8388608 + d.toNat * 65536 + a.toNat * 512 + b.toNat * 4 := rfl
theorem encodeWord_bmax2 (g : BitVec 3) (d : BitVec 7) (a : BitVec 7) (b : BitVec 7) :
    encodeWord (.bmax2 g d a b) = 0x28000003 + g.toNat * 8388608 + d.toNat * 65536 + a.toNat * 512 + b.toNat * 4 := rfl
theorem encodeWord_dadd (g : BitVec 3) (d : BitVec 7) (a : BitVec 7) (b : BitVec 7) :
    encodeWord (.dadd g d a b) = 0x2C000000 + g.toNat * 8388608 + d.toNat * 65536 + a.toNat * 512 + b.toNat * 4 := rfl
theorem encodeWord_dmul (g : BitVec 3) (d : BitVec 7) (a : BitVec 7) (b : BitVec 7) :
    encodeWord (.dmul g d a b) = 0x2C000001 + g.toNat * 8388608 + d.toNat * 65536 + a.toNat * 512 + b.toNat * 4 := rfl
theorem encodeWord_dfma (g : BitVec 3) (d : BitVec 7) (a : BitVec 7) (b : BitVec 7) :
    encodeWord (.dfma g d a b) = 0x2C000002 + g.toNat * 8388608 + d.toNat * 65536 + a.toNat * 512 + b.toNat * 4 := rfl
theorem encodeWord_dcvt (g : BitVec 3) (d : BitVec 7) (a : BitVec 7) (code : BitVec 7) :
    encodeWord (.dcvt g d a code) = 0x2C000003 + g.toNat * 8388608 + d.toNat * 65536 + a.toNat * 512 + code.toNat * 4 := rfl
theorem encodeWord_vnbr (g : BitVec 3) (d : BitVec 7) (a : BitVec 7) (code : BitVec 7) :
    encodeWord (.vnbr g d a code) = 0x30000000 + g.toNat * 8388608 + d.toNat * 65536 + a.toNat * 512 + code.toNat * 4 := rfl
theorem encodeWord_vscan (g : BitVec 3) (d : BitVec 7) (a : BitVec 7) (code : BitVec 7) :
    encodeWord (.vscan g d a code) = 0x30000001 + g.toNat * 8388608 + d.toNat * 65536 + a.toNat * 512 + code.toNat * 4 := rfl
theorem encodeWord_vred (g : BitVec 3) (d : BitVec 7) (a : BitVec 7) (code : BitVec 7) :
    encodeWord (.vred g d a code) = 0x30000002 + g.toNat * 8388608 + d.toNat * 65536 + a.toNat * 512 + code.toNat * 4 := rfl
theorem encodeWord_vvote (g : BitVec 3) (d : BitVec 7) (p : BitVec 3) (code : BitVec 7) :
    encodeWord (.vvote g d p code) = 0x30000003 + g.toNat * 8388608 + d.toNat * 65536 + p.toNat * 512 + code.toNat * 4 := rfl
theorem encodeWord_vqnsE2m1 (g : BitVec 3) (d : BitVec 7) (a : BitVec 7) (b : BitVec 7) :
    encodeWord (.vqnsE2m1 g d a b) = 0x34000000 + g.toNat * 8388608 + d.toNat * 65536 + a.toNat * 512 + b.toNat * 4 := rfl
theorem encodeWord_vqnsI4h (g : BitVec 3) (d : BitVec 7) (a : BitVec 7) (b : BitVec 7) :
    encodeWord (.vqnsI4h g d a b) = 0x34000001 + g.toNat * 8388608 + d.toNat * 65536 + a.toNat * 512 + b.toNat * 4 := rfl
theorem encodeWord_vqnsI8h (g : BitVec 3) (d : BitVec 7) (a : BitVec 7) (b : BitVec 7) :
    encodeWord (.vqnsI8h g d a b) = 0x34000002 + g.toNat * 8388608 + d.toNat * 65536 + a.toNat * 512 + b.toNat * 4 := rfl
theorem encodeWord_vdq (g : BitVec 3) (d : BitVec 7) (a : BitVec 7) (b : BitVec 7) :
    encodeWord (.vdq g d a b) = 0x34000003 + g.toNat * 8388608 + d.toNat * 65536 + a.toNat * 512 + b.toNat * 4 := rfl
theorem encodeWord_sfq (g : BitVec 3) (d : BitVec 7) (a : BitVec 7) (code : BitVec 7) :
    encodeWord (.sfq g d a code) = 0x38000000 + g.toNat * 8388608 + d.toNat * 65536 + a.toNat * 512 + code.toNat * 4 := rfl
theorem encodeWord_sread (g : BitVec 3) (d : BitVec 7) (sel : BitVec 7) :
    encodeWord (.sread g d sel) = 0x38000001 + g.toNat * 8388608 + d.toNat * 65536 + sel.toNat * 512 := rfl
theorem encodeWord_will (g : BitVec 3) (a : BitVec 7) (b : BitVec 7) :
    encodeWord (.will g a b) = 0x38000002 + g.toNat * 8388608 + a.toNat * 512 + b.toNat * 4 := rfl
theorem encodeWord_heirq (g : BitVec 3) (d : BitVec 7) (b : BitVec 7) :
    encodeWord (.heirq g d b) = 0x38000003 + g.toNat * 8388608 + d.toNat * 65536 + b.toNat * 4 := rfl
theorem encodeWord_pand (g : BitVec 3) (d : BitVec 3) (a : BitVec 3) (b : BitVec 3) :
    encodeWord (.pand g d a b) = 0x3C000000 + g.toNat * 8388608 + d.toNat * 65536 + a.toNat * 512 + b.toNat * 4 := rfl
theorem encodeWord_por (g : BitVec 3) (d : BitVec 3) (a : BitVec 3) (b : BitVec 3) :
    encodeWord (.por g d a b) = 0x3C000001 + g.toNat * 8388608 + d.toNat * 65536 + a.toNat * 512 + b.toNat * 4 := rfl
theorem encodeWord_pxor (g : BitVec 3) (d : BitVec 3) (a : BitVec 3) (b : BitVec 3) :
    encodeWord (.pxor g d a b) = 0x3C000002 + g.toNat * 8388608 + d.toNat * 65536 + a.toNat * 512 + b.toNat * 4 := rfl
theorem encodeWord_pnand (g : BitVec 3) (d : BitVec 3) (a : BitVec 3) (b : BitVec 3) :
    encodeWord (.pnand g d a b) = 0x3C000003 + g.toNat * 8388608 + d.toNat * 65536 + a.toNat * 512 + b.toNat * 4 := rfl
theorem encodeWord_movi (g : BitVec 3) (d : BitVec 7) (imm : BitVec 16) :
    encodeWord (.movi g d imm) = 0x40000000 + g.toNat * 8388608 + d.toNat * 65536 + imm.toNat := rfl
theorem encodeWord_iaddi (g : BitVec 3) (d : BitVec 7) (a : BitVec 7) (imm : BitVec 9) :
    encodeWord (.iaddi g d a imm) = 0x44000000 + g.toNat * 8388608 + d.toNat * 65536 + a.toNat * 512 + imm.toNat := rfl
theorem encodeWord_ldB (g : BitVec 3) (d : BitVec 7) (a : BitVec 7) (sb : BitVec 7) :
    encodeWord (.ldB g d a sb) = 0x48000000 + g.toNat * 8388608 + d.toNat * 65536 + a.toNat * 512 + sb.toNat * 4 := rfl
theorem encodeWord_ldSb (g : BitVec 3) (d : BitVec 7) (a : BitVec 7) (sb : BitVec 7) :
    encodeWord (.ldSb g d a sb) = 0x48000001 + g.toNat * 8388608 + d.toNat * 65536 + a.toNat * 512 + sb.toNat * 4 := rfl
theorem encodeWord_ldH (g : BitVec 3) (d : BitVec 7) (a : BitVec 7) (sb : BitVec 7) :
    encodeWord (.ldH g d a sb) = 0x48000002 + g.toNat * 8388608 + d.toNat * 65536 + a.toNat * 512 + sb.toNat * 4 := rfl
theorem encodeWord_ldSh (g : BitVec 3) (d : BitVec 7) (a : BitVec 7) (sb : BitVec 7) :
    encodeWord (.ldSh g d a sb) = 0x48000003 + g.toNat * 8388608 + d.toNat * 65536 + a.toNat * 512 + sb.toNat * 4 := rfl
theorem encodeWord_ldW (g : BitVec 3) (d : BitVec 7) (a : BitVec 7) (sb : BitVec 7) :
    encodeWord (.ldW g d a sb) = 0x4C000000 + g.toNat * 8388608 + d.toNat * 65536 + a.toNat * 512 + sb.toNat * 4 := rfl
theorem encodeWord_ldD (g : BitVec 3) (d : BitVec 7) (a : BitVec 7) (sb : BitVec 7) :
    encodeWord (.ldD g d a sb) = 0x4C000001 + g.toNat * 8388608 + d.toNat * 65536 + a.toNat * 512 + sb.toNat * 4 := rfl
theorem encodeWord_ldQ (g : BitVec 3) (d : BitVec 7) (a : BitVec 7) (sb : BitVec 7) :
    encodeWord (.ldQ g d a sb) = 0x4C000002 + g.toNat * 8388608 + d.toNat * 65536 + a.toNat * 512 + sb.toNat * 4 := rfl
theorem encodeWord_prf (g : BitVec 3) (a : BitVec 7) (sb : BitVec 7) :
    encodeWord (.prf g a sb) = 0x4C000003 + g.toNat * 8388608 + a.toNat * 512 + sb.toNat * 4 := rfl
theorem encodeWord_stB (g : BitVec 3) (d : BitVec 7) (a : BitVec 7) (sb : BitVec 7) :
    encodeWord (.stB g d a sb) = 0x50000000 + g.toNat * 8388608 + d.toNat * 65536 + a.toNat * 512 + sb.toNat * 4 := rfl
theorem encodeWord_stH (g : BitVec 3) (d : BitVec 7) (a : BitVec 7) (sb : BitVec 7) :
    encodeWord (.stH g d a sb) = 0x50000001 + g.toNat * 8388608 + d.toNat * 65536 + a.toNat * 512 + sb.toNat * 4 := rfl
theorem encodeWord_stW (g : BitVec 3) (d : BitVec 7) (a : BitVec 7) (sb : BitVec 7) :
    encodeWord (.stW g d a sb) = 0x50000002 + g.toNat * 8388608 + d.toNat * 65536 + a.toNat * 512 + sb.toNat * 4 := rfl
theorem encodeWord_stD (g : BitVec 3) (d : BitVec 7) (a : BitVec 7) (sb : BitVec 7) :
    encodeWord (.stD g d a sb) = 0x50000003 + g.toNat * 8388608 + d.toNat * 65536 + a.toNat * 512 + sb.toNat * 4 := rfl
theorem encodeWord_stQ (g : BitVec 3) (d : BitVec 7) (a : BitVec 7) (sb : BitVec 7) :
    encodeWord (.stQ g d a sb) = 0x54000000 + g.toNat * 8388608 + d.toNat * 65536 + a.toNat * 512 + sb.toNat * 4 := rfl
theorem encodeWord_atomAdd (sc : BitVec 2) (d : BitVec 7) (a : BitVec 7) (b : BitVec 7) :
    encodeWord (.atomAdd sc d a b) = 0x58000000 + sc.toNat * 16777216 + d.toNat * 65536 + a.toNat * 512 + b.toNat * 4 := rfl
theorem encodeWord_atomFadd (sc : BitVec 2) (d : BitVec 7) (a : BitVec 7) (b : BitVec 7) :
    encodeWord (.atomFadd sc d a b) = 0x58000001 + sc.toNat * 16777216 + d.toNat * 65536 + a.toNat * 512 + b.toNat * 4 := rfl
theorem encodeWord_atomMin (sc : BitVec 2) (d : BitVec 7) (a : BitVec 7) (b : BitVec 7) :
    encodeWord (.atomMin sc d a b) = 0x58000002 + sc.toNat * 16777216 + d.toNat * 65536 + a.toNat * 512 + b.toNat * 4 := rfl
theorem encodeWord_atomMax (sc : BitVec 2) (d : BitVec 7) (a : BitVec 7) (b : BitVec 7) :
    encodeWord (.atomMax sc d a b) = 0x58000003 + sc.toNat * 16777216 + d.toNat * 65536 + a.toNat * 512 + b.toNat * 4 := rfl
theorem encodeWord_atomAnd (sc : BitVec 2) (d : BitVec 7) (a : BitVec 7) (b : BitVec 7) :
    encodeWord (.atomAnd sc d a b) = 0x5C000000 + sc.toNat * 16777216 + d.toNat * 65536 + a.toNat * 512 + b.toNat * 4 := rfl
theorem encodeWord_atomOr (sc : BitVec 2) (d : BitVec 7) (a : BitVec 7) (b : BitVec 7) :
    encodeWord (.atomOr sc d a b) = 0x5C000001 + sc.toNat * 16777216 + d.toNat * 65536 + a.toNat * 512 + b.toNat * 4 := rfl
theorem encodeWord_atomXor (sc : BitVec 2) (d : BitVec 7) (a : BitVec 7) (b : BitVec 7) :
    encodeWord (.atomXor sc d a b) = 0x5C000002 + sc.toNat * 16777216 + d.toNat * 65536 + a.toNat * 512 + b.toNat * 4 := rfl
theorem encodeWord_atomExch (sc : BitVec 2) (d : BitVec 7) (a : BitVec 7) (b : BitVec 7) :
    encodeWord (.atomExch sc d a b) = 0x5C000003 + sc.toNat * 16777216 + d.toNat * 65536 + a.toNat * 512 + b.toNat * 4 := rfl
theorem encodeWord_red (sc : BitVec 2) (op : BitVec 3) (a : BitVec 7) (b : BitVec 7) :
    encodeWord (.red sc op a b) = 0x60000000 + sc.toNat * 16777216 + op.toNat * 1048576 + a.toNat * 512 + b.toNat * 4 := rfl
theorem encodeWord_casW (sc : BitVec 2) (d : BitVec 7) (a : BitVec 7) (b : BitVec 7) :
    encodeWord (.casW sc d a b) = 0x64000000 + sc.toNat * 16777216 + d.toNat * 65536 + a.toNat * 512 + b.toNat * 4 := rfl
theorem encodeWord_casD (sc : BitVec 2) (d : BitVec 7) (a : BitVec 7) (b : BitVec 7) :
    encodeWord (.casD sc d a b) = 0x64000001 + sc.toNat * 16777216 + d.toNat * 65536 + a.toNat * 512 + b.toNat * 4 := rfl
theorem encodeWord_bra (g : BitVec 3) (off : BitVec 23) :
    encodeWord (.bra g off) = 0x70000000 + g.toNat * 8388608 + off.toNat := rfl
theorem encodeWord_call (g : BitVec 3) (off : BitVec 23) :
    encodeWord (.call g off) = 0x74000000 + g.toNat * 8388608 + off.toNat := rfl
theorem encodeWord_ret (g : BitVec 3) :
    encodeWord (.ret g) = 0x78000000 + g.toNat * 8388608 := rfl
theorem encodeWord_jmpr (g : BitVec 3) (a : BitVec 7) :
    encodeWord (.jmpr g a) = 0x78080000 + g.toNat * 8388608 + a.toNat * 512 := rfl
theorem encodeWord_exit (g : BitVec 3) :
    encodeWord (.exit g) = 0x78100000 + g.toNat * 8388608 := rfl
theorem encodeWord_reform (g : BitVec 3) :
    encodeWord (.reform g) = 0x78180000 + g.toNat * 8388608 := rfl
theorem encodeWord_join (g : BitVec 3) (k : BitVec 3) :
    encodeWord (.join g k) = 0x78200000 + g.toNat * 8388608 + k.toNat := rfl
theorem encodeWord_sfwait (g : BitVec 3) (mask : BitVec 16) :
    encodeWord (.sfwait g mask) = 0x78280000 + g.toNat * 8388608 + mask.toNat := rfl
theorem encodeWord_nop (g : BitVec 3) :
    encodeWord (.nop g) = 0x78300000 + g.toNat * 8388608 := rfl
theorem encodeWord_trapl (g : BitVec 3) (code : BitVec 8) :
    encodeWord (.trapl g code) = 0x78380000 + g.toNat * 8388608 + code.toNat := rfl
theorem encodeWord_ext (imm : BitVec 25) (u1 : Word) :
    encodeWord (.ext imm u1) = 0x7C000000 + imm.toNat := rfl
theorem encodeWord_pat (a : BitVec 8) (b : BitVec 8) (u2 : Word) :
    encodeWord (.pat a b u2) = 0x7E000000 + a.toNat * 131072 + b.toNat * 512 := rfl
theorem encodeWord_sadd (g : BitVec 3) (d : BitVec 7) (a : BitVec 7) (b : BitVec 7) :
    encodeWord (.sadd g d a b) = 0x80000000 + g.toNat * 8388608 + d.toNat * 65536 + a.toNat * 512 + b.toNat * 4 := rfl
theorem encodeWord_ssub (g : BitVec 3) (d : BitVec 7) (a : BitVec 7) (b : BitVec 7) :
    encodeWord (.ssub g d a b) = 0x80000001 + g.toNat * 8388608 + d.toNat * 65536 + a.toNat * 512 + b.toNat * 4 := rfl
theorem encodeWord_smul (g : BitVec 3) (d : BitVec 7) (a : BitVec 7) (b : BitVec 7) :
    encodeWord (.smul g d a b) = 0x80000002 + g.toNat * 8388608 + d.toNat * 65536 + a.toNat * 512 + b.toNat * 4 := rfl
theorem encodeWord_smulh (g : BitVec 3) (d : BitVec 7) (a : BitVec 7) (b : BitVec 7) :
    encodeWord (.smulh g d a b) = 0x80000003 + g.toNat * 8388608 + d.toNat * 65536 + a.toNat * 512 + b.toNat * 4 := rfl
theorem encodeWord_sand (g : BitVec 3) (d : BitVec 7) (a : BitVec 7) (b : BitVec 7) :
    encodeWord (.sand g d a b) = 0x84000000 + g.toNat * 8388608 + d.toNat * 65536 + a.toNat * 512 + b.toNat * 4 := rfl
theorem encodeWord_sor (g : BitVec 3) (d : BitVec 7) (a : BitVec 7) (b : BitVec 7) :
    encodeWord (.sor g d a b) = 0x84000001 + g.toNat * 8388608 + d.toNat * 65536 + a.toNat * 512 + b.toNat * 4 := rfl
theorem encodeWord_sxor (g : BitVec 3) (d : BitVec 7) (a : BitVec 7) (b : BitVec 7) :
    encodeWord (.sxor g d a b) = 0x84000002 + g.toNat * 8388608 + d.toNat * 65536 + a.toNat * 512 + b.toNat * 4 := rfl
theorem encodeWord_sshl (g : BitVec 3) (d : BitVec 7) (a : BitVec 7) (b : BitVec 7) :
    encodeWord (.sshl g d a b) = 0x84000003 + g.toNat * 8388608 + d.toNat * 65536 + a.toNat * 512 + b.toNat * 4 := rfl
theorem encodeWord_sshr (g : BitVec 3) (d : BitVec 7) (a : BitVec 7) (b : BitVec 7) :
    encodeWord (.sshr g d a b) = 0x88000000 + g.toNat * 8388608 + d.toNat * 65536 + a.toNat * 512 + b.toNat * 4 := rfl
theorem encodeWord_sshra (g : BitVec 3) (d : BitVec 7) (a : BitVec 7) (b : BitVec 7) :
    encodeWord (.sshra g d a b) = 0x88000001 + g.toNat * 8388608 + d.toNat * 65536 + a.toNat * 512 + b.toNat * 4 := rfl
theorem encodeWord_smin (g : BitVec 3) (d : BitVec 7) (a : BitVec 7) (b : BitVec 7) :
    encodeWord (.smin g d a b) = 0x88000002 + g.toNat * 8388608 + d.toNat * 65536 + a.toNat * 512 + b.toNat * 4 := rfl
theorem encodeWord_smax (g : BitVec 3) (d : BitVec 7) (a : BitVec 7) (b : BitVec 7) :
    encodeWord (.smax g d a b) = 0x88000003 + g.toNat * 8388608 + d.toNat * 65536 + a.toNat * 512 + b.toNat * 4 := rfl
theorem encodeWord_scmp (g : BitVec 3) (cond : BitVec 4) (q : BitVec 3) (a : BitVec 7) (b : BitVec 7) :
    encodeWord (.scmp g cond q a b) = 0x8C000000 + g.toNat * 8388608 + cond.toNat * 524288 + q.toNat * 65536 + a.toNat * 512 + b.toNat * 4 := rfl
theorem encodeWord_ssel (n : BitVec 3) (d : BitVec 7) (a : BitVec 7) (b : BitVec 7) :
    encodeWord (.ssel n d a b) = 0x8C000001 + n.toNat * 8388608 + d.toNat * 65536 + a.toNat * 512 + b.toNat * 4 := rfl
theorem encodeWord_smov (g : BitVec 3) (d : BitVec 7) (a : BitVec 7) :
    encodeWord (.smov g d a) = 0x8C000002 + g.toNat * 8388608 + d.toNat * 65536 + a.toNat * 512 := rfl
theorem encodeWord_ssr (g : BitVec 3) (d : BitVec 7) (sel : BitVec 7) :
    encodeWord (.ssr g d sel) = 0x8C000003 + g.toNat * 8388608 + d.toNat * 65536 + sel.toNat * 512 := rfl
theorem encodeWord_smovi (g : BitVec 3) (d : BitVec 7) (imm : BitVec 16) :
    encodeWord (.smovi g d imm) = 0x90000000 + g.toNat * 8388608 + d.toNat * 65536 + imm.toNat := rfl
theorem encodeWord_saddi (g : BitVec 3) (d : BitVec 7) (a : BitVec 7) (imm : BitVec 9) :
    encodeWord (.saddi g d a imm) = 0x94000000 + g.toNat * 8388608 + d.toNat * 65536 + a.toNat * 512 + imm.toNat := rfl
theorem encodeWord_sldW (g : BitVec 3) (d : BitVec 7) (a : BitVec 7) (imm : BitVec 7) :
    encodeWord (.sldW g d a imm) = 0x98000000 + g.toNat * 8388608 + d.toNat * 65536 + a.toNat * 512 + imm.toNat * 4 := rfl
theorem encodeWord_sldD (g : BitVec 3) (d : BitVec 7) (a : BitVec 7) (imm : BitVec 7) :
    encodeWord (.sldD g d a imm) = 0x98000001 + g.toNat * 8388608 + d.toNat * 65536 + a.toNat * 512 + imm.toNat * 4 := rfl
theorem encodeWord_sstW (g : BitVec 3) (d : BitVec 7) (a : BitVec 7) (imm : BitVec 7) :
    encodeWord (.sstW g d a imm) = 0x98000002 + g.toNat * 8388608 + d.toNat * 65536 + a.toNat * 512 + imm.toNat * 4 := rfl
theorem encodeWord_sstD (g : BitVec 3) (d : BitVec 7) (a : BitVec 7) (imm : BitVec 7) :
    encodeWord (.sstD g d a imm) = 0x98000003 + g.toNat * 8388608 + d.toNat * 65536 + a.toNat * 512 + imm.toNat * 4 := rfl
theorem encodeWord_qand (g : BitVec 3) (d : BitVec 3) (a : BitVec 3) (b : BitVec 3) :
    encodeWord (.qand g d a b) = 0x9C000000 + g.toNat * 8388608 + d.toNat * 65536 + a.toNat * 512 + b.toNat * 4 := rfl
theorem encodeWord_qor (g : BitVec 3) (d : BitVec 3) (a : BitVec 3) (b : BitVec 3) :
    encodeWord (.qor g d a b) = 0x9C000001 + g.toNat * 8388608 + d.toNat * 65536 + a.toNat * 512 + b.toNat * 4 := rfl
theorem encodeWord_qxor (g : BitVec 3) (d : BitVec 3) (a : BitVec 3) (b : BitVec 3) :
    encodeWord (.qxor g d a b) = 0x9C000002 + g.toNat * 8388608 + d.toNat * 65536 + a.toNat * 512 + b.toNat * 4 := rfl
theorem encodeWord_qnand (g : BitVec 3) (d : BitVec 3) (a : BitVec 3) (b : BitVec 3) :
    encodeWord (.qnand g d a b) = 0x9C000003 + g.toNat * 8388608 + d.toNat * 65536 + a.toNat * 512 + b.toNat * 4 := rfl
theorem encodeWord_sbra (g : BitVec 3) (off : BitVec 23) :
    encodeWord (.sbra g off) = 0xA0000000 + g.toNat * 8388608 + off.toNat := rfl
theorem encodeWord_barSync (g : BitVec 3) (lvl : BitVec 2) (n : BitVec 5) :
    encodeWord (.barSync g lvl n) = 0xA4000000 + g.toNat * 8388608 + lvl.toNat * 2097152 + n.toNat * 65536 := rfl
theorem encodeWord_barArv (g : BitVec 3) (lvl : BitVec 2) (n : BitVec 5) :
    encodeWord (.barArv g lvl n) = 0xA4000001 + g.toNat * 8388608 + lvl.toNat * 2097152 + n.toNat * 65536 := rfl
theorem encodeWord_barWait (g : BitVec 3) (lvl : BitVec 2) (n : BitVec 5) :
    encodeWord (.barWait g lvl n) = 0xA4000002 + g.toNat * 8388608 + lvl.toNat * 2097152 + n.toNat * 65536 := rfl
theorem encodeWord_barQry (g : BitVec 3) (lvl : BitVec 2) (n : BitVec 5) (d : BitVec 7) :
    encodeWord (.barQry g lvl n d) = 0xA4000003 + g.toNat * 8388608 + lvl.toNat * 2097152 + n.toNat * 65536 + d.toNat * 512 := rfl
theorem encodeWord_kset (g : BitVec 3) (d : BitVec 3) :
    encodeWord (.kset g d) = 0xA8000000 + g.toNat * 8388608 + d.toNat * 65536 := rfl
theorem encodeWord_kand (g : BitVec 3) (d : BitVec 3) (a : BitVec 3) (b : BitVec 3) :
    encodeWord (.kand g d a b) = 0xA8000001 + g.toNat * 8388608 + d.toNat * 65536 + a.toNat * 512 + b.toNat * 4 := rfl
theorem encodeWord_kor (g : BitVec 3) (d : BitVec 3) (a : BitVec 3) (b : BitVec 3) :
    encodeWord (.kor g d a b) = 0xA8000002 + g.toNat * 8388608 + d.toNat * 65536 + a.toNat * 512 + b.toNat * 4 := rfl
theorem encodeWord_kmov (g : BitVec 3) (d : BitVec 3) (a : BitVec 3) :
    encodeWord (.kmov g d a) = 0xA8000003 + g.toNat * 8388608 + d.toNat * 65536 + a.toNat * 512 := rfl
theorem encodeWord_waitc (g : BitVec 3) (ld : BitVec 4) (st : BitVec 4) (cp : BitVec 4) (mx : BitVec 4) :
    encodeWord (.waitc g ld st cp mx) = 0xAC000000 + g.toNat * 8388608 + ld.toNat * 524288 + st.toNat * 32768 + cp.toNat * 2048 + mx.toNat * 128 := rfl
theorem encodeWord_fence (g : BitVec 3) (sc : BitVec 2) (k : BitVec 2) :
    encodeWord (.fence g sc k) = 0xAC000001 + g.toNat * 8388608 + sc.toNat * 2097152 + k.toNat * 524288 := rfl
theorem encodeWord_smode (g : BitVec 3) (a : BitVec 7) :
    encodeWord (.smode g a) = 0xAC000002 + g.toNat * 8388608 + a.toNat * 512 := rfl
theorem encodeWord_yield (g : BitVec 3) :
    encodeWord (.yield g) = 0xAC000003 + g.toNat * 8388608 := rfl
theorem encodeWord_mma (g : BitVec 3) (a : BitVec 7) (acc : BitVec 2) :
    encodeWord (.mma g a acc) = 0xB0000000 + g.toNat * 8388608 + a.toNat * 65536 + acc.toNat * 4 := rfl
theorem encodeWord_aswap (g : BitVec 3) (a : BitVec 7) (acc : BitVec 2) :
    encodeWord (.aswap g a acc) = 0xB0000001 + g.toNat * 8388608 + a.toNat * 65536 + acc.toNat * 4 := rfl
theorem encodeWord_azero (g : BitVec 3) (a : BitVec 7) (acc : BitVec 2) :
    encodeWord (.azero g a acc) = 0xB0000002 + g.toNat * 8388608 + a.toNat * 65536 + acc.toNat * 4 := rfl
theorem encodeWord_ald (g : BitVec 3) (a : BitVec 7) (acc : BitVec 2) :
    encodeWord (.ald g a acc) = 0xB4000000 + g.toNat * 8388608 + a.toNat * 65536 + acc.toNat * 4 := rfl
theorem encodeWord_ast (g : BitVec 3) (a : BitVec 7) (acc : BitVec 2) :
    encodeWord (.ast g a acc) = 0xB4000001 + g.toNat * 8388608 + a.toNat * 65536 + acc.toNat * 4 := rfl
theorem encodeWord_tcopy (g : BitVec 3) (a : BitVec 7) :
    encodeWord (.tcopy g a) = 0xB8000000 + g.toNat * 8388608 + a.toNat * 65536 := rfl
theorem encodeWord_tqst (g : BitVec 3) (a : BitVec 7) :
    encodeWord (.tqst g a) = 0xB8000001 + g.toNat * 8388608 + a.toNat * 65536 := rfl
theorem encodeWord_tchain (g : BitVec 3) (a : BitVec 7) :
    encodeWord (.tchain g a) = 0xB8000002 + g.toNat * 8388608 + a.toNat * 65536 := rfl
theorem encodeWord_trot (g : BitVec 3) (a : BitVec 7) :
    encodeWord (.trot g a) = 0xB8000003 + g.toNat * 8388608 + a.toNat * 65536 := rfl
theorem encodeWord_awinit (g : BitVec 3) (a : BitVec 7) (b : BitVec 7) :
    encodeWord (.awinit g a b) = 0xBC000000 + g.toNat * 8388608 + a.toNat * 65536 + b.toNat * 4 := rfl
theorem encodeWord_awwait (g : BitVec 3) (a : BitVec 7) (b : BitVec 7) :
    encodeWord (.awwait g a b) = 0xBC000001 + g.toNat * 8388608 + a.toNat * 65536 + b.toNat * 4 := rfl
theorem encodeWord_awqry (g : BitVec 3) (a : BitVec 7) (d : BitVec 7) :
    encodeWord (.awqry g a d) = 0xBC000002 + g.toNat * 8388608 + a.toNat * 65536 + d.toNat * 512 := rfl
theorem encodeWord_tfetch (g : BitVec 3) (q : BitVec 3) :
    encodeWord (.tfetch g q) = 0xBC000003 + g.toNat * 8388608 + q.toNat * 4 := rfl
theorem encodeWord_bpost (g : BitVec 3) (d : BitVec 7) (a : BitVec 7) (b : BitVec 7) :
    encodeWord (.bpost g d a b) = 0xC0000000 + g.toNat * 8388608 + d.toNat * 65536 + a.toNat * 512 + b.toNat * 4 := rfl
theorem encodeWord_bqry (g : BitVec 3) (d : BitVec 7) :
    encodeWord (.bqry g d) = 0xC0000001 + g.toNat * 8388608 + d.toNat * 65536 := rfl
theorem encodeWord_sibchk (g : BitVec 3) :
    encodeWord (.sibchk g) = 0xC0000002 + g.toNat * 8388608 := rfl
theorem encodeWord_waitm (g : BitVec 3) (cond : BitVec 4) (a : BitVec 7) (b : BitVec 7) :
    encodeWord (.waitm g cond a b) = 0xC4000000 + g.toNat * 8388608 + cond.toNat * 524288 + a.toNat * 512 + b.toNat * 4 := rfl
theorem encodeWord_seal (g : BitVec 3) (a : BitVec 7) (b : BitVec 7) :
    encodeWord (.seal g a b) = 0xC4000001 + g.toNat * 8388608 + a.toNat * 512 + b.toNat * 4 := rfl
theorem encodeWord_unseal (g : BitVec 3) (a : BitVec 7) (b : BitVec 7) :
    encodeWord (.unseal g a b) = 0xC4000002 + g.toNat * 8388608 + a.toNat * 512 + b.toNat * 4 := rfl
theorem encodeWord_qpushD (g : BitVec 3) (d : BitVec 7) (a : BitVec 7) :
    encodeWord (.qpushD g d a) = 0xC8000000 + g.toNat * 8388608 + d.toNat * 65536 + a.toNat * 512 := rfl
theorem encodeWord_qpushL (g : BitVec 3) (d : BitVec 7) (a : BitVec 7) :
    encodeWord (.qpushL g d a) = 0xC8000004 + g.toNat * 8388608 + d.toNat * 65536 + a.toNat * 512 := rfl
theorem encodeWord_qpopD (g : BitVec 3) (d : BitVec 7) (a : BitVec 7) :
    encodeWord (.qpopD g d a) = 0xC8000001 + g.toNat * 8388608 + d.toNat * 65536 + a.toNat * 512 := rfl
theorem encodeWord_qpopL (g : BitVec 3) (d : BitVec 7) (a : BitVec 7) :
    encodeWord (.qpopL g d a) = 0xC8000005 + g.toNat * 8388608 + d.toNat * 65536 + a.toNat * 512 := rfl
theorem encodeWord_qtryD (g : BitVec 3) (d : BitVec 7) (a : BitVec 7) :
    encodeWord (.qtryD g d a) = 0xC8000002 + g.toNat * 8388608 + d.toNat * 65536 + a.toNat * 512 := rfl
theorem encodeWord_qtryL (g : BitVec 3) (d : BitVec 7) (a : BitVec 7) :
    encodeWord (.qtryL g d a) = 0xC8000006 + g.toNat * 8388608 + d.toNat * 65536 + a.toNat * 512 := rfl
theorem encodeWord_trap (g : BitVec 3) (code : BitVec 8) :
    encodeWord (.trap g code) = 0xCC000000 + g.toNat * 8388608 + code.toNat * 4 := rfl
theorem encodeWord_rett (g : BitVec 3) (a : BitVec 7) :
    encodeWord (.rett g a) = 0xCC000001 + g.toNat * 8388608 + a.toNat * 512 := rfl
theorem encodeWord_brkpt (g : BitVec 3) :
    encodeWord (.brkpt g) = 0xCC000002 + g.toNat * 8388608 := rfl

end Sys2Proof
end

