-- ==== Sys2Proof/Laws/PerInstr.lean ====
section
/-! SUPPORT. Per instruction: the encoder's word is a 32-bit word, and begins a unit of two words just for EXT and PAT (R267, R277,
R278). -/

namespace Sys2Proof.Laws

def Encodes.Statement (i : Instr) : Prop :=
  i.isEvent = false → encodeWord i < 2 ^ 32 ∧ isPrefixWord (encodeWord i) = decide ((encode i).length = 2)

theorem Encodes.iadd (g : BitVec 3) (d : BitVec 7) (a : BitVec 7) (b : BitVec 7) : Encodes.Statement (.iadd g d a b) := by
  intro _; have h0 := g.isLt; have h1 := d.isLt; have h2 := a.isLt; have h3 := b.isLt;
  refine ⟨by rw [encodeWord_iadd]; omega, ?_⟩
  show isPrefixWord _ = false; rw [encodeWord_iadd]; exact decide_eq_false (by simp only [fld, Nat.reducePow]; omega)
theorem Encodes.isub (g : BitVec 3) (d : BitVec 7) (a : BitVec 7) (b : BitVec 7) : Encodes.Statement (.isub g d a b) := by
  intro _; have h0 := g.isLt; have h1 := d.isLt; have h2 := a.isLt; have h3 := b.isLt;
  refine ⟨by rw [encodeWord_isub]; omega, ?_⟩
  show isPrefixWord _ = false; rw [encodeWord_isub]; exact decide_eq_false (by simp only [fld, Nat.reducePow]; omega)
theorem Encodes.imul (g : BitVec 3) (d : BitVec 7) (a : BitVec 7) (b : BitVec 7) : Encodes.Statement (.imul g d a b) := by
  intro _; have h0 := g.isLt; have h1 := d.isLt; have h2 := a.isLt; have h3 := b.isLt;
  refine ⟨by rw [encodeWord_imul]; omega, ?_⟩
  show isPrefixWord _ = false; rw [encodeWord_imul]; exact decide_eq_false (by simp only [fld, Nat.reducePow]; omega)
theorem Encodes.imulh (g : BitVec 3) (d : BitVec 7) (a : BitVec 7) (b : BitVec 7) : Encodes.Statement (.imulh g d a b) := by
  intro _; have h0 := g.isLt; have h1 := d.isLt; have h2 := a.isLt; have h3 := b.isLt;
  refine ⟨by rw [encodeWord_imulh]; omega, ?_⟩
  show isPrefixWord _ = false; rw [encodeWord_imulh]; exact decide_eq_false (by simp only [fld, Nat.reducePow]; omega)
theorem Encodes.imulhu (g : BitVec 3) (d : BitVec 7) (a : BitVec 7) (b : BitVec 7) : Encodes.Statement (.imulhu g d a b) := by
  intro _; have h0 := g.isLt; have h1 := d.isLt; have h2 := a.isLt; have h3 := b.isLt;
  refine ⟨by rw [encodeWord_imulhu]; omega, ?_⟩
  show isPrefixWord _ = false; rw [encodeWord_imulhu]; exact decide_eq_false (by simp only [fld, Nat.reducePow]; omega)
theorem Encodes.imad (g : BitVec 3) (d : BitVec 7) (a : BitVec 7) (b : BitVec 7) : Encodes.Statement (.imad g d a b) := by
  intro _; have h0 := g.isLt; have h1 := d.isLt; have h2 := a.isLt; have h3 := b.isLt;
  refine ⟨by rw [encodeWord_imad]; omega, ?_⟩
  show isPrefixWord _ = false; rw [encodeWord_imad]; exact decide_eq_false (by simp only [fld, Nat.reducePow]; omega)
theorem Encodes.imin (g : BitVec 3) (d : BitVec 7) (a : BitVec 7) (b : BitVec 7) : Encodes.Statement (.imin g d a b) := by
  intro _; have h0 := g.isLt; have h1 := d.isLt; have h2 := a.isLt; have h3 := b.isLt;
  refine ⟨by rw [encodeWord_imin]; omega, ?_⟩
  show isPrefixWord _ = false; rw [encodeWord_imin]; exact decide_eq_false (by simp only [fld, Nat.reducePow]; omega)
theorem Encodes.imax (g : BitVec 3) (d : BitVec 7) (a : BitVec 7) (b : BitVec 7) : Encodes.Statement (.imax g d a b) := by
  intro _; have h0 := g.isLt; have h1 := d.isLt; have h2 := a.isLt; have h3 := b.isLt;
  refine ⟨by rw [encodeWord_imax]; omega, ?_⟩
  show isPrefixWord _ = false; rw [encodeWord_imax]; exact decide_eq_false (by simp only [fld, Nat.reducePow]; omega)
theorem Encodes.iminu (g : BitVec 3) (d : BitVec 7) (a : BitVec 7) (b : BitVec 7) : Encodes.Statement (.iminu g d a b) := by
  intro _; have h0 := g.isLt; have h1 := d.isLt; have h2 := a.isLt; have h3 := b.isLt;
  refine ⟨by rw [encodeWord_iminu]; omega, ?_⟩
  show isPrefixWord _ = false; rw [encodeWord_iminu]; exact decide_eq_false (by simp only [fld, Nat.reducePow]; omega)
theorem Encodes.imaxu (g : BitVec 3) (d : BitVec 7) (a : BitVec 7) (b : BitVec 7) : Encodes.Statement (.imaxu g d a b) := by
  intro _; have h0 := g.isLt; have h1 := d.isLt; have h2 := a.isLt; have h3 := b.isLt;
  refine ⟨by rw [encodeWord_imaxu]; omega, ?_⟩
  show isPrefixWord _ = false; rw [encodeWord_imaxu]; exact decide_eq_false (by simp only [fld, Nat.reducePow]; omega)
theorem Encodes.isel (n : BitVec 3) (d : BitVec 7) (a : BitVec 7) (b : BitVec 7) : Encodes.Statement (.isel n d a b) := by
  intro _; have h0 := n.isLt; have h1 := d.isLt; have h2 := a.isLt; have h3 := b.isLt;
  refine ⟨by rw [encodeWord_isel]; omega, ?_⟩
  show isPrefixWord _ = false; rw [encodeWord_isel]; exact decide_eq_false (by simp only [fld, Nat.reducePow]; omega)
theorem Encodes.iabsd (g : BitVec 3) (d : BitVec 7) (a : BitVec 7) (b : BitVec 7) : Encodes.Statement (.iabsd g d a b) := by
  intro _; have h0 := g.isLt; have h1 := d.isLt; have h2 := a.isLt; have h3 := b.isLt;
  refine ⟨by rw [encodeWord_iabsd]; omega, ?_⟩
  show isPrefixWord _ = false; rw [encodeWord_iabsd]; exact decide_eq_false (by simp only [fld, Nat.reducePow]; omega)
theorem Encodes.and (g : BitVec 3) (d : BitVec 7) (a : BitVec 7) (b : BitVec 7) : Encodes.Statement (.and g d a b) := by
  intro _; have h0 := g.isLt; have h1 := d.isLt; have h2 := a.isLt; have h3 := b.isLt;
  refine ⟨by rw [encodeWord_and]; omega, ?_⟩
  show isPrefixWord _ = false; rw [encodeWord_and]; exact decide_eq_false (by simp only [fld, Nat.reducePow]; omega)
theorem Encodes.or (g : BitVec 3) (d : BitVec 7) (a : BitVec 7) (b : BitVec 7) : Encodes.Statement (.or g d a b) := by
  intro _; have h0 := g.isLt; have h1 := d.isLt; have h2 := a.isLt; have h3 := b.isLt;
  refine ⟨by rw [encodeWord_or]; omega, ?_⟩
  show isPrefixWord _ = false; rw [encodeWord_or]; exact decide_eq_false (by simp only [fld, Nat.reducePow]; omega)
theorem Encodes.xor (g : BitVec 3) (d : BitVec 7) (a : BitVec 7) (b : BitVec 7) : Encodes.Statement (.xor g d a b) := by
  intro _; have h0 := g.isLt; have h1 := d.isLt; have h2 := a.isLt; have h3 := b.isLt;
  refine ⟨by rw [encodeWord_xor]; omega, ?_⟩
  show isPrefixWord _ = false; rw [encodeWord_xor]; exact decide_eq_false (by simp only [fld, Nat.reducePow]; omega)
theorem Encodes.andn (g : BitVec 3) (d : BitVec 7) (a : BitVec 7) (b : BitVec 7) : Encodes.Statement (.andn g d a b) := by
  intro _; have h0 := g.isLt; have h1 := d.isLt; have h2 := a.isLt; have h3 := b.isLt;
  refine ⟨by rw [encodeWord_andn]; omega, ?_⟩
  show isPrefixWord _ = false; rw [encodeWord_andn]; exact decide_eq_false (by simp only [fld, Nat.reducePow]; omega)
theorem Encodes.shl (g : BitVec 3) (d : BitVec 7) (a : BitVec 7) (b : BitVec 7) : Encodes.Statement (.shl g d a b) := by
  intro _; have h0 := g.isLt; have h1 := d.isLt; have h2 := a.isLt; have h3 := b.isLt;
  refine ⟨by rw [encodeWord_shl]; omega, ?_⟩
  show isPrefixWord _ = false; rw [encodeWord_shl]; exact decide_eq_false (by simp only [fld, Nat.reducePow]; omega)
theorem Encodes.shr (g : BitVec 3) (d : BitVec 7) (a : BitVec 7) (b : BitVec 7) : Encodes.Statement (.shr g d a b) := by
  intro _; have h0 := g.isLt; have h1 := d.isLt; have h2 := a.isLt; have h3 := b.isLt;
  refine ⟨by rw [encodeWord_shr]; omega, ?_⟩
  show isPrefixWord _ = false; rw [encodeWord_shr]; exact decide_eq_false (by simp only [fld, Nat.reducePow]; omega)
theorem Encodes.shra (g : BitVec 3) (d : BitVec 7) (a : BitVec 7) (b : BitVec 7) : Encodes.Statement (.shra g d a b) := by
  intro _; have h0 := g.isLt; have h1 := d.isLt; have h2 := a.isLt; have h3 := b.isLt;
  refine ⟨by rw [encodeWord_shra]; omega, ?_⟩
  show isPrefixWord _ = false; rw [encodeWord_shra]; exact decide_eq_false (by simp only [fld, Nat.reducePow]; omega)
theorem Encodes.rotl (g : BitVec 3) (d : BitVec 7) (a : BitVec 7) (b : BitVec 7) : Encodes.Statement (.rotl g d a b) := by
  intro _; have h0 := g.isLt; have h1 := d.isLt; have h2 := a.isLt; have h3 := b.isLt;
  refine ⟨by rw [encodeWord_rotl]; omega, ?_⟩
  show isPrefixWord _ = false; rw [encodeWord_rotl]; exact decide_eq_false (by simp only [fld, Nat.reducePow]; omega)
theorem Encodes.popc (g : BitVec 3) (d : BitVec 7) (a : BitVec 7) : Encodes.Statement (.popc g d a) := by
  intro _; have h0 := g.isLt; have h1 := d.isLt; have h2 := a.isLt;
  refine ⟨by rw [encodeWord_popc]; omega, ?_⟩
  show isPrefixWord _ = false; rw [encodeWord_popc]; exact decide_eq_false (by simp only [fld, Nat.reducePow]; omega)
theorem Encodes.clz (g : BitVec 3) (d : BitVec 7) (a : BitVec 7) : Encodes.Statement (.clz g d a) := by
  intro _; have h0 := g.isLt; have h1 := d.isLt; have h2 := a.isLt;
  refine ⟨by rw [encodeWord_clz]; omega, ?_⟩
  show isPrefixWord _ = false; rw [encodeWord_clz]; exact decide_eq_false (by simp only [fld, Nat.reducePow]; omega)
theorem Encodes.brev (g : BitVec 3) (d : BitVec 7) (a : BitVec 7) : Encodes.Statement (.brev g d a) := by
  intro _; have h0 := g.isLt; have h1 := d.isLt; have h2 := a.isLt;
  refine ⟨by rw [encodeWord_brev]; omega, ?_⟩
  show isPrefixWord _ = false; rw [encodeWord_brev]; exact decide_eq_false (by simp only [fld, Nat.reducePow]; omega)
theorem Encodes.bfx (g : BitVec 3) (d : BitVec 7) (a : BitVec 7) (b : BitVec 7) : Encodes.Statement (.bfx g d a b) := by
  intro _; have h0 := g.isLt; have h1 := d.isLt; have h2 := a.isLt; have h3 := b.isLt;
  refine ⟨by rw [encodeWord_bfx]; omega, ?_⟩
  show isPrefixWord _ = false; rw [encodeWord_bfx]; exact decide_eq_false (by simp only [fld, Nat.reducePow]; omega)
theorem Encodes.bfi (g : BitVec 3) (d : BitVec 7) (a : BitVec 7) (b : BitVec 7) : Encodes.Statement (.bfi g d a b) := by
  intro _; have h0 := g.isLt; have h1 := d.isLt; have h2 := a.isLt; have h3 := b.isLt;
  refine ⟨by rw [encodeWord_bfi]; omega, ?_⟩
  show isPrefixWord _ = false; rw [encodeWord_bfi]; exact decide_eq_false (by simp only [fld, Nat.reducePow]; omega)
theorem Encodes.icmp (g : BitVec 3) (cond : BitVec 4) (p : BitVec 3) (a : BitVec 7) (b : BitVec 7) : Encodes.Statement (.icmp g cond p a b) := by
  intro _; have h0 := g.isLt; have h1 := cond.isLt; have h2 := p.isLt; have h3 := a.isLt; have h4 := b.isLt;
  refine ⟨by rw [encodeWord_icmp]; omega, ?_⟩
  show isPrefixWord _ = false; rw [encodeWord_icmp]; exact decide_eq_false (by simp only [fld, Nat.reducePow]; omega)
theorem Encodes.fcmp (g : BitVec 3) (cond : BitVec 4) (p : BitVec 3) (a : BitVec 7) (b : BitVec 7) : Encodes.Statement (.fcmp g cond p a b) := by
  intro _; have h0 := g.isLt; have h1 := cond.isLt; have h2 := p.isLt; have h3 := a.isLt; have h4 := b.isLt;
  refine ⟨by rw [encodeWord_fcmp]; omega, ?_⟩
  show isPrefixWord _ = false; rw [encodeWord_fcmp]; exact decide_eq_false (by simp only [fld, Nat.reducePow]; omega)
theorem Encodes.mov (g : BitVec 3) (d : BitVec 7) (a : BitVec 7) : Encodes.Statement (.mov g d a) := by
  intro _; have h0 := g.isLt; have h1 := d.isLt; have h2 := a.isLt;
  refine ⟨by rw [encodeWord_mov]; omega, ?_⟩
  show isPrefixWord _ = false; rw [encodeWord_mov]; exact decide_eq_false (by simp only [fld, Nat.reducePow]; omega)
theorem Encodes.fadd (g : BitVec 3) (d : BitVec 7) (a : BitVec 7) (b : BitVec 7) : Encodes.Statement (.fadd g d a b) := by
  intro _; have h0 := g.isLt; have h1 := d.isLt; have h2 := a.isLt; have h3 := b.isLt;
  refine ⟨by rw [encodeWord_fadd]; omega, ?_⟩
  show isPrefixWord _ = false; rw [encodeWord_fadd]; exact decide_eq_false (by simp only [fld, Nat.reducePow]; omega)
theorem Encodes.fsub (g : BitVec 3) (d : BitVec 7) (a : BitVec 7) (b : BitVec 7) : Encodes.Statement (.fsub g d a b) := by
  intro _; have h0 := g.isLt; have h1 := d.isLt; have h2 := a.isLt; have h3 := b.isLt;
  refine ⟨by rw [encodeWord_fsub]; omega, ?_⟩
  show isPrefixWord _ = false; rw [encodeWord_fsub]; exact decide_eq_false (by simp only [fld, Nat.reducePow]; omega)
theorem Encodes.fmul (g : BitVec 3) (d : BitVec 7) (a : BitVec 7) (b : BitVec 7) : Encodes.Statement (.fmul g d a b) := by
  intro _; have h0 := g.isLt; have h1 := d.isLt; have h2 := a.isLt; have h3 := b.isLt;
  refine ⟨by rw [encodeWord_fmul]; omega, ?_⟩
  show isPrefixWord _ = false; rw [encodeWord_fmul]; exact decide_eq_false (by simp only [fld, Nat.reducePow]; omega)
theorem Encodes.ffma (g : BitVec 3) (d : BitVec 7) (a : BitVec 7) (b : BitVec 7) : Encodes.Statement (.ffma g d a b) := by
  intro _; have h0 := g.isLt; have h1 := d.isLt; have h2 := a.isLt; have h3 := b.isLt;
  refine ⟨by rw [encodeWord_ffma]; omega, ?_⟩
  show isPrefixWord _ = false; rw [encodeWord_ffma]; exact decide_eq_false (by simp only [fld, Nat.reducePow]; omega)
theorem Encodes.fmin (g : BitVec 3) (d : BitVec 7) (a : BitVec 7) (b : BitVec 7) : Encodes.Statement (.fmin g d a b) := by
  intro _; have h0 := g.isLt; have h1 := d.isLt; have h2 := a.isLt; have h3 := b.isLt;
  refine ⟨by rw [encodeWord_fmin]; omega, ?_⟩
  show isPrefixWord _ = false; rw [encodeWord_fmin]; exact decide_eq_false (by simp only [fld, Nat.reducePow]; omega)
theorem Encodes.fmax (g : BitVec 3) (d : BitVec 7) (a : BitVec 7) (b : BitVec 7) : Encodes.Statement (.fmax g d a b) := by
  intro _; have h0 := g.isLt; have h1 := d.isLt; have h2 := a.isLt; have h3 := b.isLt;
  refine ⟨by rw [encodeWord_fmax]; omega, ?_⟩
  show isPrefixWord _ = false; rw [encodeWord_fmax]; exact decide_eq_false (by simp only [fld, Nat.reducePow]; omega)
theorem Encodes.frnd (g : BitVec 3) (d : BitVec 7) (a : BitVec 7) (code : BitVec 7) : Encodes.Statement (.frnd g d a code) := by
  intro _; have h0 := g.isLt; have h1 := d.isLt; have h2 := a.isLt; have h3 := code.isLt;
  refine ⟨by rw [encodeWord_frnd]; omega, ?_⟩
  show isPrefixWord _ = false; rw [encodeWord_frnd]; exact decide_eq_false (by simp only [fld, Nat.reducePow]; omega)
theorem Encodes.fcvt (g : BitVec 3) (d : BitVec 7) (a : BitVec 7) (code : BitVec 7) : Encodes.Statement (.fcvt g d a code) := by
  intro _; have h0 := g.isLt; have h1 := d.isLt; have h2 := a.isLt; have h3 := code.isLt;
  refine ⟨by rw [encodeWord_fcvt]; omega, ?_⟩
  show isPrefixWord _ = false; rw [encodeWord_fcvt]; exact decide_eq_false (by simp only [fld, Nat.reducePow]; omega)
theorem Encodes.hadd2 (g : BitVec 3) (d : BitVec 7) (a : BitVec 7) (b : BitVec 7) : Encodes.Statement (.hadd2 g d a b) := by
  intro _; have h0 := g.isLt; have h1 := d.isLt; have h2 := a.isLt; have h3 := b.isLt;
  refine ⟨by rw [encodeWord_hadd2]; omega, ?_⟩
  show isPrefixWord _ = false; rw [encodeWord_hadd2]; exact decide_eq_false (by simp only [fld, Nat.reducePow]; omega)
theorem Encodes.hmul2 (g : BitVec 3) (d : BitVec 7) (a : BitVec 7) (b : BitVec 7) : Encodes.Statement (.hmul2 g d a b) := by
  intro _; have h0 := g.isLt; have h1 := d.isLt; have h2 := a.isLt; have h3 := b.isLt;
  refine ⟨by rw [encodeWord_hmul2]; omega, ?_⟩
  show isPrefixWord _ = false; rw [encodeWord_hmul2]; exact decide_eq_false (by simp only [fld, Nat.reducePow]; omega)
theorem Encodes.hfma2 (g : BitVec 3) (d : BitVec 7) (a : BitVec 7) (b : BitVec 7) : Encodes.Statement (.hfma2 g d a b) := by
  intro _; have h0 := g.isLt; have h1 := d.isLt; have h2 := a.isLt; have h3 := b.isLt;
  refine ⟨by rw [encodeWord_hfma2]; omega, ?_⟩
  show isPrefixWord _ = false; rw [encodeWord_hfma2]; exact decide_eq_false (by simp only [fld, Nat.reducePow]; omega)
theorem Encodes.hmax2 (g : BitVec 3) (d : BitVec 7) (a : BitVec 7) (b : BitVec 7) : Encodes.Statement (.hmax2 g d a b) := by
  intro _; have h0 := g.isLt; have h1 := d.isLt; have h2 := a.isLt; have h3 := b.isLt;
  refine ⟨by rw [encodeWord_hmax2]; omega, ?_⟩
  show isPrefixWord _ = false; rw [encodeWord_hmax2]; exact decide_eq_false (by simp only [fld, Nat.reducePow]; omega)
theorem Encodes.badd2 (g : BitVec 3) (d : BitVec 7) (a : BitVec 7) (b : BitVec 7) : Encodes.Statement (.badd2 g d a b) := by
  intro _; have h0 := g.isLt; have h1 := d.isLt; have h2 := a.isLt; have h3 := b.isLt;
  refine ⟨by rw [encodeWord_badd2]; omega, ?_⟩
  show isPrefixWord _ = false; rw [encodeWord_badd2]; exact decide_eq_false (by simp only [fld, Nat.reducePow]; omega)
theorem Encodes.bmul2 (g : BitVec 3) (d : BitVec 7) (a : BitVec 7) (b : BitVec 7) : Encodes.Statement (.bmul2 g d a b) := by
  intro _; have h0 := g.isLt; have h1 := d.isLt; have h2 := a.isLt; have h3 := b.isLt;
  refine ⟨by rw [encodeWord_bmul2]; omega, ?_⟩
  show isPrefixWord _ = false; rw [encodeWord_bmul2]; exact decide_eq_false (by simp only [fld, Nat.reducePow]; omega)
theorem Encodes.bfma2 (g : BitVec 3) (d : BitVec 7) (a : BitVec 7) (b : BitVec 7) : Encodes.Statement (.bfma2 g d a b) := by
  intro _; have h0 := g.isLt; have h1 := d.isLt; have h2 := a.isLt; have h3 := b.isLt;
  refine ⟨by rw [encodeWord_bfma2]; omega, ?_⟩
  show isPrefixWord _ = false; rw [encodeWord_bfma2]; exact decide_eq_false (by simp only [fld, Nat.reducePow]; omega)
theorem Encodes.bmax2 (g : BitVec 3) (d : BitVec 7) (a : BitVec 7) (b : BitVec 7) : Encodes.Statement (.bmax2 g d a b) := by
  intro _; have h0 := g.isLt; have h1 := d.isLt; have h2 := a.isLt; have h3 := b.isLt;
  refine ⟨by rw [encodeWord_bmax2]; omega, ?_⟩
  show isPrefixWord _ = false; rw [encodeWord_bmax2]; exact decide_eq_false (by simp only [fld, Nat.reducePow]; omega)
theorem Encodes.dadd (g : BitVec 3) (d : BitVec 7) (a : BitVec 7) (b : BitVec 7) : Encodes.Statement (.dadd g d a b) := by
  intro _; have h0 := g.isLt; have h1 := d.isLt; have h2 := a.isLt; have h3 := b.isLt;
  refine ⟨by rw [encodeWord_dadd]; omega, ?_⟩
  show isPrefixWord _ = false; rw [encodeWord_dadd]; exact decide_eq_false (by simp only [fld, Nat.reducePow]; omega)
theorem Encodes.dmul (g : BitVec 3) (d : BitVec 7) (a : BitVec 7) (b : BitVec 7) : Encodes.Statement (.dmul g d a b) := by
  intro _; have h0 := g.isLt; have h1 := d.isLt; have h2 := a.isLt; have h3 := b.isLt;
  refine ⟨by rw [encodeWord_dmul]; omega, ?_⟩
  show isPrefixWord _ = false; rw [encodeWord_dmul]; exact decide_eq_false (by simp only [fld, Nat.reducePow]; omega)
theorem Encodes.dfma (g : BitVec 3) (d : BitVec 7) (a : BitVec 7) (b : BitVec 7) : Encodes.Statement (.dfma g d a b) := by
  intro _; have h0 := g.isLt; have h1 := d.isLt; have h2 := a.isLt; have h3 := b.isLt;
  refine ⟨by rw [encodeWord_dfma]; omega, ?_⟩
  show isPrefixWord _ = false; rw [encodeWord_dfma]; exact decide_eq_false (by simp only [fld, Nat.reducePow]; omega)
theorem Encodes.dcvt (g : BitVec 3) (d : BitVec 7) (a : BitVec 7) (code : BitVec 7) : Encodes.Statement (.dcvt g d a code) := by
  intro _; have h0 := g.isLt; have h1 := d.isLt; have h2 := a.isLt; have h3 := code.isLt;
  refine ⟨by rw [encodeWord_dcvt]; omega, ?_⟩
  show isPrefixWord _ = false; rw [encodeWord_dcvt]; exact decide_eq_false (by simp only [fld, Nat.reducePow]; omega)
theorem Encodes.vnbr (g : BitVec 3) (d : BitVec 7) (a : BitVec 7) (code : BitVec 7) : Encodes.Statement (.vnbr g d a code) := by
  intro _; have h0 := g.isLt; have h1 := d.isLt; have h2 := a.isLt; have h3 := code.isLt;
  refine ⟨by rw [encodeWord_vnbr]; omega, ?_⟩
  show isPrefixWord _ = false; rw [encodeWord_vnbr]; exact decide_eq_false (by simp only [fld, Nat.reducePow]; omega)
theorem Encodes.vscan (g : BitVec 3) (d : BitVec 7) (a : BitVec 7) (code : BitVec 7) : Encodes.Statement (.vscan g d a code) := by
  intro _; have h0 := g.isLt; have h1 := d.isLt; have h2 := a.isLt; have h3 := code.isLt;
  refine ⟨by rw [encodeWord_vscan]; omega, ?_⟩
  show isPrefixWord _ = false; rw [encodeWord_vscan]; exact decide_eq_false (by simp only [fld, Nat.reducePow]; omega)
theorem Encodes.vred (g : BitVec 3) (d : BitVec 7) (a : BitVec 7) (code : BitVec 7) : Encodes.Statement (.vred g d a code) := by
  intro _; have h0 := g.isLt; have h1 := d.isLt; have h2 := a.isLt; have h3 := code.isLt;
  refine ⟨by rw [encodeWord_vred]; omega, ?_⟩
  show isPrefixWord _ = false; rw [encodeWord_vred]; exact decide_eq_false (by simp only [fld, Nat.reducePow]; omega)
theorem Encodes.vvote (g : BitVec 3) (d : BitVec 7) (p : BitVec 3) (code : BitVec 7) : Encodes.Statement (.vvote g d p code) := by
  intro _; have h0 := g.isLt; have h1 := d.isLt; have h2 := p.isLt; have h3 := code.isLt;
  refine ⟨by rw [encodeWord_vvote]; omega, ?_⟩
  show isPrefixWord _ = false; rw [encodeWord_vvote]; exact decide_eq_false (by simp only [fld, Nat.reducePow]; omega)
theorem Encodes.vqnsE2m1 (g : BitVec 3) (d : BitVec 7) (a : BitVec 7) (b : BitVec 7) : Encodes.Statement (.vqnsE2m1 g d a b) := by
  intro _; have h0 := g.isLt; have h1 := d.isLt; have h2 := a.isLt; have h3 := b.isLt;
  refine ⟨by rw [encodeWord_vqnsE2m1]; omega, ?_⟩
  show isPrefixWord _ = false; rw [encodeWord_vqnsE2m1]; exact decide_eq_false (by simp only [fld, Nat.reducePow]; omega)
theorem Encodes.vqnsI4h (g : BitVec 3) (d : BitVec 7) (a : BitVec 7) (b : BitVec 7) : Encodes.Statement (.vqnsI4h g d a b) := by
  intro _; have h0 := g.isLt; have h1 := d.isLt; have h2 := a.isLt; have h3 := b.isLt;
  refine ⟨by rw [encodeWord_vqnsI4h]; omega, ?_⟩
  show isPrefixWord _ = false; rw [encodeWord_vqnsI4h]; exact decide_eq_false (by simp only [fld, Nat.reducePow]; omega)
theorem Encodes.vqnsI8h (g : BitVec 3) (d : BitVec 7) (a : BitVec 7) (b : BitVec 7) : Encodes.Statement (.vqnsI8h g d a b) := by
  intro _; have h0 := g.isLt; have h1 := d.isLt; have h2 := a.isLt; have h3 := b.isLt;
  refine ⟨by rw [encodeWord_vqnsI8h]; omega, ?_⟩
  show isPrefixWord _ = false; rw [encodeWord_vqnsI8h]; exact decide_eq_false (by simp only [fld, Nat.reducePow]; omega)
theorem Encodes.vdq (g : BitVec 3) (d : BitVec 7) (a : BitVec 7) (b : BitVec 7) : Encodes.Statement (.vdq g d a b) := by
  intro _; have h0 := g.isLt; have h1 := d.isLt; have h2 := a.isLt; have h3 := b.isLt;
  refine ⟨by rw [encodeWord_vdq]; omega, ?_⟩
  show isPrefixWord _ = false; rw [encodeWord_vdq]; exact decide_eq_false (by simp only [fld, Nat.reducePow]; omega)
theorem Encodes.sfq (g : BitVec 3) (d : BitVec 7) (a : BitVec 7) (code : BitVec 7) : Encodes.Statement (.sfq g d a code) := by
  intro _; have h0 := g.isLt; have h1 := d.isLt; have h2 := a.isLt; have h3 := code.isLt;
  refine ⟨by rw [encodeWord_sfq]; omega, ?_⟩
  show isPrefixWord _ = false; rw [encodeWord_sfq]; exact decide_eq_false (by simp only [fld, Nat.reducePow]; omega)
theorem Encodes.sread (g : BitVec 3) (d : BitVec 7) (sel : BitVec 7) : Encodes.Statement (.sread g d sel) := by
  intro _; have h0 := g.isLt; have h1 := d.isLt; have h2 := sel.isLt;
  refine ⟨by rw [encodeWord_sread]; omega, ?_⟩
  show isPrefixWord _ = false; rw [encodeWord_sread]; exact decide_eq_false (by simp only [fld, Nat.reducePow]; omega)
theorem Encodes.will (g : BitVec 3) (a : BitVec 7) (b : BitVec 7) : Encodes.Statement (.will g a b) := by
  intro _; have h0 := g.isLt; have h1 := a.isLt; have h2 := b.isLt;
  refine ⟨by rw [encodeWord_will]; omega, ?_⟩
  show isPrefixWord _ = false; rw [encodeWord_will]; exact decide_eq_false (by simp only [fld, Nat.reducePow]; omega)
theorem Encodes.heirq (g : BitVec 3) (d : BitVec 7) (b : BitVec 7) : Encodes.Statement (.heirq g d b) := by
  intro _; have h0 := g.isLt; have h1 := d.isLt; have h2 := b.isLt;
  refine ⟨by rw [encodeWord_heirq]; omega, ?_⟩
  show isPrefixWord _ = false; rw [encodeWord_heirq]; exact decide_eq_false (by simp only [fld, Nat.reducePow]; omega)
theorem Encodes.pand (g : BitVec 3) (d : BitVec 3) (a : BitVec 3) (b : BitVec 3) : Encodes.Statement (.pand g d a b) := by
  intro _; have h0 := g.isLt; have h1 := d.isLt; have h2 := a.isLt; have h3 := b.isLt;
  refine ⟨by rw [encodeWord_pand]; omega, ?_⟩
  show isPrefixWord _ = false; rw [encodeWord_pand]; exact decide_eq_false (by simp only [fld, Nat.reducePow]; omega)
theorem Encodes.por (g : BitVec 3) (d : BitVec 3) (a : BitVec 3) (b : BitVec 3) : Encodes.Statement (.por g d a b) := by
  intro _; have h0 := g.isLt; have h1 := d.isLt; have h2 := a.isLt; have h3 := b.isLt;
  refine ⟨by rw [encodeWord_por]; omega, ?_⟩
  show isPrefixWord _ = false; rw [encodeWord_por]; exact decide_eq_false (by simp only [fld, Nat.reducePow]; omega)
theorem Encodes.pxor (g : BitVec 3) (d : BitVec 3) (a : BitVec 3) (b : BitVec 3) : Encodes.Statement (.pxor g d a b) := by
  intro _; have h0 := g.isLt; have h1 := d.isLt; have h2 := a.isLt; have h3 := b.isLt;
  refine ⟨by rw [encodeWord_pxor]; omega, ?_⟩
  show isPrefixWord _ = false; rw [encodeWord_pxor]; exact decide_eq_false (by simp only [fld, Nat.reducePow]; omega)
theorem Encodes.pnand (g : BitVec 3) (d : BitVec 3) (a : BitVec 3) (b : BitVec 3) : Encodes.Statement (.pnand g d a b) := by
  intro _; have h0 := g.isLt; have h1 := d.isLt; have h2 := a.isLt; have h3 := b.isLt;
  refine ⟨by rw [encodeWord_pnand]; omega, ?_⟩
  show isPrefixWord _ = false; rw [encodeWord_pnand]; exact decide_eq_false (by simp only [fld, Nat.reducePow]; omega)
theorem Encodes.movi (g : BitVec 3) (d : BitVec 7) (imm : BitVec 16) : Encodes.Statement (.movi g d imm) := by
  intro _; have h0 := g.isLt; have h1 := d.isLt; have h2 := imm.isLt;
  refine ⟨by rw [encodeWord_movi]; omega, ?_⟩
  show isPrefixWord _ = false; rw [encodeWord_movi]; exact decide_eq_false (by simp only [fld, Nat.reducePow]; omega)
theorem Encodes.iaddi (g : BitVec 3) (d : BitVec 7) (a : BitVec 7) (imm : BitVec 9) : Encodes.Statement (.iaddi g d a imm) := by
  intro _; have h0 := g.isLt; have h1 := d.isLt; have h2 := a.isLt; have h3 := imm.isLt;
  refine ⟨by rw [encodeWord_iaddi]; omega, ?_⟩
  show isPrefixWord _ = false; rw [encodeWord_iaddi]; exact decide_eq_false (by simp only [fld, Nat.reducePow]; omega)
theorem Encodes.ldB (g : BitVec 3) (d : BitVec 7) (a : BitVec 7) (sb : BitVec 7) : Encodes.Statement (.ldB g d a sb) := by
  intro _; have h0 := g.isLt; have h1 := d.isLt; have h2 := a.isLt; have h3 := sb.isLt;
  refine ⟨by rw [encodeWord_ldB]; omega, ?_⟩
  show isPrefixWord _ = false; rw [encodeWord_ldB]; exact decide_eq_false (by simp only [fld, Nat.reducePow]; omega)
theorem Encodes.ldSb (g : BitVec 3) (d : BitVec 7) (a : BitVec 7) (sb : BitVec 7) : Encodes.Statement (.ldSb g d a sb) := by
  intro _; have h0 := g.isLt; have h1 := d.isLt; have h2 := a.isLt; have h3 := sb.isLt;
  refine ⟨by rw [encodeWord_ldSb]; omega, ?_⟩
  show isPrefixWord _ = false; rw [encodeWord_ldSb]; exact decide_eq_false (by simp only [fld, Nat.reducePow]; omega)
theorem Encodes.ldH (g : BitVec 3) (d : BitVec 7) (a : BitVec 7) (sb : BitVec 7) : Encodes.Statement (.ldH g d a sb) := by
  intro _; have h0 := g.isLt; have h1 := d.isLt; have h2 := a.isLt; have h3 := sb.isLt;
  refine ⟨by rw [encodeWord_ldH]; omega, ?_⟩
  show isPrefixWord _ = false; rw [encodeWord_ldH]; exact decide_eq_false (by simp only [fld, Nat.reducePow]; omega)
theorem Encodes.ldSh (g : BitVec 3) (d : BitVec 7) (a : BitVec 7) (sb : BitVec 7) : Encodes.Statement (.ldSh g d a sb) := by
  intro _; have h0 := g.isLt; have h1 := d.isLt; have h2 := a.isLt; have h3 := sb.isLt;
  refine ⟨by rw [encodeWord_ldSh]; omega, ?_⟩
  show isPrefixWord _ = false; rw [encodeWord_ldSh]; exact decide_eq_false (by simp only [fld, Nat.reducePow]; omega)
theorem Encodes.ldW (g : BitVec 3) (d : BitVec 7) (a : BitVec 7) (sb : BitVec 7) : Encodes.Statement (.ldW g d a sb) := by
  intro _; have h0 := g.isLt; have h1 := d.isLt; have h2 := a.isLt; have h3 := sb.isLt;
  refine ⟨by rw [encodeWord_ldW]; omega, ?_⟩
  show isPrefixWord _ = false; rw [encodeWord_ldW]; exact decide_eq_false (by simp only [fld, Nat.reducePow]; omega)
theorem Encodes.ldD (g : BitVec 3) (d : BitVec 7) (a : BitVec 7) (sb : BitVec 7) : Encodes.Statement (.ldD g d a sb) := by
  intro _; have h0 := g.isLt; have h1 := d.isLt; have h2 := a.isLt; have h3 := sb.isLt;
  refine ⟨by rw [encodeWord_ldD]; omega, ?_⟩
  show isPrefixWord _ = false; rw [encodeWord_ldD]; exact decide_eq_false (by simp only [fld, Nat.reducePow]; omega)
theorem Encodes.ldQ (g : BitVec 3) (d : BitVec 7) (a : BitVec 7) (sb : BitVec 7) : Encodes.Statement (.ldQ g d a sb) := by
  intro _; have h0 := g.isLt; have h1 := d.isLt; have h2 := a.isLt; have h3 := sb.isLt;
  refine ⟨by rw [encodeWord_ldQ]; omega, ?_⟩
  show isPrefixWord _ = false; rw [encodeWord_ldQ]; exact decide_eq_false (by simp only [fld, Nat.reducePow]; omega)
theorem Encodes.prf (g : BitVec 3) (a : BitVec 7) (sb : BitVec 7) : Encodes.Statement (.prf g a sb) := by
  intro _; have h0 := g.isLt; have h1 := a.isLt; have h2 := sb.isLt;
  refine ⟨by rw [encodeWord_prf]; omega, ?_⟩
  show isPrefixWord _ = false; rw [encodeWord_prf]; exact decide_eq_false (by simp only [fld, Nat.reducePow]; omega)
theorem Encodes.stB (g : BitVec 3) (d : BitVec 7) (a : BitVec 7) (sb : BitVec 7) : Encodes.Statement (.stB g d a sb) := by
  intro _; have h0 := g.isLt; have h1 := d.isLt; have h2 := a.isLt; have h3 := sb.isLt;
  refine ⟨by rw [encodeWord_stB]; omega, ?_⟩
  show isPrefixWord _ = false; rw [encodeWord_stB]; exact decide_eq_false (by simp only [fld, Nat.reducePow]; omega)
theorem Encodes.stH (g : BitVec 3) (d : BitVec 7) (a : BitVec 7) (sb : BitVec 7) : Encodes.Statement (.stH g d a sb) := by
  intro _; have h0 := g.isLt; have h1 := d.isLt; have h2 := a.isLt; have h3 := sb.isLt;
  refine ⟨by rw [encodeWord_stH]; omega, ?_⟩
  show isPrefixWord _ = false; rw [encodeWord_stH]; exact decide_eq_false (by simp only [fld, Nat.reducePow]; omega)
theorem Encodes.stW (g : BitVec 3) (d : BitVec 7) (a : BitVec 7) (sb : BitVec 7) : Encodes.Statement (.stW g d a sb) := by
  intro _; have h0 := g.isLt; have h1 := d.isLt; have h2 := a.isLt; have h3 := sb.isLt;
  refine ⟨by rw [encodeWord_stW]; omega, ?_⟩
  show isPrefixWord _ = false; rw [encodeWord_stW]; exact decide_eq_false (by simp only [fld, Nat.reducePow]; omega)
theorem Encodes.stD (g : BitVec 3) (d : BitVec 7) (a : BitVec 7) (sb : BitVec 7) : Encodes.Statement (.stD g d a sb) := by
  intro _; have h0 := g.isLt; have h1 := d.isLt; have h2 := a.isLt; have h3 := sb.isLt;
  refine ⟨by rw [encodeWord_stD]; omega, ?_⟩
  show isPrefixWord _ = false; rw [encodeWord_stD]; exact decide_eq_false (by simp only [fld, Nat.reducePow]; omega)
theorem Encodes.stQ (g : BitVec 3) (d : BitVec 7) (a : BitVec 7) (sb : BitVec 7) : Encodes.Statement (.stQ g d a sb) := by
  intro _; have h0 := g.isLt; have h1 := d.isLt; have h2 := a.isLt; have h3 := sb.isLt;
  refine ⟨by rw [encodeWord_stQ]; omega, ?_⟩
  show isPrefixWord _ = false; rw [encodeWord_stQ]; exact decide_eq_false (by simp only [fld, Nat.reducePow]; omega)
theorem Encodes.atomAdd (sc : BitVec 2) (d : BitVec 7) (a : BitVec 7) (b : BitVec 7) : Encodes.Statement (.atomAdd sc d a b) := by
  intro _; have h0 := sc.isLt; have h1 := d.isLt; have h2 := a.isLt; have h3 := b.isLt;
  refine ⟨by rw [encodeWord_atomAdd]; omega, ?_⟩
  show isPrefixWord _ = false; rw [encodeWord_atomAdd]; exact decide_eq_false (by simp only [fld, Nat.reducePow]; omega)
theorem Encodes.atomFadd (sc : BitVec 2) (d : BitVec 7) (a : BitVec 7) (b : BitVec 7) : Encodes.Statement (.atomFadd sc d a b) := by
  intro _; have h0 := sc.isLt; have h1 := d.isLt; have h2 := a.isLt; have h3 := b.isLt;
  refine ⟨by rw [encodeWord_atomFadd]; omega, ?_⟩
  show isPrefixWord _ = false; rw [encodeWord_atomFadd]; exact decide_eq_false (by simp only [fld, Nat.reducePow]; omega)
theorem Encodes.atomMin (sc : BitVec 2) (d : BitVec 7) (a : BitVec 7) (b : BitVec 7) : Encodes.Statement (.atomMin sc d a b) := by
  intro _; have h0 := sc.isLt; have h1 := d.isLt; have h2 := a.isLt; have h3 := b.isLt;
  refine ⟨by rw [encodeWord_atomMin]; omega, ?_⟩
  show isPrefixWord _ = false; rw [encodeWord_atomMin]; exact decide_eq_false (by simp only [fld, Nat.reducePow]; omega)
theorem Encodes.atomMax (sc : BitVec 2) (d : BitVec 7) (a : BitVec 7) (b : BitVec 7) : Encodes.Statement (.atomMax sc d a b) := by
  intro _; have h0 := sc.isLt; have h1 := d.isLt; have h2 := a.isLt; have h3 := b.isLt;
  refine ⟨by rw [encodeWord_atomMax]; omega, ?_⟩
  show isPrefixWord _ = false; rw [encodeWord_atomMax]; exact decide_eq_false (by simp only [fld, Nat.reducePow]; omega)
theorem Encodes.atomAnd (sc : BitVec 2) (d : BitVec 7) (a : BitVec 7) (b : BitVec 7) : Encodes.Statement (.atomAnd sc d a b) := by
  intro _; have h0 := sc.isLt; have h1 := d.isLt; have h2 := a.isLt; have h3 := b.isLt;
  refine ⟨by rw [encodeWord_atomAnd]; omega, ?_⟩
  show isPrefixWord _ = false; rw [encodeWord_atomAnd]; exact decide_eq_false (by simp only [fld, Nat.reducePow]; omega)
theorem Encodes.atomOr (sc : BitVec 2) (d : BitVec 7) (a : BitVec 7) (b : BitVec 7) : Encodes.Statement (.atomOr sc d a b) := by
  intro _; have h0 := sc.isLt; have h1 := d.isLt; have h2 := a.isLt; have h3 := b.isLt;
  refine ⟨by rw [encodeWord_atomOr]; omega, ?_⟩
  show isPrefixWord _ = false; rw [encodeWord_atomOr]; exact decide_eq_false (by simp only [fld, Nat.reducePow]; omega)
theorem Encodes.atomXor (sc : BitVec 2) (d : BitVec 7) (a : BitVec 7) (b : BitVec 7) : Encodes.Statement (.atomXor sc d a b) := by
  intro _; have h0 := sc.isLt; have h1 := d.isLt; have h2 := a.isLt; have h3 := b.isLt;
  refine ⟨by rw [encodeWord_atomXor]; omega, ?_⟩
  show isPrefixWord _ = false; rw [encodeWord_atomXor]; exact decide_eq_false (by simp only [fld, Nat.reducePow]; omega)
theorem Encodes.atomExch (sc : BitVec 2) (d : BitVec 7) (a : BitVec 7) (b : BitVec 7) : Encodes.Statement (.atomExch sc d a b) := by
  intro _; have h0 := sc.isLt; have h1 := d.isLt; have h2 := a.isLt; have h3 := b.isLt;
  refine ⟨by rw [encodeWord_atomExch]; omega, ?_⟩
  show isPrefixWord _ = false; rw [encodeWord_atomExch]; exact decide_eq_false (by simp only [fld, Nat.reducePow]; omega)
theorem Encodes.red (sc : BitVec 2) (op : BitVec 3) (a : BitVec 7) (b : BitVec 7) : Encodes.Statement (.red sc op a b) := by
  intro _; have h0 := sc.isLt; have h1 := op.isLt; have h2 := a.isLt; have h3 := b.isLt;
  refine ⟨by rw [encodeWord_red]; omega, ?_⟩
  show isPrefixWord _ = false; rw [encodeWord_red]; exact decide_eq_false (by simp only [fld, Nat.reducePow]; omega)
theorem Encodes.casW (sc : BitVec 2) (d : BitVec 7) (a : BitVec 7) (b : BitVec 7) : Encodes.Statement (.casW sc d a b) := by
  intro _; have h0 := sc.isLt; have h1 := d.isLt; have h2 := a.isLt; have h3 := b.isLt;
  refine ⟨by rw [encodeWord_casW]; omega, ?_⟩
  show isPrefixWord _ = false; rw [encodeWord_casW]; exact decide_eq_false (by simp only [fld, Nat.reducePow]; omega)
theorem Encodes.casD (sc : BitVec 2) (d : BitVec 7) (a : BitVec 7) (b : BitVec 7) : Encodes.Statement (.casD sc d a b) := by
  intro _; have h0 := sc.isLt; have h1 := d.isLt; have h2 := a.isLt; have h3 := b.isLt;
  refine ⟨by rw [encodeWord_casD]; omega, ?_⟩
  show isPrefixWord _ = false; rw [encodeWord_casD]; exact decide_eq_false (by simp only [fld, Nat.reducePow]; omega)
theorem Encodes.bra (g : BitVec 3) (off : BitVec 23) : Encodes.Statement (.bra g off) := by
  intro _; have h0 := g.isLt; have h1 := off.isLt;
  refine ⟨by rw [encodeWord_bra]; omega, ?_⟩
  show isPrefixWord _ = false; rw [encodeWord_bra]; exact decide_eq_false (by simp only [fld, Nat.reducePow]; omega)
theorem Encodes.call (g : BitVec 3) (off : BitVec 23) : Encodes.Statement (.call g off) := by
  intro _; have h0 := g.isLt; have h1 := off.isLt;
  refine ⟨by rw [encodeWord_call]; omega, ?_⟩
  show isPrefixWord _ = false; rw [encodeWord_call]; exact decide_eq_false (by simp only [fld, Nat.reducePow]; omega)
theorem Encodes.ret (g : BitVec 3) : Encodes.Statement (.ret g) := by
  intro _; have h0 := g.isLt;
  refine ⟨by rw [encodeWord_ret]; omega, ?_⟩
  show isPrefixWord _ = false; rw [encodeWord_ret]; exact decide_eq_false (by simp only [fld, Nat.reducePow]; omega)
theorem Encodes.jmpr (g : BitVec 3) (a : BitVec 7) : Encodes.Statement (.jmpr g a) := by
  intro _; have h0 := g.isLt; have h1 := a.isLt;
  refine ⟨by rw [encodeWord_jmpr]; omega, ?_⟩
  show isPrefixWord _ = false; rw [encodeWord_jmpr]; exact decide_eq_false (by simp only [fld, Nat.reducePow]; omega)
theorem Encodes.exit (g : BitVec 3) : Encodes.Statement (.exit g) := by
  intro _; have h0 := g.isLt;
  refine ⟨by rw [encodeWord_exit]; omega, ?_⟩
  show isPrefixWord _ = false; rw [encodeWord_exit]; exact decide_eq_false (by simp only [fld, Nat.reducePow]; omega)
theorem Encodes.reform (g : BitVec 3) : Encodes.Statement (.reform g) := by
  intro _; have h0 := g.isLt;
  refine ⟨by rw [encodeWord_reform]; omega, ?_⟩
  show isPrefixWord _ = false; rw [encodeWord_reform]; exact decide_eq_false (by simp only [fld, Nat.reducePow]; omega)
theorem Encodes.join (g : BitVec 3) (k : BitVec 3) : Encodes.Statement (.join g k) := by
  intro _; have h0 := g.isLt; have h1 := k.isLt;
  refine ⟨by rw [encodeWord_join]; omega, ?_⟩
  show isPrefixWord _ = false; rw [encodeWord_join]; exact decide_eq_false (by simp only [fld, Nat.reducePow]; omega)
theorem Encodes.sfwait (g : BitVec 3) (mask : BitVec 16) : Encodes.Statement (.sfwait g mask) := by
  intro _; have h0 := g.isLt; have h1 := mask.isLt;
  refine ⟨by rw [encodeWord_sfwait]; omega, ?_⟩
  show isPrefixWord _ = false; rw [encodeWord_sfwait]; exact decide_eq_false (by simp only [fld, Nat.reducePow]; omega)
theorem Encodes.nop (g : BitVec 3) : Encodes.Statement (.nop g) := by
  intro _; have h0 := g.isLt;
  refine ⟨by rw [encodeWord_nop]; omega, ?_⟩
  show isPrefixWord _ = false; rw [encodeWord_nop]; exact decide_eq_false (by simp only [fld, Nat.reducePow]; omega)
theorem Encodes.trapl (g : BitVec 3) (code : BitVec 8) : Encodes.Statement (.trapl g code) := by
  intro _; have h0 := g.isLt; have h1 := code.isLt;
  refine ⟨by rw [encodeWord_trapl]; omega, ?_⟩
  show isPrefixWord _ = false; rw [encodeWord_trapl]; exact decide_eq_false (by simp only [fld, Nat.reducePow]; omega)
theorem Encodes.ext (imm : BitVec 25) (w : Word) : Encodes.Statement (.ext imm w) := by
  intro _; have h0 := imm.isLt;
  refine ⟨by rw [encodeWord_ext]; omega, ?_⟩
  show isPrefixWord _ = true; rw [encodeWord_ext]; exact decide_eq_true (by simp only [fld, Nat.reducePow]; omega)
theorem Encodes.pat (a : BitVec 8) (b : BitVec 8) (w : Word) : Encodes.Statement (.pat a b w) := by
  intro _; have h0 := a.isLt; have h1 := b.isLt;
  refine ⟨by rw [encodeWord_pat]; omega, ?_⟩
  show isPrefixWord _ = true; rw [encodeWord_pat]; exact decide_eq_true (by simp only [fld, Nat.reducePow]; omega)
theorem Encodes.sadd (g : BitVec 3) (d : BitVec 7) (a : BitVec 7) (b : BitVec 7) : Encodes.Statement (.sadd g d a b) := by
  intro _; have h0 := g.isLt; have h1 := d.isLt; have h2 := a.isLt; have h3 := b.isLt;
  refine ⟨by rw [encodeWord_sadd]; omega, ?_⟩
  show isPrefixWord _ = false; rw [encodeWord_sadd]; exact decide_eq_false (by simp only [fld, Nat.reducePow]; omega)
theorem Encodes.ssub (g : BitVec 3) (d : BitVec 7) (a : BitVec 7) (b : BitVec 7) : Encodes.Statement (.ssub g d a b) := by
  intro _; have h0 := g.isLt; have h1 := d.isLt; have h2 := a.isLt; have h3 := b.isLt;
  refine ⟨by rw [encodeWord_ssub]; omega, ?_⟩
  show isPrefixWord _ = false; rw [encodeWord_ssub]; exact decide_eq_false (by simp only [fld, Nat.reducePow]; omega)
theorem Encodes.smul (g : BitVec 3) (d : BitVec 7) (a : BitVec 7) (b : BitVec 7) : Encodes.Statement (.smul g d a b) := by
  intro _; have h0 := g.isLt; have h1 := d.isLt; have h2 := a.isLt; have h3 := b.isLt;
  refine ⟨by rw [encodeWord_smul]; omega, ?_⟩
  show isPrefixWord _ = false; rw [encodeWord_smul]; exact decide_eq_false (by simp only [fld, Nat.reducePow]; omega)
theorem Encodes.smulh (g : BitVec 3) (d : BitVec 7) (a : BitVec 7) (b : BitVec 7) : Encodes.Statement (.smulh g d a b) := by
  intro _; have h0 := g.isLt; have h1 := d.isLt; have h2 := a.isLt; have h3 := b.isLt;
  refine ⟨by rw [encodeWord_smulh]; omega, ?_⟩
  show isPrefixWord _ = false; rw [encodeWord_smulh]; exact decide_eq_false (by simp only [fld, Nat.reducePow]; omega)
theorem Encodes.sand (g : BitVec 3) (d : BitVec 7) (a : BitVec 7) (b : BitVec 7) : Encodes.Statement (.sand g d a b) := by
  intro _; have h0 := g.isLt; have h1 := d.isLt; have h2 := a.isLt; have h3 := b.isLt;
  refine ⟨by rw [encodeWord_sand]; omega, ?_⟩
  show isPrefixWord _ = false; rw [encodeWord_sand]; exact decide_eq_false (by simp only [fld, Nat.reducePow]; omega)
theorem Encodes.sor (g : BitVec 3) (d : BitVec 7) (a : BitVec 7) (b : BitVec 7) : Encodes.Statement (.sor g d a b) := by
  intro _; have h0 := g.isLt; have h1 := d.isLt; have h2 := a.isLt; have h3 := b.isLt;
  refine ⟨by rw [encodeWord_sor]; omega, ?_⟩
  show isPrefixWord _ = false; rw [encodeWord_sor]; exact decide_eq_false (by simp only [fld, Nat.reducePow]; omega)
theorem Encodes.sxor (g : BitVec 3) (d : BitVec 7) (a : BitVec 7) (b : BitVec 7) : Encodes.Statement (.sxor g d a b) := by
  intro _; have h0 := g.isLt; have h1 := d.isLt; have h2 := a.isLt; have h3 := b.isLt;
  refine ⟨by rw [encodeWord_sxor]; omega, ?_⟩
  show isPrefixWord _ = false; rw [encodeWord_sxor]; exact decide_eq_false (by simp only [fld, Nat.reducePow]; omega)
theorem Encodes.sshl (g : BitVec 3) (d : BitVec 7) (a : BitVec 7) (b : BitVec 7) : Encodes.Statement (.sshl g d a b) := by
  intro _; have h0 := g.isLt; have h1 := d.isLt; have h2 := a.isLt; have h3 := b.isLt;
  refine ⟨by rw [encodeWord_sshl]; omega, ?_⟩
  show isPrefixWord _ = false; rw [encodeWord_sshl]; exact decide_eq_false (by simp only [fld, Nat.reducePow]; omega)
theorem Encodes.sshr (g : BitVec 3) (d : BitVec 7) (a : BitVec 7) (b : BitVec 7) : Encodes.Statement (.sshr g d a b) := by
  intro _; have h0 := g.isLt; have h1 := d.isLt; have h2 := a.isLt; have h3 := b.isLt;
  refine ⟨by rw [encodeWord_sshr]; omega, ?_⟩
  show isPrefixWord _ = false; rw [encodeWord_sshr]; exact decide_eq_false (by simp only [fld, Nat.reducePow]; omega)
theorem Encodes.sshra (g : BitVec 3) (d : BitVec 7) (a : BitVec 7) (b : BitVec 7) : Encodes.Statement (.sshra g d a b) := by
  intro _; have h0 := g.isLt; have h1 := d.isLt; have h2 := a.isLt; have h3 := b.isLt;
  refine ⟨by rw [encodeWord_sshra]; omega, ?_⟩
  show isPrefixWord _ = false; rw [encodeWord_sshra]; exact decide_eq_false (by simp only [fld, Nat.reducePow]; omega)
theorem Encodes.smin (g : BitVec 3) (d : BitVec 7) (a : BitVec 7) (b : BitVec 7) : Encodes.Statement (.smin g d a b) := by
  intro _; have h0 := g.isLt; have h1 := d.isLt; have h2 := a.isLt; have h3 := b.isLt;
  refine ⟨by rw [encodeWord_smin]; omega, ?_⟩
  show isPrefixWord _ = false; rw [encodeWord_smin]; exact decide_eq_false (by simp only [fld, Nat.reducePow]; omega)
theorem Encodes.smax (g : BitVec 3) (d : BitVec 7) (a : BitVec 7) (b : BitVec 7) : Encodes.Statement (.smax g d a b) := by
  intro _; have h0 := g.isLt; have h1 := d.isLt; have h2 := a.isLt; have h3 := b.isLt;
  refine ⟨by rw [encodeWord_smax]; omega, ?_⟩
  show isPrefixWord _ = false; rw [encodeWord_smax]; exact decide_eq_false (by simp only [fld, Nat.reducePow]; omega)
theorem Encodes.scmp (g : BitVec 3) (cond : BitVec 4) (q : BitVec 3) (a : BitVec 7) (b : BitVec 7) : Encodes.Statement (.scmp g cond q a b) := by
  intro _; have h0 := g.isLt; have h1 := cond.isLt; have h2 := q.isLt; have h3 := a.isLt; have h4 := b.isLt;
  refine ⟨by rw [encodeWord_scmp]; omega, ?_⟩
  show isPrefixWord _ = false; rw [encodeWord_scmp]; exact decide_eq_false (by simp only [fld, Nat.reducePow]; omega)
theorem Encodes.ssel (n : BitVec 3) (d : BitVec 7) (a : BitVec 7) (b : BitVec 7) : Encodes.Statement (.ssel n d a b) := by
  intro _; have h0 := n.isLt; have h1 := d.isLt; have h2 := a.isLt; have h3 := b.isLt;
  refine ⟨by rw [encodeWord_ssel]; omega, ?_⟩
  show isPrefixWord _ = false; rw [encodeWord_ssel]; exact decide_eq_false (by simp only [fld, Nat.reducePow]; omega)
theorem Encodes.smov (g : BitVec 3) (d : BitVec 7) (a : BitVec 7) : Encodes.Statement (.smov g d a) := by
  intro _; have h0 := g.isLt; have h1 := d.isLt; have h2 := a.isLt;
  refine ⟨by rw [encodeWord_smov]; omega, ?_⟩
  show isPrefixWord _ = false; rw [encodeWord_smov]; exact decide_eq_false (by simp only [fld, Nat.reducePow]; omega)
theorem Encodes.ssr (g : BitVec 3) (d : BitVec 7) (sel : BitVec 7) : Encodes.Statement (.ssr g d sel) := by
  intro _; have h0 := g.isLt; have h1 := d.isLt; have h2 := sel.isLt;
  refine ⟨by rw [encodeWord_ssr]; omega, ?_⟩
  show isPrefixWord _ = false; rw [encodeWord_ssr]; exact decide_eq_false (by simp only [fld, Nat.reducePow]; omega)
theorem Encodes.smovi (g : BitVec 3) (d : BitVec 7) (imm : BitVec 16) : Encodes.Statement (.smovi g d imm) := by
  intro _; have h0 := g.isLt; have h1 := d.isLt; have h2 := imm.isLt;
  refine ⟨by rw [encodeWord_smovi]; omega, ?_⟩
  show isPrefixWord _ = false; rw [encodeWord_smovi]; exact decide_eq_false (by simp only [fld, Nat.reducePow]; omega)
theorem Encodes.saddi (g : BitVec 3) (d : BitVec 7) (a : BitVec 7) (imm : BitVec 9) : Encodes.Statement (.saddi g d a imm) := by
  intro _; have h0 := g.isLt; have h1 := d.isLt; have h2 := a.isLt; have h3 := imm.isLt;
  refine ⟨by rw [encodeWord_saddi]; omega, ?_⟩
  show isPrefixWord _ = false; rw [encodeWord_saddi]; exact decide_eq_false (by simp only [fld, Nat.reducePow]; omega)
theorem Encodes.sldW (g : BitVec 3) (d : BitVec 7) (a : BitVec 7) (imm : BitVec 7) : Encodes.Statement (.sldW g d a imm) := by
  intro _; have h0 := g.isLt; have h1 := d.isLt; have h2 := a.isLt; have h3 := imm.isLt;
  refine ⟨by rw [encodeWord_sldW]; omega, ?_⟩
  show isPrefixWord _ = false; rw [encodeWord_sldW]; exact decide_eq_false (by simp only [fld, Nat.reducePow]; omega)
theorem Encodes.sldD (g : BitVec 3) (d : BitVec 7) (a : BitVec 7) (imm : BitVec 7) : Encodes.Statement (.sldD g d a imm) := by
  intro _; have h0 := g.isLt; have h1 := d.isLt; have h2 := a.isLt; have h3 := imm.isLt;
  refine ⟨by rw [encodeWord_sldD]; omega, ?_⟩
  show isPrefixWord _ = false; rw [encodeWord_sldD]; exact decide_eq_false (by simp only [fld, Nat.reducePow]; omega)
theorem Encodes.sstW (g : BitVec 3) (d : BitVec 7) (a : BitVec 7) (imm : BitVec 7) : Encodes.Statement (.sstW g d a imm) := by
  intro _; have h0 := g.isLt; have h1 := d.isLt; have h2 := a.isLt; have h3 := imm.isLt;
  refine ⟨by rw [encodeWord_sstW]; omega, ?_⟩
  show isPrefixWord _ = false; rw [encodeWord_sstW]; exact decide_eq_false (by simp only [fld, Nat.reducePow]; omega)
theorem Encodes.sstD (g : BitVec 3) (d : BitVec 7) (a : BitVec 7) (imm : BitVec 7) : Encodes.Statement (.sstD g d a imm) := by
  intro _; have h0 := g.isLt; have h1 := d.isLt; have h2 := a.isLt; have h3 := imm.isLt;
  refine ⟨by rw [encodeWord_sstD]; omega, ?_⟩
  show isPrefixWord _ = false; rw [encodeWord_sstD]; exact decide_eq_false (by simp only [fld, Nat.reducePow]; omega)
theorem Encodes.qand (g : BitVec 3) (d : BitVec 3) (a : BitVec 3) (b : BitVec 3) : Encodes.Statement (.qand g d a b) := by
  intro _; have h0 := g.isLt; have h1 := d.isLt; have h2 := a.isLt; have h3 := b.isLt;
  refine ⟨by rw [encodeWord_qand]; omega, ?_⟩
  show isPrefixWord _ = false; rw [encodeWord_qand]; exact decide_eq_false (by simp only [fld, Nat.reducePow]; omega)
theorem Encodes.qor (g : BitVec 3) (d : BitVec 3) (a : BitVec 3) (b : BitVec 3) : Encodes.Statement (.qor g d a b) := by
  intro _; have h0 := g.isLt; have h1 := d.isLt; have h2 := a.isLt; have h3 := b.isLt;
  refine ⟨by rw [encodeWord_qor]; omega, ?_⟩
  show isPrefixWord _ = false; rw [encodeWord_qor]; exact decide_eq_false (by simp only [fld, Nat.reducePow]; omega)
theorem Encodes.qxor (g : BitVec 3) (d : BitVec 3) (a : BitVec 3) (b : BitVec 3) : Encodes.Statement (.qxor g d a b) := by
  intro _; have h0 := g.isLt; have h1 := d.isLt; have h2 := a.isLt; have h3 := b.isLt;
  refine ⟨by rw [encodeWord_qxor]; omega, ?_⟩
  show isPrefixWord _ = false; rw [encodeWord_qxor]; exact decide_eq_false (by simp only [fld, Nat.reducePow]; omega)
theorem Encodes.qnand (g : BitVec 3) (d : BitVec 3) (a : BitVec 3) (b : BitVec 3) : Encodes.Statement (.qnand g d a b) := by
  intro _; have h0 := g.isLt; have h1 := d.isLt; have h2 := a.isLt; have h3 := b.isLt;
  refine ⟨by rw [encodeWord_qnand]; omega, ?_⟩
  show isPrefixWord _ = false; rw [encodeWord_qnand]; exact decide_eq_false (by simp only [fld, Nat.reducePow]; omega)
theorem Encodes.sbra (g : BitVec 3) (off : BitVec 23) : Encodes.Statement (.sbra g off) := by
  intro _; have h0 := g.isLt; have h1 := off.isLt;
  refine ⟨by rw [encodeWord_sbra]; omega, ?_⟩
  show isPrefixWord _ = false; rw [encodeWord_sbra]; exact decide_eq_false (by simp only [fld, Nat.reducePow]; omega)
theorem Encodes.barSync (g : BitVec 3) (lvl : BitVec 2) (n : BitVec 5) : Encodes.Statement (.barSync g lvl n) := by
  intro _; have h0 := g.isLt; have h1 := lvl.isLt; have h2 := n.isLt;
  refine ⟨by rw [encodeWord_barSync]; omega, ?_⟩
  show isPrefixWord _ = false; rw [encodeWord_barSync]; exact decide_eq_false (by simp only [fld, Nat.reducePow]; omega)
theorem Encodes.barArv (g : BitVec 3) (lvl : BitVec 2) (n : BitVec 5) : Encodes.Statement (.barArv g lvl n) := by
  intro _; have h0 := g.isLt; have h1 := lvl.isLt; have h2 := n.isLt;
  refine ⟨by rw [encodeWord_barArv]; omega, ?_⟩
  show isPrefixWord _ = false; rw [encodeWord_barArv]; exact decide_eq_false (by simp only [fld, Nat.reducePow]; omega)
theorem Encodes.barWait (g : BitVec 3) (lvl : BitVec 2) (n : BitVec 5) : Encodes.Statement (.barWait g lvl n) := by
  intro _; have h0 := g.isLt; have h1 := lvl.isLt; have h2 := n.isLt;
  refine ⟨by rw [encodeWord_barWait]; omega, ?_⟩
  show isPrefixWord _ = false; rw [encodeWord_barWait]; exact decide_eq_false (by simp only [fld, Nat.reducePow]; omega)
theorem Encodes.barQry (g : BitVec 3) (lvl : BitVec 2) (n : BitVec 5) (d : BitVec 7) : Encodes.Statement (.barQry g lvl n d) := by
  intro _; have h0 := g.isLt; have h1 := lvl.isLt; have h2 := n.isLt; have h3 := d.isLt;
  refine ⟨by rw [encodeWord_barQry]; omega, ?_⟩
  show isPrefixWord _ = false; rw [encodeWord_barQry]; exact decide_eq_false (by simp only [fld, Nat.reducePow]; omega)
theorem Encodes.kset (g : BitVec 3) (d : BitVec 3) : Encodes.Statement (.kset g d) := by
  intro _; have h0 := g.isLt; have h1 := d.isLt;
  refine ⟨by rw [encodeWord_kset]; omega, ?_⟩
  show isPrefixWord _ = false; rw [encodeWord_kset]; exact decide_eq_false (by simp only [fld, Nat.reducePow]; omega)
theorem Encodes.kand (g : BitVec 3) (d : BitVec 3) (a : BitVec 3) (b : BitVec 3) : Encodes.Statement (.kand g d a b) := by
  intro _; have h0 := g.isLt; have h1 := d.isLt; have h2 := a.isLt; have h3 := b.isLt;
  refine ⟨by rw [encodeWord_kand]; omega, ?_⟩
  show isPrefixWord _ = false; rw [encodeWord_kand]; exact decide_eq_false (by simp only [fld, Nat.reducePow]; omega)
theorem Encodes.kor (g : BitVec 3) (d : BitVec 3) (a : BitVec 3) (b : BitVec 3) : Encodes.Statement (.kor g d a b) := by
  intro _; have h0 := g.isLt; have h1 := d.isLt; have h2 := a.isLt; have h3 := b.isLt;
  refine ⟨by rw [encodeWord_kor]; omega, ?_⟩
  show isPrefixWord _ = false; rw [encodeWord_kor]; exact decide_eq_false (by simp only [fld, Nat.reducePow]; omega)
theorem Encodes.kmov (g : BitVec 3) (d : BitVec 3) (a : BitVec 3) : Encodes.Statement (.kmov g d a) := by
  intro _; have h0 := g.isLt; have h1 := d.isLt; have h2 := a.isLt;
  refine ⟨by rw [encodeWord_kmov]; omega, ?_⟩
  show isPrefixWord _ = false; rw [encodeWord_kmov]; exact decide_eq_false (by simp only [fld, Nat.reducePow]; omega)
theorem Encodes.waitc (g : BitVec 3) (ld : BitVec 4) (st : BitVec 4) (cp : BitVec 4) (mx : BitVec 4) : Encodes.Statement (.waitc g ld st cp mx) := by
  intro _; have h0 := g.isLt; have h1 := ld.isLt; have h2 := st.isLt; have h3 := cp.isLt; have h4 := mx.isLt;
  refine ⟨by rw [encodeWord_waitc]; omega, ?_⟩
  show isPrefixWord _ = false; rw [encodeWord_waitc]; exact decide_eq_false (by simp only [fld, Nat.reducePow]; omega)
theorem Encodes.fence (g : BitVec 3) (sc : BitVec 2) (k : BitVec 2) : Encodes.Statement (.fence g sc k) := by
  intro _; have h0 := g.isLt; have h1 := sc.isLt; have h2 := k.isLt;
  refine ⟨by rw [encodeWord_fence]; omega, ?_⟩
  show isPrefixWord _ = false; rw [encodeWord_fence]; exact decide_eq_false (by simp only [fld, Nat.reducePow]; omega)
theorem Encodes.smode (g : BitVec 3) (a : BitVec 7) : Encodes.Statement (.smode g a) := by
  intro _; have h0 := g.isLt; have h1 := a.isLt;
  refine ⟨by rw [encodeWord_smode]; omega, ?_⟩
  show isPrefixWord _ = false; rw [encodeWord_smode]; exact decide_eq_false (by simp only [fld, Nat.reducePow]; omega)
theorem Encodes.yield (g : BitVec 3) : Encodes.Statement (.yield g) := by
  intro _; have h0 := g.isLt;
  refine ⟨by rw [encodeWord_yield]; omega, ?_⟩
  show isPrefixWord _ = false; rw [encodeWord_yield]; exact decide_eq_false (by simp only [fld, Nat.reducePow]; omega)
theorem Encodes.mma (g : BitVec 3) (a : BitVec 7) (acc : BitVec 2) : Encodes.Statement (.mma g a acc) := by
  intro _; have h0 := g.isLt; have h1 := a.isLt; have h2 := acc.isLt;
  refine ⟨by rw [encodeWord_mma]; omega, ?_⟩
  show isPrefixWord _ = false; rw [encodeWord_mma]; exact decide_eq_false (by simp only [fld, Nat.reducePow]; omega)
theorem Encodes.aswap (g : BitVec 3) (a : BitVec 7) (acc : BitVec 2) : Encodes.Statement (.aswap g a acc) := by
  intro _; have h0 := g.isLt; have h1 := a.isLt; have h2 := acc.isLt;
  refine ⟨by rw [encodeWord_aswap]; omega, ?_⟩
  show isPrefixWord _ = false; rw [encodeWord_aswap]; exact decide_eq_false (by simp only [fld, Nat.reducePow]; omega)
theorem Encodes.azero (g : BitVec 3) (a : BitVec 7) (acc : BitVec 2) : Encodes.Statement (.azero g a acc) := by
  intro _; have h0 := g.isLt; have h1 := a.isLt; have h2 := acc.isLt;
  refine ⟨by rw [encodeWord_azero]; omega, ?_⟩
  show isPrefixWord _ = false; rw [encodeWord_azero]; exact decide_eq_false (by simp only [fld, Nat.reducePow]; omega)
theorem Encodes.ald (g : BitVec 3) (a : BitVec 7) (acc : BitVec 2) : Encodes.Statement (.ald g a acc) := by
  intro _; have h0 := g.isLt; have h1 := a.isLt; have h2 := acc.isLt;
  refine ⟨by rw [encodeWord_ald]; omega, ?_⟩
  show isPrefixWord _ = false; rw [encodeWord_ald]; exact decide_eq_false (by simp only [fld, Nat.reducePow]; omega)
theorem Encodes.ast (g : BitVec 3) (a : BitVec 7) (acc : BitVec 2) : Encodes.Statement (.ast g a acc) := by
  intro _; have h0 := g.isLt; have h1 := a.isLt; have h2 := acc.isLt;
  refine ⟨by rw [encodeWord_ast]; omega, ?_⟩
  show isPrefixWord _ = false; rw [encodeWord_ast]; exact decide_eq_false (by simp only [fld, Nat.reducePow]; omega)
theorem Encodes.tcopy (g : BitVec 3) (a : BitVec 7) : Encodes.Statement (.tcopy g a) := by
  intro _; have h0 := g.isLt; have h1 := a.isLt;
  refine ⟨by rw [encodeWord_tcopy]; omega, ?_⟩
  show isPrefixWord _ = false; rw [encodeWord_tcopy]; exact decide_eq_false (by simp only [fld, Nat.reducePow]; omega)
theorem Encodes.tqst (g : BitVec 3) (a : BitVec 7) : Encodes.Statement (.tqst g a) := by
  intro _; have h0 := g.isLt; have h1 := a.isLt;
  refine ⟨by rw [encodeWord_tqst]; omega, ?_⟩
  show isPrefixWord _ = false; rw [encodeWord_tqst]; exact decide_eq_false (by simp only [fld, Nat.reducePow]; omega)
theorem Encodes.tchain (g : BitVec 3) (a : BitVec 7) : Encodes.Statement (.tchain g a) := by
  intro _; have h0 := g.isLt; have h1 := a.isLt;
  refine ⟨by rw [encodeWord_tchain]; omega, ?_⟩
  show isPrefixWord _ = false; rw [encodeWord_tchain]; exact decide_eq_false (by simp only [fld, Nat.reducePow]; omega)
theorem Encodes.trot (g : BitVec 3) (a : BitVec 7) : Encodes.Statement (.trot g a) := by
  intro _; have h0 := g.isLt; have h1 := a.isLt;
  refine ⟨by rw [encodeWord_trot]; omega, ?_⟩
  show isPrefixWord _ = false; rw [encodeWord_trot]; exact decide_eq_false (by simp only [fld, Nat.reducePow]; omega)
theorem Encodes.awinit (g : BitVec 3) (a : BitVec 7) (b : BitVec 7) : Encodes.Statement (.awinit g a b) := by
  intro _; have h0 := g.isLt; have h1 := a.isLt; have h2 := b.isLt;
  refine ⟨by rw [encodeWord_awinit]; omega, ?_⟩
  show isPrefixWord _ = false; rw [encodeWord_awinit]; exact decide_eq_false (by simp only [fld, Nat.reducePow]; omega)
theorem Encodes.awwait (g : BitVec 3) (a : BitVec 7) (b : BitVec 7) : Encodes.Statement (.awwait g a b) := by
  intro _; have h0 := g.isLt; have h1 := a.isLt; have h2 := b.isLt;
  refine ⟨by rw [encodeWord_awwait]; omega, ?_⟩
  show isPrefixWord _ = false; rw [encodeWord_awwait]; exact decide_eq_false (by simp only [fld, Nat.reducePow]; omega)
theorem Encodes.awqry (g : BitVec 3) (a : BitVec 7) (d : BitVec 7) : Encodes.Statement (.awqry g a d) := by
  intro _; have h0 := g.isLt; have h1 := a.isLt; have h2 := d.isLt;
  refine ⟨by rw [encodeWord_awqry]; omega, ?_⟩
  show isPrefixWord _ = false; rw [encodeWord_awqry]; exact decide_eq_false (by simp only [fld, Nat.reducePow]; omega)
theorem Encodes.tfetch (g : BitVec 3) (q : BitVec 3) : Encodes.Statement (.tfetch g q) := by
  intro _; have h0 := g.isLt; have h1 := q.isLt;
  refine ⟨by rw [encodeWord_tfetch]; omega, ?_⟩
  show isPrefixWord _ = false; rw [encodeWord_tfetch]; exact decide_eq_false (by simp only [fld, Nat.reducePow]; omega)
theorem Encodes.bpost (g : BitVec 3) (d : BitVec 7) (a : BitVec 7) (b : BitVec 7) : Encodes.Statement (.bpost g d a b) := by
  intro _; have h0 := g.isLt; have h1 := d.isLt; have h2 := a.isLt; have h3 := b.isLt;
  refine ⟨by rw [encodeWord_bpost]; omega, ?_⟩
  show isPrefixWord _ = false; rw [encodeWord_bpost]; exact decide_eq_false (by simp only [fld, Nat.reducePow]; omega)
theorem Encodes.bqry (g : BitVec 3) (d : BitVec 7) : Encodes.Statement (.bqry g d) := by
  intro _; have h0 := g.isLt; have h1 := d.isLt;
  refine ⟨by rw [encodeWord_bqry]; omega, ?_⟩
  show isPrefixWord _ = false; rw [encodeWord_bqry]; exact decide_eq_false (by simp only [fld, Nat.reducePow]; omega)
theorem Encodes.sibchk (g : BitVec 3) : Encodes.Statement (.sibchk g) := by
  intro _; have h0 := g.isLt;
  refine ⟨by rw [encodeWord_sibchk]; omega, ?_⟩
  show isPrefixWord _ = false; rw [encodeWord_sibchk]; exact decide_eq_false (by simp only [fld, Nat.reducePow]; omega)
theorem Encodes.waitm (g : BitVec 3) (cond : BitVec 4) (a : BitVec 7) (b : BitVec 7) : Encodes.Statement (.waitm g cond a b) := by
  intro _; have h0 := g.isLt; have h1 := cond.isLt; have h2 := a.isLt; have h3 := b.isLt;
  refine ⟨by rw [encodeWord_waitm]; omega, ?_⟩
  show isPrefixWord _ = false; rw [encodeWord_waitm]; exact decide_eq_false (by simp only [fld, Nat.reducePow]; omega)
theorem Encodes.seal (g : BitVec 3) (a : BitVec 7) (b : BitVec 7) : Encodes.Statement (.seal g a b) := by
  intro _; have h0 := g.isLt; have h1 := a.isLt; have h2 := b.isLt;
  refine ⟨by rw [encodeWord_seal]; omega, ?_⟩
  show isPrefixWord _ = false; rw [encodeWord_seal]; exact decide_eq_false (by simp only [fld, Nat.reducePow]; omega)
theorem Encodes.unseal (g : BitVec 3) (a : BitVec 7) (b : BitVec 7) : Encodes.Statement (.unseal g a b) := by
  intro _; have h0 := g.isLt; have h1 := a.isLt; have h2 := b.isLt;
  refine ⟨by rw [encodeWord_unseal]; omega, ?_⟩
  show isPrefixWord _ = false; rw [encodeWord_unseal]; exact decide_eq_false (by simp only [fld, Nat.reducePow]; omega)
theorem Encodes.qpushD (g : BitVec 3) (d : BitVec 7) (a : BitVec 7) : Encodes.Statement (.qpushD g d a) := by
  intro _; have h0 := g.isLt; have h1 := d.isLt; have h2 := a.isLt;
  refine ⟨by rw [encodeWord_qpushD]; omega, ?_⟩
  show isPrefixWord _ = false; rw [encodeWord_qpushD]; exact decide_eq_false (by simp only [fld, Nat.reducePow]; omega)
theorem Encodes.qpushL (g : BitVec 3) (d : BitVec 7) (a : BitVec 7) : Encodes.Statement (.qpushL g d a) := by
  intro _; have h0 := g.isLt; have h1 := d.isLt; have h2 := a.isLt;
  refine ⟨by rw [encodeWord_qpushL]; omega, ?_⟩
  show isPrefixWord _ = false; rw [encodeWord_qpushL]; exact decide_eq_false (by simp only [fld, Nat.reducePow]; omega)
theorem Encodes.qpopD (g : BitVec 3) (d : BitVec 7) (a : BitVec 7) : Encodes.Statement (.qpopD g d a) := by
  intro _; have h0 := g.isLt; have h1 := d.isLt; have h2 := a.isLt;
  refine ⟨by rw [encodeWord_qpopD]; omega, ?_⟩
  show isPrefixWord _ = false; rw [encodeWord_qpopD]; exact decide_eq_false (by simp only [fld, Nat.reducePow]; omega)
theorem Encodes.qpopL (g : BitVec 3) (d : BitVec 7) (a : BitVec 7) : Encodes.Statement (.qpopL g d a) := by
  intro _; have h0 := g.isLt; have h1 := d.isLt; have h2 := a.isLt;
  refine ⟨by rw [encodeWord_qpopL]; omega, ?_⟩
  show isPrefixWord _ = false; rw [encodeWord_qpopL]; exact decide_eq_false (by simp only [fld, Nat.reducePow]; omega)
theorem Encodes.qtryD (g : BitVec 3) (d : BitVec 7) (a : BitVec 7) : Encodes.Statement (.qtryD g d a) := by
  intro _; have h0 := g.isLt; have h1 := d.isLt; have h2 := a.isLt;
  refine ⟨by rw [encodeWord_qtryD]; omega, ?_⟩
  show isPrefixWord _ = false; rw [encodeWord_qtryD]; exact decide_eq_false (by simp only [fld, Nat.reducePow]; omega)
theorem Encodes.qtryL (g : BitVec 3) (d : BitVec 7) (a : BitVec 7) : Encodes.Statement (.qtryL g d a) := by
  intro _; have h0 := g.isLt; have h1 := d.isLt; have h2 := a.isLt;
  refine ⟨by rw [encodeWord_qtryL]; omega, ?_⟩
  show isPrefixWord _ = false; rw [encodeWord_qtryL]; exact decide_eq_false (by simp only [fld, Nat.reducePow]; omega)
theorem Encodes.trap (g : BitVec 3) (code : BitVec 8) : Encodes.Statement (.trap g code) := by
  intro _; have h0 := g.isLt; have h1 := code.isLt;
  refine ⟨by rw [encodeWord_trap]; omega, ?_⟩
  show isPrefixWord _ = false; rw [encodeWord_trap]; exact decide_eq_false (by simp only [fld, Nat.reducePow]; omega)
theorem Encodes.rett (g : BitVec 3) (a : BitVec 7) : Encodes.Statement (.rett g a) := by
  intro _; have h0 := g.isLt; have h1 := a.isLt;
  refine ⟨by rw [encodeWord_rett]; omega, ?_⟩
  show isPrefixWord _ = false; rw [encodeWord_rett]; exact decide_eq_false (by simp only [fld, Nat.reducePow]; omega)
theorem Encodes.brkpt (g : BitVec 3) : Encodes.Statement (.brkpt g) := by
  intro _; have h0 := g.isLt;
  refine ⟨by rw [encodeWord_brkpt]; omega, ?_⟩
  show isPrefixWord _ = false; rw [encodeWord_brkpt]; exact decide_eq_false (by simp only [fld, Nat.reducePow]; omega)
theorem Encodes.queueDoorbell (q : Nat) (wptr : Word) : Encodes.Statement (.queueDoorbell q wptr) := fun h => nomatch h
theorem Encodes.queueEnableWrite (q : Nat) (val : Word) : Encodes.Statement (.queueEnableWrite q val) := fun h => nomatch h
theorem Encodes.withdraw (q : Nat) (tag : Word) : Encodes.Statement (.withdraw q tag) := fun h => nomatch h
theorem Encodes.wclear (q : Nat) : Encodes.Statement (.wclear q) := fun h => nomatch h
theorem Encodes.queueReset (q : Nat) : Encodes.Statement (.queueReset q) := fun h => nomatch h
theorem Encodes.queueResume (q : Nat) : Encodes.Statement (.queueResume q) := fun h => nomatch h
theorem Encodes.registerWrite (fn : Nat) (off : Nat) (val : Word) : Encodes.Statement (.registerWrite fn off val) := fun h => nomatch h
theorem Encodes.launch (q : Nat) : Encodes.Statement (.launch q) := fun h => nomatch h
theorem Encodes.fencePacket (q : Nat) : Encodes.Statement (.fencePacket q) := fun h => nomatch h
theorem Encodes.fencePacketPoll (q : Nat) : Encodes.Statement (.fencePacketPoll q) := fun h => nomatch h
theorem Encodes.signal (q : Nat) : Encodes.Statement (.signal q) := fun h => nomatch h
theorem Encodes.batch (q : Nat) : Encodes.Statement (.batch q) := fun h => nomatch h
theorem Encodes.sibopen (q : Nat) : Encodes.Statement (.sibopen q) := fun h => nomatch h
theorem Encodes.lineageClose (q : Nat) : Encodes.Statement (.lineageClose q) := fun h => nomatch h
theorem Encodes.save (q : Nat) : Encodes.Statement (.save q) := fun h => nomatch h
theorem Encodes.restore (q : Nat) : Encodes.Statement (.restore q) := fun h => nomatch h
theorem Encodes.pierPlace (core : Nat) : Encodes.Statement (.pierPlace core) := fun h => nomatch h
theorem Encodes.workgroupBirth (core : Nat) : Encodes.Statement (.workgroupBirth core) := fun h => nomatch h
theorem Encodes.pierStop (core : Nat) : Encodes.Statement (.pierStop core) := fun h => nomatch h
theorem Encodes.saveImageWritten (core : Nat) : Encodes.Statement (.saveImageWritten core) := fun h => nomatch h
theorem Encodes.pierResume (core : Nat) : Encodes.Statement (.pierResume core) := fun h => nomatch h
theorem Encodes.pierDiscard (core : Nat) : Encodes.Statement (.pierDiscard core) := fun h => nomatch h
theorem Encodes.savedWorkgroupExchange (core : Nat) : Encodes.Statement (.savedWorkgroupExchange core) := fun h => nomatch h
theorem Encodes.barrierArrivalCounted (id : Nat) : Encodes.Statement (.barrierArrivalCounted id) := fun h => nomatch h
theorem Encodes.tfetchComplete (core : Nat) : Encodes.Statement (.tfetchComplete core) := fun h => nomatch h
theorem Encodes.reformBinTimeout (core : Nat) (key : PC) : Encodes.Statement (.reformBinTimeout core key) := fun h => nomatch h
theorem Encodes.starvationPriority (core : Nat) (part : Nat) (unif : Bool) : Encodes.Statement (.starvationPriority core part unif) := fun h => nomatch h
theorem Encodes.sfqResult (id : Nat) (lane : Nat) : Encodes.Statement (.sfqResult id lane) := fun h => nomatch h
theorem Encodes.estateSettle (id : Nat) : Encodes.Statement (.estateSettle id) := fun h => nomatch h
theorem Encodes.lineageCloseFinish (id : Nat) : Encodes.Statement (.lineageCloseFinish id) := fun h => nomatch h
theorem Encodes.engineCommandBegin (id : Nat) : Encodes.Statement (.engineCommandBegin id) := fun h => nomatch h
theorem Encodes.multicastFetch (id : Nat) : Encodes.Statement (.multicastFetch id) := fun h => nomatch h
theorem Encodes.copyChunkWrite (id : Nat) (len : Nat) : Encodes.Statement (.copyChunkWrite id len) := fun h => nomatch h
theorem Encodes.tensorCommandComplete (id : Nat) : Encodes.Statement (.tensorCommandComplete id) := fun h => nomatch h
theorem Encodes.loadSatisfy (id : Nat) : Encodes.Statement (.loadSatisfy id) := fun h => nomatch h
theorem Encodes.storeBufferDrain (id : Nat) : Encodes.Statement (.storeBufferDrain id) := fun h => nomatch h
theorem Encodes.writePathLeave (id : Nat) : Encodes.Statement (.writePathLeave id) := fun h => nomatch h
theorem Encodes.clusterAtomicPathLeave (id : Nat) : Encodes.Statement (.clusterAtomicPathLeave id) := fun h => nomatch h
theorem Encodes.waitmPoll (core : Nat) (team : Nat) : Encodes.Statement (.waitmPoll core team) := fun h => nomatch h
theorem Encodes.l1ViewDrop (core : Nat) (line : Nat) : Encodes.Statement (.l1ViewDrop core line) := fun h => nomatch h
theorem Encodes.l1ViewFill (core : Nat) (line : Nat) : Encodes.Statement (.l1ViewFill core line) := fun h => nomatch h
theorem Encodes.dieCopyDrop (die : Nat) (line : Nat) : Encodes.Statement (.dieCopyDrop die line) := fun h => nomatch h
theorem Encodes.gateApply (src : Nat) (dst : Nat) : Encodes.Statement (.gateApply src dst) := fun h => nomatch h
theorem Encodes.portAcknowledge (id : Nat) : Encodes.Statement (.portAcknowledge id) := fun h => nomatch h
theorem Encodes.fenceComplete (id : Nat) : Encodes.Statement (.fenceComplete id) := fun h => nomatch h
theorem Encodes.qpushEnterRing (id : Nat) : Encodes.Statement (.qpushEnterRing id) := fun h => nomatch h
theorem Encodes.qpopDeliver (id : Nat) : Encodes.Statement (.qpopDeliver id) := fun h => nomatch h
theorem Encodes.sealComplete (id : Nat) : Encodes.Statement (.sealComplete id) := fun h => nomatch h
theorem Encodes.unsealComplete (id : Nat) : Encodes.Statement (.unsealComplete id) := fun h => nomatch h
theorem Encodes.pageWalkComplete (die : Nat) (ctx : Nat) (vpage : Nat) : Encodes.Statement (.pageWalkComplete die ctx vpage) := fun h => nomatch h
theorem Encodes.faultPost (id : Nat) : Encodes.Statement (.faultPost id) := fun h => nomatch h
theorem Encodes.faultRespReplay (seq : Word) : Encodes.Statement (.faultRespReplay seq) := fun h => nomatch h
theorem Encodes.faultRespFail (seq : Word) : Encodes.Statement (.faultRespFail seq) := fun h => nomatch h
theorem Encodes.redReplayBufferMove (id : Nat) : Encodes.Statement (.redReplayBufferMove id) := fun h => nomatch h
theorem Encodes.softErrorUncorrectable (pa : Nat) : Encodes.Statement (.softErrorUncorrectable pa) := fun h => nomatch h
theorem Encodes.spanFlitCrcFail (src : Nat) (dst : Nat) : Encodes.Statement (.spanFlitCrcFail src dst) := fun h => nomatch h
theorem Encodes.spanLinkDown (src : Nat) (dst : Nat) : Encodes.Statement (.spanLinkDown src dst) := fun h => nomatch h
theorem Encodes.ballotPostAccept (id : Nat) : Encodes.Statement (.ballotPostAccept id) := fun h => nomatch h
theorem Encodes.siblingCancelNotify (slot : Nat) : Encodes.Statement (.siblingCancelNotify slot) := fun h => nomatch h
theorem Encodes.bpostStatusDeliver (id : Nat) : Encodes.Statement (.bpostStatusDeliver id) := fun h => nomatch h
theorem Encodes.bqryResultDeliver (id : Nat) : Encodes.Statement (.bqryResultDeliver id) := fun h => nomatch h
theorem Encodes.pageReleaseWalk (slot : Nat) : Encodes.Statement (.pageReleaseWalk slot) := fun h => nomatch h
theorem Encodes.accountingRecordWrite (slot : Nat) : Encodes.Statement (.accountingRecordWrite slot) := fun h => nomatch h
theorem Encodes.sibclose (fn : Nat) (handle : Word) : Encodes.Statement (.sibclose fn handle) := fun h => nomatch h
theorem Encodes.lockInterfaceRequest (fn : Nat) : Encodes.Statement (.lockInterfaceRequest fn) := fun h => nomatch h
theorem Encodes.startInterfaceRequest (fn : Nat) (respond : Bool) : Encodes.Statement (.startInterfaceRequest fn respond) := fun h => nomatch h
theorem Encodes.stopInterfaceRequest (fn : Nat) : Encodes.Statement (.stopInterfaceRequest fn) := fun h => nomatch h
theorem Encodes.ideStreamFailure (fn : Nat) : Encodes.Statement (.ideStreamFailure fn) := fun h => nomatch h
theorem Encodes.functionLevelReset (fn : Nat) : Encodes.Statement (.functionLevelReset fn) := fun h => nomatch h
theorem Encodes.keyKillAck (slot : Nat) (engine : Nat) : Encodes.Statement (.keyKillAck slot engine) := fun h => nomatch h
theorem Encodes.keyExchange (fn : Nat) : Encodes.Statement (.keyExchange fn) := fun h => nomatch h
theorem Encodes.contextRegistration (r : CtxReg) : Encodes.Statement (.contextRegistration r) := fun h => nomatch h
theorem Encodes.contextEnd (ctx : Nat) : Encodes.Statement (.contextEnd ctx) := fun h => nomatch h
theorem Encodes.hardwareQueueRegistration (ctx : Nat) (desc : DWord) : Encodes.Statement (.hardwareQueueRegistration ctx desc) := fun h => nomatch h
theorem Encodes.hostRequest (r : HostReq) : Encodes.Statement (.hostRequest r) := fun h => nomatch h
theorem Encodes.coreAssign : Encodes.Statement (.coreAssign) := fun h => nomatch h
theorem Encodes.invalidateGo : Encodes.Statement (.invalidateGo) := fun h => nomatch h
theorem Encodes.tlbInvalidationDone : Encodes.Statement (.tlbInvalidationDone) := fun h => nomatch h
theorem Encodes.powerOn : Encodes.Statement (.powerOn) := fun h => nomatch h
theorem Encodes.recoveryCommit : Encodes.Statement (.recoveryCommit) := fun h => nomatch h
theorem Encodes.recoveryReboot : Encodes.Statement (.recoveryReboot) := fun h => nomatch h
theorem Encodes.powerLimitExceeded : Encodes.Statement (.powerLimitExceeded) := fun h => nomatch h
theorem Encodes.powerLoss : Encodes.Statement (.powerLoss) := fun h => nomatch h
theorem Encodes.getMeasurements : Encodes.Statement (.getMeasurements) := fun h => nomatch h
theorem Encodes.clockStepUp : Encodes.Statement (.clockStepUp) := fun h => nomatch h
theorem Encodes.clearSequenceComplete : Encodes.Statement (.clearSequenceComplete) := fun h => nomatch h
theorem Encodes.timeSliceEnd : Encodes.Statement (.timeSliceEnd) := fun h => nomatch h
theorem Encodes.viaductLinkDown : Encodes.Statement (.viaductLinkDown) := fun h => nomatch h
theorem Encodes.launchComplete : Encodes.Statement (.launchComplete) := fun h => nomatch h

end Sys2Proof.Laws
end

