-- ==== Sys2Proof/Laws/Sparse.lean ====
section
/-! SUPPORT. What the operations on sparse data read back, and that they keep the canonical form. -/

namespace Sys2Proof.Machine

theorem kvGet_put_same {α : Type} (m : KV α) (k : Nat) (v : α) : kvGet (kvPut m k v) k = some v := by
  induction m with
  | nil => simp [kvPut, kvGet]
  | cons e r ih => obtain ⟨a, b⟩ := e; simp only [kvPut]; split <;> [skip; split] <;> simp_all [kvGet]

theorem kvGet_put_ne {α : Type} (m : KV α) (k j : Nat) (v : α) (h : j ≠ k) : kvGet (kvPut m k v) j = kvGet m j := by
  induction m with
  | nil => simp [kvPut, kvGet, h]
  | cons e r ih =>
    obtain ⟨a, b⟩ := e; simp only [kvPut]; split
    · simp_all [kvGet]
    · split <;> simp_all [kvGet]

theorem kvGet_del_same {α : Type} (m : KV α) (k : Nat) : kvGet (kvDel m k) k = none := by
  induction m with
  | nil => rfl
  | cons e r ih => obtain ⟨a, b⟩ := e; simp only [kvDel]; split <;> simp_all [kvGet]

theorem kvGet_del_ne {α : Type} (m : KV α) (k j : Nat) (h : j ≠ k) : kvGet (kvDel m k) j = kvGet m j := by
  induction m with
  | nil => rfl
  | cons e r ih => obtain ⟨a, b⟩ := e; simp only [kvDel]; split <;> simp_all [kvGet]

theorem kvGetD_setD_same {α : Type} [DecidableEq α] (d : α) (m : KV α) (k : Nat) (v : α) :
    kvGetD d (kvSetD d m k v) k = v := by
  simp only [kvGetD, kvSetD]; split <;> simp_all [kvGet_put_same, kvGet_del_same]

theorem kvGetD_setD_ne {α : Type} [DecidableEq α] (d : α) (m : KV α) (k j : Nat) (v : α) (h : j ≠ k) :
    kvGetD d (kvSetD d m k v) j = kvGetD d m j := by
  simp only [kvGetD, kvSetD]; split <;> simp_all [kvGet_put_ne, kvGet_del_ne]

theorem kvGet_mod_same {α : Type} (m : KV α) (k : Nat) (f : α → α) : kvGet (kvMod m k f) k = (kvGet m k).map f := by
  simp only [kvMod]; split <;> simp_all [kvGet_put_same]

theorem kvGet_mod_ne {α : Type} (m : KV α) (k j : Nat) (f : α → α) (h : j ≠ k) :
    kvGet (kvMod m k f) j = kvGet m j := by
  simp only [kvMod]; split
  · simp_all [kvGet_put_ne]
  · rfl

/-- A change of each value keeps the keys. -/
theorem kvGet_map {α β : Type} (m : KV α) (k : Nat) (f : Nat → α → β) :
    kvGet (m.map (fun e => (e.1, f e.1 e.2))) k = (kvGet m k).map (f k) := by
  induction m with
  | nil => rfl
  | cons e r ih =>
    obtain ⟨a, b⟩ := e; simp only [List.map, kvGet]; split
    · next h => subst h; rfl
    · exact ih

/-! ### The canonical form -/

theorem kvSortedFrom_mono {α : Type} (m : KV α) (a b : Nat) (h : a ≤ b) (hs : kvSortedFrom b m = true) :
    kvSortedFrom a m = true := by
  cases m with
  | nil => rfl
  | cons e r => obtain ⟨k, v⟩ := e; simp_all [kvSortedFrom]; omega

theorem kvSortedFrom_put {α : Type} (m : KV α) (lo k : Nat) (v : α) (h : lo ≤ k) (hs : kvSortedFrom lo m = true) :
    kvSortedFrom lo (kvPut m k v) = true := by
  induction m generalizing lo with
  | nil => simp [kvPut, kvSortedFrom, h]
  | cons e r ih =>
    obtain ⟨a, b⟩ := e
    simp only [kvSortedFrom, Bool.and_eq_true, decide_eq_true_eq] at hs
    simp only [kvPut]; split
    · subst_vars; simp_all [kvSortedFrom]
    · split
      · simp_all [kvSortedFrom]
      · simp only [kvSortedFrom, Bool.and_eq_true, decide_eq_true_eq]
        exact ⟨hs.1, ih _ (by omega) hs.2⟩

theorem kvSortedFrom_filter {α : Type} (m : KV α) (lo : Nat) (p : Nat × α → Bool) (hs : kvSortedFrom lo m = true) :
    kvSortedFrom lo (m.filter p) = true := by
  induction m generalizing lo with
  | nil => rfl
  | cons e r ih =>
    obtain ⟨a, b⟩ := e
    simp only [kvSortedFrom, Bool.and_eq_true, decide_eq_true_eq] at hs
    simp only [List.filter]; split
    · simp only [kvSortedFrom, Bool.and_eq_true, decide_eq_true_eq]; exact ⟨hs.1, ih _ hs.2⟩
    · exact kvSortedFrom_mono _ _ _ (by omega) (ih _ hs.2)

theorem kvDel_eq_filter {α : Type} (m : KV α) (k : Nat) : kvDel m k = m.filter (fun e => decide (k ≠ e.1)) := by
  induction m with
  | nil => rfl
  | cons e r ih => obtain ⟨a, b⟩ := e; simp only [kvDel, List.filter]; split <;> simp_all

theorem kvWf_put {α : Type} (m : KV α) (k : Nat) (v : α) (h : kvWf m = true) : kvWf (kvPut m k v) = true :=
  kvSortedFrom_put m 0 k v (Nat.zero_le k) h

theorem kvWf_del {α : Type} (m : KV α) (k : Nat) (h : kvWf m = true) : kvWf (kvDel m k) = true := by
  rw [kvDel_eq_filter]; exact kvSortedFrom_filter m 0 _ h

theorem mem_kvPut {α : Type} (m : KV α) (k : Nat) (v : α) (e : Nat × α) (h : e ∈ kvPut m k v) : e = (k, v) ∨ e ∈ m := by
  induction m with
  | nil => simp_all [kvPut]
  | cons a r ih =>
    obtain ⟨a, b⟩ := a; simp only [kvPut] at h; split at h
    · simp_all; tauto
    · split at h
      · simp_all
      · simp only [List.mem_cons] at h ⊢; rcases h with h | h
        · exact .inr (.inl h)
        · rcases ih h with h | h
          · exact .inl h
          · exact .inr (.inr h)

/-- Setting a value keeps the canonical form of data with a default. -/
theorem kvWfD_set {α : Type} [DecidableEq α] (d : α) (m : KV α) (k : Nat) (v : α) (h : kvWfD d m = true) :
    kvWfD d (kvSetD d m k v) = true := by
  simp only [kvWfD, Bool.and_eq_true, List.all_eq_true, decide_eq_true_eq] at h ⊢
  simp only [kvSetD]; split
  · refine ⟨kvWf_del _ _ h.1, fun e he => h.2 e ?_⟩
    rw [kvDel_eq_filter] at he; exact (List.mem_filter.1 he).1
  · next hv =>
    refine ⟨kvWf_put _ _ _ h.1, fun e he => ?_⟩
    rcases mem_kvPut _ _ _ _ he with rfl | he
    · exact hv
    · exact h.2 e he

/-- Dropping entries keeps the canonical form. -/
theorem kvWfD_filter {α : Type} [DecidableEq α] (d : α) (m : KV α) (p : Nat × α → Bool) (h : kvWfD d m = true) :
    kvWfD d (m.filter p) = true := by
  simp only [kvWfD, Bool.and_eq_true, List.all_eq_true] at h ⊢
  exact ⟨kvSortedFrom_filter m 0 p h.1, fun e he => h.2 e (List.mem_filter.1 he).1⟩

end Sys2Proof.Machine
end

