-- ==== Sys2Proof/Laws/State.lean ====
section
/-! SUPPORT. What each named update of State leaves in each field, by reduction. -/

namespace Sys2Proof.Machine

variable (s : State)

/-! ### modWg -/

@[simp] theorem State.modWg_part (c : Nat) (f : Workgroup → Workgroup) : (s.modWg c f).part = s.part := rfl
@[simp] theorem State.modWg_time (c : Nat) (f : Workgroup → Workgroup) : (s.modWg c f).time = s.time := rfl
@[simp] theorem State.modWg_powered (c : Nat) (f : Workgroup → Workgroup) : (s.modWg c f).powered = s.powered := rfl
@[simp] theorem State.modWg_cxlCoherent (c : Nat) (f : Workgroup → Workgroup) : (s.modWg c f).cxlCoherent = s.cxlCoherent := rfl
@[simp] theorem State.modWg_faultLog (c : Nat) (f : Workgroup → Workgroup) : (s.modWg c f).faultLog = s.faultLog := rfl
@[simp] theorem State.modWg_eventLog (c : Nat) (f : Workgroup → Workgroup) : (s.modWg c f).eventLog = s.eventLog := rfl
@[simp] theorem State.modWg_irqs (c : Nat) (f : Workgroup → Workgroup) : (s.modWg c f).irqs = s.irqs := rfl
@[simp] theorem State.modWg_linksDown (c : Nat) (f : Workgroup → Workgroup) : (s.modWg c f).linksDown = s.linksDown := rfl
@[simp] theorem State.modWg_retries (c : Nat) (f : Workgroup → Workgroup) : (s.modWg c f).retries = s.retries := rfl
@[simp] theorem State.modWg_viaductDown (c : Nat) (f : Workgroup → Workgroup) : (s.modWg c f).viaductDown = s.viaductDown := rfl
@[simp] theorem State.modWg_clusters (c : Nat) (f : Workgroup → Workgroup) : (s.modWg c f).clusters = s.clusters := rfl
@[simp] theorem State.modWg_mem (c : Nat) (f : Workgroup → Workgroup) : (s.modWg c f).mem = s.mem := rfl
@[simp] theorem State.modWg_loads (c : Nat) (f : Workgroup → Workgroup) : (s.modWg c f).loads = s.loads := rfl
@[simp] theorem State.modWg_stbuf (c : Nat) (f : Workgroup → Workgroup) : (s.modWg c f).stbuf = s.stbuf := rfl
@[simp] theorem State.modWg_wpath (c : Nat) (f : Workgroup → Workgroup) : (s.modWg c f).wpath = s.wpath := rfl
@[simp] theorem State.modWg_capath (c : Nat) (f : Workgroup → Workgroup) : (s.modWg c f).capath = s.capath := rfl
@[simp] theorem State.modWg_ports (c : Nat) (f : Workgroup → Workgroup) : (s.modWg c f).ports = s.ports := rfl
@[simp] theorem State.modWg_l1 (c : Nat) (f : Workgroup → Workgroup) : (s.modWg c f).l1 = s.l1 := rfl
@[simp] theorem State.modWg_caview (c : Nat) (f : Workgroup → Workgroup) : (s.modWg c f).caview = s.caview := rfl
@[simp] theorem State.modWg_copies (c : Nat) (f : Workgroup → Workgroup) : (s.modWg c f).copies = s.copies := rfl
@[simp] theorem State.modWg_vc (c : Nat) (f : Workgroup → Workgroup) : (s.modWg c f).vc = s.vc := rfl
@[simp] theorem State.modWg_chans (c : Nat) (f : Workgroup → Workgroup) : (s.modWg c f).chans = s.chans := rfl
@[simp] theorem State.modWg_chanSeq (c : Nat) (f : Workgroup → Workgroup) : (s.modWg c f).chanSeq = s.chanSeq := rfl
@[simp] theorem State.modWg_writes (c : Nat) (f : Workgroup → Workgroup) : (s.modWg c f).writes = s.writes := rfl
@[simp] theorem State.modWg_fences (c : Nat) (f : Workgroup → Workgroup) : (s.modWg c f).fences = s.fences := rfl
@[simp] theorem State.modWg_arrivals (c : Nat) (f : Workgroup → Workgroup) : (s.modWg c f).arrivals = s.arrivals := rfl
@[simp] theorem State.modWg_sfqs (c : Nat) (f : Workgroup → Workgroup) : (s.modWg c f).sfqs = s.sfqs := rfl
@[simp] theorem State.modWg_l1tlb (c : Nat) (f : Workgroup → Workgroup) : (s.modWg c f).l1tlb = s.l1tlb := rfl
@[simp] theorem State.modWg_cltlb (c : Nat) (f : Workgroup → Workgroup) : (s.modWg c f).cltlb = s.cltlb := rfl
@[simp] theorem State.modWg_lltlb (c : Nat) (f : Workgroup → Workgroup) : (s.modWg c f).lltlb = s.lltlb := rfl
@[simp] theorem State.modWg_walks (c : Nat) (f : Workgroup → Workgroup) : (s.modWg c f).walks = s.walks := rfl
@[simp] theorem State.modWg_inval (c : Nat) (f : Workgroup → Workgroup) : (s.modWg c f).inval = s.inval := rfl
@[simp] theorem State.modWg_fb (c : Nat) (f : Workgroup → Workgroup) : (s.modWg c f).fb = s.fb := rfl
@[simp] theorem State.modWg_faults (c : Nat) (f : Workgroup → Workgroup) : (s.modWg c f).faults = s.faults := rfl
@[simp] theorem State.modWg_replay (c : Nat) (f : Workgroup → Workgroup) : (s.modWg c f).replay = s.replay := rfl
@[simp] theorem State.modWg_seals (c : Nat) (f : Workgroup → Workgroup) : (s.modWg c f).seals = s.seals := rfl
@[simp] theorem State.modWg_contexts (c : Nat) (f : Workgroup → Workgroup) : (s.modWg c f).contexts = s.contexts := rfl
@[simp] theorem State.modWg_queues (c : Nat) (f : Workgroup → Workgroup) : (s.modWg c f).queues = s.queues := rfl
@[simp] theorem State.modWg_launches (c : Nat) (f : Workgroup → Workgroup) : (s.modWg c f).launches = s.launches := rfl
@[simp] theorem State.modWg_wgs (c : Nat) (f : Workgroup → Workgroup) : (s.modWg c f).wgs = kvMod s.wgs c f := rfl
@[simp] theorem State.modWg_links (c : Nat) (f : Workgroup → Workgroup) : (s.modWg c f).links = s.links := rfl
@[simp] theorem State.modWg_hwqs (c : Nat) (f : Workgroup → Workgroup) : (s.modWg c f).hwqs = s.hwqs := rfl
@[simp] theorem State.modWg_qops (c : Nat) (f : Workgroup → Workgroup) : (s.modWg c f).qops = s.qops := rfl
@[simp] theorem State.modWg_stores (c : Nat) (f : Workgroup → Workgroup) : (s.modWg c f).stores = s.stores := rfl
@[simp] theorem State.modWg_spilled (c : Nat) (f : Workgroup → Workgroup) : (s.modWg c f).spilled = s.spilled := rfl
@[simp] theorem State.modWg_settles (c : Nat) (f : Workgroup → Workgroup) : (s.modWg c f).settles = s.settles := rfl
@[simp] theorem State.modWg_claims (c : Nat) (f : Workgroup → Workgroup) : (s.modWg c f).claims = s.claims := rfl
@[simp] theorem State.modWg_lineages (c : Nat) (f : Workgroup → Workgroup) : (s.modWg c f).lineages = s.lineages := rfl
@[simp] theorem State.modWg_closes (c : Nat) (f : Workgroup → Workgroup) : (s.modWg c f).closes = s.closes := rfl
@[simp] theorem State.modWg_groups (c : Nat) (f : Workgroup → Workgroup) : (s.modWg c f).groups = s.groups := rfl
@[simp] theorem State.modWg_posts (c : Nat) (f : Workgroup → Workgroup) : (s.modWg c f).posts = s.posts := rfl
@[simp] theorem State.modWg_ifaces (c : Nat) (f : Workgroup → Workgroup) : (s.modWg c f).ifaces = s.ifaces := rfl
@[simp] theorem State.modWg_owners (c : Nat) (f : Workgroup → Workgroup) : (s.modWg c f).owners = s.owners := rfl
@[simp] theorem State.modWg_keys (c : Nat) (f : Workgroup → Workgroup) : (s.modWg c f).keys = s.keys := rfl
@[simp] theorem State.modWg_deferredCpl (c : Nat) (f : Workgroup → Workgroup) : (s.modWg c f).deferredCpl = s.deferredCpl := rfl
@[simp] theorem State.modWg_recov (c : Nat) (f : Workgroup → Workgroup) : (s.modWg c f).recov = s.recov := rfl
@[simp] theorem State.modWg_softErrs (c : Nat) (f : Workgroup → Workgroup) : (s.modWg c f).softErrs = s.softErrs := rfl
@[simp] theorem State.modWg_nextSeq (c : Nat) (f : Workgroup → Workgroup) : (s.modWg c f).nextSeq = s.nextSeq := rfl
@[simp] theorem State.modWg_agenda (c : Nat) (f : Workgroup → Workgroup) : (s.modWg c f).agenda = s.agenda := rfl
@[simp] theorem State.modWg_cur (c : Nat) (f : Workgroup → Workgroup) : (s.modWg c f).cur = s.cur := rfl
@[simp] theorem State.modWg_choice (c : Nat) (f : Workgroup → Workgroup) : (s.modWg c f).choice = s.choice := rfl
@[simp] theorem State.modWg_freeCtr (c : Nat) (f : Workgroup → Workgroup) : (s.modWg c f).freeCtr = s.freeCtr := rfl
@[simp] theorem State.modWg_stop (c : Nat) (f : Workgroup → Workgroup) : (s.modWg c f).stop = s.stop := rfl
@[simp] theorem State.modWg_was (c : Nat) (f : Workgroup → Workgroup) : (s.modWg c f).was = s.was := rfl
@[simp] theorem State.modWg_sealedFrames (c : Nat) (f : Workgroup → Workgroup) : (s.modWg c f).sealedFrames = s.sealedFrames := rfl

/-! ### modTeam -/

@[simp] theorem State.modTeam_part (c t : Nat) (f : Team → Team) : (s.modTeam c t f).part = s.part := rfl
@[simp] theorem State.modTeam_time (c t : Nat) (f : Team → Team) : (s.modTeam c t f).time = s.time := rfl
@[simp] theorem State.modTeam_powered (c t : Nat) (f : Team → Team) : (s.modTeam c t f).powered = s.powered := rfl
@[simp] theorem State.modTeam_cxlCoherent (c t : Nat) (f : Team → Team) : (s.modTeam c t f).cxlCoherent = s.cxlCoherent := rfl
@[simp] theorem State.modTeam_faultLog (c t : Nat) (f : Team → Team) : (s.modTeam c t f).faultLog = s.faultLog := rfl
@[simp] theorem State.modTeam_eventLog (c t : Nat) (f : Team → Team) : (s.modTeam c t f).eventLog = s.eventLog := rfl
@[simp] theorem State.modTeam_irqs (c t : Nat) (f : Team → Team) : (s.modTeam c t f).irqs = s.irqs := rfl
@[simp] theorem State.modTeam_linksDown (c t : Nat) (f : Team → Team) : (s.modTeam c t f).linksDown = s.linksDown := rfl
@[simp] theorem State.modTeam_retries (c t : Nat) (f : Team → Team) : (s.modTeam c t f).retries = s.retries := rfl
@[simp] theorem State.modTeam_viaductDown (c t : Nat) (f : Team → Team) : (s.modTeam c t f).viaductDown = s.viaductDown := rfl
@[simp] theorem State.modTeam_clusters (c t : Nat) (f : Team → Team) : (s.modTeam c t f).clusters = s.clusters := rfl
@[simp] theorem State.modTeam_mem (c t : Nat) (f : Team → Team) : (s.modTeam c t f).mem = s.mem := rfl
@[simp] theorem State.modTeam_loads (c t : Nat) (f : Team → Team) : (s.modTeam c t f).loads = s.loads := rfl
@[simp] theorem State.modTeam_stbuf (c t : Nat) (f : Team → Team) : (s.modTeam c t f).stbuf = s.stbuf := rfl
@[simp] theorem State.modTeam_wpath (c t : Nat) (f : Team → Team) : (s.modTeam c t f).wpath = s.wpath := rfl
@[simp] theorem State.modTeam_capath (c t : Nat) (f : Team → Team) : (s.modTeam c t f).capath = s.capath := rfl
@[simp] theorem State.modTeam_ports (c t : Nat) (f : Team → Team) : (s.modTeam c t f).ports = s.ports := rfl
@[simp] theorem State.modTeam_l1 (c t : Nat) (f : Team → Team) : (s.modTeam c t f).l1 = s.l1 := rfl
@[simp] theorem State.modTeam_caview (c t : Nat) (f : Team → Team) : (s.modTeam c t f).caview = s.caview := rfl
@[simp] theorem State.modTeam_copies (c t : Nat) (f : Team → Team) : (s.modTeam c t f).copies = s.copies := rfl
@[simp] theorem State.modTeam_vc (c t : Nat) (f : Team → Team) : (s.modTeam c t f).vc = s.vc := rfl
@[simp] theorem State.modTeam_chans (c t : Nat) (f : Team → Team) : (s.modTeam c t f).chans = s.chans := rfl
@[simp] theorem State.modTeam_chanSeq (c t : Nat) (f : Team → Team) : (s.modTeam c t f).chanSeq = s.chanSeq := rfl
@[simp] theorem State.modTeam_writes (c t : Nat) (f : Team → Team) : (s.modTeam c t f).writes = s.writes := rfl
@[simp] theorem State.modTeam_fences (c t : Nat) (f : Team → Team) : (s.modTeam c t f).fences = s.fences := rfl
@[simp] theorem State.modTeam_arrivals (c t : Nat) (f : Team → Team) : (s.modTeam c t f).arrivals = s.arrivals := rfl
@[simp] theorem State.modTeam_sfqs (c t : Nat) (f : Team → Team) : (s.modTeam c t f).sfqs = s.sfqs := rfl
@[simp] theorem State.modTeam_l1tlb (c t : Nat) (f : Team → Team) : (s.modTeam c t f).l1tlb = s.l1tlb := rfl
@[simp] theorem State.modTeam_cltlb (c t : Nat) (f : Team → Team) : (s.modTeam c t f).cltlb = s.cltlb := rfl
@[simp] theorem State.modTeam_lltlb (c t : Nat) (f : Team → Team) : (s.modTeam c t f).lltlb = s.lltlb := rfl
@[simp] theorem State.modTeam_walks (c t : Nat) (f : Team → Team) : (s.modTeam c t f).walks = s.walks := rfl
@[simp] theorem State.modTeam_inval (c t : Nat) (f : Team → Team) : (s.modTeam c t f).inval = s.inval := rfl
@[simp] theorem State.modTeam_fb (c t : Nat) (f : Team → Team) : (s.modTeam c t f).fb = s.fb := rfl
@[simp] theorem State.modTeam_faults (c t : Nat) (f : Team → Team) : (s.modTeam c t f).faults = s.faults := rfl
@[simp] theorem State.modTeam_replay (c t : Nat) (f : Team → Team) : (s.modTeam c t f).replay = s.replay := rfl
@[simp] theorem State.modTeam_seals (c t : Nat) (f : Team → Team) : (s.modTeam c t f).seals = s.seals := rfl
@[simp] theorem State.modTeam_contexts (c t : Nat) (f : Team → Team) : (s.modTeam c t f).contexts = s.contexts := rfl
@[simp] theorem State.modTeam_queues (c t : Nat) (f : Team → Team) : (s.modTeam c t f).queues = s.queues := rfl
@[simp] theorem State.modTeam_launches (c t : Nat) (f : Team → Team) : (s.modTeam c t f).launches = s.launches := rfl
@[simp] theorem State.modTeam_links (c t : Nat) (f : Team → Team) : (s.modTeam c t f).links = s.links := rfl
@[simp] theorem State.modTeam_hwqs (c t : Nat) (f : Team → Team) : (s.modTeam c t f).hwqs = s.hwqs := rfl
@[simp] theorem State.modTeam_qops (c t : Nat) (f : Team → Team) : (s.modTeam c t f).qops = s.qops := rfl
@[simp] theorem State.modTeam_stores (c t : Nat) (f : Team → Team) : (s.modTeam c t f).stores = s.stores := rfl
@[simp] theorem State.modTeam_spilled (c t : Nat) (f : Team → Team) : (s.modTeam c t f).spilled = s.spilled := rfl
@[simp] theorem State.modTeam_settles (c t : Nat) (f : Team → Team) : (s.modTeam c t f).settles = s.settles := rfl
@[simp] theorem State.modTeam_claims (c t : Nat) (f : Team → Team) : (s.modTeam c t f).claims = s.claims := rfl
@[simp] theorem State.modTeam_lineages (c t : Nat) (f : Team → Team) : (s.modTeam c t f).lineages = s.lineages := rfl
@[simp] theorem State.modTeam_closes (c t : Nat) (f : Team → Team) : (s.modTeam c t f).closes = s.closes := rfl
@[simp] theorem State.modTeam_groups (c t : Nat) (f : Team → Team) : (s.modTeam c t f).groups = s.groups := rfl
@[simp] theorem State.modTeam_posts (c t : Nat) (f : Team → Team) : (s.modTeam c t f).posts = s.posts := rfl
@[simp] theorem State.modTeam_ifaces (c t : Nat) (f : Team → Team) : (s.modTeam c t f).ifaces = s.ifaces := rfl
@[simp] theorem State.modTeam_owners (c t : Nat) (f : Team → Team) : (s.modTeam c t f).owners = s.owners := rfl
@[simp] theorem State.modTeam_keys (c t : Nat) (f : Team → Team) : (s.modTeam c t f).keys = s.keys := rfl
@[simp] theorem State.modTeam_deferredCpl (c t : Nat) (f : Team → Team) : (s.modTeam c t f).deferredCpl = s.deferredCpl := rfl
@[simp] theorem State.modTeam_recov (c t : Nat) (f : Team → Team) : (s.modTeam c t f).recov = s.recov := rfl
@[simp] theorem State.modTeam_softErrs (c t : Nat) (f : Team → Team) : (s.modTeam c t f).softErrs = s.softErrs := rfl
@[simp] theorem State.modTeam_nextSeq (c t : Nat) (f : Team → Team) : (s.modTeam c t f).nextSeq = s.nextSeq := rfl
@[simp] theorem State.modTeam_agenda (c t : Nat) (f : Team → Team) : (s.modTeam c t f).agenda = s.agenda := rfl
@[simp] theorem State.modTeam_cur (c t : Nat) (f : Team → Team) : (s.modTeam c t f).cur = s.cur := rfl
@[simp] theorem State.modTeam_choice (c t : Nat) (f : Team → Team) : (s.modTeam c t f).choice = s.choice := rfl
@[simp] theorem State.modTeam_freeCtr (c t : Nat) (f : Team → Team) : (s.modTeam c t f).freeCtr = s.freeCtr := rfl
@[simp] theorem State.modTeam_stop (c t : Nat) (f : Team → Team) : (s.modTeam c t f).stop = s.stop := rfl
@[simp] theorem State.modTeam_was (c t : Nat) (f : Team → Team) : (s.modTeam c t f).was = s.was := rfl
@[simp] theorem State.modTeam_sealedFrames (c t : Nat) (f : Team → Team) : (s.modTeam c t f).sealedFrames = s.sealedFrames := rfl

/-! ### modThread -/

@[simp] theorem State.modThread_part (c t l : Nat) (f : Thread → Thread) : (s.modThread c t l f).part = s.part := rfl
@[simp] theorem State.modThread_time (c t l : Nat) (f : Thread → Thread) : (s.modThread c t l f).time = s.time := rfl
@[simp] theorem State.modThread_powered (c t l : Nat) (f : Thread → Thread) : (s.modThread c t l f).powered = s.powered := rfl
@[simp] theorem State.modThread_cxlCoherent (c t l : Nat) (f : Thread → Thread) : (s.modThread c t l f).cxlCoherent = s.cxlCoherent := rfl
@[simp] theorem State.modThread_faultLog (c t l : Nat) (f : Thread → Thread) : (s.modThread c t l f).faultLog = s.faultLog := rfl
@[simp] theorem State.modThread_eventLog (c t l : Nat) (f : Thread → Thread) : (s.modThread c t l f).eventLog = s.eventLog := rfl
@[simp] theorem State.modThread_irqs (c t l : Nat) (f : Thread → Thread) : (s.modThread c t l f).irqs = s.irqs := rfl
@[simp] theorem State.modThread_linksDown (c t l : Nat) (f : Thread → Thread) : (s.modThread c t l f).linksDown = s.linksDown := rfl
@[simp] theorem State.modThread_retries (c t l : Nat) (f : Thread → Thread) : (s.modThread c t l f).retries = s.retries := rfl
@[simp] theorem State.modThread_viaductDown (c t l : Nat) (f : Thread → Thread) : (s.modThread c t l f).viaductDown = s.viaductDown := rfl
@[simp] theorem State.modThread_clusters (c t l : Nat) (f : Thread → Thread) : (s.modThread c t l f).clusters = s.clusters := rfl
@[simp] theorem State.modThread_mem (c t l : Nat) (f : Thread → Thread) : (s.modThread c t l f).mem = s.mem := rfl
@[simp] theorem State.modThread_loads (c t l : Nat) (f : Thread → Thread) : (s.modThread c t l f).loads = s.loads := rfl
@[simp] theorem State.modThread_stbuf (c t l : Nat) (f : Thread → Thread) : (s.modThread c t l f).stbuf = s.stbuf := rfl
@[simp] theorem State.modThread_wpath (c t l : Nat) (f : Thread → Thread) : (s.modThread c t l f).wpath = s.wpath := rfl
@[simp] theorem State.modThread_capath (c t l : Nat) (f : Thread → Thread) : (s.modThread c t l f).capath = s.capath := rfl
@[simp] theorem State.modThread_ports (c t l : Nat) (f : Thread → Thread) : (s.modThread c t l f).ports = s.ports := rfl
@[simp] theorem State.modThread_l1 (c t l : Nat) (f : Thread → Thread) : (s.modThread c t l f).l1 = s.l1 := rfl
@[simp] theorem State.modThread_caview (c t l : Nat) (f : Thread → Thread) : (s.modThread c t l f).caview = s.caview := rfl
@[simp] theorem State.modThread_copies (c t l : Nat) (f : Thread → Thread) : (s.modThread c t l f).copies = s.copies := rfl
@[simp] theorem State.modThread_vc (c t l : Nat) (f : Thread → Thread) : (s.modThread c t l f).vc = s.vc := rfl
@[simp] theorem State.modThread_chans (c t l : Nat) (f : Thread → Thread) : (s.modThread c t l f).chans = s.chans := rfl
@[simp] theorem State.modThread_chanSeq (c t l : Nat) (f : Thread → Thread) : (s.modThread c t l f).chanSeq = s.chanSeq := rfl
@[simp] theorem State.modThread_writes (c t l : Nat) (f : Thread → Thread) : (s.modThread c t l f).writes = s.writes := rfl
@[simp] theorem State.modThread_fences (c t l : Nat) (f : Thread → Thread) : (s.modThread c t l f).fences = s.fences := rfl
@[simp] theorem State.modThread_arrivals (c t l : Nat) (f : Thread → Thread) : (s.modThread c t l f).arrivals = s.arrivals := rfl
@[simp] theorem State.modThread_sfqs (c t l : Nat) (f : Thread → Thread) : (s.modThread c t l f).sfqs = s.sfqs := rfl
@[simp] theorem State.modThread_l1tlb (c t l : Nat) (f : Thread → Thread) : (s.modThread c t l f).l1tlb = s.l1tlb := rfl
@[simp] theorem State.modThread_cltlb (c t l : Nat) (f : Thread → Thread) : (s.modThread c t l f).cltlb = s.cltlb := rfl
@[simp] theorem State.modThread_lltlb (c t l : Nat) (f : Thread → Thread) : (s.modThread c t l f).lltlb = s.lltlb := rfl
@[simp] theorem State.modThread_walks (c t l : Nat) (f : Thread → Thread) : (s.modThread c t l f).walks = s.walks := rfl
@[simp] theorem State.modThread_inval (c t l : Nat) (f : Thread → Thread) : (s.modThread c t l f).inval = s.inval := rfl
@[simp] theorem State.modThread_fb (c t l : Nat) (f : Thread → Thread) : (s.modThread c t l f).fb = s.fb := rfl
@[simp] theorem State.modThread_faults (c t l : Nat) (f : Thread → Thread) : (s.modThread c t l f).faults = s.faults := rfl
@[simp] theorem State.modThread_replay (c t l : Nat) (f : Thread → Thread) : (s.modThread c t l f).replay = s.replay := rfl
@[simp] theorem State.modThread_seals (c t l : Nat) (f : Thread → Thread) : (s.modThread c t l f).seals = s.seals := rfl
@[simp] theorem State.modThread_contexts (c t l : Nat) (f : Thread → Thread) : (s.modThread c t l f).contexts = s.contexts := rfl
@[simp] theorem State.modThread_queues (c t l : Nat) (f : Thread → Thread) : (s.modThread c t l f).queues = s.queues := rfl
@[simp] theorem State.modThread_launches (c t l : Nat) (f : Thread → Thread) : (s.modThread c t l f).launches = s.launches := rfl
@[simp] theorem State.modThread_links (c t l : Nat) (f : Thread → Thread) : (s.modThread c t l f).links = s.links := rfl
@[simp] theorem State.modThread_hwqs (c t l : Nat) (f : Thread → Thread) : (s.modThread c t l f).hwqs = s.hwqs := rfl
@[simp] theorem State.modThread_qops (c t l : Nat) (f : Thread → Thread) : (s.modThread c t l f).qops = s.qops := rfl
@[simp] theorem State.modThread_stores (c t l : Nat) (f : Thread → Thread) : (s.modThread c t l f).stores = s.stores := rfl
@[simp] theorem State.modThread_spilled (c t l : Nat) (f : Thread → Thread) : (s.modThread c t l f).spilled = s.spilled := rfl
@[simp] theorem State.modThread_settles (c t l : Nat) (f : Thread → Thread) : (s.modThread c t l f).settles = s.settles := rfl
@[simp] theorem State.modThread_claims (c t l : Nat) (f : Thread → Thread) : (s.modThread c t l f).claims = s.claims := rfl
@[simp] theorem State.modThread_lineages (c t l : Nat) (f : Thread → Thread) : (s.modThread c t l f).lineages = s.lineages := rfl
@[simp] theorem State.modThread_closes (c t l : Nat) (f : Thread → Thread) : (s.modThread c t l f).closes = s.closes := rfl
@[simp] theorem State.modThread_groups (c t l : Nat) (f : Thread → Thread) : (s.modThread c t l f).groups = s.groups := rfl
@[simp] theorem State.modThread_posts (c t l : Nat) (f : Thread → Thread) : (s.modThread c t l f).posts = s.posts := rfl
@[simp] theorem State.modThread_ifaces (c t l : Nat) (f : Thread → Thread) : (s.modThread c t l f).ifaces = s.ifaces := rfl
@[simp] theorem State.modThread_owners (c t l : Nat) (f : Thread → Thread) : (s.modThread c t l f).owners = s.owners := rfl
@[simp] theorem State.modThread_keys (c t l : Nat) (f : Thread → Thread) : (s.modThread c t l f).keys = s.keys := rfl
@[simp] theorem State.modThread_deferredCpl (c t l : Nat) (f : Thread → Thread) : (s.modThread c t l f).deferredCpl = s.deferredCpl := rfl
@[simp] theorem State.modThread_recov (c t l : Nat) (f : Thread → Thread) : (s.modThread c t l f).recov = s.recov := rfl
@[simp] theorem State.modThread_softErrs (c t l : Nat) (f : Thread → Thread) : (s.modThread c t l f).softErrs = s.softErrs := rfl
@[simp] theorem State.modThread_nextSeq (c t l : Nat) (f : Thread → Thread) : (s.modThread c t l f).nextSeq = s.nextSeq := rfl
@[simp] theorem State.modThread_agenda (c t l : Nat) (f : Thread → Thread) : (s.modThread c t l f).agenda = s.agenda := rfl
@[simp] theorem State.modThread_cur (c t l : Nat) (f : Thread → Thread) : (s.modThread c t l f).cur = s.cur := rfl
@[simp] theorem State.modThread_choice (c t l : Nat) (f : Thread → Thread) : (s.modThread c t l f).choice = s.choice := rfl
@[simp] theorem State.modThread_freeCtr (c t l : Nat) (f : Thread → Thread) : (s.modThread c t l f).freeCtr = s.freeCtr := rfl
@[simp] theorem State.modThread_stop (c t l : Nat) (f : Thread → Thread) : (s.modThread c t l f).stop = s.stop := rfl
@[simp] theorem State.modThread_was (c t l : Nat) (f : Thread → Thread) : (s.modThread c t l f).was = s.was := rfl
@[simp] theorem State.modThread_sealedFrames (c t l : Nat) (f : Thread → Thread) : (s.modThread c t l f).sealedFrames = s.sealedFrames := rfl

/-! ### modLanes -/

@[simp] theorem State.modLanes_part (c t : Nat) (ls : List Nat) (f : Nat → Thread → Thread) : (s.modLanes c t ls f).part = s.part := rfl
@[simp] theorem State.modLanes_time (c t : Nat) (ls : List Nat) (f : Nat → Thread → Thread) : (s.modLanes c t ls f).time = s.time := rfl
@[simp] theorem State.modLanes_powered (c t : Nat) (ls : List Nat) (f : Nat → Thread → Thread) : (s.modLanes c t ls f).powered = s.powered := rfl
@[simp] theorem State.modLanes_cxlCoherent (c t : Nat) (ls : List Nat) (f : Nat → Thread → Thread) : (s.modLanes c t ls f).cxlCoherent = s.cxlCoherent := rfl
@[simp] theorem State.modLanes_faultLog (c t : Nat) (ls : List Nat) (f : Nat → Thread → Thread) : (s.modLanes c t ls f).faultLog = s.faultLog := rfl
@[simp] theorem State.modLanes_eventLog (c t : Nat) (ls : List Nat) (f : Nat → Thread → Thread) : (s.modLanes c t ls f).eventLog = s.eventLog := rfl
@[simp] theorem State.modLanes_irqs (c t : Nat) (ls : List Nat) (f : Nat → Thread → Thread) : (s.modLanes c t ls f).irqs = s.irqs := rfl
@[simp] theorem State.modLanes_linksDown (c t : Nat) (ls : List Nat) (f : Nat → Thread → Thread) : (s.modLanes c t ls f).linksDown = s.linksDown := rfl
@[simp] theorem State.modLanes_retries (c t : Nat) (ls : List Nat) (f : Nat → Thread → Thread) : (s.modLanes c t ls f).retries = s.retries := rfl
@[simp] theorem State.modLanes_viaductDown (c t : Nat) (ls : List Nat) (f : Nat → Thread → Thread) : (s.modLanes c t ls f).viaductDown = s.viaductDown := rfl
@[simp] theorem State.modLanes_clusters (c t : Nat) (ls : List Nat) (f : Nat → Thread → Thread) : (s.modLanes c t ls f).clusters = s.clusters := rfl
@[simp] theorem State.modLanes_mem (c t : Nat) (ls : List Nat) (f : Nat → Thread → Thread) : (s.modLanes c t ls f).mem = s.mem := rfl
@[simp] theorem State.modLanes_loads (c t : Nat) (ls : List Nat) (f : Nat → Thread → Thread) : (s.modLanes c t ls f).loads = s.loads := rfl
@[simp] theorem State.modLanes_stbuf (c t : Nat) (ls : List Nat) (f : Nat → Thread → Thread) : (s.modLanes c t ls f).stbuf = s.stbuf := rfl
@[simp] theorem State.modLanes_wpath (c t : Nat) (ls : List Nat) (f : Nat → Thread → Thread) : (s.modLanes c t ls f).wpath = s.wpath := rfl
@[simp] theorem State.modLanes_capath (c t : Nat) (ls : List Nat) (f : Nat → Thread → Thread) : (s.modLanes c t ls f).capath = s.capath := rfl
@[simp] theorem State.modLanes_ports (c t : Nat) (ls : List Nat) (f : Nat → Thread → Thread) : (s.modLanes c t ls f).ports = s.ports := rfl
@[simp] theorem State.modLanes_l1 (c t : Nat) (ls : List Nat) (f : Nat → Thread → Thread) : (s.modLanes c t ls f).l1 = s.l1 := rfl
@[simp] theorem State.modLanes_caview (c t : Nat) (ls : List Nat) (f : Nat → Thread → Thread) : (s.modLanes c t ls f).caview = s.caview := rfl
@[simp] theorem State.modLanes_copies (c t : Nat) (ls : List Nat) (f : Nat → Thread → Thread) : (s.modLanes c t ls f).copies = s.copies := rfl
@[simp] theorem State.modLanes_vc (c t : Nat) (ls : List Nat) (f : Nat → Thread → Thread) : (s.modLanes c t ls f).vc = s.vc := rfl
@[simp] theorem State.modLanes_chans (c t : Nat) (ls : List Nat) (f : Nat → Thread → Thread) : (s.modLanes c t ls f).chans = s.chans := rfl
@[simp] theorem State.modLanes_chanSeq (c t : Nat) (ls : List Nat) (f : Nat → Thread → Thread) : (s.modLanes c t ls f).chanSeq = s.chanSeq := rfl
@[simp] theorem State.modLanes_writes (c t : Nat) (ls : List Nat) (f : Nat → Thread → Thread) : (s.modLanes c t ls f).writes = s.writes := rfl
@[simp] theorem State.modLanes_fences (c t : Nat) (ls : List Nat) (f : Nat → Thread → Thread) : (s.modLanes c t ls f).fences = s.fences := rfl
@[simp] theorem State.modLanes_arrivals (c t : Nat) (ls : List Nat) (f : Nat → Thread → Thread) : (s.modLanes c t ls f).arrivals = s.arrivals := rfl
@[simp] theorem State.modLanes_sfqs (c t : Nat) (ls : List Nat) (f : Nat → Thread → Thread) : (s.modLanes c t ls f).sfqs = s.sfqs := rfl
@[simp] theorem State.modLanes_l1tlb (c t : Nat) (ls : List Nat) (f : Nat → Thread → Thread) : (s.modLanes c t ls f).l1tlb = s.l1tlb := rfl
@[simp] theorem State.modLanes_cltlb (c t : Nat) (ls : List Nat) (f : Nat → Thread → Thread) : (s.modLanes c t ls f).cltlb = s.cltlb := rfl
@[simp] theorem State.modLanes_lltlb (c t : Nat) (ls : List Nat) (f : Nat → Thread → Thread) : (s.modLanes c t ls f).lltlb = s.lltlb := rfl
@[simp] theorem State.modLanes_walks (c t : Nat) (ls : List Nat) (f : Nat → Thread → Thread) : (s.modLanes c t ls f).walks = s.walks := rfl
@[simp] theorem State.modLanes_inval (c t : Nat) (ls : List Nat) (f : Nat → Thread → Thread) : (s.modLanes c t ls f).inval = s.inval := rfl
@[simp] theorem State.modLanes_fb (c t : Nat) (ls : List Nat) (f : Nat → Thread → Thread) : (s.modLanes c t ls f).fb = s.fb := rfl
@[simp] theorem State.modLanes_faults (c t : Nat) (ls : List Nat) (f : Nat → Thread → Thread) : (s.modLanes c t ls f).faults = s.faults := rfl
@[simp] theorem State.modLanes_replay (c t : Nat) (ls : List Nat) (f : Nat → Thread → Thread) : (s.modLanes c t ls f).replay = s.replay := rfl
@[simp] theorem State.modLanes_seals (c t : Nat) (ls : List Nat) (f : Nat → Thread → Thread) : (s.modLanes c t ls f).seals = s.seals := rfl
@[simp] theorem State.modLanes_contexts (c t : Nat) (ls : List Nat) (f : Nat → Thread → Thread) : (s.modLanes c t ls f).contexts = s.contexts := rfl
@[simp] theorem State.modLanes_queues (c t : Nat) (ls : List Nat) (f : Nat → Thread → Thread) : (s.modLanes c t ls f).queues = s.queues := rfl
@[simp] theorem State.modLanes_launches (c t : Nat) (ls : List Nat) (f : Nat → Thread → Thread) : (s.modLanes c t ls f).launches = s.launches := rfl
@[simp] theorem State.modLanes_links (c t : Nat) (ls : List Nat) (f : Nat → Thread → Thread) : (s.modLanes c t ls f).links = s.links := rfl
@[simp] theorem State.modLanes_hwqs (c t : Nat) (ls : List Nat) (f : Nat → Thread → Thread) : (s.modLanes c t ls f).hwqs = s.hwqs := rfl
@[simp] theorem State.modLanes_qops (c t : Nat) (ls : List Nat) (f : Nat → Thread → Thread) : (s.modLanes c t ls f).qops = s.qops := rfl
@[simp] theorem State.modLanes_stores (c t : Nat) (ls : List Nat) (f : Nat → Thread → Thread) : (s.modLanes c t ls f).stores = s.stores := rfl
@[simp] theorem State.modLanes_spilled (c t : Nat) (ls : List Nat) (f : Nat → Thread → Thread) : (s.modLanes c t ls f).spilled = s.spilled := rfl
@[simp] theorem State.modLanes_settles (c t : Nat) (ls : List Nat) (f : Nat → Thread → Thread) : (s.modLanes c t ls f).settles = s.settles := rfl
@[simp] theorem State.modLanes_claims (c t : Nat) (ls : List Nat) (f : Nat → Thread → Thread) : (s.modLanes c t ls f).claims = s.claims := rfl
@[simp] theorem State.modLanes_lineages (c t : Nat) (ls : List Nat) (f : Nat → Thread → Thread) : (s.modLanes c t ls f).lineages = s.lineages := rfl
@[simp] theorem State.modLanes_closes (c t : Nat) (ls : List Nat) (f : Nat → Thread → Thread) : (s.modLanes c t ls f).closes = s.closes := rfl
@[simp] theorem State.modLanes_groups (c t : Nat) (ls : List Nat) (f : Nat → Thread → Thread) : (s.modLanes c t ls f).groups = s.groups := rfl
@[simp] theorem State.modLanes_posts (c t : Nat) (ls : List Nat) (f : Nat → Thread → Thread) : (s.modLanes c t ls f).posts = s.posts := rfl
@[simp] theorem State.modLanes_ifaces (c t : Nat) (ls : List Nat) (f : Nat → Thread → Thread) : (s.modLanes c t ls f).ifaces = s.ifaces := rfl
@[simp] theorem State.modLanes_owners (c t : Nat) (ls : List Nat) (f : Nat → Thread → Thread) : (s.modLanes c t ls f).owners = s.owners := rfl
@[simp] theorem State.modLanes_keys (c t : Nat) (ls : List Nat) (f : Nat → Thread → Thread) : (s.modLanes c t ls f).keys = s.keys := rfl
@[simp] theorem State.modLanes_deferredCpl (c t : Nat) (ls : List Nat) (f : Nat → Thread → Thread) : (s.modLanes c t ls f).deferredCpl = s.deferredCpl := rfl
@[simp] theorem State.modLanes_recov (c t : Nat) (ls : List Nat) (f : Nat → Thread → Thread) : (s.modLanes c t ls f).recov = s.recov := rfl
@[simp] theorem State.modLanes_softErrs (c t : Nat) (ls : List Nat) (f : Nat → Thread → Thread) : (s.modLanes c t ls f).softErrs = s.softErrs := rfl
@[simp] theorem State.modLanes_nextSeq (c t : Nat) (ls : List Nat) (f : Nat → Thread → Thread) : (s.modLanes c t ls f).nextSeq = s.nextSeq := rfl
@[simp] theorem State.modLanes_agenda (c t : Nat) (ls : List Nat) (f : Nat → Thread → Thread) : (s.modLanes c t ls f).agenda = s.agenda := rfl
@[simp] theorem State.modLanes_cur (c t : Nat) (ls : List Nat) (f : Nat → Thread → Thread) : (s.modLanes c t ls f).cur = s.cur := rfl
@[simp] theorem State.modLanes_choice (c t : Nat) (ls : List Nat) (f : Nat → Thread → Thread) : (s.modLanes c t ls f).choice = s.choice := rfl
@[simp] theorem State.modLanes_freeCtr (c t : Nat) (ls : List Nat) (f : Nat → Thread → Thread) : (s.modLanes c t ls f).freeCtr = s.freeCtr := rfl
@[simp] theorem State.modLanes_stop (c t : Nat) (ls : List Nat) (f : Nat → Thread → Thread) : (s.modLanes c t ls f).stop = s.stop := rfl
@[simp] theorem State.modLanes_was (c t : Nat) (ls : List Nat) (f : Nat → Thread → Thread) : (s.modLanes c t ls f).was = s.was := rfl
@[simp] theorem State.modLanes_sealedFrames (c t : Nat) (ls : List Nat) (f : Nat → Thread → Thread) : (s.modLanes c t ls f).sealedFrames = s.sealedFrames := rfl

/-! ### modTid -/

@[simp] theorem State.modTid_part (c i : Nat) (f : Thread → Thread) : (s.modTid c i f).part = s.part := rfl
@[simp] theorem State.modTid_time (c i : Nat) (f : Thread → Thread) : (s.modTid c i f).time = s.time := rfl
@[simp] theorem State.modTid_powered (c i : Nat) (f : Thread → Thread) : (s.modTid c i f).powered = s.powered := rfl
@[simp] theorem State.modTid_cxlCoherent (c i : Nat) (f : Thread → Thread) : (s.modTid c i f).cxlCoherent = s.cxlCoherent := rfl
@[simp] theorem State.modTid_faultLog (c i : Nat) (f : Thread → Thread) : (s.modTid c i f).faultLog = s.faultLog := rfl
@[simp] theorem State.modTid_eventLog (c i : Nat) (f : Thread → Thread) : (s.modTid c i f).eventLog = s.eventLog := rfl
@[simp] theorem State.modTid_irqs (c i : Nat) (f : Thread → Thread) : (s.modTid c i f).irqs = s.irqs := rfl
@[simp] theorem State.modTid_linksDown (c i : Nat) (f : Thread → Thread) : (s.modTid c i f).linksDown = s.linksDown := rfl
@[simp] theorem State.modTid_retries (c i : Nat) (f : Thread → Thread) : (s.modTid c i f).retries = s.retries := rfl
@[simp] theorem State.modTid_viaductDown (c i : Nat) (f : Thread → Thread) : (s.modTid c i f).viaductDown = s.viaductDown := rfl
@[simp] theorem State.modTid_clusters (c i : Nat) (f : Thread → Thread) : (s.modTid c i f).clusters = s.clusters := rfl
@[simp] theorem State.modTid_mem (c i : Nat) (f : Thread → Thread) : (s.modTid c i f).mem = s.mem := rfl
@[simp] theorem State.modTid_loads (c i : Nat) (f : Thread → Thread) : (s.modTid c i f).loads = s.loads := rfl
@[simp] theorem State.modTid_stbuf (c i : Nat) (f : Thread → Thread) : (s.modTid c i f).stbuf = s.stbuf := rfl
@[simp] theorem State.modTid_wpath (c i : Nat) (f : Thread → Thread) : (s.modTid c i f).wpath = s.wpath := rfl
@[simp] theorem State.modTid_capath (c i : Nat) (f : Thread → Thread) : (s.modTid c i f).capath = s.capath := rfl
@[simp] theorem State.modTid_ports (c i : Nat) (f : Thread → Thread) : (s.modTid c i f).ports = s.ports := rfl
@[simp] theorem State.modTid_l1 (c i : Nat) (f : Thread → Thread) : (s.modTid c i f).l1 = s.l1 := rfl
@[simp] theorem State.modTid_caview (c i : Nat) (f : Thread → Thread) : (s.modTid c i f).caview = s.caview := rfl
@[simp] theorem State.modTid_copies (c i : Nat) (f : Thread → Thread) : (s.modTid c i f).copies = s.copies := rfl
@[simp] theorem State.modTid_vc (c i : Nat) (f : Thread → Thread) : (s.modTid c i f).vc = s.vc := rfl
@[simp] theorem State.modTid_chans (c i : Nat) (f : Thread → Thread) : (s.modTid c i f).chans = s.chans := rfl
@[simp] theorem State.modTid_chanSeq (c i : Nat) (f : Thread → Thread) : (s.modTid c i f).chanSeq = s.chanSeq := rfl
@[simp] theorem State.modTid_writes (c i : Nat) (f : Thread → Thread) : (s.modTid c i f).writes = s.writes := rfl
@[simp] theorem State.modTid_fences (c i : Nat) (f : Thread → Thread) : (s.modTid c i f).fences = s.fences := rfl
@[simp] theorem State.modTid_arrivals (c i : Nat) (f : Thread → Thread) : (s.modTid c i f).arrivals = s.arrivals := rfl
@[simp] theorem State.modTid_sfqs (c i : Nat) (f : Thread → Thread) : (s.modTid c i f).sfqs = s.sfqs := rfl
@[simp] theorem State.modTid_l1tlb (c i : Nat) (f : Thread → Thread) : (s.modTid c i f).l1tlb = s.l1tlb := rfl
@[simp] theorem State.modTid_cltlb (c i : Nat) (f : Thread → Thread) : (s.modTid c i f).cltlb = s.cltlb := rfl
@[simp] theorem State.modTid_lltlb (c i : Nat) (f : Thread → Thread) : (s.modTid c i f).lltlb = s.lltlb := rfl
@[simp] theorem State.modTid_walks (c i : Nat) (f : Thread → Thread) : (s.modTid c i f).walks = s.walks := rfl
@[simp] theorem State.modTid_inval (c i : Nat) (f : Thread → Thread) : (s.modTid c i f).inval = s.inval := rfl
@[simp] theorem State.modTid_fb (c i : Nat) (f : Thread → Thread) : (s.modTid c i f).fb = s.fb := rfl
@[simp] theorem State.modTid_faults (c i : Nat) (f : Thread → Thread) : (s.modTid c i f).faults = s.faults := rfl
@[simp] theorem State.modTid_replay (c i : Nat) (f : Thread → Thread) : (s.modTid c i f).replay = s.replay := rfl
@[simp] theorem State.modTid_seals (c i : Nat) (f : Thread → Thread) : (s.modTid c i f).seals = s.seals := rfl
@[simp] theorem State.modTid_contexts (c i : Nat) (f : Thread → Thread) : (s.modTid c i f).contexts = s.contexts := rfl
@[simp] theorem State.modTid_queues (c i : Nat) (f : Thread → Thread) : (s.modTid c i f).queues = s.queues := rfl
@[simp] theorem State.modTid_launches (c i : Nat) (f : Thread → Thread) : (s.modTid c i f).launches = s.launches := rfl
@[simp] theorem State.modTid_links (c i : Nat) (f : Thread → Thread) : (s.modTid c i f).links = s.links := rfl
@[simp] theorem State.modTid_hwqs (c i : Nat) (f : Thread → Thread) : (s.modTid c i f).hwqs = s.hwqs := rfl
@[simp] theorem State.modTid_qops (c i : Nat) (f : Thread → Thread) : (s.modTid c i f).qops = s.qops := rfl
@[simp] theorem State.modTid_stores (c i : Nat) (f : Thread → Thread) : (s.modTid c i f).stores = s.stores := rfl
@[simp] theorem State.modTid_spilled (c i : Nat) (f : Thread → Thread) : (s.modTid c i f).spilled = s.spilled := rfl
@[simp] theorem State.modTid_settles (c i : Nat) (f : Thread → Thread) : (s.modTid c i f).settles = s.settles := rfl
@[simp] theorem State.modTid_claims (c i : Nat) (f : Thread → Thread) : (s.modTid c i f).claims = s.claims := rfl
@[simp] theorem State.modTid_lineages (c i : Nat) (f : Thread → Thread) : (s.modTid c i f).lineages = s.lineages := rfl
@[simp] theorem State.modTid_closes (c i : Nat) (f : Thread → Thread) : (s.modTid c i f).closes = s.closes := rfl
@[simp] theorem State.modTid_groups (c i : Nat) (f : Thread → Thread) : (s.modTid c i f).groups = s.groups := rfl
@[simp] theorem State.modTid_posts (c i : Nat) (f : Thread → Thread) : (s.modTid c i f).posts = s.posts := rfl
@[simp] theorem State.modTid_ifaces (c i : Nat) (f : Thread → Thread) : (s.modTid c i f).ifaces = s.ifaces := rfl
@[simp] theorem State.modTid_owners (c i : Nat) (f : Thread → Thread) : (s.modTid c i f).owners = s.owners := rfl
@[simp] theorem State.modTid_keys (c i : Nat) (f : Thread → Thread) : (s.modTid c i f).keys = s.keys := rfl
@[simp] theorem State.modTid_deferredCpl (c i : Nat) (f : Thread → Thread) : (s.modTid c i f).deferredCpl = s.deferredCpl := rfl
@[simp] theorem State.modTid_recov (c i : Nat) (f : Thread → Thread) : (s.modTid c i f).recov = s.recov := rfl
@[simp] theorem State.modTid_softErrs (c i : Nat) (f : Thread → Thread) : (s.modTid c i f).softErrs = s.softErrs := rfl
@[simp] theorem State.modTid_nextSeq (c i : Nat) (f : Thread → Thread) : (s.modTid c i f).nextSeq = s.nextSeq := rfl
@[simp] theorem State.modTid_agenda (c i : Nat) (f : Thread → Thread) : (s.modTid c i f).agenda = s.agenda := rfl
@[simp] theorem State.modTid_cur (c i : Nat) (f : Thread → Thread) : (s.modTid c i f).cur = s.cur := rfl
@[simp] theorem State.modTid_choice (c i : Nat) (f : Thread → Thread) : (s.modTid c i f).choice = s.choice := rfl
@[simp] theorem State.modTid_freeCtr (c i : Nat) (f : Thread → Thread) : (s.modTid c i f).freeCtr = s.freeCtr := rfl
@[simp] theorem State.modTid_stop (c i : Nat) (f : Thread → Thread) : (s.modTid c i f).stop = s.stop := rfl
@[simp] theorem State.modTid_was (c i : Nat) (f : Thread → Thread) : (s.modTid c i f).was = s.was := rfl
@[simp] theorem State.modTid_sealedFrames (c i : Nat) (f : Thread → Thread) : (s.modTid c i f).sealedFrames = s.sealedFrames := rfl

/-! ### modUid -/

@[simp] theorem State.modUid_part (i : Nat) (f : Team → Team) : (s.modUid i f).part = s.part := rfl
@[simp] theorem State.modUid_time (i : Nat) (f : Team → Team) : (s.modUid i f).time = s.time := rfl
@[simp] theorem State.modUid_powered (i : Nat) (f : Team → Team) : (s.modUid i f).powered = s.powered := rfl
@[simp] theorem State.modUid_cxlCoherent (i : Nat) (f : Team → Team) : (s.modUid i f).cxlCoherent = s.cxlCoherent := rfl
@[simp] theorem State.modUid_faultLog (i : Nat) (f : Team → Team) : (s.modUid i f).faultLog = s.faultLog := rfl
@[simp] theorem State.modUid_eventLog (i : Nat) (f : Team → Team) : (s.modUid i f).eventLog = s.eventLog := rfl
@[simp] theorem State.modUid_irqs (i : Nat) (f : Team → Team) : (s.modUid i f).irqs = s.irqs := rfl
@[simp] theorem State.modUid_linksDown (i : Nat) (f : Team → Team) : (s.modUid i f).linksDown = s.linksDown := rfl
@[simp] theorem State.modUid_retries (i : Nat) (f : Team → Team) : (s.modUid i f).retries = s.retries := rfl
@[simp] theorem State.modUid_viaductDown (i : Nat) (f : Team → Team) : (s.modUid i f).viaductDown = s.viaductDown := rfl
@[simp] theorem State.modUid_clusters (i : Nat) (f : Team → Team) : (s.modUid i f).clusters = s.clusters := rfl
@[simp] theorem State.modUid_mem (i : Nat) (f : Team → Team) : (s.modUid i f).mem = s.mem := rfl
@[simp] theorem State.modUid_loads (i : Nat) (f : Team → Team) : (s.modUid i f).loads = s.loads := rfl
@[simp] theorem State.modUid_stbuf (i : Nat) (f : Team → Team) : (s.modUid i f).stbuf = s.stbuf := rfl
@[simp] theorem State.modUid_wpath (i : Nat) (f : Team → Team) : (s.modUid i f).wpath = s.wpath := rfl
@[simp] theorem State.modUid_capath (i : Nat) (f : Team → Team) : (s.modUid i f).capath = s.capath := rfl
@[simp] theorem State.modUid_ports (i : Nat) (f : Team → Team) : (s.modUid i f).ports = s.ports := rfl
@[simp] theorem State.modUid_l1 (i : Nat) (f : Team → Team) : (s.modUid i f).l1 = s.l1 := rfl
@[simp] theorem State.modUid_caview (i : Nat) (f : Team → Team) : (s.modUid i f).caview = s.caview := rfl
@[simp] theorem State.modUid_copies (i : Nat) (f : Team → Team) : (s.modUid i f).copies = s.copies := rfl
@[simp] theorem State.modUid_vc (i : Nat) (f : Team → Team) : (s.modUid i f).vc = s.vc := rfl
@[simp] theorem State.modUid_chans (i : Nat) (f : Team → Team) : (s.modUid i f).chans = s.chans := rfl
@[simp] theorem State.modUid_chanSeq (i : Nat) (f : Team → Team) : (s.modUid i f).chanSeq = s.chanSeq := rfl
@[simp] theorem State.modUid_writes (i : Nat) (f : Team → Team) : (s.modUid i f).writes = s.writes := rfl
@[simp] theorem State.modUid_fences (i : Nat) (f : Team → Team) : (s.modUid i f).fences = s.fences := rfl
@[simp] theorem State.modUid_arrivals (i : Nat) (f : Team → Team) : (s.modUid i f).arrivals = s.arrivals := rfl
@[simp] theorem State.modUid_sfqs (i : Nat) (f : Team → Team) : (s.modUid i f).sfqs = s.sfqs := rfl
@[simp] theorem State.modUid_l1tlb (i : Nat) (f : Team → Team) : (s.modUid i f).l1tlb = s.l1tlb := rfl
@[simp] theorem State.modUid_cltlb (i : Nat) (f : Team → Team) : (s.modUid i f).cltlb = s.cltlb := rfl
@[simp] theorem State.modUid_lltlb (i : Nat) (f : Team → Team) : (s.modUid i f).lltlb = s.lltlb := rfl
@[simp] theorem State.modUid_walks (i : Nat) (f : Team → Team) : (s.modUid i f).walks = s.walks := rfl
@[simp] theorem State.modUid_inval (i : Nat) (f : Team → Team) : (s.modUid i f).inval = s.inval := rfl
@[simp] theorem State.modUid_fb (i : Nat) (f : Team → Team) : (s.modUid i f).fb = s.fb := rfl
@[simp] theorem State.modUid_faults (i : Nat) (f : Team → Team) : (s.modUid i f).faults = s.faults := rfl
@[simp] theorem State.modUid_replay (i : Nat) (f : Team → Team) : (s.modUid i f).replay = s.replay := rfl
@[simp] theorem State.modUid_seals (i : Nat) (f : Team → Team) : (s.modUid i f).seals = s.seals := rfl
@[simp] theorem State.modUid_contexts (i : Nat) (f : Team → Team) : (s.modUid i f).contexts = s.contexts := rfl
@[simp] theorem State.modUid_queues (i : Nat) (f : Team → Team) : (s.modUid i f).queues = s.queues := rfl
@[simp] theorem State.modUid_launches (i : Nat) (f : Team → Team) : (s.modUid i f).launches = s.launches := rfl
@[simp] theorem State.modUid_links (i : Nat) (f : Team → Team) : (s.modUid i f).links = s.links := rfl
@[simp] theorem State.modUid_hwqs (i : Nat) (f : Team → Team) : (s.modUid i f).hwqs = s.hwqs := rfl
@[simp] theorem State.modUid_qops (i : Nat) (f : Team → Team) : (s.modUid i f).qops = s.qops := rfl
@[simp] theorem State.modUid_stores (i : Nat) (f : Team → Team) : (s.modUid i f).stores = s.stores := rfl
@[simp] theorem State.modUid_spilled (i : Nat) (f : Team → Team) : (s.modUid i f).spilled = s.spilled := rfl
@[simp] theorem State.modUid_settles (i : Nat) (f : Team → Team) : (s.modUid i f).settles = s.settles := rfl
@[simp] theorem State.modUid_claims (i : Nat) (f : Team → Team) : (s.modUid i f).claims = s.claims := rfl
@[simp] theorem State.modUid_lineages (i : Nat) (f : Team → Team) : (s.modUid i f).lineages = s.lineages := rfl
@[simp] theorem State.modUid_closes (i : Nat) (f : Team → Team) : (s.modUid i f).closes = s.closes := rfl
@[simp] theorem State.modUid_groups (i : Nat) (f : Team → Team) : (s.modUid i f).groups = s.groups := rfl
@[simp] theorem State.modUid_posts (i : Nat) (f : Team → Team) : (s.modUid i f).posts = s.posts := rfl
@[simp] theorem State.modUid_ifaces (i : Nat) (f : Team → Team) : (s.modUid i f).ifaces = s.ifaces := rfl
@[simp] theorem State.modUid_owners (i : Nat) (f : Team → Team) : (s.modUid i f).owners = s.owners := rfl
@[simp] theorem State.modUid_keys (i : Nat) (f : Team → Team) : (s.modUid i f).keys = s.keys := rfl
@[simp] theorem State.modUid_deferredCpl (i : Nat) (f : Team → Team) : (s.modUid i f).deferredCpl = s.deferredCpl := rfl
@[simp] theorem State.modUid_recov (i : Nat) (f : Team → Team) : (s.modUid i f).recov = s.recov := rfl
@[simp] theorem State.modUid_softErrs (i : Nat) (f : Team → Team) : (s.modUid i f).softErrs = s.softErrs := rfl
@[simp] theorem State.modUid_nextSeq (i : Nat) (f : Team → Team) : (s.modUid i f).nextSeq = s.nextSeq := rfl
@[simp] theorem State.modUid_agenda (i : Nat) (f : Team → Team) : (s.modUid i f).agenda = s.agenda := rfl
@[simp] theorem State.modUid_cur (i : Nat) (f : Team → Team) : (s.modUid i f).cur = s.cur := rfl
@[simp] theorem State.modUid_choice (i : Nat) (f : Team → Team) : (s.modUid i f).choice = s.choice := rfl
@[simp] theorem State.modUid_freeCtr (i : Nat) (f : Team → Team) : (s.modUid i f).freeCtr = s.freeCtr := rfl
@[simp] theorem State.modUid_stop (i : Nat) (f : Team → Team) : (s.modUid i f).stop = s.stop := rfl
@[simp] theorem State.modUid_was (i : Nat) (f : Team → Team) : (s.modUid i f).was = s.was := rfl
@[simp] theorem State.modUid_sealedFrames (i : Nat) (f : Team → Team) : (s.modUid i f).sealedFrames = s.sealedFrames := rfl

/-! ### modLaunch -/

@[simp] theorem State.modLaunch_part (l : Nat) (f : Launch → Launch) : (s.modLaunch l f).part = s.part := rfl
@[simp] theorem State.modLaunch_time (l : Nat) (f : Launch → Launch) : (s.modLaunch l f).time = s.time := rfl
@[simp] theorem State.modLaunch_powered (l : Nat) (f : Launch → Launch) : (s.modLaunch l f).powered = s.powered := rfl
@[simp] theorem State.modLaunch_cxlCoherent (l : Nat) (f : Launch → Launch) : (s.modLaunch l f).cxlCoherent = s.cxlCoherent := rfl
@[simp] theorem State.modLaunch_faultLog (l : Nat) (f : Launch → Launch) : (s.modLaunch l f).faultLog = s.faultLog := rfl
@[simp] theorem State.modLaunch_eventLog (l : Nat) (f : Launch → Launch) : (s.modLaunch l f).eventLog = s.eventLog := rfl
@[simp] theorem State.modLaunch_irqs (l : Nat) (f : Launch → Launch) : (s.modLaunch l f).irqs = s.irqs := rfl
@[simp] theorem State.modLaunch_linksDown (l : Nat) (f : Launch → Launch) : (s.modLaunch l f).linksDown = s.linksDown := rfl
@[simp] theorem State.modLaunch_retries (l : Nat) (f : Launch → Launch) : (s.modLaunch l f).retries = s.retries := rfl
@[simp] theorem State.modLaunch_viaductDown (l : Nat) (f : Launch → Launch) : (s.modLaunch l f).viaductDown = s.viaductDown := rfl
@[simp] theorem State.modLaunch_clusters (l : Nat) (f : Launch → Launch) : (s.modLaunch l f).clusters = s.clusters := rfl
@[simp] theorem State.modLaunch_mem (l : Nat) (f : Launch → Launch) : (s.modLaunch l f).mem = s.mem := rfl
@[simp] theorem State.modLaunch_loads (l : Nat) (f : Launch → Launch) : (s.modLaunch l f).loads = s.loads := rfl
@[simp] theorem State.modLaunch_stbuf (l : Nat) (f : Launch → Launch) : (s.modLaunch l f).stbuf = s.stbuf := rfl
@[simp] theorem State.modLaunch_wpath (l : Nat) (f : Launch → Launch) : (s.modLaunch l f).wpath = s.wpath := rfl
@[simp] theorem State.modLaunch_capath (l : Nat) (f : Launch → Launch) : (s.modLaunch l f).capath = s.capath := rfl
@[simp] theorem State.modLaunch_ports (l : Nat) (f : Launch → Launch) : (s.modLaunch l f).ports = s.ports := rfl
@[simp] theorem State.modLaunch_l1 (l : Nat) (f : Launch → Launch) : (s.modLaunch l f).l1 = s.l1 := rfl
@[simp] theorem State.modLaunch_caview (l : Nat) (f : Launch → Launch) : (s.modLaunch l f).caview = s.caview := rfl
@[simp] theorem State.modLaunch_copies (l : Nat) (f : Launch → Launch) : (s.modLaunch l f).copies = s.copies := rfl
@[simp] theorem State.modLaunch_vc (l : Nat) (f : Launch → Launch) : (s.modLaunch l f).vc = s.vc := rfl
@[simp] theorem State.modLaunch_chans (l : Nat) (f : Launch → Launch) : (s.modLaunch l f).chans = s.chans := rfl
@[simp] theorem State.modLaunch_chanSeq (l : Nat) (f : Launch → Launch) : (s.modLaunch l f).chanSeq = s.chanSeq := rfl
@[simp] theorem State.modLaunch_writes (l : Nat) (f : Launch → Launch) : (s.modLaunch l f).writes = s.writes := rfl
@[simp] theorem State.modLaunch_fences (l : Nat) (f : Launch → Launch) : (s.modLaunch l f).fences = s.fences := rfl
@[simp] theorem State.modLaunch_arrivals (l : Nat) (f : Launch → Launch) : (s.modLaunch l f).arrivals = s.arrivals := rfl
@[simp] theorem State.modLaunch_sfqs (l : Nat) (f : Launch → Launch) : (s.modLaunch l f).sfqs = s.sfqs := rfl
@[simp] theorem State.modLaunch_l1tlb (l : Nat) (f : Launch → Launch) : (s.modLaunch l f).l1tlb = s.l1tlb := rfl
@[simp] theorem State.modLaunch_cltlb (l : Nat) (f : Launch → Launch) : (s.modLaunch l f).cltlb = s.cltlb := rfl
@[simp] theorem State.modLaunch_lltlb (l : Nat) (f : Launch → Launch) : (s.modLaunch l f).lltlb = s.lltlb := rfl
@[simp] theorem State.modLaunch_walks (l : Nat) (f : Launch → Launch) : (s.modLaunch l f).walks = s.walks := rfl
@[simp] theorem State.modLaunch_inval (l : Nat) (f : Launch → Launch) : (s.modLaunch l f).inval = s.inval := rfl
@[simp] theorem State.modLaunch_fb (l : Nat) (f : Launch → Launch) : (s.modLaunch l f).fb = s.fb := rfl
@[simp] theorem State.modLaunch_faults (l : Nat) (f : Launch → Launch) : (s.modLaunch l f).faults = s.faults := rfl
@[simp] theorem State.modLaunch_replay (l : Nat) (f : Launch → Launch) : (s.modLaunch l f).replay = s.replay := rfl
@[simp] theorem State.modLaunch_seals (l : Nat) (f : Launch → Launch) : (s.modLaunch l f).seals = s.seals := rfl
@[simp] theorem State.modLaunch_contexts (l : Nat) (f : Launch → Launch) : (s.modLaunch l f).contexts = s.contexts := rfl
@[simp] theorem State.modLaunch_queues (l : Nat) (f : Launch → Launch) : (s.modLaunch l f).queues = s.queues := rfl
@[simp] theorem State.modLaunch_launches (l : Nat) (f : Launch → Launch) : (s.modLaunch l f).launches = kvMod s.launches l f := rfl
@[simp] theorem State.modLaunch_wgs (l : Nat) (f : Launch → Launch) : (s.modLaunch l f).wgs = s.wgs := rfl
@[simp] theorem State.modLaunch_links (l : Nat) (f : Launch → Launch) : (s.modLaunch l f).links = s.links := rfl
@[simp] theorem State.modLaunch_hwqs (l : Nat) (f : Launch → Launch) : (s.modLaunch l f).hwqs = s.hwqs := rfl
@[simp] theorem State.modLaunch_qops (l : Nat) (f : Launch → Launch) : (s.modLaunch l f).qops = s.qops := rfl
@[simp] theorem State.modLaunch_stores (l : Nat) (f : Launch → Launch) : (s.modLaunch l f).stores = s.stores := rfl
@[simp] theorem State.modLaunch_spilled (l : Nat) (f : Launch → Launch) : (s.modLaunch l f).spilled = s.spilled := rfl
@[simp] theorem State.modLaunch_settles (l : Nat) (f : Launch → Launch) : (s.modLaunch l f).settles = s.settles := rfl
@[simp] theorem State.modLaunch_claims (l : Nat) (f : Launch → Launch) : (s.modLaunch l f).claims = s.claims := rfl
@[simp] theorem State.modLaunch_lineages (l : Nat) (f : Launch → Launch) : (s.modLaunch l f).lineages = s.lineages := rfl
@[simp] theorem State.modLaunch_closes (l : Nat) (f : Launch → Launch) : (s.modLaunch l f).closes = s.closes := rfl
@[simp] theorem State.modLaunch_groups (l : Nat) (f : Launch → Launch) : (s.modLaunch l f).groups = s.groups := rfl
@[simp] theorem State.modLaunch_posts (l : Nat) (f : Launch → Launch) : (s.modLaunch l f).posts = s.posts := rfl
@[simp] theorem State.modLaunch_ifaces (l : Nat) (f : Launch → Launch) : (s.modLaunch l f).ifaces = s.ifaces := rfl
@[simp] theorem State.modLaunch_owners (l : Nat) (f : Launch → Launch) : (s.modLaunch l f).owners = s.owners := rfl
@[simp] theorem State.modLaunch_keys (l : Nat) (f : Launch → Launch) : (s.modLaunch l f).keys = s.keys := rfl
@[simp] theorem State.modLaunch_deferredCpl (l : Nat) (f : Launch → Launch) : (s.modLaunch l f).deferredCpl = s.deferredCpl := rfl
@[simp] theorem State.modLaunch_recov (l : Nat) (f : Launch → Launch) : (s.modLaunch l f).recov = s.recov := rfl
@[simp] theorem State.modLaunch_softErrs (l : Nat) (f : Launch → Launch) : (s.modLaunch l f).softErrs = s.softErrs := rfl
@[simp] theorem State.modLaunch_nextSeq (l : Nat) (f : Launch → Launch) : (s.modLaunch l f).nextSeq = s.nextSeq := rfl
@[simp] theorem State.modLaunch_agenda (l : Nat) (f : Launch → Launch) : (s.modLaunch l f).agenda = s.agenda := rfl
@[simp] theorem State.modLaunch_cur (l : Nat) (f : Launch → Launch) : (s.modLaunch l f).cur = s.cur := rfl
@[simp] theorem State.modLaunch_choice (l : Nat) (f : Launch → Launch) : (s.modLaunch l f).choice = s.choice := rfl
@[simp] theorem State.modLaunch_freeCtr (l : Nat) (f : Launch → Launch) : (s.modLaunch l f).freeCtr = s.freeCtr := rfl
@[simp] theorem State.modLaunch_stop (l : Nat) (f : Launch → Launch) : (s.modLaunch l f).stop = s.stop := rfl
@[simp] theorem State.modLaunch_was (l : Nat) (f : Launch → Launch) : (s.modLaunch l f).was = s.was := rfl
@[simp] theorem State.modLaunch_sealedFrames (l : Nat) (f : Launch → Launch) : (s.modLaunch l f).sealedFrames = s.sealedFrames := rfl

/-! ### modContext -/

@[simp] theorem State.modContext_part (x : Nat) (f : Context → Context) : (s.modContext x f).part = s.part := rfl
@[simp] theorem State.modContext_time (x : Nat) (f : Context → Context) : (s.modContext x f).time = s.time := rfl
@[simp] theorem State.modContext_powered (x : Nat) (f : Context → Context) : (s.modContext x f).powered = s.powered := rfl
@[simp] theorem State.modContext_cxlCoherent (x : Nat) (f : Context → Context) : (s.modContext x f).cxlCoherent = s.cxlCoherent := rfl
@[simp] theorem State.modContext_faultLog (x : Nat) (f : Context → Context) : (s.modContext x f).faultLog = s.faultLog := rfl
@[simp] theorem State.modContext_eventLog (x : Nat) (f : Context → Context) : (s.modContext x f).eventLog = s.eventLog := rfl
@[simp] theorem State.modContext_irqs (x : Nat) (f : Context → Context) : (s.modContext x f).irqs = s.irqs := rfl
@[simp] theorem State.modContext_linksDown (x : Nat) (f : Context → Context) : (s.modContext x f).linksDown = s.linksDown := rfl
@[simp] theorem State.modContext_retries (x : Nat) (f : Context → Context) : (s.modContext x f).retries = s.retries := rfl
@[simp] theorem State.modContext_viaductDown (x : Nat) (f : Context → Context) : (s.modContext x f).viaductDown = s.viaductDown := rfl
@[simp] theorem State.modContext_clusters (x : Nat) (f : Context → Context) : (s.modContext x f).clusters = s.clusters := rfl
@[simp] theorem State.modContext_mem (x : Nat) (f : Context → Context) : (s.modContext x f).mem = s.mem := rfl
@[simp] theorem State.modContext_loads (x : Nat) (f : Context → Context) : (s.modContext x f).loads = s.loads := rfl
@[simp] theorem State.modContext_stbuf (x : Nat) (f : Context → Context) : (s.modContext x f).stbuf = s.stbuf := rfl
@[simp] theorem State.modContext_wpath (x : Nat) (f : Context → Context) : (s.modContext x f).wpath = s.wpath := rfl
@[simp] theorem State.modContext_capath (x : Nat) (f : Context → Context) : (s.modContext x f).capath = s.capath := rfl
@[simp] theorem State.modContext_ports (x : Nat) (f : Context → Context) : (s.modContext x f).ports = s.ports := rfl
@[simp] theorem State.modContext_l1 (x : Nat) (f : Context → Context) : (s.modContext x f).l1 = s.l1 := rfl
@[simp] theorem State.modContext_caview (x : Nat) (f : Context → Context) : (s.modContext x f).caview = s.caview := rfl
@[simp] theorem State.modContext_copies (x : Nat) (f : Context → Context) : (s.modContext x f).copies = s.copies := rfl
@[simp] theorem State.modContext_vc (x : Nat) (f : Context → Context) : (s.modContext x f).vc = s.vc := rfl
@[simp] theorem State.modContext_chans (x : Nat) (f : Context → Context) : (s.modContext x f).chans = s.chans := rfl
@[simp] theorem State.modContext_chanSeq (x : Nat) (f : Context → Context) : (s.modContext x f).chanSeq = s.chanSeq := rfl
@[simp] theorem State.modContext_writes (x : Nat) (f : Context → Context) : (s.modContext x f).writes = s.writes := rfl
@[simp] theorem State.modContext_fences (x : Nat) (f : Context → Context) : (s.modContext x f).fences = s.fences := rfl
@[simp] theorem State.modContext_arrivals (x : Nat) (f : Context → Context) : (s.modContext x f).arrivals = s.arrivals := rfl
@[simp] theorem State.modContext_sfqs (x : Nat) (f : Context → Context) : (s.modContext x f).sfqs = s.sfqs := rfl
@[simp] theorem State.modContext_l1tlb (x : Nat) (f : Context → Context) : (s.modContext x f).l1tlb = s.l1tlb := rfl
@[simp] theorem State.modContext_cltlb (x : Nat) (f : Context → Context) : (s.modContext x f).cltlb = s.cltlb := rfl
@[simp] theorem State.modContext_lltlb (x : Nat) (f : Context → Context) : (s.modContext x f).lltlb = s.lltlb := rfl
@[simp] theorem State.modContext_walks (x : Nat) (f : Context → Context) : (s.modContext x f).walks = s.walks := rfl
@[simp] theorem State.modContext_inval (x : Nat) (f : Context → Context) : (s.modContext x f).inval = s.inval := rfl
@[simp] theorem State.modContext_fb (x : Nat) (f : Context → Context) : (s.modContext x f).fb = s.fb := rfl
@[simp] theorem State.modContext_faults (x : Nat) (f : Context → Context) : (s.modContext x f).faults = s.faults := rfl
@[simp] theorem State.modContext_replay (x : Nat) (f : Context → Context) : (s.modContext x f).replay = s.replay := rfl
@[simp] theorem State.modContext_seals (x : Nat) (f : Context → Context) : (s.modContext x f).seals = s.seals := rfl
@[simp] theorem State.modContext_contexts (x : Nat) (f : Context → Context) : (s.modContext x f).contexts = kvMod s.contexts x f := rfl
@[simp] theorem State.modContext_queues (x : Nat) (f : Context → Context) : (s.modContext x f).queues = s.queues := rfl
@[simp] theorem State.modContext_launches (x : Nat) (f : Context → Context) : (s.modContext x f).launches = s.launches := rfl
@[simp] theorem State.modContext_wgs (x : Nat) (f : Context → Context) : (s.modContext x f).wgs = s.wgs := rfl
@[simp] theorem State.modContext_links (x : Nat) (f : Context → Context) : (s.modContext x f).links = s.links := rfl
@[simp] theorem State.modContext_hwqs (x : Nat) (f : Context → Context) : (s.modContext x f).hwqs = s.hwqs := rfl
@[simp] theorem State.modContext_qops (x : Nat) (f : Context → Context) : (s.modContext x f).qops = s.qops := rfl
@[simp] theorem State.modContext_stores (x : Nat) (f : Context → Context) : (s.modContext x f).stores = s.stores := rfl
@[simp] theorem State.modContext_spilled (x : Nat) (f : Context → Context) : (s.modContext x f).spilled = s.spilled := rfl
@[simp] theorem State.modContext_settles (x : Nat) (f : Context → Context) : (s.modContext x f).settles = s.settles := rfl
@[simp] theorem State.modContext_claims (x : Nat) (f : Context → Context) : (s.modContext x f).claims = s.claims := rfl
@[simp] theorem State.modContext_lineages (x : Nat) (f : Context → Context) : (s.modContext x f).lineages = s.lineages := rfl
@[simp] theorem State.modContext_closes (x : Nat) (f : Context → Context) : (s.modContext x f).closes = s.closes := rfl
@[simp] theorem State.modContext_groups (x : Nat) (f : Context → Context) : (s.modContext x f).groups = s.groups := rfl
@[simp] theorem State.modContext_posts (x : Nat) (f : Context → Context) : (s.modContext x f).posts = s.posts := rfl
@[simp] theorem State.modContext_ifaces (x : Nat) (f : Context → Context) : (s.modContext x f).ifaces = s.ifaces := rfl
@[simp] theorem State.modContext_owners (x : Nat) (f : Context → Context) : (s.modContext x f).owners = s.owners := rfl
@[simp] theorem State.modContext_keys (x : Nat) (f : Context → Context) : (s.modContext x f).keys = s.keys := rfl
@[simp] theorem State.modContext_deferredCpl (x : Nat) (f : Context → Context) : (s.modContext x f).deferredCpl = s.deferredCpl := rfl
@[simp] theorem State.modContext_recov (x : Nat) (f : Context → Context) : (s.modContext x f).recov = s.recov := rfl
@[simp] theorem State.modContext_softErrs (x : Nat) (f : Context → Context) : (s.modContext x f).softErrs = s.softErrs := rfl
@[simp] theorem State.modContext_nextSeq (x : Nat) (f : Context → Context) : (s.modContext x f).nextSeq = s.nextSeq := rfl
@[simp] theorem State.modContext_agenda (x : Nat) (f : Context → Context) : (s.modContext x f).agenda = s.agenda := rfl
@[simp] theorem State.modContext_cur (x : Nat) (f : Context → Context) : (s.modContext x f).cur = s.cur := rfl
@[simp] theorem State.modContext_choice (x : Nat) (f : Context → Context) : (s.modContext x f).choice = s.choice := rfl
@[simp] theorem State.modContext_freeCtr (x : Nat) (f : Context → Context) : (s.modContext x f).freeCtr = s.freeCtr := rfl
@[simp] theorem State.modContext_stop (x : Nat) (f : Context → Context) : (s.modContext x f).stop = s.stop := rfl
@[simp] theorem State.modContext_was (x : Nat) (f : Context → Context) : (s.modContext x f).was = s.was := rfl
@[simp] theorem State.modContext_sealedFrames (x : Nat) (f : Context → Context) : (s.modContext x f).sealedFrames = s.sealedFrames := rfl

/-! ### setCluster -/

@[simp] theorem State.setCluster_part (n : Nat) (c : Cluster) : (s.setCluster n c).part = s.part := rfl
@[simp] theorem State.setCluster_time (n : Nat) (c : Cluster) : (s.setCluster n c).time = s.time := rfl
@[simp] theorem State.setCluster_powered (n : Nat) (c : Cluster) : (s.setCluster n c).powered = s.powered := rfl
@[simp] theorem State.setCluster_cxlCoherent (n : Nat) (c : Cluster) : (s.setCluster n c).cxlCoherent = s.cxlCoherent := rfl
@[simp] theorem State.setCluster_faultLog (n : Nat) (c : Cluster) : (s.setCluster n c).faultLog = s.faultLog := rfl
@[simp] theorem State.setCluster_eventLog (n : Nat) (c : Cluster) : (s.setCluster n c).eventLog = s.eventLog := rfl
@[simp] theorem State.setCluster_irqs (n : Nat) (c : Cluster) : (s.setCluster n c).irqs = s.irqs := rfl
@[simp] theorem State.setCluster_linksDown (n : Nat) (c : Cluster) : (s.setCluster n c).linksDown = s.linksDown := rfl
@[simp] theorem State.setCluster_retries (n : Nat) (c : Cluster) : (s.setCluster n c).retries = s.retries := rfl
@[simp] theorem State.setCluster_viaductDown (n : Nat) (c : Cluster) : (s.setCluster n c).viaductDown = s.viaductDown := rfl
@[simp] theorem State.setCluster_clusters (n : Nat) (c : Cluster) : (s.setCluster n c).clusters = kvPut s.clusters n c := rfl
@[simp] theorem State.setCluster_mem (n : Nat) (c : Cluster) : (s.setCluster n c).mem = s.mem := rfl
@[simp] theorem State.setCluster_loads (n : Nat) (c : Cluster) : (s.setCluster n c).loads = s.loads := rfl
@[simp] theorem State.setCluster_stbuf (n : Nat) (c : Cluster) : (s.setCluster n c).stbuf = s.stbuf := rfl
@[simp] theorem State.setCluster_wpath (n : Nat) (c : Cluster) : (s.setCluster n c).wpath = s.wpath := rfl
@[simp] theorem State.setCluster_capath (n : Nat) (c : Cluster) : (s.setCluster n c).capath = s.capath := rfl
@[simp] theorem State.setCluster_ports (n : Nat) (c : Cluster) : (s.setCluster n c).ports = s.ports := rfl
@[simp] theorem State.setCluster_l1 (n : Nat) (c : Cluster) : (s.setCluster n c).l1 = s.l1 := rfl
@[simp] theorem State.setCluster_caview (n : Nat) (c : Cluster) : (s.setCluster n c).caview = s.caview := rfl
@[simp] theorem State.setCluster_copies (n : Nat) (c : Cluster) : (s.setCluster n c).copies = s.copies := rfl
@[simp] theorem State.setCluster_vc (n : Nat) (c : Cluster) : (s.setCluster n c).vc = s.vc := rfl
@[simp] theorem State.setCluster_chans (n : Nat) (c : Cluster) : (s.setCluster n c).chans = s.chans := rfl
@[simp] theorem State.setCluster_chanSeq (n : Nat) (c : Cluster) : (s.setCluster n c).chanSeq = s.chanSeq := rfl
@[simp] theorem State.setCluster_writes (n : Nat) (c : Cluster) : (s.setCluster n c).writes = s.writes := rfl
@[simp] theorem State.setCluster_fences (n : Nat) (c : Cluster) : (s.setCluster n c).fences = s.fences := rfl
@[simp] theorem State.setCluster_arrivals (n : Nat) (c : Cluster) : (s.setCluster n c).arrivals = s.arrivals := rfl
@[simp] theorem State.setCluster_sfqs (n : Nat) (c : Cluster) : (s.setCluster n c).sfqs = s.sfqs := rfl
@[simp] theorem State.setCluster_l1tlb (n : Nat) (c : Cluster) : (s.setCluster n c).l1tlb = s.l1tlb := rfl
@[simp] theorem State.setCluster_cltlb (n : Nat) (c : Cluster) : (s.setCluster n c).cltlb = s.cltlb := rfl
@[simp] theorem State.setCluster_lltlb (n : Nat) (c : Cluster) : (s.setCluster n c).lltlb = s.lltlb := rfl
@[simp] theorem State.setCluster_walks (n : Nat) (c : Cluster) : (s.setCluster n c).walks = s.walks := rfl
@[simp] theorem State.setCluster_inval (n : Nat) (c : Cluster) : (s.setCluster n c).inval = s.inval := rfl
@[simp] theorem State.setCluster_fb (n : Nat) (c : Cluster) : (s.setCluster n c).fb = s.fb := rfl
@[simp] theorem State.setCluster_faults (n : Nat) (c : Cluster) : (s.setCluster n c).faults = s.faults := rfl
@[simp] theorem State.setCluster_replay (n : Nat) (c : Cluster) : (s.setCluster n c).replay = s.replay := rfl
@[simp] theorem State.setCluster_seals (n : Nat) (c : Cluster) : (s.setCluster n c).seals = s.seals := rfl
@[simp] theorem State.setCluster_contexts (n : Nat) (c : Cluster) : (s.setCluster n c).contexts = s.contexts := rfl
@[simp] theorem State.setCluster_queues (n : Nat) (c : Cluster) : (s.setCluster n c).queues = s.queues := rfl
@[simp] theorem State.setCluster_launches (n : Nat) (c : Cluster) : (s.setCluster n c).launches = s.launches := rfl
@[simp] theorem State.setCluster_wgs (n : Nat) (c : Cluster) : (s.setCluster n c).wgs = s.wgs := rfl
@[simp] theorem State.setCluster_links (n : Nat) (c : Cluster) : (s.setCluster n c).links = s.links := rfl
@[simp] theorem State.setCluster_hwqs (n : Nat) (c : Cluster) : (s.setCluster n c).hwqs = s.hwqs := rfl
@[simp] theorem State.setCluster_qops (n : Nat) (c : Cluster) : (s.setCluster n c).qops = s.qops := rfl
@[simp] theorem State.setCluster_stores (n : Nat) (c : Cluster) : (s.setCluster n c).stores = s.stores := rfl
@[simp] theorem State.setCluster_spilled (n : Nat) (c : Cluster) : (s.setCluster n c).spilled = s.spilled := rfl
@[simp] theorem State.setCluster_settles (n : Nat) (c : Cluster) : (s.setCluster n c).settles = s.settles := rfl
@[simp] theorem State.setCluster_claims (n : Nat) (c : Cluster) : (s.setCluster n c).claims = s.claims := rfl
@[simp] theorem State.setCluster_lineages (n : Nat) (c : Cluster) : (s.setCluster n c).lineages = s.lineages := rfl
@[simp] theorem State.setCluster_closes (n : Nat) (c : Cluster) : (s.setCluster n c).closes = s.closes := rfl
@[simp] theorem State.setCluster_groups (n : Nat) (c : Cluster) : (s.setCluster n c).groups = s.groups := rfl
@[simp] theorem State.setCluster_posts (n : Nat) (c : Cluster) : (s.setCluster n c).posts = s.posts := rfl
@[simp] theorem State.setCluster_ifaces (n : Nat) (c : Cluster) : (s.setCluster n c).ifaces = s.ifaces := rfl
@[simp] theorem State.setCluster_owners (n : Nat) (c : Cluster) : (s.setCluster n c).owners = s.owners := rfl
@[simp] theorem State.setCluster_keys (n : Nat) (c : Cluster) : (s.setCluster n c).keys = s.keys := rfl
@[simp] theorem State.setCluster_deferredCpl (n : Nat) (c : Cluster) : (s.setCluster n c).deferredCpl = s.deferredCpl := rfl
@[simp] theorem State.setCluster_recov (n : Nat) (c : Cluster) : (s.setCluster n c).recov = s.recov := rfl
@[simp] theorem State.setCluster_softErrs (n : Nat) (c : Cluster) : (s.setCluster n c).softErrs = s.softErrs := rfl
@[simp] theorem State.setCluster_nextSeq (n : Nat) (c : Cluster) : (s.setCluster n c).nextSeq = s.nextSeq := rfl
@[simp] theorem State.setCluster_agenda (n : Nat) (c : Cluster) : (s.setCluster n c).agenda = s.agenda := rfl
@[simp] theorem State.setCluster_cur (n : Nat) (c : Cluster) : (s.setCluster n c).cur = s.cur := rfl
@[simp] theorem State.setCluster_choice (n : Nat) (c : Cluster) : (s.setCluster n c).choice = s.choice := rfl
@[simp] theorem State.setCluster_freeCtr (n : Nat) (c : Cluster) : (s.setCluster n c).freeCtr = s.freeCtr := rfl
@[simp] theorem State.setCluster_stop (n : Nat) (c : Cluster) : (s.setCluster n c).stop = s.stop := rfl
@[simp] theorem State.setCluster_was (n : Nat) (c : Cluster) : (s.setCluster n c).was = s.was := rfl
@[simp] theorem State.setCluster_sealedFrames (n : Nat) (c : Cluster) : (s.setCluster n c).sealedFrames = s.sealedFrames := rfl

/-! ### setIface -/

@[simp] theorem State.setIface_part (fn : Nat) (i : Iface) : (s.setIface fn i).part = s.part := rfl
@[simp] theorem State.setIface_time (fn : Nat) (i : Iface) : (s.setIface fn i).time = s.time := rfl
@[simp] theorem State.setIface_powered (fn : Nat) (i : Iface) : (s.setIface fn i).powered = s.powered := rfl
@[simp] theorem State.setIface_cxlCoherent (fn : Nat) (i : Iface) : (s.setIface fn i).cxlCoherent = s.cxlCoherent := rfl
@[simp] theorem State.setIface_faultLog (fn : Nat) (i : Iface) : (s.setIface fn i).faultLog = s.faultLog := rfl
@[simp] theorem State.setIface_eventLog (fn : Nat) (i : Iface) : (s.setIface fn i).eventLog = s.eventLog := rfl
@[simp] theorem State.setIface_irqs (fn : Nat) (i : Iface) : (s.setIface fn i).irqs = s.irqs := rfl
@[simp] theorem State.setIface_linksDown (fn : Nat) (i : Iface) : (s.setIface fn i).linksDown = s.linksDown := rfl
@[simp] theorem State.setIface_retries (fn : Nat) (i : Iface) : (s.setIface fn i).retries = s.retries := rfl
@[simp] theorem State.setIface_viaductDown (fn : Nat) (i : Iface) : (s.setIface fn i).viaductDown = s.viaductDown := rfl
@[simp] theorem State.setIface_clusters (fn : Nat) (i : Iface) : (s.setIface fn i).clusters = s.clusters := rfl
@[simp] theorem State.setIface_mem (fn : Nat) (i : Iface) : (s.setIface fn i).mem = s.mem := rfl
@[simp] theorem State.setIface_loads (fn : Nat) (i : Iface) : (s.setIface fn i).loads = s.loads := rfl
@[simp] theorem State.setIface_stbuf (fn : Nat) (i : Iface) : (s.setIface fn i).stbuf = s.stbuf := rfl
@[simp] theorem State.setIface_wpath (fn : Nat) (i : Iface) : (s.setIface fn i).wpath = s.wpath := rfl
@[simp] theorem State.setIface_capath (fn : Nat) (i : Iface) : (s.setIface fn i).capath = s.capath := rfl
@[simp] theorem State.setIface_ports (fn : Nat) (i : Iface) : (s.setIface fn i).ports = s.ports := rfl
@[simp] theorem State.setIface_l1 (fn : Nat) (i : Iface) : (s.setIface fn i).l1 = s.l1 := rfl
@[simp] theorem State.setIface_caview (fn : Nat) (i : Iface) : (s.setIface fn i).caview = s.caview := rfl
@[simp] theorem State.setIface_copies (fn : Nat) (i : Iface) : (s.setIface fn i).copies = s.copies := rfl
@[simp] theorem State.setIface_vc (fn : Nat) (i : Iface) : (s.setIface fn i).vc = s.vc := rfl
@[simp] theorem State.setIface_chans (fn : Nat) (i : Iface) : (s.setIface fn i).chans = s.chans := rfl
@[simp] theorem State.setIface_chanSeq (fn : Nat) (i : Iface) : (s.setIface fn i).chanSeq = s.chanSeq := rfl
@[simp] theorem State.setIface_writes (fn : Nat) (i : Iface) : (s.setIface fn i).writes = s.writes := rfl
@[simp] theorem State.setIface_fences (fn : Nat) (i : Iface) : (s.setIface fn i).fences = s.fences := rfl
@[simp] theorem State.setIface_arrivals (fn : Nat) (i : Iface) : (s.setIface fn i).arrivals = s.arrivals := rfl
@[simp] theorem State.setIface_sfqs (fn : Nat) (i : Iface) : (s.setIface fn i).sfqs = s.sfqs := rfl
@[simp] theorem State.setIface_l1tlb (fn : Nat) (i : Iface) : (s.setIface fn i).l1tlb = s.l1tlb := rfl
@[simp] theorem State.setIface_cltlb (fn : Nat) (i : Iface) : (s.setIface fn i).cltlb = s.cltlb := rfl
@[simp] theorem State.setIface_lltlb (fn : Nat) (i : Iface) : (s.setIface fn i).lltlb = s.lltlb := rfl
@[simp] theorem State.setIface_walks (fn : Nat) (i : Iface) : (s.setIface fn i).walks = s.walks := rfl
@[simp] theorem State.setIface_inval (fn : Nat) (i : Iface) : (s.setIface fn i).inval = s.inval := rfl
@[simp] theorem State.setIface_fb (fn : Nat) (i : Iface) : (s.setIface fn i).fb = s.fb := rfl
@[simp] theorem State.setIface_faults (fn : Nat) (i : Iface) : (s.setIface fn i).faults = s.faults := rfl
@[simp] theorem State.setIface_replay (fn : Nat) (i : Iface) : (s.setIface fn i).replay = s.replay := rfl
@[simp] theorem State.setIface_seals (fn : Nat) (i : Iface) : (s.setIface fn i).seals = s.seals := rfl
@[simp] theorem State.setIface_contexts (fn : Nat) (i : Iface) : (s.setIface fn i).contexts = s.contexts := rfl
@[simp] theorem State.setIface_queues (fn : Nat) (i : Iface) : (s.setIface fn i).queues = s.queues := rfl
@[simp] theorem State.setIface_launches (fn : Nat) (i : Iface) : (s.setIface fn i).launches = s.launches := rfl
@[simp] theorem State.setIface_wgs (fn : Nat) (i : Iface) : (s.setIface fn i).wgs = s.wgs := rfl
@[simp] theorem State.setIface_links (fn : Nat) (i : Iface) : (s.setIface fn i).links = s.links := rfl
@[simp] theorem State.setIface_hwqs (fn : Nat) (i : Iface) : (s.setIface fn i).hwqs = s.hwqs := rfl
@[simp] theorem State.setIface_qops (fn : Nat) (i : Iface) : (s.setIface fn i).qops = s.qops := rfl
@[simp] theorem State.setIface_stores (fn : Nat) (i : Iface) : (s.setIface fn i).stores = s.stores := rfl
@[simp] theorem State.setIface_spilled (fn : Nat) (i : Iface) : (s.setIface fn i).spilled = s.spilled := rfl
@[simp] theorem State.setIface_settles (fn : Nat) (i : Iface) : (s.setIface fn i).settles = s.settles := rfl
@[simp] theorem State.setIface_claims (fn : Nat) (i : Iface) : (s.setIface fn i).claims = s.claims := rfl
@[simp] theorem State.setIface_lineages (fn : Nat) (i : Iface) : (s.setIface fn i).lineages = s.lineages := rfl
@[simp] theorem State.setIface_closes (fn : Nat) (i : Iface) : (s.setIface fn i).closes = s.closes := rfl
@[simp] theorem State.setIface_groups (fn : Nat) (i : Iface) : (s.setIface fn i).groups = s.groups := rfl
@[simp] theorem State.setIface_posts (fn : Nat) (i : Iface) : (s.setIface fn i).posts = s.posts := rfl
@[simp] theorem State.setIface_ifaces (fn : Nat) (i : Iface) : (s.setIface fn i).ifaces = kvPut s.ifaces fn i := rfl
@[simp] theorem State.setIface_owners (fn : Nat) (i : Iface) : (s.setIface fn i).owners = s.owners := rfl
@[simp] theorem State.setIface_keys (fn : Nat) (i : Iface) : (s.setIface fn i).keys = s.keys := rfl
@[simp] theorem State.setIface_deferredCpl (fn : Nat) (i : Iface) : (s.setIface fn i).deferredCpl = s.deferredCpl := rfl
@[simp] theorem State.setIface_recov (fn : Nat) (i : Iface) : (s.setIface fn i).recov = s.recov := rfl
@[simp] theorem State.setIface_softErrs (fn : Nat) (i : Iface) : (s.setIface fn i).softErrs = s.softErrs := rfl
@[simp] theorem State.setIface_nextSeq (fn : Nat) (i : Iface) : (s.setIface fn i).nextSeq = s.nextSeq := rfl
@[simp] theorem State.setIface_agenda (fn : Nat) (i : Iface) : (s.setIface fn i).agenda = s.agenda := rfl
@[simp] theorem State.setIface_cur (fn : Nat) (i : Iface) : (s.setIface fn i).cur = s.cur := rfl
@[simp] theorem State.setIface_choice (fn : Nat) (i : Iface) : (s.setIface fn i).choice = s.choice := rfl
@[simp] theorem State.setIface_freeCtr (fn : Nat) (i : Iface) : (s.setIface fn i).freeCtr = s.freeCtr := rfl
@[simp] theorem State.setIface_stop (fn : Nat) (i : Iface) : (s.setIface fn i).stop = s.stop := rfl
@[simp] theorem State.setIface_was (fn : Nat) (i : Iface) : (s.setIface fn i).was = s.was := rfl
@[simp] theorem State.setIface_sealedFrames (fn : Nat) (i : Iface) : (s.setIface fn i).sealedFrames = s.sealedFrames := rfl

/-! ### setQueue -/

@[simp] theorem State.setQueue_part (q : Nat) (x : HostQueue) : (s.setQueue q x).part = s.part := rfl
@[simp] theorem State.setQueue_time (q : Nat) (x : HostQueue) : (s.setQueue q x).time = s.time := rfl
@[simp] theorem State.setQueue_powered (q : Nat) (x : HostQueue) : (s.setQueue q x).powered = s.powered := rfl
@[simp] theorem State.setQueue_cxlCoherent (q : Nat) (x : HostQueue) : (s.setQueue q x).cxlCoherent = s.cxlCoherent := rfl
@[simp] theorem State.setQueue_faultLog (q : Nat) (x : HostQueue) : (s.setQueue q x).faultLog = s.faultLog := rfl
@[simp] theorem State.setQueue_eventLog (q : Nat) (x : HostQueue) : (s.setQueue q x).eventLog = s.eventLog := rfl
@[simp] theorem State.setQueue_irqs (q : Nat) (x : HostQueue) : (s.setQueue q x).irqs = s.irqs := rfl
@[simp] theorem State.setQueue_linksDown (q : Nat) (x : HostQueue) : (s.setQueue q x).linksDown = s.linksDown := rfl
@[simp] theorem State.setQueue_retries (q : Nat) (x : HostQueue) : (s.setQueue q x).retries = s.retries := rfl
@[simp] theorem State.setQueue_viaductDown (q : Nat) (x : HostQueue) : (s.setQueue q x).viaductDown = s.viaductDown := rfl
@[simp] theorem State.setQueue_clusters (q : Nat) (x : HostQueue) : (s.setQueue q x).clusters = s.clusters := rfl
@[simp] theorem State.setQueue_mem (q : Nat) (x : HostQueue) : (s.setQueue q x).mem = s.mem := rfl
@[simp] theorem State.setQueue_loads (q : Nat) (x : HostQueue) : (s.setQueue q x).loads = s.loads := rfl
@[simp] theorem State.setQueue_stbuf (q : Nat) (x : HostQueue) : (s.setQueue q x).stbuf = s.stbuf := rfl
@[simp] theorem State.setQueue_wpath (q : Nat) (x : HostQueue) : (s.setQueue q x).wpath = s.wpath := rfl
@[simp] theorem State.setQueue_capath (q : Nat) (x : HostQueue) : (s.setQueue q x).capath = s.capath := rfl
@[simp] theorem State.setQueue_ports (q : Nat) (x : HostQueue) : (s.setQueue q x).ports = s.ports := rfl
@[simp] theorem State.setQueue_l1 (q : Nat) (x : HostQueue) : (s.setQueue q x).l1 = s.l1 := rfl
@[simp] theorem State.setQueue_caview (q : Nat) (x : HostQueue) : (s.setQueue q x).caview = s.caview := rfl
@[simp] theorem State.setQueue_copies (q : Nat) (x : HostQueue) : (s.setQueue q x).copies = s.copies := rfl
@[simp] theorem State.setQueue_vc (q : Nat) (x : HostQueue) : (s.setQueue q x).vc = s.vc := rfl
@[simp] theorem State.setQueue_chans (q : Nat) (x : HostQueue) : (s.setQueue q x).chans = s.chans := rfl
@[simp] theorem State.setQueue_chanSeq (q : Nat) (x : HostQueue) : (s.setQueue q x).chanSeq = s.chanSeq := rfl
@[simp] theorem State.setQueue_writes (q : Nat) (x : HostQueue) : (s.setQueue q x).writes = s.writes := rfl
@[simp] theorem State.setQueue_fences (q : Nat) (x : HostQueue) : (s.setQueue q x).fences = s.fences := rfl
@[simp] theorem State.setQueue_arrivals (q : Nat) (x : HostQueue) : (s.setQueue q x).arrivals = s.arrivals := rfl
@[simp] theorem State.setQueue_sfqs (q : Nat) (x : HostQueue) : (s.setQueue q x).sfqs = s.sfqs := rfl
@[simp] theorem State.setQueue_l1tlb (q : Nat) (x : HostQueue) : (s.setQueue q x).l1tlb = s.l1tlb := rfl
@[simp] theorem State.setQueue_cltlb (q : Nat) (x : HostQueue) : (s.setQueue q x).cltlb = s.cltlb := rfl
@[simp] theorem State.setQueue_lltlb (q : Nat) (x : HostQueue) : (s.setQueue q x).lltlb = s.lltlb := rfl
@[simp] theorem State.setQueue_walks (q : Nat) (x : HostQueue) : (s.setQueue q x).walks = s.walks := rfl
@[simp] theorem State.setQueue_inval (q : Nat) (x : HostQueue) : (s.setQueue q x).inval = s.inval := rfl
@[simp] theorem State.setQueue_fb (q : Nat) (x : HostQueue) : (s.setQueue q x).fb = s.fb := rfl
@[simp] theorem State.setQueue_faults (q : Nat) (x : HostQueue) : (s.setQueue q x).faults = s.faults := rfl
@[simp] theorem State.setQueue_replay (q : Nat) (x : HostQueue) : (s.setQueue q x).replay = s.replay := rfl
@[simp] theorem State.setQueue_seals (q : Nat) (x : HostQueue) : (s.setQueue q x).seals = s.seals := rfl
@[simp] theorem State.setQueue_contexts (q : Nat) (x : HostQueue) : (s.setQueue q x).contexts = s.contexts := rfl
@[simp] theorem State.setQueue_queues (q : Nat) (x : HostQueue) : (s.setQueue q x).queues = kvPut s.queues q x := rfl
@[simp] theorem State.setQueue_launches (q : Nat) (x : HostQueue) : (s.setQueue q x).launches = s.launches := rfl
@[simp] theorem State.setQueue_wgs (q : Nat) (x : HostQueue) : (s.setQueue q x).wgs = s.wgs := rfl
@[simp] theorem State.setQueue_links (q : Nat) (x : HostQueue) : (s.setQueue q x).links = s.links := rfl
@[simp] theorem State.setQueue_hwqs (q : Nat) (x : HostQueue) : (s.setQueue q x).hwqs = s.hwqs := rfl
@[simp] theorem State.setQueue_qops (q : Nat) (x : HostQueue) : (s.setQueue q x).qops = s.qops := rfl
@[simp] theorem State.setQueue_stores (q : Nat) (x : HostQueue) : (s.setQueue q x).stores = s.stores := rfl
@[simp] theorem State.setQueue_spilled (q : Nat) (x : HostQueue) : (s.setQueue q x).spilled = s.spilled := rfl
@[simp] theorem State.setQueue_settles (q : Nat) (x : HostQueue) : (s.setQueue q x).settles = s.settles := rfl
@[simp] theorem State.setQueue_claims (q : Nat) (x : HostQueue) : (s.setQueue q x).claims = s.claims := rfl
@[simp] theorem State.setQueue_lineages (q : Nat) (x : HostQueue) : (s.setQueue q x).lineages = s.lineages := rfl
@[simp] theorem State.setQueue_closes (q : Nat) (x : HostQueue) : (s.setQueue q x).closes = s.closes := rfl
@[simp] theorem State.setQueue_groups (q : Nat) (x : HostQueue) : (s.setQueue q x).groups = s.groups := rfl
@[simp] theorem State.setQueue_posts (q : Nat) (x : HostQueue) : (s.setQueue q x).posts = s.posts := rfl
@[simp] theorem State.setQueue_ifaces (q : Nat) (x : HostQueue) : (s.setQueue q x).ifaces = s.ifaces := rfl
@[simp] theorem State.setQueue_owners (q : Nat) (x : HostQueue) : (s.setQueue q x).owners = s.owners := rfl
@[simp] theorem State.setQueue_keys (q : Nat) (x : HostQueue) : (s.setQueue q x).keys = s.keys := rfl
@[simp] theorem State.setQueue_deferredCpl (q : Nat) (x : HostQueue) : (s.setQueue q x).deferredCpl = s.deferredCpl := rfl
@[simp] theorem State.setQueue_recov (q : Nat) (x : HostQueue) : (s.setQueue q x).recov = s.recov := rfl
@[simp] theorem State.setQueue_softErrs (q : Nat) (x : HostQueue) : (s.setQueue q x).softErrs = s.softErrs := rfl
@[simp] theorem State.setQueue_nextSeq (q : Nat) (x : HostQueue) : (s.setQueue q x).nextSeq = s.nextSeq := rfl
@[simp] theorem State.setQueue_agenda (q : Nat) (x : HostQueue) : (s.setQueue q x).agenda = s.agenda := rfl
@[simp] theorem State.setQueue_cur (q : Nat) (x : HostQueue) : (s.setQueue q x).cur = s.cur := rfl
@[simp] theorem State.setQueue_choice (q : Nat) (x : HostQueue) : (s.setQueue q x).choice = s.choice := rfl
@[simp] theorem State.setQueue_freeCtr (q : Nat) (x : HostQueue) : (s.setQueue q x).freeCtr = s.freeCtr := rfl
@[simp] theorem State.setQueue_stop (q : Nat) (x : HostQueue) : (s.setQueue q x).stop = s.stop := rfl
@[simp] theorem State.setQueue_was (q : Nat) (x : HostQueue) : (s.setQueue q x).was = s.was := rfl
@[simp] theorem State.setQueue_sealedFrames (q : Nat) (x : HostQueue) : (s.setQueue q x).sealedFrames = s.sealedFrames := rfl

/-! ### writeBytes -/

@[simp] theorem State.writeBytes_part (k : Nat) (bs : List Byte) : (s.writeBytes k bs).part = s.part := rfl
@[simp] theorem State.writeBytes_time (k : Nat) (bs : List Byte) : (s.writeBytes k bs).time = s.time := rfl
@[simp] theorem State.writeBytes_powered (k : Nat) (bs : List Byte) : (s.writeBytes k bs).powered = s.powered := rfl
@[simp] theorem State.writeBytes_cxlCoherent (k : Nat) (bs : List Byte) : (s.writeBytes k bs).cxlCoherent = s.cxlCoherent := rfl
@[simp] theorem State.writeBytes_faultLog (k : Nat) (bs : List Byte) : (s.writeBytes k bs).faultLog = s.faultLog := rfl
@[simp] theorem State.writeBytes_eventLog (k : Nat) (bs : List Byte) : (s.writeBytes k bs).eventLog = s.eventLog := rfl
@[simp] theorem State.writeBytes_irqs (k : Nat) (bs : List Byte) : (s.writeBytes k bs).irqs = s.irqs := rfl
@[simp] theorem State.writeBytes_linksDown (k : Nat) (bs : List Byte) : (s.writeBytes k bs).linksDown = s.linksDown := rfl
@[simp] theorem State.writeBytes_retries (k : Nat) (bs : List Byte) : (s.writeBytes k bs).retries = s.retries := rfl
@[simp] theorem State.writeBytes_viaductDown (k : Nat) (bs : List Byte) : (s.writeBytes k bs).viaductDown = s.viaductDown := rfl
@[simp] theorem State.writeBytes_clusters (k : Nat) (bs : List Byte) : (s.writeBytes k bs).clusters = s.clusters := rfl
@[simp] theorem State.writeBytes_mem (k : Nat) (bs : List Byte) : (s.writeBytes k bs).mem = memPut s.mem k bs := rfl
@[simp] theorem State.writeBytes_loads (k : Nat) (bs : List Byte) : (s.writeBytes k bs).loads = s.loads := rfl
@[simp] theorem State.writeBytes_stbuf (k : Nat) (bs : List Byte) : (s.writeBytes k bs).stbuf = s.stbuf := rfl
@[simp] theorem State.writeBytes_wpath (k : Nat) (bs : List Byte) : (s.writeBytes k bs).wpath = s.wpath := rfl
@[simp] theorem State.writeBytes_capath (k : Nat) (bs : List Byte) : (s.writeBytes k bs).capath = s.capath := rfl
@[simp] theorem State.writeBytes_ports (k : Nat) (bs : List Byte) : (s.writeBytes k bs).ports = s.ports := rfl
@[simp] theorem State.writeBytes_l1 (k : Nat) (bs : List Byte) : (s.writeBytes k bs).l1 = s.l1 := rfl
@[simp] theorem State.writeBytes_caview (k : Nat) (bs : List Byte) : (s.writeBytes k bs).caview = s.caview := rfl
@[simp] theorem State.writeBytes_copies (k : Nat) (bs : List Byte) : (s.writeBytes k bs).copies = s.copies := rfl
@[simp] theorem State.writeBytes_vc (k : Nat) (bs : List Byte) : (s.writeBytes k bs).vc = s.vc := rfl
@[simp] theorem State.writeBytes_chans (k : Nat) (bs : List Byte) : (s.writeBytes k bs).chans = s.chans := rfl
@[simp] theorem State.writeBytes_chanSeq (k : Nat) (bs : List Byte) : (s.writeBytes k bs).chanSeq = s.chanSeq := rfl
@[simp] theorem State.writeBytes_writes (k : Nat) (bs : List Byte) : (s.writeBytes k bs).writes = s.writes := rfl
@[simp] theorem State.writeBytes_fences (k : Nat) (bs : List Byte) : (s.writeBytes k bs).fences = s.fences := rfl
@[simp] theorem State.writeBytes_arrivals (k : Nat) (bs : List Byte) : (s.writeBytes k bs).arrivals = s.arrivals := rfl
@[simp] theorem State.writeBytes_sfqs (k : Nat) (bs : List Byte) : (s.writeBytes k bs).sfqs = s.sfqs := rfl
@[simp] theorem State.writeBytes_l1tlb (k : Nat) (bs : List Byte) : (s.writeBytes k bs).l1tlb = s.l1tlb := rfl
@[simp] theorem State.writeBytes_cltlb (k : Nat) (bs : List Byte) : (s.writeBytes k bs).cltlb = s.cltlb := rfl
@[simp] theorem State.writeBytes_lltlb (k : Nat) (bs : List Byte) : (s.writeBytes k bs).lltlb = s.lltlb := rfl
@[simp] theorem State.writeBytes_walks (k : Nat) (bs : List Byte) : (s.writeBytes k bs).walks = s.walks := rfl
@[simp] theorem State.writeBytes_inval (k : Nat) (bs : List Byte) : (s.writeBytes k bs).inval = s.inval := rfl
@[simp] theorem State.writeBytes_fb (k : Nat) (bs : List Byte) : (s.writeBytes k bs).fb = s.fb := rfl
@[simp] theorem State.writeBytes_faults (k : Nat) (bs : List Byte) : (s.writeBytes k bs).faults = s.faults := rfl
@[simp] theorem State.writeBytes_replay (k : Nat) (bs : List Byte) : (s.writeBytes k bs).replay = s.replay := rfl
@[simp] theorem State.writeBytes_seals (k : Nat) (bs : List Byte) : (s.writeBytes k bs).seals = s.seals := rfl
@[simp] theorem State.writeBytes_contexts (k : Nat) (bs : List Byte) : (s.writeBytes k bs).contexts = s.contexts := rfl
@[simp] theorem State.writeBytes_queues (k : Nat) (bs : List Byte) : (s.writeBytes k bs).queues = s.queues := rfl
@[simp] theorem State.writeBytes_launches (k : Nat) (bs : List Byte) : (s.writeBytes k bs).launches = s.launches := rfl
@[simp] theorem State.writeBytes_wgs (k : Nat) (bs : List Byte) : (s.writeBytes k bs).wgs = s.wgs := rfl
@[simp] theorem State.writeBytes_links (k : Nat) (bs : List Byte) : (s.writeBytes k bs).links = s.links := rfl
@[simp] theorem State.writeBytes_hwqs (k : Nat) (bs : List Byte) : (s.writeBytes k bs).hwqs = s.hwqs := rfl
@[simp] theorem State.writeBytes_qops (k : Nat) (bs : List Byte) : (s.writeBytes k bs).qops = s.qops := rfl
@[simp] theorem State.writeBytes_stores (k : Nat) (bs : List Byte) : (s.writeBytes k bs).stores = s.stores := rfl
@[simp] theorem State.writeBytes_spilled (k : Nat) (bs : List Byte) : (s.writeBytes k bs).spilled = s.spilled := rfl
@[simp] theorem State.writeBytes_settles (k : Nat) (bs : List Byte) : (s.writeBytes k bs).settles = s.settles := rfl
@[simp] theorem State.writeBytes_claims (k : Nat) (bs : List Byte) : (s.writeBytes k bs).claims = s.claims := rfl
@[simp] theorem State.writeBytes_lineages (k : Nat) (bs : List Byte) : (s.writeBytes k bs).lineages = s.lineages := rfl
@[simp] theorem State.writeBytes_closes (k : Nat) (bs : List Byte) : (s.writeBytes k bs).closes = s.closes := rfl
@[simp] theorem State.writeBytes_groups (k : Nat) (bs : List Byte) : (s.writeBytes k bs).groups = s.groups := rfl
@[simp] theorem State.writeBytes_posts (k : Nat) (bs : List Byte) : (s.writeBytes k bs).posts = s.posts := rfl
@[simp] theorem State.writeBytes_ifaces (k : Nat) (bs : List Byte) : (s.writeBytes k bs).ifaces = s.ifaces := rfl
@[simp] theorem State.writeBytes_owners (k : Nat) (bs : List Byte) : (s.writeBytes k bs).owners = s.owners := rfl
@[simp] theorem State.writeBytes_keys (k : Nat) (bs : List Byte) : (s.writeBytes k bs).keys = s.keys := rfl
@[simp] theorem State.writeBytes_deferredCpl (k : Nat) (bs : List Byte) : (s.writeBytes k bs).deferredCpl = s.deferredCpl := rfl
@[simp] theorem State.writeBytes_recov (k : Nat) (bs : List Byte) : (s.writeBytes k bs).recov = s.recov := rfl
@[simp] theorem State.writeBytes_softErrs (k : Nat) (bs : List Byte) : (s.writeBytes k bs).softErrs = s.softErrs := rfl
@[simp] theorem State.writeBytes_nextSeq (k : Nat) (bs : List Byte) : (s.writeBytes k bs).nextSeq = s.nextSeq := rfl
@[simp] theorem State.writeBytes_agenda (k : Nat) (bs : List Byte) : (s.writeBytes k bs).agenda = s.agenda := rfl
@[simp] theorem State.writeBytes_cur (k : Nat) (bs : List Byte) : (s.writeBytes k bs).cur = s.cur := rfl
@[simp] theorem State.writeBytes_choice (k : Nat) (bs : List Byte) : (s.writeBytes k bs).choice = s.choice := rfl
@[simp] theorem State.writeBytes_freeCtr (k : Nat) (bs : List Byte) : (s.writeBytes k bs).freeCtr = s.freeCtr := rfl
@[simp] theorem State.writeBytes_stop (k : Nat) (bs : List Byte) : (s.writeBytes k bs).stop = s.stop := rfl
@[simp] theorem State.writeBytes_was (k : Nat) (bs : List Byte) : (s.writeBytes k bs).was = s.was := rfl
@[simp] theorem State.writeBytes_sealedFrames (k : Nat) (bs : List Byte) : (s.writeBytes k bs).sealedFrames = s.sealedFrames := rfl

/-! ### zeroRange -/

@[simp] theorem State.zeroRange_part (k n : Nat) : (s.zeroRange k n).part = s.part := rfl
@[simp] theorem State.zeroRange_time (k n : Nat) : (s.zeroRange k n).time = s.time := rfl
@[simp] theorem State.zeroRange_powered (k n : Nat) : (s.zeroRange k n).powered = s.powered := rfl
@[simp] theorem State.zeroRange_cxlCoherent (k n : Nat) : (s.zeroRange k n).cxlCoherent = s.cxlCoherent := rfl
@[simp] theorem State.zeroRange_faultLog (k n : Nat) : (s.zeroRange k n).faultLog = s.faultLog := rfl
@[simp] theorem State.zeroRange_eventLog (k n : Nat) : (s.zeroRange k n).eventLog = s.eventLog := rfl
@[simp] theorem State.zeroRange_irqs (k n : Nat) : (s.zeroRange k n).irqs = s.irqs := rfl
@[simp] theorem State.zeroRange_linksDown (k n : Nat) : (s.zeroRange k n).linksDown = s.linksDown := rfl
@[simp] theorem State.zeroRange_retries (k n : Nat) : (s.zeroRange k n).retries = s.retries := rfl
@[simp] theorem State.zeroRange_viaductDown (k n : Nat) : (s.zeroRange k n).viaductDown = s.viaductDown := rfl
@[simp] theorem State.zeroRange_clusters (k n : Nat) : (s.zeroRange k n).clusters = s.clusters := rfl
@[simp] theorem State.zeroRange_mem (k n : Nat) : (s.zeroRange k n).mem = s.mem.filter (fun c => !(k ≤ c.1 && c.1 < k + n)) := rfl
@[simp] theorem State.zeroRange_loads (k n : Nat) : (s.zeroRange k n).loads = s.loads := rfl
@[simp] theorem State.zeroRange_stbuf (k n : Nat) : (s.zeroRange k n).stbuf = s.stbuf := rfl
@[simp] theorem State.zeroRange_wpath (k n : Nat) : (s.zeroRange k n).wpath = s.wpath := rfl
@[simp] theorem State.zeroRange_capath (k n : Nat) : (s.zeroRange k n).capath = s.capath := rfl
@[simp] theorem State.zeroRange_ports (k n : Nat) : (s.zeroRange k n).ports = s.ports := rfl
@[simp] theorem State.zeroRange_l1 (k n : Nat) : (s.zeroRange k n).l1 = s.l1 := rfl
@[simp] theorem State.zeroRange_caview (k n : Nat) : (s.zeroRange k n).caview = s.caview := rfl
@[simp] theorem State.zeroRange_copies (k n : Nat) : (s.zeroRange k n).copies = s.copies := rfl
@[simp] theorem State.zeroRange_vc (k n : Nat) : (s.zeroRange k n).vc = s.vc := rfl
@[simp] theorem State.zeroRange_chans (k n : Nat) : (s.zeroRange k n).chans = s.chans := rfl
@[simp] theorem State.zeroRange_chanSeq (k n : Nat) : (s.zeroRange k n).chanSeq = s.chanSeq := rfl
@[simp] theorem State.zeroRange_writes (k n : Nat) : (s.zeroRange k n).writes = s.writes := rfl
@[simp] theorem State.zeroRange_fences (k n : Nat) : (s.zeroRange k n).fences = s.fences := rfl
@[simp] theorem State.zeroRange_arrivals (k n : Nat) : (s.zeroRange k n).arrivals = s.arrivals := rfl
@[simp] theorem State.zeroRange_sfqs (k n : Nat) : (s.zeroRange k n).sfqs = s.sfqs := rfl
@[simp] theorem State.zeroRange_l1tlb (k n : Nat) : (s.zeroRange k n).l1tlb = s.l1tlb := rfl
@[simp] theorem State.zeroRange_cltlb (k n : Nat) : (s.zeroRange k n).cltlb = s.cltlb := rfl
@[simp] theorem State.zeroRange_lltlb (k n : Nat) : (s.zeroRange k n).lltlb = s.lltlb := rfl
@[simp] theorem State.zeroRange_walks (k n : Nat) : (s.zeroRange k n).walks = s.walks := rfl
@[simp] theorem State.zeroRange_inval (k n : Nat) : (s.zeroRange k n).inval = s.inval := rfl
@[simp] theorem State.zeroRange_fb (k n : Nat) : (s.zeroRange k n).fb = s.fb := rfl
@[simp] theorem State.zeroRange_faults (k n : Nat) : (s.zeroRange k n).faults = s.faults := rfl
@[simp] theorem State.zeroRange_replay (k n : Nat) : (s.zeroRange k n).replay = s.replay := rfl
@[simp] theorem State.zeroRange_seals (k n : Nat) : (s.zeroRange k n).seals = s.seals := rfl
@[simp] theorem State.zeroRange_contexts (k n : Nat) : (s.zeroRange k n).contexts = s.contexts := rfl
@[simp] theorem State.zeroRange_queues (k n : Nat) : (s.zeroRange k n).queues = s.queues := rfl
@[simp] theorem State.zeroRange_launches (k n : Nat) : (s.zeroRange k n).launches = s.launches := rfl
@[simp] theorem State.zeroRange_wgs (k n : Nat) : (s.zeroRange k n).wgs = s.wgs := rfl
@[simp] theorem State.zeroRange_links (k n : Nat) : (s.zeroRange k n).links = s.links := rfl
@[simp] theorem State.zeroRange_hwqs (k n : Nat) : (s.zeroRange k n).hwqs = s.hwqs := rfl
@[simp] theorem State.zeroRange_qops (k n : Nat) : (s.zeroRange k n).qops = s.qops := rfl
@[simp] theorem State.zeroRange_stores (k n : Nat) : (s.zeroRange k n).stores = s.stores := rfl
@[simp] theorem State.zeroRange_spilled (k n : Nat) : (s.zeroRange k n).spilled = s.spilled := rfl
@[simp] theorem State.zeroRange_settles (k n : Nat) : (s.zeroRange k n).settles = s.settles := rfl
@[simp] theorem State.zeroRange_claims (k n : Nat) : (s.zeroRange k n).claims = s.claims := rfl
@[simp] theorem State.zeroRange_lineages (k n : Nat) : (s.zeroRange k n).lineages = s.lineages := rfl
@[simp] theorem State.zeroRange_closes (k n : Nat) : (s.zeroRange k n).closes = s.closes := rfl
@[simp] theorem State.zeroRange_groups (k n : Nat) : (s.zeroRange k n).groups = s.groups := rfl
@[simp] theorem State.zeroRange_posts (k n : Nat) : (s.zeroRange k n).posts = s.posts := rfl
@[simp] theorem State.zeroRange_ifaces (k n : Nat) : (s.zeroRange k n).ifaces = s.ifaces := rfl
@[simp] theorem State.zeroRange_owners (k n : Nat) : (s.zeroRange k n).owners = s.owners := rfl
@[simp] theorem State.zeroRange_keys (k n : Nat) : (s.zeroRange k n).keys = s.keys := rfl
@[simp] theorem State.zeroRange_deferredCpl (k n : Nat) : (s.zeroRange k n).deferredCpl = s.deferredCpl := rfl
@[simp] theorem State.zeroRange_recov (k n : Nat) : (s.zeroRange k n).recov = s.recov := rfl
@[simp] theorem State.zeroRange_softErrs (k n : Nat) : (s.zeroRange k n).softErrs = s.softErrs := rfl
@[simp] theorem State.zeroRange_nextSeq (k n : Nat) : (s.zeroRange k n).nextSeq = s.nextSeq := rfl
@[simp] theorem State.zeroRange_agenda (k n : Nat) : (s.zeroRange k n).agenda = s.agenda := rfl
@[simp] theorem State.zeroRange_cur (k n : Nat) : (s.zeroRange k n).cur = s.cur := rfl
@[simp] theorem State.zeroRange_choice (k n : Nat) : (s.zeroRange k n).choice = s.choice := rfl
@[simp] theorem State.zeroRange_freeCtr (k n : Nat) : (s.zeroRange k n).freeCtr = s.freeCtr := rfl
@[simp] theorem State.zeroRange_stop (k n : Nat) : (s.zeroRange k n).stop = s.stop := rfl
@[simp] theorem State.zeroRange_was (k n : Nat) : (s.zeroRange k n).was = s.was := rfl
@[simp] theorem State.zeroRange_sealedFrames (k n : Nat) : (s.zeroRange k n).sealedFrames = s.sealedFrames := rfl

/-! ### bump -/

@[simp] theorem State.bump_part : s.bump.part = s.part := rfl
@[simp] theorem State.bump_time : s.bump.time = s.time := rfl
@[simp] theorem State.bump_powered : s.bump.powered = s.powered := rfl
@[simp] theorem State.bump_cxlCoherent : s.bump.cxlCoherent = s.cxlCoherent := rfl
@[simp] theorem State.bump_faultLog : s.bump.faultLog = s.faultLog := rfl
@[simp] theorem State.bump_eventLog : s.bump.eventLog = s.eventLog := rfl
@[simp] theorem State.bump_irqs : s.bump.irqs = s.irqs := rfl
@[simp] theorem State.bump_linksDown : s.bump.linksDown = s.linksDown := rfl
@[simp] theorem State.bump_retries : s.bump.retries = s.retries := rfl
@[simp] theorem State.bump_viaductDown : s.bump.viaductDown = s.viaductDown := rfl
@[simp] theorem State.bump_clusters : s.bump.clusters = s.clusters := rfl
@[simp] theorem State.bump_mem : s.bump.mem = s.mem := rfl
@[simp] theorem State.bump_loads : s.bump.loads = s.loads := rfl
@[simp] theorem State.bump_stbuf : s.bump.stbuf = s.stbuf := rfl
@[simp] theorem State.bump_wpath : s.bump.wpath = s.wpath := rfl
@[simp] theorem State.bump_capath : s.bump.capath = s.capath := rfl
@[simp] theorem State.bump_ports : s.bump.ports = s.ports := rfl
@[simp] theorem State.bump_l1 : s.bump.l1 = s.l1 := rfl
@[simp] theorem State.bump_caview : s.bump.caview = s.caview := rfl
@[simp] theorem State.bump_copies : s.bump.copies = s.copies := rfl
@[simp] theorem State.bump_vc : s.bump.vc = s.vc := rfl
@[simp] theorem State.bump_chans : s.bump.chans = s.chans := rfl
@[simp] theorem State.bump_chanSeq : s.bump.chanSeq = s.chanSeq := rfl
@[simp] theorem State.bump_writes : s.bump.writes = s.writes := rfl
@[simp] theorem State.bump_fences : s.bump.fences = s.fences := rfl
@[simp] theorem State.bump_arrivals : s.bump.arrivals = s.arrivals := rfl
@[simp] theorem State.bump_sfqs : s.bump.sfqs = s.sfqs := rfl
@[simp] theorem State.bump_l1tlb : s.bump.l1tlb = s.l1tlb := rfl
@[simp] theorem State.bump_cltlb : s.bump.cltlb = s.cltlb := rfl
@[simp] theorem State.bump_lltlb : s.bump.lltlb = s.lltlb := rfl
@[simp] theorem State.bump_walks : s.bump.walks = s.walks := rfl
@[simp] theorem State.bump_inval : s.bump.inval = s.inval := rfl
@[simp] theorem State.bump_fb : s.bump.fb = s.fb := rfl
@[simp] theorem State.bump_faults : s.bump.faults = s.faults := rfl
@[simp] theorem State.bump_replay : s.bump.replay = s.replay := rfl
@[simp] theorem State.bump_seals : s.bump.seals = s.seals := rfl
@[simp] theorem State.bump_contexts : s.bump.contexts = s.contexts := rfl
@[simp] theorem State.bump_queues : s.bump.queues = s.queues := rfl
@[simp] theorem State.bump_launches : s.bump.launches = s.launches := rfl
@[simp] theorem State.bump_wgs : s.bump.wgs = s.wgs := rfl
@[simp] theorem State.bump_links : s.bump.links = s.links := rfl
@[simp] theorem State.bump_hwqs : s.bump.hwqs = s.hwqs := rfl
@[simp] theorem State.bump_qops : s.bump.qops = s.qops := rfl
@[simp] theorem State.bump_stores : s.bump.stores = s.stores := rfl
@[simp] theorem State.bump_spilled : s.bump.spilled = s.spilled := rfl
@[simp] theorem State.bump_settles : s.bump.settles = s.settles := rfl
@[simp] theorem State.bump_claims : s.bump.claims = s.claims := rfl
@[simp] theorem State.bump_lineages : s.bump.lineages = s.lineages := rfl
@[simp] theorem State.bump_closes : s.bump.closes = s.closes := rfl
@[simp] theorem State.bump_groups : s.bump.groups = s.groups := rfl
@[simp] theorem State.bump_posts : s.bump.posts = s.posts := rfl
@[simp] theorem State.bump_ifaces : s.bump.ifaces = s.ifaces := rfl
@[simp] theorem State.bump_owners : s.bump.owners = s.owners := rfl
@[simp] theorem State.bump_keys : s.bump.keys = s.keys := rfl
@[simp] theorem State.bump_deferredCpl : s.bump.deferredCpl = s.deferredCpl := rfl
@[simp] theorem State.bump_recov : s.bump.recov = s.recov := rfl
@[simp] theorem State.bump_softErrs : s.bump.softErrs = s.softErrs := rfl
@[simp] theorem State.bump_nextSeq : s.bump.nextSeq = s.nextSeq + 1 := rfl
@[simp] theorem State.bump_agenda : s.bump.agenda = s.agenda := rfl
@[simp] theorem State.bump_cur : s.bump.cur = s.cur := rfl
@[simp] theorem State.bump_choice : s.bump.choice = s.choice := rfl
@[simp] theorem State.bump_freeCtr : s.bump.freeCtr = s.freeCtr := rfl
@[simp] theorem State.bump_stop : s.bump.stop = s.stop := rfl
@[simp] theorem State.bump_was : s.bump.was = s.was := rfl
@[simp] theorem State.bump_sealedFrames : s.bump.sealedFrames = s.sealedFrames := rfl

end Sys2Proof.Machine
end

