-- ==== Sys2Proof/Safety.lean ====
section
/-! DEFINITION. The terms that claims are stated in: what a safe state and a safe run are, what an issued unit has done, and
what a step leaves unchanged. -/

namespace Sys2Proof

open Sys2Proof.Machine

/-- The memory is in its canonical form and no access has met a place without memory. -/
def SafeState (s : State) : Prop := memWf s.mem = true ∧ s.stop = none

/-- Every run of `k` steps from a state ends in a next state. -/
def SafeRun (k : Nat) (s : State) : Prop := ∃ t, Host.Core.run core k s = .next t

/-- A thread that the issue under way has moved on to the next unit (R37). -/
def movedOn (s : State) (x : Thread) : Thread := { x with pc := s.cur.next, wait := .ready }

/-- What a team holds beside its threads and the order of its entries. -/
def teamShared (m : Team) : Team := { m with lanes := [], order := [] }

/-- A team but for its counts of operations in flight (R72, R88). -/
def noTokens (m : Team) : Team := { m with ld := [], st := [], cp := [], mx := [] }

/-- What a workgroup holds beside its teams and its count of issues (R216). -/
def groupShell (w : Workgroup) : Workgroup := { w with teams := [], insns := 0 }

/-- The unit under way in `s` has run and left `t`: each thread of the issuing subset has moved on and then changed by
`F`; every other thread is as before; the issuing team has changed by `M`, and what every other team and every workgroup
holds is as before; and beside the workgroups the state is `r`. With `r = s` nothing but the workgroups has changed:
memory, the ordering machine, the engines, the queues and every register outside the cores are as before. -/
structure UnitEffect (s t r : State) (F : Nat → Thread → Thread) (M : Team → Team) : Prop where
  threads : ∀ l ∈ s.subset, t.thread? s.cur.core s.cur.team l
    = (s.thread? s.cur.core s.cur.team l).map (fun x => F l (movedOn s x))
  others : ∀ c n l, (c = s.cur.core → n = s.cur.team → l ∉ s.subset) → t.thread? c n l = s.thread? c n l
  team : (t.team? s.cur.core s.cur.team).map teamShared = (s.team? s.cur.core s.cur.team).map (fun m => teamShared (M m))
  teams : ∀ c n, (c = s.cur.core → n ≠ s.cur.team) → (t.team? c n).map teamShared = (s.team? c n).map teamShared
  groups : ∀ c, (t.wg? c).map groupShell = (s.wg? c).map groupShell
  rest : { t with wgs := s.wgs } = r

/-- The instruction completes: it answers a next state, with the effect stated. -/
def Completes (i : Instr) (s r : State) (F : Nat → Thread → Thread) (M : Team → Team) : Prop :=
  ∃ t, exec i s = .next t ∧ UnitEffect s t r F M

/-- A change of some lanes only. -/
def lanesWith (gl : List Nat) (f : Nat → Thread → Thread) : Nat → Thread → Thread := fun l x => if l ∈ gl then f l x else x

/-- The flags that a list of lanes raises, ORed (R55). -/
def flagsOf (gl : List Nat) (f : Nat → FlagSet) : FlagSet := gl.foldl (fun x l => x ||| f l) 0

/-- A team whose MODE has taken in some flags. -/
def withFlags (f : FlagSet) (m : Team) : Team := { m with mode := m.mode ||| f }

/-- The lane instruction completes with `v[d] := val` in each thread that its guard `g` lets execute, and changes nothing
else but the PCs of its subset. -/
def WritesLanes (s : State) (i : Instr) (g : BitVec 3) (d : BitVec 7) (val : Nat → Thread → Word) : Prop :=
  Completes i s s (lanesWith (s.guarded g) (fun l x => x.setV d.toNat (val l x))) id

/-- The same for a function that raises flags into the team's MODE. -/
def WritesLanesFp (s : State) (i : Instr) (g : BitVec 3) (put : Nat → Thread → Thread) (flags : Nat → FlagSet) : Prop :=
  Completes i s s (lanesWith (s.guarded g) put) (withFlags (flagsOf (s.guarded g) flags))

/-- The uniform instruction completes with the change `M` of its team, and changes nothing else but the PCs of its
subset. -/
def WritesTeam (s : State) (i : Instr) (M : Team → Team) : Prop := Completes i s s (fun _ x => x) M

/-- The unit under way in `s` has run and left `t`, and what the issuing core's workgroup holds beside its teams has changed
by `W`; the rest as in a unit's effect. -/
structure GroupEffect (s t r : State) (F : Nat → Thread → Thread) (M : Team → Team) (W : Workgroup → Workgroup) : Prop where
  threads : ∀ l ∈ s.subset, t.thread? s.cur.core s.cur.team l
    = (s.thread? s.cur.core s.cur.team l).map (fun x => F l (movedOn s x))
  others : ∀ c n l, (c = s.cur.core → n = s.cur.team → l ∉ s.subset) → t.thread? c n l = s.thread? c n l
  team : (t.team? s.cur.core s.cur.team).map teamShared = (s.team? s.cur.core s.cur.team).map (fun m => teamShared (M m))
  teams : ∀ c n, (c = s.cur.core → n ≠ s.cur.team) → (t.team? c n).map teamShared = (s.team? c n).map teamShared
  own : (t.wg? s.cur.core).map groupShell = (s.wg? s.cur.core).map (fun w => groupShell (W w))
  groups : ∀ c, c ≠ s.cur.core → (t.wg? c).map groupShell = (s.wg? c).map groupShell
  rest : { t with wgs := s.wgs } = r

/-! ### Waits -/

/-- The unit under way in `s` has run and left `t`: its subset has moved on, every thread of the issuing core that bears one
of `names` waits for `w`, the issuing team has changed by `M`, and beside the workgroups the state is `r`. -/
structure WaitEffect (s t r : State) (names : List Nat) (w : Wait) (M : Team → Team) : Prop where
  threads : ∀ c n l, t.thread? c n l = (s.thread? c n l).map (fun x =>
    let y := if c = s.cur.core ∧ n = s.cur.team ∧ l ∈ s.subset then movedOn s x else x
    if c = s.cur.core ∧ x.tid ∈ names then { y with wait := w } else y)
  team : (t.team? s.cur.core s.cur.team).map teamShared = (s.team? s.cur.core s.cur.team).map (fun m => teamShared (M m))
  teams : ∀ c n, (c = s.cur.core → n ≠ s.cur.team) → (t.team? c n).map teamShared = (s.team? c n).map teamShared
  groups : ∀ c, (t.wg? c).map groupShell = (s.wg? c).map groupShell
  rest : { t with wgs := s.wgs } = r

/-- The arrival that the unit under way makes of the threads that bear some names (R43). -/
def arrivalOf (s : State) (names : List Nat) (bar : Option BarKey) (join : Option Nat) (sync : Bool) : Arrival :=
  let w := s.wg? s.cur.core
  ⟨s.nextSeq, s.cur.core, s.cur.team, s.team.uid, names, bar, join, sync, (w.map (·.launch)).getD 0, (w.map (·.num)).getD 0,
    (w.map (·.grp)).getD 0⟩

/-! ### Engine commands -/

/-- A command of kind `k` whose block lies at `off`, passes the checks of R73 and has a count or a guard word that leaves
`n` is accepted: it stands as the youngest of its workgroup's commands, with its block copied, and counts in the team's MX or
CP (R73, R74). -/
def CommandAccepted (s : State) (i : Instr) (k : CmdKind) (acc off : Nat) : Prop :=
  let b := s.readBytes (scratchKey s.cur.core off) 64
  let guard := s.readNat (scratchKey s.cur.core off) 8
  let count := s.readNat (scratchKey s.cur.core (off + 8)) 4
  let used := ((mmaSets s.cur.core k b).map (·.2)).dedup
  ∀ n, n ≠ 0 → s.cmdCheck5 k off = none →
    (guard = 0 ∧ n = count) ∨ (guard ≠ 0 ∧ ∃ x, s.guardRead guard = .word x ∧ n = min count x) →
    ∃ t c, exec i s = .next t
      ∧ (c.id = s.nextSeq ∧ c.team = s.cur.team ∧ c.uid = s.team.uid ∧ c.kind = k ∧ c.acc = acc ∧ c.blk = b ∧ c.n = n
        ∧ c.hdrs = s.cmdHdrs k b ∧ c.ops = s.cmdOps k b ∧ c.begun = false ∧ c.row = 0 ∧ c.pos = 0)
      ∧ GroupEffect s t { s with nextSeq := s.nextSeq + 1, freeCtr := s.freeCtr + 0x40000 * (n + 1)
                                 was := if cmdsIn s.wgs then s.was else [] } (fun _ x => x)
          (fun m => if k.matrix then { m with mx := m.mx ++ [⟨s.nextSeq, false⟩] } else { m with cp := m.cp ++ [⟨s.nextSeq, false⟩] })
          (fun w => { w with cmds := w.cmds ++ [c]
                             leftSets := w.leftSets.filter (fun x => !used.contains x)
                             mcIssued := w.mcIssued ++ used })

/-! ### The ordering machine -/

/-- The state but for what releases, completions and clocks change on the way: workgroups, fences, L1 and cluster views,
Span channels, die clocks, what is known of writes, the sequence, and the counts of free values. -/
def beside (s : State) : State :=
  { s with wgs := [], fences := [], l1 := [], caview := [], chans := [], chanSeq := [], vc := [], writes := [], nextSeq := 0
           was := [], freeCtr := 0 }

/-- The bytes that a write leaves at its point, where `old` reads the bytes there: its own, or a RED's result (R303, R332), free where
R99 and R101 leave them undefined. -/
def performedData (s : State) (w : WEntry) : List Byte := s.settled w (w.result (s.readBytes w.key))

/-- Does no arrival word count the write (R126)? -/
def uncounted (w : WEntry) : Prop := ∀ c i, w.owner ≠ .cmd c i true

/-- A step has written `bs` at `key`, and beside what completions, waits and clocks change the state is `r` but for that. -/
def Wrote (i : Instr) (s r : State) (key : Nat) (bs : List Byte) : Prop :=
  ∃ u, exec i s = .next u.sweep ∧ beside u = beside { r with mem := memPut s.mem key bs }

/-- A write leaves its path by the step `i`, the state without it there being `t`: to its home in one step where that is the
scratchpad or its core's die; into its port's queue, where a RED executes; else as a message to its home's die, and its own
die's copy of the line goes (R111, R116). -/
def LeavesPath (i : Instr) (s t : State) (w : WEntry) : Prop :=
  (isScratch w.key = true ∨ homeDie w.key = coreDie w.core → uncounted w →
    Wrote i s t w.key (performedData s w))
  ∧ (isScratch w.key = false → homeDie w.key = 5 → coreDie w.core ≠ 5 → ∃ u, exec i s = .next u.sweep
      ∧ beside u = beside { t with ports := s.ports ++ [{ w with data := s.portData w, red := none }] })
  ∧ (isScratch w.key = false → homeDie w.key ≠ 5 → homeDie w.key ≠ coreDie w.core →
    ∃ u m, exec i s = .next u.sweep
      ∧ beside u = beside { t with copies := if isDevice w.key then kvDel s.copies (viewKey (coreDie w.core) (lineOf w.key)) else s.copies }
      ∧ m ∈ u.chans ∧ m.src = coreDie w.core ∧ m.dst = homeDie w.key ∧ m.body = .write w)

/-! ### Packets -/

/-- The Keystone controller parses `p` as the packet at the head of queue `q`, of a TYPE (R154, R155, R157, R169): the device is
up, the queue is enabled and has not stopped, it holds a packet and has none in progress and no status held back (R228), its context
stands, its function is in no reset sequence (R232), and the packet's tag is not in its withdraw set. -/
structure Parses (s : State) (q type : Nat) (p : List Byte) : Prop where
  up : s.up = true
  enabled : (s.queue q).enable = true
  sound : (s.queue q).error = false
  waiting : (s.queue q).rptr ≠ (s.queue q).wptr
  idle : (s.queue q).busy = none
  context : (s.context? (s.queue q).ctx).isSome = true
  bytes : s.ksRead (s.queue q).ctx (s.queue q).headAddr 64 = p
  kind : pkt p 0 1 = type
  kept : pkt p 4 4 = 0 ∨ BitVec.ofNat 32 (pkt p 4 4) ∉ (s.queue q).withdrawn
  told : s.statusHeld q = false
  steady : (s.iface (s.queue q).fn).resetting = 0

/-! ### Loads and atomics in flight -/

/-- A thread with its wait forgotten. -/
def noWait (x : Thread) : Thread := { x with wait := .ready }

/-- A load or atomic `l` of `s` is satisfied and leaves `u`: it is no longer in flight, memory holds `m`, each thread of its
core that bears its agent's name has changed by `F` and no other thread but in its wait, and the uniform registers of its
team have changed by `M`. -/
structure Satisfied (s u : State) (l : LoadReq) (m : List Host.Cell) (F : Thread → Thread) (M : Team → Team) : Prop where
  loads : u.loads = s.loads.filter (fun o => o.id ≠ l.id)
  mem : u.mem = m
  threads : ∀ c n k, (u.thread? c n k).map noWait
    = (s.thread? c n k).map (fun x => noWait (if c = l.core ∧ x.tid = l.agent then F x else x))
  teams : ∀ c n, (u.team? c n).map (fun t => (t.uid, t.sregs))
    = (s.team? c n).map (fun t => (t.uid, if t.uid = l.uid then (M t).sregs else t.sregs))

/-! ### Traps -/

/-- A thread that has entered its handler with a TVAL, a TCAUSE and a TPC (R184). -/
def entered (s : State) (tval cause : Word) (tpc : PC) (x : Thread) : Thread :=
  { x with tpc := tpc, tcause := cause, tval := tval, inHandler := true
           pc := BitVec.ofNat 57 (s.hdr s.cur.core).handler.toNat, wait := .ready }

/-- A thread that has taken a precise trap of the unit under way (R184). -/
def trapped (s : State) (code : Nat) (tval : Word) (unif next : Bool) (x : Thread) : Thread :=
  entered s tval (tcause code s.cur.pfx.isPrefix unif false false) (if next then s.cur.next else s.cur.pc) x

/-- The launch has a handler, and the threads of a list stand in their lanes outside it. -/
def outsideHandler (s : State) (ls : List Nat) : Prop :=
  (s.hdr s.cur.core).handler ≠ 0 ∧ ∀ l ∈ ls, ∃ x, s.thread? s.cur.core s.cur.team l = some x ∧ x.inHandler = false

/-- Threads of a list that stand outside their handler take a precise trap; the other threads of the subset move on, and
nothing else changes. -/
def TrapsLanes (s : State) (i : Instr) (ls : List Nat) (code : Nat) (tval : Word) (unif next : Bool) : Prop :=
  outsideHandler s ls → Completes i s s (lanesWith ls (fun _ => trapped s code tval unif next)) id

/-! ### Accesses -/

/-- The place that an access of the issuing core reaches: its address is aligned, and lies in a window or is translated by a
TLB without a fault (R107, R193). -/
def reaches (s : State) (addr : DWord) (n : Nat) (write : Bool) : Option Nat :=
  if addr.toNat % n ≠ 0 then none
  else match s.place s.cur.core addr n with
    | .window k => some k
    | .virt va => (match s.translate s.cur.core (s.ctxOf s.cur.core) va write false with
      | .ok k => some k
      | _ => none)
    | .invalid => none

/-- Every lane of a list holds a thread whose access reaches a place. -/
def allReach (s : State) (gl : List Nat) (addr : Nat → DWord) (n : Nat) (write : Bool) : Prop :=
  ∀ l ∈ gl, (s.thread? s.cur.core s.cur.team l).isSome = true ∧ (reaches s (addr l) n write).isSome = true

/-- The loads that one issue puts in flight, one for each lane, under one token of LD (R88, R113). -/
def loadReqs (s : State) (gl : List Nat) (addr : Nat → DWord) (n scope : Nat) (write : Bool) (dst : Nat → LoadDst) :
    List LoadReq :=
  (gl.zipIdx).map (fun p => ⟨s.nextSeq + 1 + p.2, s.cur.core, s.cur.team, s.team.uid, (s.lane p.1).tid,
    (reaches s (addr p.1) n write).getD 0, n, scope, dst p.1, s.nextSeq, addr p.1⟩)

/-- The entries that one issue puts into its threads' pending-store buffers, one for each lane (R88, R113). -/
def storeEntries (s : State) (gl : List Nat) (addr : Nat → DWord) (n : Nat) (data : Nat → List Byte)
    (red : Option (Nat × Nat)) : List WEntry :=
  (gl.zipIdx).map (fun p => ⟨s.nextSeq + 1 + p.2, s.cur.core, (s.lane p.1).tid,
    .team (((s.wg? s.cur.core).map (·.launch)).getD 0) s.team.uid s.nextSeq (s.team.stCount + 1),
    (reaches s (addr p.1) n true).getD 0, data p.1, red, some (s.ctxOf s.cur.core), addr p.1, false⟩)

/-- What is tracked of a write until it is complete (R122). -/
def tracked (w : WEntry) : WTrack := ⟨w.id, w.owner, w.key, [], false, [], w.ctx, w.va⟩

/-- The instruction completes with its loads in flight, counted once in LD where it made any; memory and every register
are as before. -/
def IssuesLoads (s : State) (i : Instr) (gl : List Nat) (addr : Nat → DWord) (n scope : Nat) (write : Bool)
    (dst : Nat → LoadDst) : Prop :=
  allReach s gl addr n write →
    Completes i s { s with loads := s.loads ++ loadReqs s gl addr n scope write dst, nextSeq := s.nextSeq + 1 + gl.length }
      (fun _ x => x) (fun m => if gl = [] then m else { m with ld := m.ld ++ [⟨s.nextSeq, false⟩] })

/-- The instruction completes with its stores in their buffers, counted once in ST where it made any; memory and every
register are as before. -/
def IssuesStores (s : State) (i : Instr) (gl : List Nat) (addr : Nat → DWord) (n : Nat) (data : Nat → List Byte)
    (red : Option (Nat × Nat)) : Prop :=
  allReach s gl addr n true →
    Completes i s { s with stbuf := s.stbuf ++ storeEntries s gl addr n data red
                           writes := s.writes ++ (storeEntries s gl addr n data red).map tracked
                           nextSeq := s.nextSeq + 1 + gl.length }
      (fun _ x => x)
      (fun m => if gl = [] then m else { m with st := m.st ++ [⟨s.nextSeq, false⟩], stCount := m.stCount + 1 })

/-! ### The checks at issue -/

/-- The guard field of a lane word (R271). ISEL, formats LA, LE and LC, and the prefixes have none. -/
def laneGuard : Instr → Option (BitVec 3)
  | .iadd g _ _ _ | .isub g _ _ _ | .imul g _ _ _ | .imulh g _ _ _ | .imulhu g _ _ _ | .imad g _ _ _ | .imin g _ _ _
    | .imax g _ _ _ | .iminu g _ _ _ | .imaxu g _ _ _ | .iabsd g _ _ _ | .and g _ _ _ | .or g _ _ _ | .xor g _ _ _
    | .andn g _ _ _ | .shl g _ _ _ | .shr g _ _ _ | .shra g _ _ _ | .rotl g _ _ _ | .popc g _ _ | .clz g _ _
    | .brev g _ _ | .bfx g _ _ _ | .bfi g _ _ _ | .icmp g _ _ _ _ | .fcmp g _ _ _ _ | .mov g _ _ | .fadd g _ _ _
    | .fsub g _ _ _ | .fmul g _ _ _ | .ffma g _ _ _ | .fmin g _ _ _ | .fmax g _ _ _ | .frnd g _ _ _ | .fcvt g _ _ _
    | .hadd2 g _ _ _ | .hmul2 g _ _ _ | .hfma2 g _ _ _ | .hmax2 g _ _ _ | .badd2 g _ _ _ | .bmul2 g _ _ _
    | .bfma2 g _ _ _ | .bmax2 g _ _ _ | .dadd g _ _ _ | .dmul g _ _ _ | .dfma g _ _ _ | .dcvt g _ _ _ | .vnbr g _ _ _
    | .vscan g _ _ _ | .vred g _ _ _ | .vvote g _ _ _ | .vqnsE2m1 g _ _ _ | .vqnsI4h g _ _ _ | .vqnsI8h g _ _ _
    | .vdq g _ _ _ | .sfq g _ _ _ | .sread g _ _ | .will g _ _ | .heirq g _ _ | .pand g _ _ _ | .por g _ _ _
    | .pxor g _ _ _ | .pnand g _ _ _ | .movi g _ _ | .iaddi g _ _ _ | .ldB g _ _ _ | .ldSb g _ _ _ | .ldH g _ _ _
    | .ldSh g _ _ _ | .ldW g _ _ _ | .ldD g _ _ _ | .ldQ g _ _ _ | .prf g _ _ | .stB g _ _ _ | .stH g _ _ _
    | .stW g _ _ _ | .stD g _ _ _ | .stQ g _ _ _ | .bra g _ | .call g _ | .ret g | .jmpr g _ | .exit g | .reform g
    | .join g _ | .sfwait g _ | .nop g | .trapl g _ => some g
  | _ => none

/-- The guard field of a uniform word (R271). SSEL has none. -/
def unifGuard : Instr → Option (BitVec 3)
  | .sadd g _ _ _ | .ssub g _ _ _ | .smul g _ _ _ | .smulh g _ _ _ | .sand g _ _ _ | .sor g _ _ _ | .sxor g _ _ _
    | .sshl g _ _ _ | .sshr g _ _ _ | .sshra g _ _ _ | .smin g _ _ _ | .smax g _ _ _ | .scmp g _ _ _ _ | .smov g _ _
    | .ssr g _ _ | .smovi g _ _ | .saddi g _ _ _ | .sldW g _ _ _ | .sldD g _ _ _ | .sstW g _ _ _ | .sstD g _ _ _
    | .qand g _ _ _ | .qor g _ _ _ | .qxor g _ _ _ | .qnand g _ _ _ | .sbra g _ | .barSync g _ _ | .barArv g _ _
    | .barWait g _ _ | .barQry g _ _ _ | .kset g _ | .kand g _ _ _ | .kor g _ _ _ | .kmov g _ _ | .waitc g _ _ _ _
    | .fence g _ _ | .smode g _ | .yield g | .mma g _ _ | .aswap g _ _ | .azero g _ _ | .ald g _ _ | .ast g _ _
    | .tcopy g _ | .tqst g _ | .tchain g _ | .trot g _ | .awinit g _ _ | .awwait g _ _ | .awqry g _ _ | .tfetch g _
    | .bpost g _ _ _ | .bqry g _ | .sibchk g | .waitm g _ _ _ | .seal g _ _ | .unseal g _ _ | .qpushD g _ _
    | .qpushL g _ _ | .qpopD g _ _ | .qpopL g _ _ | .qtryD g _ _ | .qtryL g _ _ | .trap g _ | .rett g _ | .brkpt g => some g
  | _ => none

/-- The words of the uniform set (R267). -/
def isUniform (i : Instr) : Bool := (unifGuard i).isSome || (match i with | .ssel _ _ _ _ => true | _ => false)

/-- The threads that execute a word (R271): those of the issuing subset whose guard holds, or all of it. -/
def executing (s : State) (i : Instr) : List Nat := match laneGuard i with | some g => s.guarded g | none => s.subset

/-- Does the word execute at all: a uniform word whose guard is false does not (R271). -/
def executes (s : State) (i : Instr) : Bool := match unifGuard i with | some g => s.guardU g | none => true

/-- The optional unit that an instruction needs is present (R22, R280 step 4). -/
def unitPresent (s : State) : Instr → Bool
  | .dadd _ _ _ _ | .dmul _ _ _ _ | .dfma _ _ _ _ | .dcvt _ _ _ _ => hasFp64 s.part s.cur.core
  | _ => true

/-- What an entry checks before the register fields: a cluster barrier needs CLUSTER = 1 (R316), and WILL a count of at most
8 (R138). -/
def entryFirst (s : State) : Instr → Bool
  | .barQry _ lvl _ _ => lvl.toNat ≠ 2 || (s.hdr s.cur.core).cluster
  | .will _ _ b => b.toNat ≤ 8
  | _ => true

/-- The register fields of a word, in the order of their checks (R272, R273, R281 to R284; R72, R138): whether the field
passes, its place (0 d, 1 a, 2 b, 3 sb, 4 ACC) and its value. `al` is the launch's allocation, `accs` its accumulators. -/
def regFields (al accs : Nat) : Instr → List (Bool × Nat × Nat)
  | .iadd _ d a b | .isub _ d a b | .imul _ d a b | .imulh _ d a b | .imulhu _ d a b | .imad _ d a b | .imin _ d a b
    | .imax _ d a b | .iminu _ d a b | .imaxu _ d a b | .isel _ d a b | .iabsd _ d a b | .and _ d a b | .or _ d a b
    | .xor _ d a b | .andn _ d a b | .shl _ d a b | .shr _ d a b | .shra _ d a b | .rotl _ d a b | .bfx _ d a b
    | .bfi _ d a b | .fadd _ d a b | .fsub _ d a b | .fmul _ d a b | .ffma _ d a b | .fmin _ d a b | .fmax _ d a b
    | .hadd2 _ d a b | .hmul2 _ d a b | .hfma2 _ d a b | .hmax2 _ d a b | .badd2 _ d a b | .bmul2 _ d a b
    | .bfma2 _ d a b | .bmax2 _ d a b | .vqnsE2m1 _ d a b | .vqnsI4h _ d a b | .vqnsI8h _ d a b | .vdq _ d a b
    => [(vOk al d, 0, d.toNat), (vOk al a, 1, a.toNat), (vOk al b, 2, b.toNat)]
  | .popc _ d a | .clz _ d a | .brev _ d a | .mov _ d a | .frnd _ d a _ | .fcvt _ d a _ | .vnbr _ d a _
    | .vscan _ d a _ | .vred _ d a _ | .sfq _ d a _ | .iaddi _ d a _ => [(vOk al d, 0, d.toNat), (vOk al a, 1, a.toNat)]
  | .icmp _ _ _ a b | .fcmp _ _ _ a b => [(vOk al a, 1, a.toNat), (vOk al b, 2, b.toNat)]
  | .dadd _ d a b | .dmul _ d a b | .dfma _ d a b
    => [(v2Ok al d, 0, d.toNat), (v2Ok al a, 1, a.toNat), (v2Ok al b, 2, b.toNat)]
  | .dcvt _ d a code => if code.toNat = 0x10 || code.toNat = 0x12 then [(v2Ok al d, 0, d.toNat), (vOk al a, 1, a.toNat)]
      else [(vOk al d, 0, d.toNat), (v2Ok al a, 1, a.toNat)]
  | .vvote _ d _ _ | .sread _ d _ | .movi _ d _ => [(vOk al d, 0, d.toNat)]
  | .will _ a b => [(decide (a.toNat < al ∧ a.toNat + b.toNat ≤ al), 1, a.toNat)]
  | .heirq _ d _ => [(decide (d.toNat + 2 < al), 0, d.toNat)]
  | .ldB _ d a sb | .ldSb _ d a sb | .ldH _ d a sb | .ldSh _ d a sb | .ldW _ d a sb | .stB _ d a sb | .stH _ d a sb
    | .stW _ d a sb => [(vOk al d, 0, d.toNat), (lmAOk al a sb, 1, a.toNat), (sbOk sb, 3, sb.toNat)]
  | .ldD _ d a sb | .stD _ d a sb => [(v2Ok al d, 0, d.toNat), (lmAOk al a sb, 1, a.toNat), (sbOk sb, 3, sb.toNat)]
  | .ldQ _ d a sb | .stQ _ d a sb => [(v4Ok al d, 0, d.toNat), (lmAOk al a sb, 1, a.toNat), (sbOk sb, 3, sb.toNat)]
  | .prf _ a sb => [(lmAOk al a sb, 1, a.toNat), (sbOk sb, 3, sb.toNat)]
  | .atomAdd _ d a b | .atomFadd _ d a b | .atomMin _ d a b | .atomMax _ d a b | .atomAnd _ d a b | .atomOr _ d a b
    | .atomXor _ d a b | .atomExch _ d a b | .casW _ d a b
    => [(vOk al d, 0, d.toNat), (v2Ok al a, 1, a.toNat), (vOk al b, 2, b.toNat)]
  | .casD _ d a b => [(v2Ok al d, 0, d.toNat), (v2Ok al a, 1, a.toNat), (v2Ok al b, 2, b.toNat)]
  | .red _ _ a b => [(v2Ok al a, 1, a.toNat), (vOk al b, 2, b.toNat)]
  | .jmpr _ a => [(v2Ok al a, 1, a.toNat)]
  | .sadd _ d a b | .ssub _ d a b | .smul _ d a b | .smulh _ d a b | .sand _ d a b | .sor _ d a b | .sxor _ d a b
    | .sshl _ d a b | .sshr _ d a b | .sshra _ d a b | .smin _ d a b | .smax _ d a b | .ssel _ d a b
    => [(sOk d, 0, d.toNat), (sOk a, 1, a.toNat), (sOk b, 2, b.toNat)]
  | .scmp _ _ _ a b | .awinit _ a b | .awwait _ a b => [(sOk a, 1, a.toNat), (sOk b, 2, b.toNat)]
  | .smov _ d a | .saddi _ d a _ | .awqry _ a d | .qpushL _ d a | .qpopL _ d a | .qtryL _ d a
    => [(sOk d, 0, d.toNat), (sOk a, 1, a.toNat)]
  | .ssr _ d _ | .smovi _ d _ | .barQry _ _ _ d | .bqry _ d => [(sOk d, 0, d.toNat)]
  | .sldW _ d a _ | .sstW _ d a _ | .qpushD _ d a | .qpopD _ d a | .qtryD _ d a
    => [(sOk d, 0, d.toNat), (s2Ok a, 1, a.toNat)]
  | .sldD _ d a _ | .sstD _ d a _ => [(s2Ok d, 0, d.toNat), (s2Ok a, 1, a.toNat)]
  | .smode _ a | .tcopy _ a | .tqst _ a | .tchain _ a | .trot _ a | .rett _ a => [(sOk a, 1, a.toNat)]
  | .mma _ a acc | .aswap _ a acc | .azero _ a acc | .ald _ a acc | .ast _ a acc
    => [(sOk a, 1, a.toNat), (decide (acc.toNat < accs), 4, acc.toNat)]
  | .waitm _ _ a b | .seal _ a b | .unseal _ a b => [(s2Ok a, 1, a.toNat), (sOk b, 2, b.toNat)]
  | .bpost _ d a b => [(sOk d, 0, d.toNat), (s2Ok a, 1, a.toNat), (sOk b, 2, b.toNat)]
  | _ => []

/-- The threads of `ls` that stand outside their handler take a precise trap, each with a TVAL of its own, where `n` names have
been given out; nothing else changes but the PCs of the subset (R181 to R184). -/
def TrapsEach (s : State) (i : Instr) (n : Nat) (ls : List Nat) (code : Nat → Nat) (tval : Nat → Word) (write : Bool) : Prop :=
  outsideHandler s ls → Completes i s { s with nextSeq := s.nextSeq + n } (lanesWith ls (fun l =>
    entered s (tval l) (tcause (code l) s.cur.pfx.isPrefix false write false) s.cur.pc)) id

/-- The trap that an access of the issuing core raises (R182): MISALIGNED, ADDRESS_INVALID, or SEALED_WRITE. -/
def accessTrap (s : State) (addr : DWord) (n : Nat) (write : Bool) : Option Nat :=
  if addr.toNat % n ≠ 0 then some 0x03
  else match s.place s.cur.core addr n with
    | .invalid => some 0x04
    | .window _ => none
    | .virt va => if s.translate s.cur.core (s.ctxOf s.cur.core) va write false = .sealed then some 0x06 else none

/-- An access of the issuing core that no TLB translates (R193). -/
def accessMisses (s : State) (addr : DWord) (n : Nat) (write : Bool) : Prop :=
  addr.toNat % n = 0 ∧ ∃ va, s.place s.cur.core addr n = .virt va
    ∧ s.translate s.cur.core (s.ctxOf s.cur.core) va write false = .miss

/-- The accesses that a lane word makes (R276, R303, R331, R376, R402): the address of each lane, the size, and whether it
writes. -/
def laneAccessOf (s : State) : Instr → Option ((Nat → DWord) × Nat × Bool)
  | .ldB _ _ a sb | .ldSb _ _ a sb => some (fun l => s.lmAddr l a sb, 1, false)
  | .ldH _ _ a sb | .ldSh _ _ a sb => some (fun l => s.lmAddr l a sb, 2, false)
  | .ldW _ _ a sb => some (fun l => s.lmAddr l a sb, 4, false)
  | .ldD _ _ a sb => some (fun l => s.lmAddr l a sb, 8, false)
  | .ldQ _ _ a sb => some (fun l => s.lmAddr l a sb, 16, false)
  | .stB _ _ a sb => some (fun l => s.lmAddr l a sb, 1, true)
  | .stH _ _ a sb => some (fun l => s.lmAddr l a sb, 2, true)
  | .stW _ _ a sb => some (fun l => s.lmAddr l a sb, 4, true)
  | .stD _ _ a sb => some (fun l => s.lmAddr l a sb, 8, true)
  | .stQ _ _ a sb => some (fun l => s.lmAddr l a sb, 16, true)
  | .atomAdd _ _ a _ | .atomFadd _ _ a _ | .atomMin _ _ a _ | .atomMax _ _ a _ | .atomAnd _ _ a _ | .atomOr _ _ a _
    | .atomXor _ _ a _ | .atomExch _ _ a _ | .casW _ _ a _ | .red _ _ a _ => some (fun l => (s.lane l).v2 a.toNat, 4, true)
  | .casD _ _ a _ => some (fun l => (s.lane l).v2 a.toNat, 8, true)
  | _ => none

/-- The access that a uniform load or store makes (R396): address, size, and whether it writes. -/
def unifAccessOf (s : State) : Instr → Option (DWord × Nat × Bool)
  | .sldW _ _ a imm => some (s.ulAddr a imm, 4, false)
  | .sldD _ _ a imm => some (s.ulAddr a imm, 8, false)
  | .sstW _ _ a imm => some (s.ulAddr a imm, 4, true)
  | .sstD _ _ a imm => some (s.ulAddr a imm, 8, true)
  | _ => none

/-- The miss of an access of the unit under way (R193, R195). -/
def missOfUnit (s : State) (addr : DWord) (write unif : Bool) : Miss :=
  ⟨s.ctxOf s.cur.core, addr, write, false, unif, false, s.cur.pfx.isPrefix⟩

/-- A thread held at the unit under way, which it has not issued (R195). -/
def heldAt (s : State) (w : Wait) (x : Thread) : Thread := { x with pc := s.cur.pc, wait := w }

end Sys2Proof
end

