-- ==== Sys2Proof/Laws/Units.lean ====
section
/-! SUPPORT. What changing a team, its lanes or a workgroup leaves, and what an issued unit has done. -/

namespace Sys2Proof.Machine

/-! ### Workgroups, teams and threads after a change -/

@[simp] theorem wg?_modWg_same (s : State) (c : Nat) (f : Workgroup → Workgroup) :
    (s.modWg c f).wg? c = (s.wg? c).map f := by simp [State.wg?, kvGet_mod_same]

theorem wg?_modWg_ne (s : State) (c c' : Nat) (f : Workgroup → Workgroup) (h : c' ≠ c) :
    (s.modWg c f).wg? c' = s.wg? c' := by simp [State.wg?, kvGet_mod_ne _ _ _ _ h]

theorem wg?_modWg (s : State) (c c' : Nat) (f : Workgroup → Workgroup) :
    (s.modWg c f).wg? c' = if c' = c then (s.wg? c').map f else s.wg? c' := by
  split
  · next h => subst h; simp
  · next h => exact wg?_modWg_ne s c c' f h

theorem team?_modTeam (s : State) (c n c' n' : Nat) (f : Team → Team) :
    (s.modTeam c n f).team? c' n' = if c' = c ∧ n' = n then (s.team? c' n').map f else s.team? c' n' := by
  simp only [State.team?, State.modTeam, wg?_modWg]
  by_cases hc : c' = c
  · subst hc
    by_cases hn : n' = n
    · subst hn; cases h : s.wg? c' <;> simp [kvGet_mod_same]
    · cases h : s.wg? c' <;> simp [kvGet_mod_ne _ _ _ _ hn, hn]
  · simp [hc]

theorem team?_modWg_of (s : State) (c c' n : Nat) (f : Workgroup → Workgroup) (h : ∀ w, (f w).teams = w.teams) :
    (s.modWg c f).team? c' n = s.team? c' n := by
  simp only [State.team?, wg?_modWg]
  split
  · cases s.wg? c' <;> simp [h]
  · rfl

theorem kvGet_lanes (ls : List Nat) (f : Nat → Thread → Thread) (m : List (Nat × Thread)) (l : Nat) :
    kvGet (m.map (fun e => if ls.contains e.1 then (e.1, f e.1 e.2) else e)) l
      = (kvGet m l).map (fun x => if l ∈ ls then f l x else x) := by
  have : (fun e : Nat × Thread => if ls.contains e.1 then (e.1, f e.1 e.2) else e)
      = (fun e => (e.1, (fun k x => if k ∈ ls then f k x else x) e.1 e.2)) := by
    funext e; by_cases h : e.1 ∈ ls <;> simp [h]
  rw [this]; exact kvGet_map m l (fun k x => if k ∈ ls then f k x else x)

theorem thread?_modLanes (s : State) (c n : Nat) (ls : List Nat) (f : Nat → Thread → Thread) (c' n' l : Nat) :
    (s.modLanes c n ls f).thread? c' n' l
      = if c' = c ∧ n' = n then (s.thread? c' n' l).map (fun x => if l ∈ ls then f l x else x) else s.thread? c' n' l := by
  simp only [State.thread?, State.modLanes, team?_modTeam]
  split
  · cases s.team? c' n' with
    | none => rfl
    | some m => simp only [Option.map_some, Option.bind_some]; exact kvGet_lanes ls f m.lanes l
  · rfl

theorem thread?_modTeam_of (s : State) (c n : Nat) (f : Team → Team) (h : ∀ m, (f m).lanes = m.lanes) (c' n' l : Nat) :
    (s.modTeam c n f).thread? c' n' l = s.thread? c' n' l := by
  simp only [State.thread?, team?_modTeam]
  split
  · cases s.team? c' n' <;> simp [h]
  · rfl

theorem thread?_modWg_of (s : State) (c c' n l : Nat) (f : Workgroup → Workgroup) (h : ∀ w, (f w).teams = w.teams) :
    (s.modWg c f).thread? c' n l = s.thread? c' n l := by simp only [State.thread?, team?_modWg_of s c c' n f h]

theorem shared_modLanes (s : State) (c n : Nat) (ls : List Nat) (f : Nat → Thread → Thread) (c' n' : Nat) :
    ((s.modLanes c n ls f).team? c' n').map teamShared = (s.team? c' n').map teamShared := by
  simp only [State.modLanes, team?_modTeam]
  split
  · cases s.team? c' n' <;> rfl
  · rfl

theorem shell_modTeam (s : State) (c n : Nat) (f : Team → Team) (c' : Nat) :
    ((s.modTeam c n f).wg? c').map groupShell = (s.wg? c').map groupShell := by
  simp only [State.modTeam, wg?_modWg]
  split
  · cases s.wg? c' <;> rfl
  · rfl

/-! ### The issue -/

@[simp] theorem regroup_lanes (m : Team) (p : Option PC) : (m.regroup p).lanes = m.lanes := rfl
theorem shared_regroup (m : Team) (p : Option PC) : teamShared (m.regroup p) = teamShared m := rfl

@[simp] theorem cur_onLanes (s : State) (ls : List Nat) (f : Nat → Thread → Thread) : (s.onLanes ls f).cur = s.cur := rfl
@[simp] theorem cur_onTeam (s : State) (f : Team → Team) : (s.onTeam f).cur = s.cur := rfl
@[simp] theorem cur_advance (s : State) : s.advance.cur = s.cur := rfl
@[simp] theorem cur_endIssue (s : State) : s.endIssue.cur = s.cur := rfl
@[simp] theorem subset_onLanes (s : State) (ls : List Nat) (f : Nat → Thread → Thread) :
    (s.onLanes ls f).subset = s.subset := rfl
@[simp] theorem subset_advance (s : State) : s.advance.subset = s.subset := rfl

theorem thread?_endIssue (s : State) (c n l : Nat) : s.endIssue.thread? c n l = s.thread? c n l := by
  unfold State.endIssue
  simp only [State.onTeam]
  rw [thread?_modWg_of _ _ _ _ _ _ (by intro w; split <;> rfl), thread?_modTeam_of]
  intro m; rfl

theorem shared_endIssue (s : State) (c n : Nat) :
    (s.endIssue.team? c n).map teamShared = (s.team? c n).map teamShared := by
  unfold State.endIssue
  simp only [State.onTeam]
  rw [team?_modWg_of _ _ _ _ _ (by intro w; split <;> rfl), team?_modTeam]
  split
  · cases s.team? c n <;> rfl
  · rfl

theorem shell_endIssue (s : State) (c : Nat) : (s.endIssue.wg? c).map groupShell = (s.wg? c).map groupShell := by
  unfold State.endIssue
  simp only [State.onTeam, wg?_modWg]
  have h := shell_modTeam s s.cur.core s.cur.team (fun t => t.regroup (some s.cur.pc)) c
  split
  · rw [← h]; cases (s.modTeam s.cur.core s.cur.team fun t => t.regroup (some s.cur.pc)).wg? c with
    | none => rfl
    | some w => simp only [Option.map_some]; congr 1; split <;> rfl
  · exact h

theorem rest_endIssue (s : State) (w : List (Nat × Workgroup)) : { s.endIssue with wgs := w } = { s with wgs := w } := rfl

namespace Effect

/-- A unit that has only moved its subset on. -/
theorem advance (s : State) : UnitEffect s s.advance s (fun _ x => x) id := by
  refine ⟨?_, ?_, ?_, ?_, ?_, rfl⟩
  · intro l hl
    simp only [State.advance, State.onLanes, thread?_modLanes, hl, and_self, if_true]; rfl
  · intro c n l h
    simp only [State.advance, State.onLanes, thread?_modLanes]
    split
    · next e => simp only [h e.1 e.2, if_false]; cases s.thread? c n l <;> rfl
    · rfl
  · simp only [State.advance, State.onLanes, shared_modLanes]; rfl
  · intro c n _; simp only [State.advance, State.onLanes, shared_modLanes]
  · intro c; simp only [State.advance, State.onLanes, State.modLanes, shell_modTeam]

variable {s b r : State} {F : Nat → Thread → Thread} {M : Team → Team}

theorem cur_eq (h : UnitEffect s b r F M) (hr : r.cur = s.cur) : b.cur = s.cur := by
  rw [← hr, ← h.rest]

/-- The same change of its team, said another way. -/
theorem teamEq {M' : Team → Team} (h : UnitEffect s b r F M) (e : ∀ m, M m = M' m) : UnitEffect s b r F M' := by
  have : M = M' := funext e
  exact this ▸ h

/-- The same change of its threads, said another way. -/
theorem lanesEq {F' : Nat → Thread → Thread} (h : UnitEffect s b r F M)
    (e : ∀ l x, F l (movedOn s x) = F' l (movedOn s x)) : UnitEffect s b r F' M :=
  ⟨fun l hl => by rw [h.threads l hl]; simp only [e], h.others, h.team, h.teams, h.groups, h.rest⟩

/-- It then changes some lanes of its subset. -/
theorem lanes (h : UnitEffect s b r F M) (hr : r.cur = s.cur) (gl : List Nat) (hgl : ∀ l ∈ gl, l ∈ s.subset)
    (f : Nat → Thread → Thread) :
    UnitEffect s (b.onLanes gl f) r (fun l x => if l ∈ gl then f l (F l x) else F l x) M := by
  have hc := cur_eq h hr
  refine ⟨?_, ?_, ?_, ?_, ?_, ?_⟩
  · intro l hl
    simp only [State.onLanes, thread?_modLanes, hc, and_self, if_true, h.threads l hl, Option.map_map]; rfl
  · intro c n l k
    simp only [State.onLanes, thread?_modLanes, hc]
    split
    · next e =>
      have : l ∉ gl := fun x => k e.1 e.2 (hgl l x)
      simp only [this, if_false, Option.map_id']; exact h.others c n l k
    · exact h.others c n l k
  · simp only [State.onLanes, shared_modLanes]; exact h.team
  · intro c n k; simp only [State.onLanes, shared_modLanes]; exact h.teams c n k
  · intro c; simp only [State.onLanes, State.modLanes, shell_modTeam]; exact h.groups c
  · exact h.rest

/-- It then changes its team, but for the threads. -/
theorem teamWith (h : UnitEffect s b r F M) (hr : r.cur = s.cur) (f : Team → Team) (hl : ∀ m, (f m).lanes = m.lanes)
    (hS : ∀ x y, teamShared x = teamShared y → teamShared (f x) = teamShared (f y)) :
    UnitEffect s (b.onTeam f) r F (fun m => f (M m)) := by
  have hc := cur_eq h hr
  refine ⟨?_, ?_, ?_, ?_, ?_, ?_⟩
  · intro l k; rw [State.onTeam, thread?_modTeam_of _ _ _ _ hl]; exact h.threads l k
  · intro c n l k; rw [State.onTeam, thread?_modTeam_of _ _ _ _ hl]; exact h.others c n l k
  · simp only [State.onTeam, team?_modTeam, hc, and_self, if_true]
    have b1 := h.team
    revert b1
    generalize b.team? s.cur.core s.cur.team = x
    generalize s.team? s.cur.core s.cur.team = y
    intro b1
    cases x <;> cases y <;> simp_all
    exact hS _ _ b1
  · intro c n k
    have : ¬ (c = s.cur.core ∧ n = s.cur.team) := fun x => k x.1 x.2
    simp only [State.onTeam, team?_modTeam, hc, this, if_false]; exact h.teams c n k
  · intro c; simp only [State.onTeam, shell_modTeam]; exact h.groups c
  · exact h.rest

/-- It then changes something beside the workgroups. -/
theorem outside (h : UnitEffect s b r F M) (b' : State) (hw : b'.wgs = b.wgs) :
    UnitEffect s b' { b' with wgs := s.wgs } F M := by
  have t : ∀ c n, b'.team? c n = b.team? c n := fun c n => by simp only [State.team?, State.wg?, hw]
  refine ⟨?_, ?_, ?_, ?_, ?_, rfl⟩
  · intro l k; simp only [State.thread?, t]; exact h.threads l k
  · intro c n l k; simp only [State.thread?, t]; exact h.others c n l k
  · rw [t]; exact h.team
  · intro c n k; rw [t]; exact h.teams c n k
  · intro c; simp only [State.wg?, hw]; exact h.groups c

/-- It then changes the state by a function that does not touch the workgroups. -/
theorem map (h : UnitEffect s b r F M) (g : State → State) (hw : ∀ x, (g x).wgs = x.wgs)
    (hg : ∀ (x : State) w, { g x with wgs := w } = g { x with wgs := w }) : UnitEffect s (g b) (g r) F M := by
  have e : { g b with wgs := s.wgs } = g r := by rw [hg, h.rest]
  exact e ▸ outside h (g b) (hw b)

/-- It ends its issue. -/
theorem ends (h : UnitEffect s b r F M) : UnitEffect s b.endIssue r F M := by
  refine ⟨?_, ?_, ?_, ?_, ?_, h.rest⟩
  · intro l k; rw [thread?_endIssue]; exact h.threads l k
  · intro c n l k; rw [thread?_endIssue]; exact h.others c n l k
  · rw [shared_endIssue]; exact h.team
  · intro c n k; rw [shared_endIssue]; exact h.teams c n k
  · intro c; rw [shell_endIssue]; exact h.groups c

/-- It then changes what its workgroup holds beside the teams. -/
theorem group (h : UnitEffect s b r F M) (hr : r.cur = s.cur) (W : Workgroup → Workgroup) (hT : ∀ w, (W w).teams = w.teams)
    (hS : ∀ x y, groupShell x = groupShell y → groupShell (W x) = groupShell (W y)) :
    GroupEffect s (b.modWg s.cur.core W) r F M W := by
  have hc := cur_eq h hr
  refine ⟨?_, ?_, ?_, ?_, ?_, ?_, h.rest⟩
  · intro l k; rw [thread?_modWg_of _ _ _ _ _ _ hT]; exact h.threads l k
  · intro c n l k; rw [thread?_modWg_of _ _ _ _ _ _ hT]; exact h.others c n l k
  · rw [team?_modWg_of _ _ _ _ _ hT]; exact h.team
  · intro c n k; rw [team?_modWg_of _ _ _ _ _ hT]; exact h.teams c n k
  · rw [wg?_modWg, if_pos rfl]
    have b1 := h.groups s.cur.core
    revert b1
    generalize b.wg? s.cur.core = x
    generalize s.wg? s.cur.core = y
    intro b1
    cases x <;> cases y <;> simp_all
    exact hS _ _ b1
  · intro c k; rw [wg?_modWg, if_neg (by simpa using k)]; exact h.groups c

/-- And ends its issue. -/
theorem groupEnds {W : Workgroup → Workgroup} (h : GroupEffect s b r F M W) : GroupEffect s b.endIssue r F M W := by
  refine ⟨?_, ?_, ?_, ?_, ?_, ?_, h.rest⟩
  · intro l k; rw [thread?_endIssue]; exact h.threads l k
  · intro c n l k; rw [thread?_endIssue]; exact h.others c n l k
  · rw [shared_endIssue]; exact h.team
  · intro c n k; rw [shared_endIssue]; exact h.teams c n k
  · rw [shell_endIssue]; exact h.own
  · intro c k; rw [shell_endIssue]; exact h.groups c k

end Effect

/-! ### The families of one shape -/

theorem mem_guarded (s : State) (g : BitVec 3) : ∀ l ∈ s.guarded g, l ∈ s.subset := fun _ h => (List.mem_filter.1 h).1

/-- A lane unit whose checks pass runs its body. -/
theorem laneUnit_ok (s : State) (i : Instr) (gl : List Nat) (body : State → State) (hw : i.wf = true) :
    s.laneUnit i gl false none false body = (body s.advance).endIssue := by simp [State.laneUnit, hw]

/-- A uniform unit whose guard holds and whose checks pass runs its body. -/
theorem unifUnit_ok (s : State) (i : Instr) (body : State → State) (hw : i.wf = true) :
    s.unifUnit i true none false body = (body s.advance).endIssue := by simp [State.unifUnit, hw]

/-- A lane function that writes each of its threads by itself. -/
theorem laneSet_effect (s : State) (i : Instr) (gl : List Nat) (f : State → Nat → Thread → Thread) (hw : i.wf = true)
    (hgl : ∀ l ∈ gl, l ∈ s.subset) :
    UnitEffect s (s.laneSet i gl false none f) s (fun l x => if l ∈ gl then f s.advance l x else x) id := by
  rw [State.laneSet, laneUnit_ok _ _ _ _ hw]
  exact Effect.ends (Effect.lanes (Effect.advance s) rfl gl hgl (f s.advance))

/-- A uniform function of the team alone. -/
theorem unifSet_effect (s : State) (i : Instr) (f : Team → Team) (hw : i.wf = true) (hl : ∀ m, (f m).lanes = m.lanes)
    (hS : ∀ x y, teamShared x = teamShared y → teamShared (f x) = teamShared (f y)) :
    UnitEffect s (s.unifSet i true none f) s (fun _ x => x) f := by
  rw [State.unifSet, unifUnit_ok _ _ _ hw]
  exact Effect.ends (Effect.teamWith (Effect.advance s) rfl f hl hS)

/-! ### What a moved-on subset reads -/

theorem kvGet_team_advance (s : State) (l : Nat) :
    kvGet s.advance.team.lanes l = (kvGet s.team.lanes l).map (fun x => if l ∈ s.subset then movedOn s x else x) := by
  have h : s.advance.team? s.cur.core s.cur.team = (s.team? s.cur.core s.cur.team).map (fun m =>
      { m with lanes := m.lanes.map (fun e => if s.subset.contains e.1 then (e.1, movedOn s e.2) else e) }) := by
    simp only [State.advance, State.onLanes, State.modLanes, team?_modTeam, and_self, if_true]; rfl
  simp only [State.team, cur_advance, h]
  cases s.team? s.cur.core s.cur.team with
  | none => rfl
  | some m => simp only [Option.map_some, Option.getD_some]; exact kvGet_lanes s.subset (fun _ => movedOn s) m.lanes l

/-- A patterned source reads what it read before the subset moved on. -/
theorem v_srcThread_advance (s : State) (l : Nat) (p : BitVec 8) (n : Nat) :
    (s.advance.srcThread l p).v n = (s.srcThread l p).v n := by
  simp only [State.srcThread, kvGet_team_advance]
  cases kvGet s.team.lanes (patLane p l) with
  | none => rfl
  | some x => simp only [Option.map_some, Option.getD_some]; split <;> rfl

@[simp] theorem srcA_advance (s : State) (l : Nat) (a : BitVec 7) : s.advance.srcA l a = s.srcA l a := by
  simp only [State.srcA, cur_advance, v_srcThread_advance]
@[simp] theorem srcB_advance (s : State) (l : Nat) (a : BitVec 7) : s.advance.srcB l a = s.srcB l a := by
  simp only [State.srcB, cur_advance, v_srcThread_advance]
@[simp] theorem srcA2_advance (s : State) (l : Nat) (a : BitVec 7) : s.advance.srcA2 l a = s.srcA2 l a := by
  simp only [State.srcA2, Thread.v2, cur_advance, v_srcThread_advance]
@[simp] theorem srcB2_advance (s : State) (l : Nat) (a : BitVec 7) : s.advance.srcB2 l a = s.srcB2 l a := by
  simp only [State.srcB2, Thread.v2, cur_advance, v_srcThread_advance]

/-- A lane of the team, before and after the subset has moved on. -/
theorem lane_advance (s : State) (l : Nat) :
    s.advance.lane l = match kvGet s.team.lanes l with
      | some x => if l ∈ s.subset then movedOn s x else x
      | none => Thread.empty := by
  simp only [State.lane, kvGet_team_advance]
  cases kvGet s.team.lanes l <;> rfl

@[simp] theorem v_lane_advance (s : State) (l n : Nat) : (s.advance.lane l).v n = (s.lane l).v n := by
  rw [lane_advance, State.lane]; cases kvGet s.team.lanes l with
  | none => rfl
  | some x => simp only [Option.getD_some]; split <;> rfl
@[simp] theorem p_lane_advance (s : State) (l n : Nat) : (s.advance.lane l).p n = (s.lane l).p n := by
  rw [lane_advance, State.lane]; cases kvGet s.team.lanes l with
  | none => rfl
  | some x => simp only [Option.getD_some]; split <;> rfl
@[simp] theorem tid_lane_advance (s : State) (l : Nat) : (s.advance.lane l).tid = (s.lane l).tid := by
  rw [lane_advance, State.lane]; cases kvGet s.team.lanes l with
  | none => rfl
  | some x => simp only [Option.getD_some]; split <;> rfl

/-- Whatever a team holds beside its threads reads as before. -/
theorem team_advance (s : State) : teamShared s.advance.team = teamShared s.team := by
  have h := (Effect.advance s).team
  simp only [State.team, cur_advance]
  revert h
  generalize s.advance.team? s.cur.core s.cur.team = x
  generalize s.team? s.cur.core s.cur.team = y
  intro h
  cases x <;> cases y <;> simp_all

@[simp] theorem mode_team_advance (s : State) : s.advance.team.mode = s.team.mode :=
  show (teamShared s.advance.team).mode = (teamShared s.team).mode by rw [team_advance]
@[simp] theorem uid_team_advance (s : State) : s.advance.team.uid = s.team.uid := show (teamShared s.advance.team).uid = (teamShared s.team).uid by rw [team_advance]
@[simp] theorem sregs_team_advance (s : State) : s.advance.team.sregs = s.team.sregs :=
  show (teamShared s.advance.team).sregs = (teamShared s.team).sregs by rw [team_advance]
@[simp] theorem sr_team_advance (s : State) (n : Nat) : s.advance.team.sr n = s.team.sr n := by
  simp only [Team.sr, sregs_team_advance]
@[simp] theorem sr2_team_advance (s : State) (n : Nat) : s.advance.team.sr2 n = s.team.sr2 n := by
  simp only [Team.sr2, sr_team_advance]
@[simp] theorem q_team_advance (s : State) (n : Nat) : s.advance.team.q n = s.team.q n := by
  have h : s.advance.team.qpreds = s.team.qpreds :=
    show (teamShared s.advance.team).qpreds = (teamShared s.team).qpreds by rw [team_advance]
  simp only [Team.q, h]

end Sys2Proof.Machine
end

