-- ==== Sys2Proof/Laws/Accesses.lean ====
section
/-! SUPPORT. What the making of lane and uniform accesses does where every access reaches a place. -/

namespace Sys2Proof.Machine

/-! ### What a moved-on subset sees -/

theorem wg?_advance_launch (s : State) (c : Nat) : (s.advance.wg? c).map (·.launch) = (s.wg? c).map (·.launch) := by
  have h := (Effect.advance s).groups c
  revert h
  generalize s.advance.wg? c = x
  generalize s.wg? c = y
  intro h
  cases x with
  | none => cases y with
    | none => rfl
    | some b => exact absurd h (by simp)
  | some a => cases y with
    | none => exact absurd h (by simp)
    | some b =>
      have e := congrArg (Option.map (fun w : Workgroup => w.launch)) h
      exact e

theorem wgLaunch?_advance (s : State) (c : Nat) : s.advance.wgLaunch? c = s.wgLaunch? c := by
  have h := wg?_advance_launch s c
  have e : ∀ l, s.advance.launch? l = s.launch? l := fun _ => rfl
  simp only [State.wgLaunch?, e]
  revert h
  generalize s.advance.wg? c = x
  generalize s.wg? c = y
  intro h
  cases x <;> cases y <;> simp_all

@[simp] theorem hdr_advance (s : State) (c : Nat) : s.advance.hdr c = s.hdr c := by
  simp only [State.hdr, wgLaunch?_advance]
@[simp] theorem scratchBytes_advance (s : State) (c : Nat) : s.advance.scratchBytes c = s.scratchBytes c := by
  simp only [State.scratchBytes, hdr_advance]
@[simp] theorem ctxOf_advance (s : State) (c : Nat) : s.advance.ctxOf c = s.ctxOf c := by
  simp only [State.ctxOf, wgLaunch?_advance]

theorem window_advance (s : State) (c va n : Nat) : s.advance.window c va n = s.window c va n := by
  have h1 := wg?_advance_launch s c
  have h2 : ∀ p, (s.advance.wg? p).map (·.launch) = (s.wg? p).map (·.launch) := wg?_advance_launch s
  have hd : ∀ x d o k, s.advance.dieSharedOk x d o k = s.dieSharedOk x d o k := fun _ _ _ _ => rfl
  have hp : s.advance.part = s.part := rfl
  simp only [State.window, scratchBytes_advance, hdr_advance, ctxOf_advance, hd, hp]
  split
  · rfl
  · split
    · rfl
    · split
      · rfl
      · next p _ =>
        have h3 := h2 p
        revert h1 h3
        generalize s.advance.wg? c = x
        generalize s.wg? c = y
        generalize s.advance.wg? p = u
        generalize s.wg? p = v
        intro h1 h3
        cases x <;> cases y <;> cases u <;> cases v <;> simp_all
  · rfl
  · rfl

@[simp] theorem place_advance (s : State) (c : Nat) (a : DWord) (n : Nat) : s.advance.place c a n = s.place c a n := by
  simp only [State.place, window_advance]

@[simp] theorem reaches_advance (s : State) (a : DWord) (n : Nat) (w : Bool) : reaches s.advance a n w = reaches s a n w := by
  have h : ∀ c x v b, s.advance.translate c x v w b = s.translate c x v w b := fun _ _ _ _ => rfl
  simp only [reaches, cur_advance, place_advance, ctxOf_advance, h]

theorem isSome_thread_advance (s : State) (l : Nat) : (s.advance.thread? s.cur.core s.cur.team l).isSome
    = (s.thread? s.cur.core s.cur.team l).isSome := by
  simp only [State.advance, State.onLanes, thread?_modLanes, and_self, if_true, Option.isSome_map]

theorem lane_of_thread (s : State) (l : Nat) (t : Thread) (h : s.thread? s.cur.core s.cur.team l = some t) :
    s.lane l = t := by
  simp only [State.thread?] at h
  simp only [State.lane, State.team]
  cases e : s.team? s.cur.core s.cur.team with
  | none => rw [e] at h; exact absurd h (by simp)
  | some m => rw [e] at h; simp only [Option.bind_some] at h; simp only [Option.getD_some, h]

theorem allReach_advance (s : State) (gl : List Nat) (addr : Nat → DWord) (n : Nat) (w : Bool)
    (h : allReach s gl addr n w) : allReach s.advance gl addr n w := by
  intro l hl
  have := h l hl
  simp only [reaches_advance, cur_advance, isSome_thread_advance]
  exact this

/-! ### One access -/

/-- What a TLB translates needs no walk. -/
theorem translateNow_ok (s : State) (c x va : Nat) (w e : Bool) (k : Nat) (h : s.translate c x va w e = .ok k) :
    s.translateNow c x va w e = .ok k := by
  simp only [State.translate] at h
  simp only [State.translateNow]
  cases hf : s.tlbFind c x va with
  | none => simp [hf] at h
  | some t => simpa [hf] using h

/-- An access that reaches a place is made there, whether or not it is a RED's. -/
theorem laneAccess_ok (s : State) (l : Nat) (addr : DWord) (n : Nat) (write red : Bool)
    (go : State → Thread → Except Nat Nat → State) (t : Thread) (k : Nat) (hr : red = true → write = true)
    (ht : s.thread? s.cur.core s.cur.team l = some t) (hk : reaches s addr n write = some k) :
    s.laneAccess l addr n write red go = go s t (.ok k) := by
  simp only [reaches] at hk
  split at hk
  · exact absurd hk (by simp)
  · next ha =>
    simp only [State.laneAccess, ht, ha, if_false, State.missOf]
    cases hp : s.place s.cur.core addr n with
    | invalid => simp [hp] at hk
    | window key => simp only [hp, Option.some.injEq] at hk; simp [hk]
    | virt va =>
      simp only [hp] at hk
      cases hq : s.translate s.cur.core (s.ctxOf s.cur.core) va write false with
      | ok key =>
        simp only [hq, Option.some.injEq] at hk
        subst hk
        cases red with
        | false => simp [hq]
        | true => simp [translateNow_ok s _ _ _ _ _ key (hr rfl ▸ hq)]
      | miss => simp [hq] at hk
      | fault _ => simp [hq] at hk
      | sealed => simp [hq] at hk
      | refused => simp [hq] at hk

theorem unifAccess_ok (s : State) (addr : DWord) (n : Nat) (write : Bool) (go : State → Nat → State) (k : Nat)
    (hk : reaches s addr n write = some k) : s.unifAccess addr n write go = go s k := by
  simp only [reaches] at hk
  split at hk
  · exact absurd hk (by simp)
  · next ha =>
    simp only [State.unifAccess, ha, if_false, State.missOf]
    cases hp : s.place s.cur.core addr n with
    | invalid => simp [hp] at hk
    | window key => simp only [hp, Option.some.injEq] at hk; simp [hk]
    | virt va =>
      simp only [hp] at hk
      cases hq : s.translate s.cur.core (s.ctxOf s.cur.core) va write false with
      | ok key => simp only [hq, Option.some.injEq] at hk; simp [hq, hk]
      | miss => simp [hq] at hk
      | fault _ => simp [hq] at hk
      | sealed => simp [hq] at hk
      | refused => simp [hq] at hk

/-! ### The loads of an issue -/

/-- The loads of a list of lanes, from a sequence number on. -/
def loadsFrom (s : State) (gl : List Nat) (addr : Nat → DWord) (n scope : Nat) (write : Bool) (dst : Nat → LoadDst)
    (tok k : Nat) : List LoadReq :=
  (gl.zipIdx k).map (fun p => ⟨p.2, s.cur.core, s.cur.team, s.team.uid, (s.lane p.1).tid,
    (reaches s (addr p.1) n write).getD 0, n, scope, dst p.1, tok, addr p.1⟩)

theorem laneLoads_fold (s : State) (gl : List Nat) (addr : Nat → DWord) (n scope : Nat) (write : Bool)
    (dst : Nat → LoadDst) (tok : Nat) (h : allReach s gl addr n write) (L : List LoadReq) (q : Nat) :
    gl.foldl (fun s l => s.laneAccess l (addr l) n write false (fun s t k => match k with
      | .ok key => s.addLoad t.tid key n scope tok (dst l) (addr l)
      | .error _ => s)) { s with loads := L, nextSeq := q }
    = { s with loads := L ++ loadsFrom s gl addr n scope write dst tok q, nextSeq := q + gl.length } := by
  induction gl generalizing L q with
  | nil => simp [loadsFrom]
  | cons l r ih =>
    have hl := h l (by simp)
    obtain ⟨t, ht⟩ := Option.isSome_iff_exists.1 hl.1
    obtain ⟨k, hk⟩ := Option.isSome_iff_exists.1 hl.2
    have e : ({ s with loads := L, nextSeq := q } : State).laneAccess l (addr l) n write false (fun s t k => match k with
        | .ok key => s.addLoad t.tid key n scope tok (dst l) (addr l)
        | .error _ => s)
        = { s with loads := L ++ [⟨q, s.cur.core, s.cur.team, s.team.uid, t.tid, k, n, scope, dst l, tok, addr l⟩]
                   nextSeq := q + 1 } := by
      exact laneAccess_ok { s with loads := L, nextSeq := q } l (addr l) n write false _ t k (by simp) ht hk
    simp only [List.foldl_cons, e]
    rw [ih (fun x hx => h x (by simp [hx]))]
    simp [loadsFrom, List.zipIdx_cons, lane_of_thread s l t ht, hk, Nat.add_assoc, Nat.add_comm 1]

theorem loadsFrom_eq (s : State) (gl : List Nat) (addr : Nat → DWord) (n scope : Nat) (write : Bool) (dst : Nat → LoadDst)
    (tok k : Nat) : loadsFrom s gl addr n scope write dst tok k
      = (gl.zipIdx).map (fun p => ⟨k + p.2, s.cur.core, s.cur.team, s.team.uid, (s.lane p.1).tid,
          (reaches s (addr p.1) n write).getD 0, n, scope, dst p.1, tok, addr p.1⟩) := by
  have : gl.zipIdx k = (gl.zipIdx).map (fun p => (p.1, k + p.2)) := by
    rw [List.zipIdx_eq_map_add]
  simp only [loadsFrom, this, List.map_map]; rfl

theorem loadReqs_advance (s : State) (gl : List Nat) (addr : Nat → DWord) (n scope : Nat) (write : Bool)
    (dst : Nat → LoadDst) : loadReqs s.advance gl addr n scope write dst = loadReqs s gl addr n scope write dst := by
  simp only [loadReqs, cur_advance, uid_team_advance, tid_lane_advance, reaches_advance]; rfl

theorem storeEntries_advance (s : State) (gl : List Nat) (addr : Nat → DWord) (n : Nat) (data : Nat → List Byte)
    (red : Option (Nat × Nat)) : storeEntries s.advance gl addr n data red = storeEntries s gl addr n data red := by
  have h : s.advance.team.stCount = s.team.stCount :=
    show (teamShared s.advance.team).stCount = (teamShared s.team).stCount by rw [team_advance]
  simp only [storeEntries, cur_advance, uid_team_advance, tid_lane_advance, reaches_advance, ctxOf_advance, h,
    wg?_advance_launch]; rfl

/-- A unit whose body is the loads of an issue. -/
theorem laneLoads_effect (s : State) (gl : List Nat) (addr : Nat → DWord) (n scope : Nat) (write : Bool)
    (dst : Nat → LoadDst) (h : allReach s gl addr n write) :
    UnitEffect s (s.advance.laneLoads gl addr n scope write dst).endIssue
      { s with loads := s.loads ++ loadReqs s gl addr n scope write dst, nextSeq := s.nextSeq + 1 + gl.length }
      (fun _ x => x) (fun m => if gl = [] then m else { m with ld := m.ld ++ [⟨s.nextSeq, false⟩] }) := by
  have f := laneLoads_fold s.advance gl addr n scope write dst s.nextSeq (allReach_advance s gl addr n write h) s.loads
    (s.nextSeq + 1)
  rw [loadsFrom_eq] at f
  have g : (gl.zipIdx).map (fun p => (⟨s.nextSeq + 1 + p.2, s.advance.cur.core, s.advance.cur.team, s.advance.team.uid,
      (s.advance.lane p.1).tid, (reaches s.advance (addr p.1) n write).getD 0, n, scope, dst p.1, s.nextSeq, addr p.1⟩ : LoadReq))
      = loadReqs s gl addr n scope write dst := by
    simp only [loadReqs, cur_advance, uid_team_advance, tid_lane_advance, reaches_advance]
  rw [g] at f
  obtain ⟨b, hb⟩ : ∃ b : State, b = { s.advance with loads := s.loads ++ loadReqs s gl addr n scope write dst
                                                     nextSeq := s.nextSeq + 1 + gl.length } := ⟨_, rfl⟩
  have o : UnitEffect s b { s with loads := s.loads ++ loadReqs s gl addr n scope write dst
                                   nextSeq := s.nextSeq + 1 + gl.length } (fun _ x => x) id := by
    subst hb; exact Effect.outside (Effect.advance s) _ rfl
  have e : s.advance.laneLoads gl addr n scope write dst = b.ldIssued s.loads.length s.nextSeq := by
    rw [hb, ← f]; rfl
  have len : b.loads.length = s.loads.length + gl.length := by
    subst hb; simp [loadReqs]
  rw [e, State.ldIssued, len]
  cases gl with
  | nil => rw [if_neg (by simp)]; exact Effect.teamEq (Effect.ends o) (fun m => (if_pos rfl).symm)
  | cons l r =>
    rw [if_pos (by simp)]
    exact Effect.ends (Effect.teamWith o rfl (fun m => { m with ld := m.ld ++ [⟨s.nextSeq, false⟩] }) (fun _ => rfl)
      (fun x y e => by simp only [teamShared, Team.mk.injEq] at e ⊢; simp_all))

/-! ### The stores of an issue -/

/-- The entries of a list of lanes, from a sequence number on. -/
def entriesFrom (s : State) (gl : List Nat) (addr : Nat → DWord) (n : Nat) (data : Nat → List Byte)
    (red : Option (Nat × Nat)) (tok k : Nat) : List WEntry :=
  (gl.zipIdx k).map (fun p => ⟨p.2, s.cur.core, (s.lane p.1).tid,
    .team (((s.wg? s.cur.core).map (·.launch)).getD 0) s.team.uid tok (s.team.stCount + 1),
    (reaches s (addr p.1) n true).getD 0, data p.1, red, some (s.ctxOf s.cur.core), addr p.1, false⟩)

theorem laneStores_fold (s : State) (gl : List Nat) (addr : Nat → DWord) (n : Nat) (data : Nat → List Byte)
    (red : Option (Nat × Nat)) (tok : Nat) (h : allReach s gl addr n true) (B : List WEntry) (W : List WTrack) (q : Nat) :
    gl.foldl (fun s l => s.laneAccess l (addr l) n true red.isSome (fun s t k => match k with
      | .ok key => s.addStore t.tid key (data l) red tok (addr l)
      | .error kind => s.addHeldRed t.tid (data l) red tok (addr l) kind))
      { s with stbuf := B, writes := W, nextSeq := q }
    = { s with stbuf := B ++ entriesFrom s gl addr n data red tok q
               writes := W ++ (entriesFrom s gl addr n data red tok q).map tracked
               nextSeq := q + gl.length } := by
  induction gl generalizing B W q with
  | nil => simp [entriesFrom]
  | cons l r ih =>
    have hl := h l (by simp)
    obtain ⟨t, ht⟩ := Option.isSome_iff_exists.1 hl.1
    obtain ⟨k, hk⟩ := Option.isSome_iff_exists.1 hl.2
    have e : ({ s with stbuf := B, writes := W, nextSeq := q } : State).laneAccess l (addr l) n true red.isSome
        (fun s t k => match k with
          | .ok key => s.addStore t.tid key (data l) red tok (addr l)
          | .error kind => s.addHeldRed t.tid (data l) red tok (addr l) kind)
        = { s with stbuf := B ++ entriesFrom s [l] addr n data red tok q
                   writes := W ++ (entriesFrom s [l] addr n data red tok q).map tracked
                   nextSeq := q + 1 } := by
      refine (laneAccess_ok { s with stbuf := B, writes := W, nextSeq := q } l (addr l) n true _ _ t k (by simp) ht hk).trans ?_
      simp only [entriesFrom, List.zipIdx_cons, List.zipIdx_nil, List.map_cons, List.map_nil, hk, lane_of_thread s l t ht]
      rfl
    simp only [List.foldl_cons, e]
    rw [ih (fun x hx => h x (by simp [hx]))]
    simp [entriesFrom, List.zipIdx_cons, Nat.add_assoc, Nat.add_comm 1]

theorem entriesFrom_eq (s : State) (gl : List Nat) (addr : Nat → DWord) (n : Nat) (data : Nat → List Byte)
    (red : Option (Nat × Nat)) : entriesFrom s gl addr n data red s.nextSeq (s.nextSeq + 1) = storeEntries s gl addr n data red := by
  have : gl.zipIdx (s.nextSeq + 1) = (gl.zipIdx).map (fun p => (p.1, s.nextSeq + 1 + p.2)) := by
    rw [List.zipIdx_eq_map_add]
  simp only [entriesFrom, this, List.map_map]; rfl

/-- A unit whose body is the stores of an issue. -/
theorem laneStores_effect (s : State) (gl : List Nat) (addr : Nat → DWord) (n : Nat) (data : Nat → List Byte)
    (red : Option (Nat × Nat)) (h : allReach s gl addr n true) :
    UnitEffect s (s.advance.laneStores gl addr data n red).endIssue
      { s with stbuf := s.stbuf ++ storeEntries s gl addr n data red
               writes := s.writes ++ (storeEntries s gl addr n data red).map tracked
               nextSeq := s.nextSeq + 1 + gl.length }
      (fun _ x => x)
      (fun m => if gl = [] then m else { m with st := m.st ++ [⟨s.nextSeq, false⟩], stCount := m.stCount + 1 }) := by
  have f := laneStores_fold s.advance gl addr n data red s.nextSeq (allReach_advance s gl addr n true h) s.stbuf s.writes
    (s.nextSeq + 1)
  rw [show entriesFrom s.advance gl addr n data red s.nextSeq (s.nextSeq + 1) = storeEntries s gl addr n data red from
    (entriesFrom_eq s.advance gl addr n data red).trans (storeEntries_advance s gl addr n data red)] at f
  obtain ⟨b, hb⟩ : ∃ b : State, b = { s.advance with stbuf := s.stbuf ++ storeEntries s gl addr n data red
                                                     writes := s.writes ++ (storeEntries s gl addr n data red).map tracked
                                                     nextSeq := s.nextSeq + 1 + gl.length } := ⟨_, rfl⟩
  have o : UnitEffect s b { s with stbuf := s.stbuf ++ storeEntries s gl addr n data red
                                   writes := s.writes ++ (storeEntries s gl addr n data red).map tracked
                                   nextSeq := s.nextSeq + 1 + gl.length } (fun _ x => x) id := by
    subst hb; exact Effect.outside (Effect.advance s) _ rfl
  have e : s.advance.laneStores gl addr data n red = b.stIssued s.writes.length s.nextSeq := by
    rw [hb, ← f]; rfl
  have len : b.writes.length = s.writes.length + gl.length := by
    subst hb; simp [storeEntries]
  rw [e, State.stIssued, len]
  cases gl with
  | nil => rw [if_neg (by simp)]; exact Effect.teamEq (Effect.ends o) (fun m => (if_pos rfl).symm)
  | cons l r =>
    rw [if_pos (by simp)]
    exact Effect.ends (Effect.teamWith o rfl
      (fun m => { m with st := m.st ++ [⟨s.nextSeq, false⟩], stCount := m.stCount + 1 }) (fun _ => rfl)
      (fun x y e => by simp only [teamShared, Team.mk.injEq] at e ⊢; simp_all))

end Sys2Proof.Machine
end

