-- ==== Sys2Proof/Laws/Shapes.lean ====
section
/-! SUPPORT. What each shape of unit does where its checks pass: one lemma for each shape, which the statements about
single instructions cite. -/

namespace Sys2Proof.Machine

/-! ### Lane functions of registers -/

theorem laneOp_completes (s : State) (i : Instr) (g : BitVec 3) (d a b : BitVec 7) (f : Word → Word → Word → Word)
    (e : exec i s = .next (s.laneOp i g d a b f)) (hw : i.wf = true) (h : bad3 s.curAlloc d a b = none) :
    WritesLanes s i g d (fun l x => f (s.srcA l a) (s.srcB l b) (x.v d.toNat)) := by
  refine ⟨_, e, ?_⟩
  have := laneSet_effect s i (s.guarded g)
    (fun s l t => t.setV d.toNat (f (s.srcA l a) (s.srcB l b) (t.v d.toNat))) hw (mem_guarded s g)
  simp only [srcA_advance, srcB_advance] at this
  rw [State.laneOp, h]; exact this

theorem laneOp1_completes (s : State) (i : Instr) (g : BitVec 3) (d a : BitVec 7) (f : Word → Word)
    (e : exec i s = .next (s.laneOp1 i g d a f)) (hw : i.wf = true) (h : bad2 s.curAlloc d a = none) :
    WritesLanes s i g d (fun l _ => f (s.srcA l a)) := by
  refine ⟨_, e, ?_⟩
  have := laneSet_effect s i (s.guarded g) (fun s l t => t.setV d.toNat (f (s.srcA l a))) hw (mem_guarded s g)
  simp only [srcA_advance] at this
  rw [State.laneOp1, h]; exact this

/-! ### Lane functions that raise flags -/

theorem withFlags_shared (f : FlagSet) (x y : Team) (h : teamShared x = teamShared y) :
    teamShared (withFlags f x) = teamShared (withFlags f y) := by
  simp only [teamShared, withFlags, Team.mk.injEq] at h ⊢; simp_all

theorem laneFp_effect (s : State) (i : Instr) (gl : List Nat) (f : State → BitVec 9 → Nat → Thread → Thread × FlagSet)
    (F : Nat → Thread → Thread) (K : Nat → FlagSet) (hw : i.wf = true) (hgl : ∀ l ∈ gl, l ∈ s.subset)
    (hF : ∀ l t, (f s.advance s.team.mode l t).1 = F l t)
    (hK : ∀ l, (f s.advance s.team.mode l (s.advance.lane l)).2 = K l) :
    UnitEffect s (s.laneFp i gl false none f) s (lanesWith gl F) (withFlags (flagsOf gl K)) := by
  rw [State.laneFp, laneUnit_ok _ _ _ _ hw]
  simp only [mode_team_advance, hF, hK]
  exact Effect.ends (Effect.teamWith (Effect.lanes (Effect.advance s) rfl gl hgl (fun l t => F l t)) rfl
    (withFlags (flagsOf gl K)) (fun _ => rfl) (withFlags_shared _))

theorem flagsOf_zero (gl : List Nat) : flagsOf gl (fun _ => 0) = 0 := by
  simp only [flagsOf]; induction gl <;> simp_all

theorem laneFp3_completes (s : State) (i : Instr) (g : BitVec 3) (d a b : BitVec 7)
    (f : BitVec 9 → Nat → Nat → Nat → Nat × FlagSet) (e : exec i s = .next (s.laneFp3 i g d a b f)) (hw : i.wf = true)
    (h : bad3 s.curAlloc d a b = none) :
    WritesLanesFp s i g
      (fun l x => x.setV d.toNat (BitVec.ofNat 32
        (f s.team.mode (s.srcA l a).toNat (s.srcB l b).toNat (x.v d.toNat).toNat).1))
      (fun l => (f s.team.mode (s.srcA l a).toNat (s.srcB l b).toNat ((s.lane l).v d.toNat).toNat).2) := by
  refine ⟨_, e, ?_⟩
  rw [State.laneFp3, h]
  exact laneFp_effect s i _ _ _ _ hw (mem_guarded s g) (by intro l t; simp only [srcA_advance, srcB_advance])
    (by intro l; simp only [srcA_advance, srcB_advance, v_lane_advance])

theorem lanePair3_completes (s : State) (i : Instr) (g : BitVec 3) (d a b : BitVec 7)
    (f : BitVec 9 → Nat → Nat → Nat → Nat × FlagSet) (e : exec i s = .next (s.lanePair3 i g d a b f)) (hw : i.wf = true)
    (h : bad3 s.curAlloc d a b = none) :
    let r := fun (l : Nat) (x : Thread) (k : Nat) =>
      f s.team.mode (halfOf (s.srcA l a) k) (halfOf (s.srcB l b) k) (halfOf (x.v d.toNat) k)
    WritesLanesFp s i g (fun l x => x.setV d.toNat (ofHalves (r l x 0).1 (r l x 1).1))
      (fun l => (r l (s.lane l) 0).2 ||| (r l (s.lane l) 1).2) := by
  refine ⟨_, e, ?_⟩
  rw [State.lanePair3, h]
  exact laneFp_effect s i _ _ _ _ hw (mem_guarded s g) (by intro l t; simp only [srcA_advance, srcB_advance])
    (by intro l; simp only [srcA_advance, srcB_advance, v_lane_advance])

theorem v2_lane_advance (s : State) (l n : Nat) : (s.advance.lane l).v2 n = (s.lane l).v2 n := by
  simp only [Thread.v2, v_lane_advance]

theorem laneFp64_completes (s : State) (i : Instr) (g : BitVec 3) (d a b : BitVec 7)
    (f : BitVec 9 → Nat → Nat → Nat → Nat × FlagSet) (e : exec i s = .next (s.laneFp64 i g d a b f)) (hw : i.wf = true)
    (hu : hasFp64 s.part s.cur.core = true) (h : badPair3 s.curAlloc d a b = none) :
    WritesLanesFp s i g
      (fun l x => x.setV2 d.toNat (BitVec.ofNat 64
        (f s.team.mode (s.srcA2 l a).toNat (s.srcB2 l b).toNat (x.v2 d.toNat).toNat).1))
      (fun l => (f s.team.mode (s.srcA2 l a).toNat (s.srcB2 l b).toNat ((s.lane l).v2 d.toNat).toNat).2) := by
  refine ⟨_, e, ?_⟩
  rw [State.laneFp64, h, hu]
  exact laneFp_effect s i _ _ _ _ hw (mem_guarded s g) (by intro l t; simp only [srcA2_advance, srcB2_advance])
    (by intro l; simp only [srcA2_advance, srcB2_advance, v2_lane_advance])

/-! ### Cross-lane reads -/

theorem v_thread_advance (s : State) (c n l r : Nat) :
    (s.advance.thread? c n l).map (fun t => t.v r) = (s.thread? c n l).map (fun t => t.v r) := by
  simp only [State.advance, State.onLanes, thread?_modLanes]
  split
  · cases s.thread? c n l with
    | none => rfl
    | some t => simp only [Option.map_some]; split <;> rfl
  · rfl

@[simp] theorem neighbourReg_advance (s : State) (l : Nat) (r : Bool) (a : BitVec 7) :
    s.advance.neighbourReg l r a = s.neighbourReg l r a := by
  have h := v_thread_advance s s.cur.core (neighbour (s.hdr s.cur.core).teams s.cur.team l r).1
    (neighbour (s.hdr s.cur.core).teams s.cur.team l r).2 a.toNat
  simp only [State.neighbourReg, hdr_advance, cur_advance]
  revert h
  generalize s.advance.thread? _ _ _ = x
  generalize s.thread? _ _ _ = y
  intro h
  cases x <;> cases y <;> simp_all

/-! ### Lane units with a body of their own -/

theorem laneUnit_completes (s r : State) (i : Instr) (gl : List Nat) (body : State → State) (F : Nat → Thread → Thread)
    (M : Team → Team) (e : exec i s = .next (s.laneUnit i gl false none false body)) (hw : i.wf = true)
    (h : UnitEffect s (body s.advance) r F M) : Completes i s r F M := by
  refine ⟨_, e, ?_⟩
  rw [laneUnit_ok _ _ _ _ hw]; exact Effect.ends h

theorem unifUnit_completes (s r : State) (i : Instr) (body : State → State) (F : Nat → Thread → Thread) (M : Team → Team)
    (e : exec i s = .next (s.unifUnit i true none false body)) (hw : i.wf = true)
    (h : UnitEffect s (body s.advance) r F M) : Completes i s r F M := by
  refine ⟨_, e, ?_⟩
  rw [unifUnit_ok _ _ _ hw]; exact Effect.ends h

/-! ### What the rest of a unit reads, folds over lanes, and traps -/

theorem inHandler_lane_advance (s : State) (l : Nat) : (s.advance.lane l).inHandler = (s.lane l).inHandler := by
  rw [lane_advance, State.lane]; cases kvGet s.team.lanes l with
  | none => rfl
  | some x => simp only [Option.getD_some]; split <;> rfl

theorem tile_advance (s : State) (c : Nat) : (s.advance.wg? c).bind (·.tile) = (s.wg? c).bind (·.tile) := by
  have h := (Effect.advance s).groups c
  revert h
  generalize s.advance.wg? c = x
  generalize s.wg? c = y
  intro h
  cases x with
  | none => cases y with
    | none => rfl
    | some b => exact absurd h (by simp)
  | some a => cases y with
    | none => exact absurd h (by simp)
    | some b => exact congrArg (fun o => (Option.map (fun w : Workgroup => w.tile) o).bind id) h

theorem sfLast_advance (s : State) : s.advance.team.sfLast = s.team.sfLast := by
  have h : s.advance.team.sfNo = s.team.sfNo := show (teamShared s.advance.team).sfNo = (teamShared s.team).sfNo by rw [team_advance]
  simp only [Team.sfLast, h]

theorem sharedReg_advance (s : State) (sel : Nat) : s.advance.sharedReg sel = s.sharedReg sel := by
  have hp : s.advance.part = s.part := rfl
  simp only [State.sharedReg, cur_advance, hdr_advance, tile_advance, Team.modeWord, mode_team_advance, sfLast_advance, ctxOf_advance, hp]

theorem sfNo_team_advance (s : State) : s.advance.team.sfNo = s.team.sfNo := show (teamShared s.advance.team).sfNo = (teamShared s.team).sfNo by rw [team_advance]

theorem stCount_team_advance (s : State) : s.advance.team.stCount = s.team.stCount :=
    show (teamShared s.advance.team).stCount = (teamShared s.team).stCount by rw [team_advance]

theorem unifLoad_effect (s : State) (key n : Nat) (dst : LoadDst) (addr : DWord) :
    UnitEffect s (s.advance.unifLoad key n dst addr)
      { s with loads := s.loads ++ [⟨s.nextSeq + 1, s.cur.core, s.cur.team, s.team.uid, s.team.uid, key, n, 0, dst, s.nextSeq, addr⟩]
               nextSeq := s.nextSeq + 2 }
      (fun _ x => x) (fun m => { m with ld := m.ld ++ [⟨s.nextSeq, false⟩] }) := by
  have o := Effect.map (Effect.advance s) (fun x => { x with
    loads := x.loads ++ [⟨s.nextSeq + 1, s.cur.core, s.cur.team, s.team.uid, s.team.uid, key, n, 0, dst, s.nextSeq, addr⟩]
    nextSeq := s.nextSeq + 2 }) (fun _ => rfl) (fun _ _ => rfl)
  have e : s.advance.unifLoad key n dst addr = ({ s.advance with
      loads := s.advance.loads ++ [⟨s.nextSeq + 1, s.cur.core, s.cur.team, s.team.uid, s.team.uid, key, n, 0, dst, s.nextSeq, addr⟩]
      nextSeq := s.nextSeq + 2 } : State).onTeam (fun m => { m with ld := m.ld ++ [⟨s.nextSeq, false⟩] }) := by
    have b : s.advance.bump.addLoad s.advance.team.uid key n 0 s.advance.nextSeq dst addr = { s.advance with
      loads := s.advance.loads ++ [⟨s.nextSeq + 1, s.cur.core, s.cur.team, s.team.uid, s.team.uid, key, n, 0, dst, s.nextSeq, addr⟩]
      nextSeq := s.nextSeq + 2 } := by
      rw [uid_team_advance, ← uid_team_advance s]; rfl
    simp only [State.unifLoad, b, State.ldIssued]
    rw [if_pos (by simp)]; rfl
  rw [e]
  exact Effect.teamWith o rfl (fun m => { m with ld := m.ld ++ [⟨s.nextSeq, false⟩] }) (fun _ => rfl)
      (fun x y e => by simp only [teamShared, Team.mk.injEq] at e ⊢; simp_all)

theorem unifStore_effect (s : State) (key : Nat) (data : List Byte) (addr : DWord) :
    let w : WEntry := ⟨s.nextSeq + 1, s.cur.core, s.team.uid,
        .team (((s.wg? s.cur.core).map (·.launch)).getD 0) s.team.uid s.nextSeq (s.team.stCount + 1), key,
        data, none, some (s.ctxOf s.cur.core), addr, false⟩
    UnitEffect s (s.advance.unifStore key data addr)
      { s with stbuf := s.stbuf ++ [w], writes := s.writes ++ [tracked w], nextSeq := s.nextSeq + 2 }
      (fun _ x => x) (fun m => { m with st := m.st ++ [⟨s.nextSeq, false⟩], stCount := m.stCount + 1 }) := by
  intro w
  have o := Effect.map (Effect.advance s) (fun x => { x with
    stbuf := x.stbuf ++ [w], writes := x.writes ++ [tracked w], nextSeq := s.nextSeq + 2 }) (fun _ => rfl) (fun _ _ => rfl)
  have e : s.advance.unifStore key data addr = ({ s.advance with
      stbuf := s.advance.stbuf ++ [w], writes := s.advance.writes ++ [tracked w]
      nextSeq := s.nextSeq + 2 } : State).onTeam (fun m => { m with st := m.st ++ [⟨s.nextSeq, false⟩], stCount := m.stCount + 1 }) := by
    have hw : w = ⟨s.nextSeq + 1, s.cur.core, s.advance.team.uid,
        .team (((s.advance.wg? s.cur.core).map (·.launch)).getD 0) s.advance.team.uid s.nextSeq (s.advance.team.stCount + 1), key,
        data, none, some (s.advance.ctxOf s.cur.core), addr, false⟩ := by
      simp only [uid_team_advance, wg?_advance_launch, stCount_team_advance, ctxOf_advance]; rfl
    have b : s.advance.bump.addStore s.advance.team.uid key data none s.advance.nextSeq addr = { s.advance with
      stbuf := s.advance.stbuf ++ [w], writes := s.advance.writes ++ [tracked w]
      nextSeq := s.nextSeq + 2 } := by
      rw [hw]; rfl
    simp only [State.unifStore, b, State.stIssued]
    rw [if_pos (by simp)]; rfl
  rw [e]
  exact Effect.teamWith o rfl (fun m => { m with st := m.st ++ [⟨s.nextSeq, false⟩], stCount := m.stCount + 1 }) (fun _ => rfl)
      (fun x y e => by simp only [teamShared, Team.mk.injEq] at e ⊢; simp_all)

theorem foldl_fixed {α β : Type} (f : α → β → α) (s : α) (l : List β) (h : ∀ x ∈ l, f s x = s) : l.foldl f s = s := by
  induction l with
  | nil => rfl
  | cons x r ih => rw [List.foldl_cons, h x (by simp)]; exact ih (fun y hy => h y (by simp [hy]))

theorem joinTest_none (s : State) (core team : Nat)
    (h : ∀ t, s.team? core team = some t → ∀ e ∈ t.lanes, ∀ n, e.2.wait ≠ .join n) : s.joinTest core team = s := by
  refine foldl_fixed _ _ _ (fun n _ => ?_)
  cases ht : s.team? core team with
  | none => rfl
  | some t =>
    have e : t.lanes.filterMap (fun l => if l.2.wait = .join n then some l.2.tid else none) = [] := by
      rw [List.filterMap_eq_nil_iff]; intro a ha; simp [h t ht a ha n]
    simp only [e]; rfl

/-- A fold over distinct lanes, each step of which changes its lane alone. -/
theorem fold_lanes {s r : State} {M : Team → Team} (step : State → Nat → State) (f : Nat → Thread → Thread)
    (hr : r.cur = s.cur) (gl : List Nat) (hn : gl.Nodup) (hgl : ∀ l ∈ gl, l ∈ s.subset) (done : List Nat)
    (hd : ∀ l ∈ gl, l ∉ done)
    (hs : ∀ b l D, l ∈ gl → l ∉ D → UnitEffect s b r (lanesWith D f) M → step b l = b.onLanes [l] f)
    (b : State) (h : UnitEffect s b r (lanesWith done f) M) :
    UnitEffect s (gl.foldl step b) r (lanesWith (done ++ gl) f) M := by
  induction gl generalizing done b with
  | nil => simpa using h
  | cons l rest ih =>
    simp only [List.foldl_cons]
    have hl : l ∉ done := hd l (by simp)
    rw [hs b l done (by simp) hl h]
    have k := Effect.lanes h hr [l] (fun x hx => hgl x (by simp_all)) f
    have e : (fun i x => if i ∈ [l] then f i (lanesWith done f i x) else lanesWith done f i x) = lanesWith (done ++ [l]) f := by
      funext i x
      simp only [lanesWith, List.mem_append, List.mem_singleton]
      by_cases h1 : i = l
      · subst h1; simp [hl]
      · simp [h1]
    rw [e] at k
    have hn' := List.nodup_cons.1 hn
    have := ih hn'.2 (fun x hx => hgl x (by simp [hx])) (done ++ [l])
      (fun x hx => by
        simp only [List.mem_append, List.mem_singleton, not_or]
        exact ⟨hd x (by simp [hx]), fun hxl => hn'.1 (hxl ▸ hx)⟩)
      (fun b x D hx => hs b x D (by simp [hx])) _ k
    simpa [List.append_assoc] using this

theorem lanesWith_nil (f : Nat → Thread → Thread) : lanesWith [] f = fun _ x => x := by funext l x; simp [lanesWith]

theorem subset_nodup (s : State) : s.subset.Nodup := by
  unfold State.subset lanesOf; exact List.Nodup.filter _ List.nodup_range
theorem guarded_nodup (s : State) (g : BitVec 3) : (s.guarded g).Nodup := List.Nodup.filter _ (subset_nodup s)

theorem lane_eq (s : State) (l : Nat) : s.lane l = (s.thread? s.cur.core s.cur.team l).getD Thread.empty := by
  simp only [State.lane, State.team, State.thread?]
  cases s.team? s.cur.core s.cur.team with
  | none => rfl
  | some m => rfl

theorem lane_of_effect {s b r : State} {M : Team → Team} {f : Nat → Thread → Thread} {D : List Nat}
    (h : UnitEffect s b r (lanesWith D f) M) (hr : r.cur = s.cur) (l : Nat) (hl : l ∈ s.subset) (hD : l ∉ D) (n : Nat) :
    (b.lane l).v n = (s.lane l).v n := by
  have hc := Effect.cur_eq h hr
  rw [lane_eq, lane_eq, hc, h.threads l hl]
  cases s.thread? s.cur.core s.cur.team l with
  | none => rfl
  | some x => simp only [Option.map_some, Option.getD_some, lanesWith, hD, if_false]; rfl

theorem onLanes_one (b : State) (l : Nat) (f g : Nat → Thread → Thread) (h : ∀ t, f l t = g l t) :
    b.onLanes [l] f = b.onLanes [l] g := by
  unfold State.onLanes State.modLanes
  congr 1
  funext m
  congr 1
  refine List.map_congr_left (fun e _ => ?_)
  by_cases he : e.1 = l
  · simp [he, h]
  · simp [he]


theorem transfer_ok (s : State) (ls : List Nat) (x : DWord) (u : Bool) (h : targetTrap x = none) :
    s.transfer ls x u = s.onLanes ls (fun _ t => { t with pc := BitVec.ofNat 57 x.toNat }) := by
  unfold State.transfer; rw [h]

theorem thread_of_effect {s b r : State} {M : Team → Team} {f : Nat → Thread → Thread} {D : List Nat}
    (h : UnitEffect s b r (lanesWith D f) M) (hr : r.cur = s.cur) (l : Nat) (hl : l ∈ s.subset) (hD : l ∉ D) (t : Thread)
    (ht : s.thread? s.cur.core s.cur.team l = some t) :
    b.thread? b.cur.core b.cur.team l = some (movedOn s t) := by
  rw [Effect.cur_eq h hr, h.threads l hl, ht]
  simp only [Option.map_some, lanesWith, hD, if_false]

theorem kvGet_modifies (m : List (Nat × Thread)) (k l : Nat) (f : Thread → Thread) :
    kvGet (kvMod m k f) l = (kvGet m l).map (fun x => if l = k then f x else x) := by
  by_cases h : l = k
  · subst h; simp [kvGet_mod_same]
  · simp [kvGet_mod_ne _ _ _ _ h, h]

theorem thread?_modThread (s : State) (c n l : Nat) (f : Thread → Thread) (c' n' l' : Nat) :
    (s.modThread c n l f).thread? c' n' l' = if c' = c ∧ n' = n then (s.thread? c' n' l').map (fun x => if l' = l then f x else x)
      else s.thread? c' n' l' := by
  simp only [State.thread?, State.modThread, team?_modTeam]
  split
  · cases s.team? c' n' with
    | none => rfl
    | some m => simp only [Option.map_some, Option.bind_some]; exact kvGet_modifies m.lanes l l' f
  · rfl

namespace Effect
variable {s b r : State} {F : Nat → Thread → Thread} {M : Team → Team}

/-- It then changes one thread of its subset. -/
theorem thread (h : UnitEffect s b r F M) (l : Nat) (hl : l ∈ s.subset) (f : Thread → Thread) :
    UnitEffect s (b.modThread s.cur.core s.cur.team l f) r (fun i x => if i = l then f (F i x) else F i x) M := by
  refine ⟨?_, ?_, ?_, ?_, ?_, ?_⟩
  · intro i hi
    rw [thread?_modThread, if_pos ⟨rfl, rfl⟩, h.threads i hi]
    cases s.thread? s.cur.core s.cur.team i <;> rfl
  · intro c n i k
    rw [thread?_modThread]
    split
    · next e =>
      have : i ≠ l := fun x => k e.1 e.2 (x ▸ hl)
      simp only [this, if_false, Option.map_id']; exact h.others c n i k
    · exact h.others c n i k
  · have e : ((b.modThread s.cur.core s.cur.team l f).team? s.cur.core s.cur.team).map teamShared
      = (b.team? s.cur.core s.cur.team).map teamShared := by
      simp only [State.modThread, team?_modTeam, and_self, if_true]
      cases b.team? s.cur.core s.cur.team <;> rfl
    rw [e]; exact h.team
  · intro c n k
    have e : ((b.modThread s.cur.core s.cur.team l f).team? c n).map teamShared = (b.team? c n).map teamShared := by
      simp only [State.modThread, team?_modTeam]
      split
      · cases b.team? c n <;> rfl
      · rfl
    rw [e]; exact h.teams c n k
  · intro c; simp only [State.modThread, shell_modTeam]; exact h.groups c
  · exact h.rest

end Effect

/-- The launch of a core follows from what its workgroup holds beside the teams and from the launches. -/
theorem wgLaunch?_of_groups {s b : State} (hl : b.launches = s.launches)
    (g : ∀ c, (b.wg? c).map groupShell = (s.wg? c).map groupShell) (c : Nat) : b.wgLaunch? c = s.wgLaunch? c := by
  have e : ∀ l, b.launch? l = s.launch? l := by intro l; simp only [State.launch?, hl]
  have h := g c
  simp only [State.wgLaunch?, e]
  revert h
  generalize b.wg? c = x
  generalize s.wg? c = y
  intro h
  cases x <;> cases y <;> simp_all [groupShell]

theorem hdr_effect {s b r : State} {F : Nat → Thread → Thread} {M : Team → Team} (h : UnitEffect s b r F M) (hl : r.launches = s.launches) (c : Nat) :
    b.hdr c = s.hdr c := by
  simp only [State.hdr, wgLaunch?_of_groups (by rw [← hl, ← h.rest]) h.groups]

/-- Precise traps of some lanes that stand outside their handler. -/
theorem takeTraps_from (s b : State) (hb : UnitEffect s b s (fun _ x => x) id) (ls : List Nat) (hn : ls.Nodup) (hs : ∀ l ∈ ls, l ∈ s.subset) (ho : outsideHandler s ls)
    (code : Nat) (tval cause : Word) (tpc : PC) :
    UnitEffect s (ls.foldl (fun b l => b.takeTrap b.cur.core b.cur.team l code tval cause tpc) b) s
      (lanesWith ls (fun _ => entered s tval cause tpc)) id := by
  have key : ∀ (gl done : List Nat) (b : State), gl.Nodup → (∀ l ∈ gl, l ∈ ls) → (∀ l ∈ gl, l ∉ done) →
      UnitEffect s b s (lanesWith done (fun _ => entered s tval cause tpc)) id →
      UnitEffect s (gl.foldl (fun b l => b.takeTrap b.cur.core b.cur.team l code tval cause tpc) b) s (lanesWith (done ++ gl) (fun _ => entered s tval cause tpc)) id := by
    intro gl
    induction gl with
    | nil => intro done b _ _ _ h; simpa using h
    | cons l rest ih =>
      intro done b hn hg hd h
      have hn' := List.nodup_cons.1 hn
      obtain ⟨x, hx, hx'⟩ := ho.2 l (hg l (by simp))
      have hlD := hd l (by simp)
      have hb : b.thread? s.cur.core s.cur.team l = some (movedOn s x) := by
        rw [h.threads l (hs l (hg l (by simp))), hx]; simp only [Option.map_some, lanesWith, hlD, if_false]
      have e : b.takeTrap b.cur.core b.cur.team l code tval cause tpc = b.modThread s.cur.core s.cur.team l (entered s tval cause tpc) := by
        rw [Effect.cur_eq h rfl]
        unfold State.takeTrap
        rw [hb]
        have hh : ((b.hdr s.cur.core).handler = 0 || (movedOn s x).inHandler) = false := by
          rw [hdr_effect h rfl, show (movedOn s x).inHandler = x.inHandler from rfl, hx']; simpa using ho.1
        simp only [hdr_effect h rfl] at hh ⊢
        rw [if_neg (by simpa using hh)]
        rfl
      simp only [List.foldl_cons, e]
      have k := Effect.thread h l (hs l (hg l (by simp))) (entered s tval cause tpc)
      have e2 : (fun i x => if i = l then entered s tval cause tpc (lanesWith done (fun _ => entered s tval cause tpc) i x)
          else lanesWith done (fun _ => entered s tval cause tpc) i x) = lanesWith (done ++ [l]) (fun _ => entered s tval cause tpc) := by
        funext i x
        simp only [lanesWith, List.mem_append, List.mem_singleton]
        by_cases h1 : i = l
        · subst h1; simp [hlD]
        · simp [h1]
      rw [e2] at k
      have := ih (done ++ [l]) _ hn'.2 (fun y hy => hg y (by simp [hy])) (fun y hy => by
        simp only [List.mem_append, List.mem_singleton, not_or]
        exact ⟨hd y (by simp [hy]), fun hyl => hn'.1 (hyl ▸ hy)⟩) k
      simpa [List.append_assoc] using this
  have := key ls [] b hn (fun _ h => h) (by simp) (by
    have : lanesWith [] (fun _ => entered s tval cause tpc) = fun _ x => x := by funext l x; simp [lanesWith]
    rw [this]; exact hb)
  rw [List.nil_append] at this
  exact this

theorem trapLanes_from (s b : State) (hb : UnitEffect s b s (fun _ x => x) id) (ls : List Nat) (hn : ls.Nodup) (hs : ∀ l ∈ ls, l ∈ s.subset) (ho : outsideHandler s ls)
    (code : Nat) (tval : Word) (unif next : Bool) :
    UnitEffect s (b.trapLanes ls code tval unif false next) s (lanesWith ls (fun _ => trapped s code tval unif next)) id := by
  unfold State.trapLanes
  simp only [Effect.cur_eq hb rfl]
  exact takeTraps_from s b hb ls hn hs ho code tval _ _

theorem trapLanes_effect (s : State) (ls : List Nat) (hn : ls.Nodup) (hs : ∀ l ∈ ls, l ∈ s.subset) (ho : outsideHandler s ls)
    (code : Nat) (tval : Word) (unif next : Bool) :
    UnitEffect s (s.advance.trapLanes ls code tval unif false next) s (lanesWith ls (fun _ => trapped s code tval unif next)) id :=
  trapLanes_from s _ (Effect.advance s) ls hn hs ho code tval unif next

theorem laneUnit_traps (s : State) (i : Instr) (gl : List Nat) (hn : gl.Nodup) (hs : ∀ l ∈ gl, l ∈ s.subset) (code : Nat) (v : Word) (next : Bool)
    (e : exec i s = .next (s.advance.trapLanes gl code v false false next).endIssue) : TrapsLanes s i gl code v false next := by
  intro ho
  exact ⟨_, e, Effect.ends (trapLanes_effect s gl hn hs ho code v false next)⟩

theorem laneUnit_bad (s : State) (i : Instr) (gl : List Nat) (v : Word) (body : State → State) (hw : i.wf = true) :
    s.laneUnit i gl false (some v) false body = (s.advance.trapLanes gl 0x02 v false false false).endIssue := by simp [State.laneUnit, hw]

theorem laneUnit_absent (s : State) (i : Instr) (gl : List Nat) (bad : Option Word) (body : State → State) (hw : i.wf = true) :
    s.laneUnit i gl true bad false body = (s.advance.trapLanes gl 0x07 i.word false false false).endIssue := by simp [State.laneUnit, hw]

theorem tpc_lane_advance (s : State) (l : Nat) : (s.advance.lane l).tpc = (s.lane l).tpc := by
  rw [lane_advance, State.lane]; cases kvGet s.team.lanes l with
  | none => rfl
  | some x => simp only [Option.getD_some]; split <;> rfl

theorem k_team_advance (s : State) (n : Nat) : s.advance.team.k n = s.team.k n := by
  have h : s.advance.team.kmasks = s.team.kmasks := show (teamShared s.advance.team).kmasks = (teamShared s.team).kmasks by rw [team_advance]
  simp only [Team.k, h]

theorem wg?_effect_map {s b r : State} {F : Nat → Thread → Thread} {M : Team → Team} (h : UnitEffect s b r F M) {α : Type}
    (f : Workgroup → α) (hf : ∀ w, f (groupShell w) = f w) (c : Nat) : (b.wg? c).map f = (s.wg? c).map f := by
  have e : f = f ∘ groupShell := funext (fun w => (hf w).symm)
  rw [e, ← Option.map_map, h.groups c, Option.map_map]

theorem told_advance (s : State) : s.advance.told = s.told := by
  simp only [State.told, cur_advance]
  rw [wg?_effect_map (Effect.advance s) (fun w => w.told) (fun _ => rfl)]
theorem hasItem_lane_advance (s : State) (l : Nat) : (s.advance.lane l).hasItem = (s.lane l).hasItem := by
  rw [lane_advance, State.lane]; cases kvGet s.team.lanes l with
  | none => rfl
  | some x => simp only [Option.getD_some]; split <;> rfl
theorem votes_advance (s : State) : s.advance.votes = s.votes := by
  simp only [State.votes, cur_advance, hdr_advance, subset_advance, hasItem_lane_advance]

end Sys2Proof.Machine
end

