-- ==== Sys2Proof/Certificates/Slice0/Obligations.lean ====
section
/-! DEFINITION. The statements for the provers. -/

open Sys2Proof Sys2Proof.Machine

/-! ### Lane arithmetic -/

/-- R349, R350, R351: with its registers in the launch's allocation, each instruction writes its result into d of every
thread whose guard holds, d, a and b being read first, and changes nothing else. R353, R364, R365, R277: MOV, MOVI with
the upper half from a governing EXT, IADDI with its signed immediate, and ISEL, whose field [25:23] selects and guards
nothing, so that the whole subset executes it. -/
def Obligations.LaneIntegersAndMoves : Prop :=
  (∀ (s : State) (g : BitVec 3) (d a b : BitVec 7), bad3 s.curAlloc d a b = none →
     let W := fun (i : Instr) (f : Word → Word → Word → Word) =>
       WritesLanes s i g d (fun l x => f (s.srcA l a) (s.srcB l b) (x.v d.toNat))
     W (.iadd g d a b) (fun x y _ => x + y) ∧ W (.isub g d a b) (fun x y _ => x - y)
     ∧ W (.imul g d a b) (fun x y _ => x * y) ∧ W (.imad g d a b) (fun x y z => x * y + z)
     ∧ W (.imulh g d a b) (fun x y _ => BitVec.ofInt 32 (x.toInt * y.toInt / 2 ^ 32))
     ∧ W (.imulhu g d a b) (fun x y _ => BitVec.ofNat 32 (x.toNat * y.toNat / 2 ^ 32))
     ∧ W (.imin g d a b) (fun x y _ => if x.toInt ≤ y.toInt then x else y)
     ∧ W (.imax g d a b) (fun x y _ => if x.toInt ≤ y.toInt then y else x)
     ∧ W (.iminu g d a b) (fun x y _ => if x.toNat ≤ y.toNat then x else y)
     ∧ W (.imaxu g d a b) (fun x y _ => if x.toNat ≤ y.toNat then y else x)
     ∧ W (.iabsd g d a b) (fun x y _ => BitVec.ofNat 32 (x.toInt - y.toInt).natAbs))
  ∧ (∀ (s : State) (g : BitVec 3) (d a b : BitVec 7) (imm : BitVec 16) (k : BitVec 9),
     (bad2 s.curAlloc d a = none →
       WritesLanes s (.mov g d a) g d (fun l _ => s.srcA l a)
       ∧ WritesLanes s (.iaddi g d a k) g d (fun l _ => s.srcA l a + k.signExtend 32))
     ∧ (bad1 s.curAlloc d = none →
       WritesLanes s (.movi g d imm) g d (fun _ _ => BitVec.ofNat 32 (imm.toNat + s.cur.extOff.toNat % 65536 * 65536)))
     ∧ (bad3 s.curAlloc d a b = none →
       Completes (.isel g d a b) s s (lanesWith s.subset
         (fun l x => x.setV d.toNat (if x.p g.toNat then s.srcA l a else s.srcB l b))) id))

/-- R298, R317 to R319, R325, R333, R369, R393: logic, shifts by b[4:0], counts and bit fields. -/
def Obligations.LaneLogicShiftsAndBits : Prop :=
  ∀ (s : State) (g : BitVec 3) (d a b : BitVec 7),
    (bad3 s.curAlloc d a b = none →
      let W := fun (i : Instr) (f : Word → Word → Word) => WritesLanes s i g d (fun l _ => f (s.srcA l a) (s.srcB l b))
      W (.and g d a b) (fun x y => x &&& y) ∧ W (.or g d a b) (fun x y => x ||| y)
      ∧ W (.xor g d a b) (fun x y => x ^^^ y) ∧ W (.andn g d a b) (fun x y => x &&& ~~~y)
      ∧ W (.shl g d a b) (fun x y => x <<< (y.toNat % 32)) ∧ W (.shr g d a b) (fun x y => x >>> (y.toNat % 32))
      ∧ W (.shra g d a b) (fun x y => x.sshiftRight (y.toNat % 32))
      ∧ W (.rotl g d a b) (fun x y => x.rotateLeft (y.toNat % 32))
      ∧ W (.bfx g d a b) extractBits ∧ W (.bfi g d a b) insertBits)
    ∧ (bad2 s.curAlloc d a = none →
      let W := fun (i : Instr) (f : Word → Word) => WritesLanes s i g d (fun l _ => f (s.srcA l a))
      W (.popc g d a) popcount ∧ W (.clz g d a) leadZeros ∧ W (.brev g d a) BitVec.reverse)

/-- R274: a write to p7 or q7 is discarded, and both read true before and after; the rest of the instruction takes
effect: compares and predicate logic complete whatever their target, the lane ones writing it in each thread whose guard
holds, the uniform ones in their team. -/
def Obligations.PredicateWrites : Prop :=
  ∀ (s : State) (g p n m : BitVec 3) (c : BitVec 4) (a b : BitVec 7),
    (intCondOk c = true → firstBad [(vOk s.curAlloc a, 1, a.toNat), (vOk s.curAlloc b, 2, b.toNat)] = none →
      Completes (.icmp g c p a b) s s (lanesWith (s.guarded g)
        (fun l x => x.setP p.toNat (intCond c.toNat (s.srcA l a) (s.srcB l b)))) (withFlags 0))
    ∧ (let W := fun (i : Instr) (f : Bool → Bool → Bool) => Completes i s s (lanesWith (s.guarded g)
        (fun _ x => x.setP p.toNat (f (x.p n.toNat) (x.p m.toNat)))) id
      W (.pand g p n m) (fun x y => x && y) ∧ W (.por g p n m) (fun x y => x || y)
      ∧ W (.pxor g p n m) (fun x y => x != y) ∧ W (.pnand g p n m) (fun x y => !(x && y)))
    ∧ (s.guardU g = true →
      (intCondOk c = true → firstBad [(sOk a, 1, a.toNat), (sOk b, 2, b.toNat)] = none →
        WritesTeam s (.scmp g c p a b) (fun t => t.setQ p.toNat (intCond c.toNat (t.sr a.toNat) (t.sr b.toNat))))
      ∧ (let W := fun (i : Instr) (f : Bool → Bool → Bool) =>
          WritesTeam s i (fun t => t.setQ p.toNat (f (t.q n.toNat) (t.q m.toNat)))
        W (.qand g p n m) (fun x y => x && y) ∧ W (.qor g p n m) (fun x y => x || y)
        ∧ W (.qxor g p n m) (fun x y => x != y) ∧ W (.qnand g p n m) (fun x y => !(x && y))))
    ∧ (∀ (x : Thread) (t : Team) (v : Bool), x.setP 7 v = x ∧ x.p 7 = true ∧ t.setQ 7 v = t ∧ t.q 7 = true)

/-! ### Lane floating point -/

/-- R340 to R343, R346, R347: each FP32 instruction writes its result into d, and ORs its flags over the executing
threads into MODE; FCMP writes a predicate. FCVT follows R58 and R59: F16.F32 of 0x477F_F000 under RZ gives NX alone, where the
table of R343 prints OF and NX (log 10, DEDUCED). -/
def Obligations.LaneSingleFloat : Prop :=
  ∀ (s : State) (g p : BitVec 3) (c : BitVec 4) (d a b k : BitVec 7),
    (bad3 s.curAlloc d a b = none →
      let W := fun (i : Instr) (f : BitVec 9 → Nat → Nat → Nat → Nat × FlagSet) =>
        let r := fun (l : Nat) (x : Thread) => f s.team.mode (s.srcA l a).toNat (s.srcB l b).toNat (x.v d.toNat).toNat
        WritesLanesFp s i g (fun l x => x.setV d.toNat (BitVec.ofNat 32 (r l x).1)) (fun l => (r l (s.lane l)).2)
      W (.fadd g d a b) (fun m x y _ => fp32.add m x y) ∧ W (.fsub g d a b) (fun m x y _ => fp32.sub m x y)
      ∧ W (.fmul g d a b) (fun m x y _ => fp32.mul m x y) ∧ W (.ffma g d a b) (fun m x y z => fp32.fma m x y z)
      ∧ W (.fmin g d a b) (fun m x y _ => fp32.minMax m false x y)
      ∧ W (.fmax g d a b) (fun m x y _ => fp32.minMax m true x y))
    ∧ (bad2 s.curAlloc d a = none →
      let W := fun (i : Instr) (f : BitVec 9 → Word → Nat × FlagSet) =>
        WritesLanesFp s i g (fun l x => x.setV d.toNat (BitVec.ofNat 32 (f s.team.mode (s.srcA l a)).1))
          (fun l => (f s.team.mode (s.srcA l a)).2)
      (k.toNat ≤ 4 → W (.frnd g d a k) (fun m x => frndVal m k.toNat x))
      ∧ (fcvtCodeOk k = true → W (.fcvt g d a k) (fun m x => fcvtVal m k.toNat x)))
    ∧ (fpCondOk c = true → firstBad [(vOk s.curAlloc a, 1, a.toNat), (vOk s.curAlloc b, 2, b.toNat)] = none →
      let r := fun (l : Nat) => fcmpVal s.team.mode c.toNat (s.srcA l a).toNat (s.srcB l b).toNat
      WritesLanesFp s (.fcmp g c p a b) g (fun l x => x.setP p.toNat (r l).1) (fun l => (r l).2))

/-- R312, R348: each half of d by itself, from the same halves of a, b and d, with the flags of both halves. R334 to
R336: where the core has the FP64 unit, the FP64 instructions on pairs, with flags. -/
def Obligations.LanePairedAndDoubleFloat : Prop :=
  (∀ (s : State) (g : BitVec 3) (d a b : BitVec 7), bad3 s.curAlloc d a b = none →
     let W := fun (i : Instr) (f : BitVec 9 → Nat → Nat → Nat → Nat × FlagSet) =>
       let r := fun (l : Nat) (x : Thread) (k : Nat) =>
         f s.team.mode (halfOf (s.srcA l a) k) (halfOf (s.srcB l b) k) (halfOf (x.v d.toNat) k)
       WritesLanesFp s i g (fun l x => x.setV d.toNat (ofHalves (r l x 0).1 (r l x 1).1))
         (fun l => (r l (s.lane l) 0).2 ||| (r l (s.lane l) 1).2)
     W (.hadd2 g d a b) (fun m x y _ => fp16.add m x y) ∧ W (.hmul2 g d a b) (fun m x y _ => fp16.mul m x y)
     ∧ W (.hfma2 g d a b) (fun m x y z => fp16.fma m x y z)
     ∧ W (.hmax2 g d a b) (fun m x y _ => fp16.minMax m true x y)
     ∧ W (.badd2 g d a b) (fun m x y _ => bf16.add m x y) ∧ W (.bmul2 g d a b) (fun m x y _ => bf16.mul m x y)
     ∧ W (.bfma2 g d a b) (fun m x y z => bf16.fma m x y z)
     ∧ W (.bmax2 g d a b) (fun m x y _ => bf16.minMax m true x y))
  ∧ (∀ (s : State) (g : BitVec 3) (d a b k : BitVec 7), hasFp64 s.part s.cur.core = true →
     (badPair3 s.curAlloc d a b = none →
       let W := fun (i : Instr) (f : BitVec 9 → Nat → Nat → Nat → Nat × FlagSet) =>
         let r := fun (l : Nat) (x : Thread) =>
           f s.team.mode (s.srcA2 l a).toNat (s.srcB2 l b).toNat (x.v2 d.toNat).toNat
         WritesLanesFp s i g (fun l x => x.setV2 d.toNat (BitVec.ofNat 64 (r l x).1)) (fun l => (r l (s.lane l)).2)
       W (.dadd g d a b) (fun m x y _ => fp64.add m x y) ∧ W (.dmul g d a b) (fun m x y _ => fp64.mul m x y)
       ∧ W (.dfma g d a b) (fun m x y z => fp64.fma m x y z))
     ∧ (k = 0x10 ∨ k = 0x12 → v2Ok s.curAlloc d = true → vOk s.curAlloc a = true →
       let r := fun (l : Nat) => dcvtVal s.team.mode k.toNat ((s.srcA l a).zeroExtend 64)
       WritesLanesFp s (.dcvt g d a k) g (fun l x => x.setV2 d.toNat (BitVec.ofNat 64 (r l).1)) (fun l => (r l).2))
     ∧ (k = 0x11 ∨ k = 0x13 → vOk s.curAlloc d = true → v2Ok s.curAlloc a = true →
       let r := fun (l : Nat) => dcvtVal s.team.mode k.toNat (s.srcA2 l a)
       WritesLanesFp s (.dcvt g d a k) g (fun l x => x.setV d.toNat (BitVec.ofNat 32 (r l).1)) (fun l => (r l).2)))

/-! ### Cross-lane work -/

/-- R417 to R419: VNBR writes the neighbour's register, VSCAN the running combination in lane order, VRED the combination in
log-step order over 64 lanes, VVOTE the vote over the participants. A neighbour of another team is read as it stands at the issue (log 39,
DEDUCED). -/
def Obligations.CrossLaneResults : Prop :=
  ∀ (s : State) (g p : BitVec 3) (d a k : BitVec 7),
    let gl := s.guarded g
    (bad2 s.curAlloc d a = none → k.toNat ≤ 1 →
      WritesLanes s (.vnbr g d a k) g d (fun l _ => s.neighbourReg l (k = 1) a))
    ∧ (bad2 s.curAlloc d a = none → k.toNat ≤ 5 →
      let r := scanVals s.team.mode k.toNat none 0 (gl.map (fun l => (s.lane l).v a.toNat))
      Completes (.vscan g d a k) s s (lanesWith gl (fun l x => x.setV d.toNat (r.1.getD (gl.idxOf l) 0))) (withFlags r.2))
    ∧ (bad2 s.curAlloc d a = none → k.toNat ≤ 5 →
      let r := redVals s.team.mode k.toNat 6
        ((List.range 64).map (fun l => if gl.contains l then some ((s.lane l).v a.toNat) else none))
      Completes (.vred g d a k) s s (lanesWith gl (fun _ x => x.setV d.toNat (r.1.getD 0))) (withFlags r.2))
    ∧ (bad1 s.curAlloc d = none → k.toNat ≤ 2 →
      WritesLanes s (.vvote g d p k) g d
        (fun l _ => voteWord k.toNat gl (gl.filter (fun i => (s.lane i).p p.toNat)) l))

/-! ### Quantisation, special registers, special functions and estates -/

/-- R103, R104: VQNS reads every operand, shapes the participants' elements block by block with the residue of the lowest
lane, writes each result word into d and the residue after the last into every b; VDQ writes the value of its word. -/
def Obligations.LaneQuantisation : Prop :=
  ∀ (s : State) (g : BitVec 3) (d a b : BitVec 7), bad3 s.curAlloc d a b = none →
    let gl := s.guarded g
    let Q := fun (i : Instr) (ty : Nat) (scaleByte : Shaped → Nat) =>
      let r := shapeLine ty ((s.lane (gl.headD 0)).v b.toNat).toNat (s.vqnsBlocks gl d a)
      let e := fun (l : Nat) => r.1.getD (gl.idxOf l) ⟨0, 0, false⟩
      Completes i s s (lanesWith gl (fun l x =>
        (x.setV d.toNat (BitVec.ofNat 32 ((e l).code + scaleByte (e l) * 256 + ty * 65536))).setV b.toNat
          (BitVec.ofNat 32 r.2))) id
    (d ≠ b → Q (.vqnsE2m1 g d a b) 5 (fun e => e.scale) ∧ Q (.vqnsI4h g d a b) 6 (fun e => e.scale)
      ∧ Q (.vqnsI8h g d a b) 4 (fun e => if e.bad then 0xFF else 0))
    ∧ WritesLanes s (.vdq g d a b) g d (fun l _ => vdqVal ((s.lane l).v a.toNat) ((s.lane l).v b.toNat))

/-- R291, R292: what SREAD writes, selector by selector; a handler register only in threads that are all in their
handlers. The kept half of the clock pairs the reads of CLOCK_LO and CLOCK_HI. R291, R292: what SSR writes for the team;
CLOCK keeps its half in the team. SIBLING reads 0 in a workgroup with no tile (log 40, DEDUCED). -/
def Obligations.SpecialRegisterReads : Prop :=
  (∀ (s : State) (g : BitVec 3) (d : BitVec 7), bad1 s.curAlloc d = none →
     let gl := s.guarded g
     let c := s.cur.core
     let tile := (s.wg? c).bind (·.tile)
     let W := fun (sel : BitVec 7) (val : Nat → Thread → Word) => WritesLanes s (.sread g d sel) g d val
     W 0x00 (fun _ _ => 64) ∧ W 0x01 (fun l _ => BitVec.ofNat 32 l) ∧ W 0x02 (fun _ _ => BitVec.ofNat 32 s.cur.team)
     ∧ W 0x03 (fun _ _ => BitVec.ofNat 32 (s.hdr c).teams)
     ∧ W 0x04 (fun _ x => loWord x.workid) ∧ W 0x05 (fun _ x => hiWord x.workid)
     ∧ W 0x06 (fun _ _ => loWord (tileNo tile)) ∧ W 0x07 (fun _ _ => hiWord (tileNo tile))
     ∧ W 0x08 (fun _ _ => BitVec.ofNat 32 (coreX c)) ∧ W 0x09 (fun _ _ => BitVec.ofNat 32 (coreY c))
     ∧ W 0x0A (fun _ _ => BitVec.ofNat 32 (coreDie c))
     ∧ W 0x0D (fun _ _ => s.team.modeWord) ∧ W 0x0E (fun _ _ => capsOf s.part c)
     ∧ W 0x0F (fun _ x => estatus x.claims) ∧ W 0x10 (fun _ _ => s.team.sfLast)
     ∧ W 0x15 (fun _ _ => BitVec.ofNat 32 ((tile.map (s.hdr c).sibOf).getD 0))
     ∧ W 0x16 (fun _ _ => BitVec.ofNat 32 (s.ctxOf c))
     ∧ W 0x17 (fun _ x => loWord x.stackBase) ∧ W 0x18 (fun _ x => BitVec.ofNat 32 (x.stackBase.toNat / 2 ^ 32 % 2 ^ 25))
     ∧ ((∀ l ∈ gl, (s.lane l).inHandler = true) →
       W 0x11 (fun _ x => x.tcause) ∧ W 0x12 (fun _ x => loWord (x.tpc.zeroExtend 64))
       ∧ W 0x13 (fun _ x => hiWord (x.tpc.zeroExtend 64)) ∧ W 0x14 (fun _ x => x.tval))
     ∧ Completes (.sread g d 0x0B) s s (lanesWith gl (fun _ x =>
         { x.setV d.toNat (loWord (s.clock c)) with clockHi := some (hiWord (s.clock c)) })) id
     ∧ Completes (.sread g d 0x0C) s s (lanesWith gl (fun _ x =>
         { x.setV d.toNat (x.clockHi.getD (hiWord (s.clock c))) with clockHi := none })) id)
  ∧ (∀ (s : State) (g : BitVec 3) (d : BitVec 7), s.guardU g = true → sOk d = true →
     let c := s.cur.core
     let tile := (s.wg? c).bind (·.tile)
     let W := fun (sel : BitVec 7) (val : Word) => WritesTeam s (.ssr g d sel) (fun m => m.setSr d.toNat val)
     W 0x00 64 ∧ W 0x02 (BitVec.ofNat 32 s.cur.team) ∧ W 0x03 (BitVec.ofNat 32 (s.hdr c).teams)
     ∧ W 0x06 (loWord (tileNo tile)) ∧ W 0x07 (hiWord (tileNo tile))
     ∧ W 0x08 (BitVec.ofNat 32 (coreX c)) ∧ W 0x09 (BitVec.ofNat 32 (coreY c)) ∧ W 0x0A (BitVec.ofNat 32 (coreDie c))
     ∧ W 0x0D s.team.modeWord ∧ W 0x0E (capsOf s.part c) ∧ W 0x10 s.team.sfLast
     ∧ W 0x15 (BitVec.ofNat 32 ((tile.map (s.hdr c).sibOf).getD 0)) ∧ W 0x16 (BitVec.ofNat 32 (s.ctxOf c))
     ∧ WritesTeam s (.ssr g d 0x0B)
         (fun m => { m.setSr d.toNat (loWord (s.clock c)) with clockHi := some (hiWord (s.clock c)) })
     ∧ WritesTeam s (.ssr g d 0x0C)
         (fun m => { m.setSr d.toNat (m.clockHi.getD (hiWord (s.clock c))) with clockHi := none }))

/-- R91, R137, R146, R389: SFQ takes the team's next token and, where some guard is true, leaves the operands of the
executing threads to their results; WILL of an estate launch sets the mark, and does nothing in a launch that bequeaths
nothing; HEIRQ writes its three words. -/
def Obligations.SpecialFunctionIssueAndEstates : Prop :=
  ∀ (s : State) (g : BitVec 3) (d a b k : BitVec 7),
    let gl := s.guarded g
    let h := s.hdr s.cur.core
    (bad2 s.curAlloc d a = none → k.toNat ≤ 7 →
      let x : Sfq := ⟨s.nextSeq, s.cur.core, s.cur.team, s.team.uid, s.team.sfNo, k.toNat, d.toNat,
        gl.map (fun l => (l, (s.lane l).tid, (s.lane l).v a.toNat))⟩
      Completes (.sfq g d a k) s
        (if gl = [] then s else { s with sfqs := s.sfqs ++ [x], nextSeq := s.nextSeq + 1 })
        (fun _ x => x) (fun m => { m with sfNo := m.sfNo + 1 }))
    ∧ (b.toNat ≤ 8 → a.toNat < s.curAlloc → a.toNat + b.toNat ≤ s.curAlloc →
      Completes (.will g a b) s s
        (if h.test then lanesWith gl (fun _ x => { x with mark := (a.toNat, b.toNat) }) else fun _ x => x) id)
    ∧ (b.toNat < 8 → d.toNat + 2 < s.curAlloc →
      Completes (.heirq g d b) s s (lanesWith gl (fun _ x =>
        let r := x.heirq h b.toNat
        ((x.setV d.toNat (loWord r.1)).setV (d.toNat + 1) (hiWord r.1)).setV (d.toNat + 2) r.2)) id)

/-! ### Memory -/

/-- R276, R359, R403, R370: a lane load whose accesses reach their places puts one load in flight for each executing
thread and counts one in LD; registers and memory stay as they are until the loads are satisfied. PRF, lane by lane, may at most
send a read of a line to another die; it changes no register and no memory.
R401, R402: a lane store whose accesses reach their places puts the bytes of d into the buffer of each executing thread
and counts one in ST; no byte of memory changes yet. R303, R331: a returning atomic, and a CAS, of every thread of the
subset goes in flight with its operands read, and counts one in LD; R376: a RED goes into the buffers with its operand,
and counts one in ST. -/
def Obligations.LaneLoadsStoresAndAtomics : Prop :=
  ((∀ (s : State) (g : BitVec 3) (d a sb : BitVec 7),
      let L := fun (i : Instr) (n : Nat) (signed : Bool) =>
        IssuesLoads s i (s.guarded g) (fun l => s.lmAddr l a sb) n 0 false (fun _ => .lane d.toNat signed)
      (badLm s.curAlloc (vOk s.curAlloc d) d a sb = none →
        L (.ldB g d a sb) 1 false ∧ L (.ldSb g d a sb) 1 true ∧ L (.ldH g d a sb) 2 false ∧ L (.ldSh g d a sb) 2 true
        ∧ L (.ldW g d a sb) 4 false)
      ∧ (badLm s.curAlloc (v2Ok s.curAlloc d) d a sb = none → L (.ldD g d a sb) 8 false)
      ∧ (badLm s.curAlloc (v4Ok s.curAlloc d) d a sb = none → L (.ldQ g d a sb) 16 false)
      ∧ (badLm s.curAlloc true 0 a sb = none →
        Completes (.prf g a sb) s ((s.guarded g).foldl (fun t l => t.prefetch (s.lmAddr l a sb)) s) (fun _ x => x) id)
      ∧ ∀ addr, ({ s.prefetch addr with chans := s.chans, chanSeq := s.chanSeq, nextSeq := s.nextSeq, freeCtr := s.freeCtr } : State)
          = s)
   ∧ (∀ (s : State) (g : BitVec 3) (d a sb : BitVec 7),
      let S := fun (i : Instr) (n : Nat) =>
        IssuesStores s i (s.guarded g) (fun l => s.lmAddr l a sb) n (fun l => (s.lane l).dataBytes d.toNat n) none
      (badLm s.curAlloc (vOk s.curAlloc d) d a sb = none →
        S (.stB g d a sb) 1 ∧ S (.stH g d a sb) 2 ∧ S (.stW g d a sb) 4)
      ∧ (badLm s.curAlloc (v2Ok s.curAlloc d) d a sb = none → S (.stD g d a sb) 8)
      ∧ (badLm s.curAlloc (v4Ok s.curAlloc d) d a sb = none → S (.stQ g d a sb) 16)))
  ∧ (∀ (s : State) (sc : BitVec 2) (op : BitVec 3) (d a b : BitVec 7),
     let addr := fun (l : Nat) => (s.lane l).v2 a.toNat
     (firstBad [(vOk s.curAlloc d, 0, d.toNat), (v2Ok s.curAlloc a, 1, a.toNat), (vOk s.curAlloc b, 2, b.toNat)] = none →
       let A := fun (i : Instr) (code : Nat) => IssuesLoads s i s.subset addr 4 sc.toNat true
         (fun l => .atom d.toNat code ((s.lane l).v b.toNat))
       A (.atomAdd sc d a b) 0 ∧ A (.atomFadd sc d a b) 1 ∧ A (.atomMin sc d a b) 2 ∧ A (.atomMax sc d a b) 3
       ∧ A (.atomAnd sc d a b) 4 ∧ A (.atomOr sc d a b) 5 ∧ A (.atomXor sc d a b) 6 ∧ A (.atomExch sc d a b) 7
       ∧ IssuesLoads s (.casW sc d a b) s.subset addr 4 sc.toNat true (fun l =>
           .cas d.toNat (((s.lane l).v d.toNat).zeroExtend 64) (((s.lane l).v b.toNat).zeroExtend 64)))
     ∧ (firstBad [(v2Ok s.curAlloc d, 0, d.toNat), (v2Ok s.curAlloc a, 1, a.toNat), (v2Ok s.curAlloc b, 2, b.toNat)] = none →
       IssuesLoads s (.casD sc d a b) s.subset addr 8 sc.toNat true (fun l =>
         .cas d.toNat ((s.lane l).v2 d.toNat) ((s.lane l).v2 b.toNat)))
     ∧ (firstBad [(v2Ok s.curAlloc a, 1, a.toNat), (vOk s.curAlloc b, 2, b.toNat)] = none →
       IssuesStores s (.red sc op a b) s.subset addr 4 (fun l => toBytes 4 ((s.lane l).v b.toNat).toNat)
         (some (op.toNat, sc.toNat))))

/-- R396: a uniform load or store whose address, s[a:a+1] plus eight times the signed immediate, reaches its place, of the
team's uniform agent: one load in flight, or one entry in the buffer with the bytes of d. -/
def Obligations.UniformMemory : Prop :=
  ∀ (s : State) (g : BitVec 3) (d a imm : BitVec 7), s.guardU g = true → s2Ok a = true →
    let addr : DWord := s.team.sr2 a.toNat + imm.signExtend 64 * 8
    let L := fun (i : Instr) (n : Nat) => ∀ key, reaches s addr n false = some key →
      Completes i s { s with
          loads := s.loads ++ [⟨s.nextSeq + 1, s.cur.core, s.cur.team, s.team.uid, s.team.uid, key, n, 0, .unif d.toNat,
            s.nextSeq, addr⟩]
          nextSeq := s.nextSeq + 2 }
        (fun _ x => x) (fun m => { m with ld := m.ld ++ [⟨s.nextSeq, false⟩] })
    let S := fun (i : Instr) (n : Nat) => ∀ key, reaches s addr n true = some key →
      let w : WEntry := ⟨s.nextSeq + 1, s.cur.core, s.team.uid,
        .team (((s.wg? s.cur.core).map (·.launch)).getD 0) s.team.uid s.nextSeq (s.team.stCount + 1), key,
        (toBytes 8 (s.team.sr2 d.toNat).toNat).take n, none, some (s.ctxOf s.cur.core), addr, false⟩
      Completes i s { s with stbuf := s.stbuf ++ [w], writes := s.writes ++ [tracked w], nextSeq := s.nextSeq + 2 }
        (fun _ x => x) (fun m => { m with st := m.st ++ [⟨s.nextSeq, false⟩], stCount := m.stCount + 1 })
    (sOk d = true → L (.sldW g d a imm) 4 ∧ S (.sstW g d a imm) 4)
    ∧ (s2Ok d = true → L (.sldD g d a imm) 8 ∧ S (.sstD g d a imm) 8)

/-- R107, R109, R130, R182, R193, R195: an access that is not aligned, whose address is none, or that stores to a sealed page,
traps its thread MISALIGNED, ADDRESS_INVALID or SEALED_STORE with the address in TVAL; one whose page no TLB holds asks for a
walk and holds its thread at the unit, but for a RED's, which is not held (R195). A uniform access does so with its whole
subset. -/
def Obligations.AccessTrapsAndMisses : Prop :=
  ∀ (s : State) (i : Instr), firstBad (regFields s.curAlloc (s.hdr s.cur.core).accs i) = none →
    let gl := executing s i
    let ctx := s.ctxOf s.cur.core
    (∀ addr n write, laneAccessOf s i = some (addr, n, write) →
      (∀ code, (∀ l ∈ gl, accessTrap s (addr l) n write = some (code l)) →
        TrapsEach s i 1 gl code (fun l => loWord (addr l)) write)
      ∧ ((∀ sc op a b, i ≠ .red sc op a b) →
        (∀ l ∈ gl, (s.thread? s.cur.core s.cur.team l).isSome = true ∧ accessMisses s (addr l) n write) →
        Completes i s
          (gl.foldl (fun t l => t.needWalk s.cur.core ctx (addr l).toNat) { s with nextSeq := s.nextSeq + 1 })
          (lanesWith gl (fun l => heldAt s (.walk (missOfUnit s (addr l) write false)))) id))
    ∧ (∀ addr n write, unifAccessOf s i = some (addr, n, write) → executes s i = true →
      (∀ code, accessTrap s addr n write = some code → outsideHandler s s.subset →
        Completes i s s (lanesWith s.subset (fun _ =>
          entered s (loWord addr) (tcause code s.cur.pfx.isPrefix true write false) s.cur.pc)) id)
      ∧ (accessMisses s addr n write → Completes i s (s.needWalk s.cur.core ctx addr.toNat)
        (lanesWith s.subset (fun _ => heldAt s (.walk (missOfUnit s addr write true)))) id))

/-! ### Uniform registers -/

/-- R381 to R383, R398, R400: with the team's guard true, each uniform function of registers writes s[d] and
nothing else. SSEL has no guard: its field [25:23] selects. -/
def Obligations.UniformArithmetic : Prop :=
  ∀ (s : State) (g n : BitVec 3) (d a b : BitVec 7) (imm : BitVec 16) (k : BitVec 9),
    (s.guardU g = true → badS3 d a b = none →
      let W := fun (i : Instr) (f : Word → Word → Word) =>
        WritesTeam s i (fun m => m.setSr d.toNat (f (m.sr a.toNat) (m.sr b.toNat)))
      W (.sadd g d a b) (fun x y => x + y) ∧ W (.ssub g d a b) (fun x y => x - y) ∧ W (.smul g d a b) (fun x y => x * y)
      ∧ W (.smulh g d a b) (fun x y => BitVec.ofInt 32 (x.toInt * y.toInt / 2 ^ 32))
      ∧ W (.sand g d a b) (fun x y => x &&& y) ∧ W (.sor g d a b) (fun x y => x ||| y)
      ∧ W (.sxor g d a b) (fun x y => x ^^^ y) ∧ W (.sshl g d a b) (fun x y => x <<< (y.toNat % 32))
      ∧ W (.sshr g d a b) (fun x y => x >>> (y.toNat % 32))
      ∧ W (.sshra g d a b) (fun x y => x.sshiftRight (y.toNat % 32))
      ∧ W (.smin g d a b) (fun x y => if x.toInt ≤ y.toInt then x else y)
      ∧ W (.smax g d a b) (fun x y => if x.toInt ≤ y.toInt then y else x))
    ∧ (badS3 d a b = none →
      WritesTeam s (.ssel n d a b) (fun m => m.setSr d.toNat (if m.q n.toNat then m.sr a.toNat else m.sr b.toNat)))
    ∧ (s.guardU g = true → badS2 d a = none →
      WritesTeam s (.smov g d a) (fun m => m.setSr d.toNat (m.sr a.toNat))
      ∧ WritesTeam s (.saddi g d a k) (fun m => m.setSr d.toNat (m.sr a.toNat + k.signExtend 32)))
    ∧ (s.guardU g = true → sOk d = true → WritesTeam s (.smovi g d imm) (fun m => m.setSr d.toNat (imm.zeroExtend 32)))

/-- R397: SMODE writes MODE[8:0]. R357: KSET writes the lanes of the issuing subset, KAND and KOR combine two masks, KMOV
copies one, and, where no thread of the team waits at a JOIN, nothing else changes. R356: where the threads that wait all wait at
the JOIN of one mask, they are released, as an acquire at BLOCK scope, exactly if the mask as written names no other thread of
the team. -/
def Obligations.ModeAndMasks : Prop :=
  (∀ (s : State) (g : BitVec 3) (a : BitVec 7), s.guardU g = true → sOk a = true →
     WritesTeam s (.smode g a) (fun t => { t with mode := BitVec.ofNat 9 (t.sr a.toNat).toNat }))
  ∧ (∀ (s : State) (g d a b : BitVec 3), s.guardU g = true →
     (∀ e ∈ s.team.lanes, e.1 ∉ s.subset → ∀ n, e.2.wait ≠ .join n) →
     WritesTeam s (.kset g d) (fun m => m.setK d.toNat s.cur.lanes)
     ∧ WritesTeam s (.kand g d a b) (fun m => m.setK d.toNat (m.k a.toNat &&& m.k b.toNat))
     ∧ WritesTeam s (.kor g d a b) (fun m => m.setK d.toNat (m.k a.toNat ||| m.k b.toNat))
     ∧ WritesTeam s (.kmov g d a) (fun m => m.setK d.toNat (m.k a.toNat)))
  ∧ (∀ (s : State) (g d a b : BitVec 3) (n : Nat), s.guardU g = true → n < 8 →
     (∀ e ∈ s.team.lanes, e.1 ∉ s.subset → ∀ k, e.2.wait = .join k → k = n) →
     let J := fun (i : Instr) (M : Team → Team) =>
       let u := s.advance.onTeam M
       let names := u.team.lanes.filterMap (fun e => if e.2.wait = .join n then some e.2.tid else none)
       ((names ≠ [] ∧ u.team.joinMet n = true) → exec i s = .next (u.acquire s.cur.core u.team.uid names 0 []).endIssue)
       ∧ (¬ (names ≠ [] ∧ u.team.joinMet n = true) → exec i s = .next u.endIssue)
     J (.kset g d) (fun m => m.setK d.toNat s.cur.lanes)
     ∧ J (.kand g d a b) (fun m => m.setK d.toNat (m.k a.toNat &&& m.k b.toNat))
     ∧ J (.kor g d a b) (fun m => m.setK d.toNat (m.k a.toNat ||| m.k b.toNat))
     ∧ J (.kmov g d a) (fun m => m.setK d.toNat (m.k a.toNat)))
  ∧ ∀ (m : Team) (n : Nat), m.joinMet n = true ↔
     ∀ l, l < 64 → (m.k n).getLsbD l = true → ∀ x, kvGet m.lanes l = some x → x.wait = .join n

/-! ### Transfers -/

/-- R324, R354, R366, R384, R268: a branch whose target is a code address moves the threads whose guard holds, SBRA the whole
subset, to that target; NOP moves its subset past itself. -/
def Obligations.Branches : Prop :=
  ∀ (s : State) (g : BitVec 3) (off : BitVec 23) (a : BitVec 7),
    let goto := fun (x : DWord) (t : Thread) => { t with pc := BitVec.ofNat 57 x.toNat }
    let x : DWord := BitVec.ofInt 64 ((s.cur.pc.toNat : Int) + 4 * off.toInt)
    (targetTrap x = none →
      Completes (.bra g off) s s (lanesWith (s.guarded g) (fun _ => goto x)) id
      ∧ (s.guardU g = true → Completes (.sbra g off) s s (lanesWith s.subset (fun _ => goto x)) id))
    ∧ (v2Ok s.curAlloc a = true → (∀ l ∈ s.guarded g, targetTrap ((s.lane l).v2 a.toNat) = none) →
      Completes (.jmpr g a) s s (lanesWith (s.guarded g) (fun l => goto ((s.lane l).v2 a.toNat))) id)
    ∧ Completes (.nop g) s s (fun _ t => t) id

/-- R328, R329, R379: CALL pushes the next unit's address, keeps the eight latest and moves to its target; a thread whose
depth is 8 or more stores its oldest entry to its stack area. RET moves to the top and drops it; a thread whose depth is 9 or
more stays at the RET until the entry that it loads is there. -/
def Obligations.CallsAndReturns : Prop :=
  ∀ (s : State) (g : BitVec 3) (off : BitVec 23),
    let gl := s.guarded g
    let x : DWord := BitVec.ofInt 64 ((s.cur.pc.toNat : Int) + 4 * off.toInt)
    let slot := fun (k l : Nat) => (s.lane l).stackBase + BitVec.ofNat 64 (8 * ((s.lane l).depth - k))
    let there := fun (l : Nat) => (s.thread? s.cur.core s.cur.team l).isSome = true
    (targetTrap x = none → (∀ l ∈ gl, there l) →
      let deep := gl.filter (fun l => decide (8 ≤ (s.lane l).depth))
      (∀ l ∈ deep, 8 * ((s.lane l).depth - 8) + 8 ≤ (s.hdr s.cur.core).stkSize ∧ (reaches s (slot 8 l) 8 true).isSome = true) →
      let es := storeEntries s deep (slot 8) 8 (fun l => toBytes 8 ((s.lane l).rstack.getLastD 0).toNat) none
      Completes (.call g off) s
        { s with stbuf := s.stbuf ++ es, writes := s.writes ++ es.map tracked, nextSeq := s.nextSeq + 1 + deep.length }
        (lanesWith gl (fun _ t => { t with
          rstack := (s.cur.next.zeroExtend 64 :: t.rstack).take 8, depth := t.depth + 1, pc := BitVec.ofNat 57 x.toNat }))
        (fun m => if deep = [] then m else { m with st := m.st ++ [⟨s.nextSeq, false⟩], stCount := m.stCount + 1 }))
    ∧ ((∀ l ∈ gl, there l ∧ 0 < (s.lane l).depth ∧ targetTrap ((s.lane l).rstack.headD 0) = none) →
      let deep := gl.filter (fun l => decide (9 ≤ (s.lane l).depth))
      (∀ l ∈ deep, (reaches s (slot 9 l) 8 false).isSome = true) →
      Completes (.ret g) s
        { s with loads := s.loads ++ loadReqs s deep (slot 9) 8 0 false (fun _ => .refill), nextSeq := s.nextSeq + 1 + deep.length }
        (lanesWith gl (fun l t => if 9 ≤ t.depth then heldAt s (.refill (s.nextSeq + 1 + deep.idxOf l)) t
          else { t with rstack := t.rstack.tail, depth := t.depth - 1, pc := BitVec.ofNat 57 (t.rstack.headD 0).toNat, wait := .ready }))
        (fun m => if deep = [] then m else { m with ld := m.ld ++ [⟨s.nextSeq, false⟩] }))

/-- R268, R324, R354, R327 to R329, R379, R380, R384: a target that is no code address traps the transfer, the threads each by their
own where it is a thread's; a CALL whose spill passes STKSIZE, and a RET with nothing on the stack, trap STACK_LIMIT; a RETT
outside the handler traps PRIVILEGE. Nothing moves. -/
def Obligations.TransferTraps : Prop :=
  ∀ (s : State) (g : BitVec 3) (off : BitVec 23) (a : BitVec 7),
    let gl := s.guarded g
    let x : DWord := BitVec.ofInt 64 ((s.cur.pc.toNat : Int) + 4 * off.toInt)
    let top := fun (l : Nat) => (s.lane l).rstack.headD 0
    (∀ y : DWord, targetTrap y = if y.toNat % 4 ≠ 0 then some 0x03
      else if 2 ^ 57 ≤ y.toNat ∨ y.toNat / 2 ^ 48 = 0x1FF then some 0x04 else none)
    ∧ (∀ c, targetTrap x = some c →
      TrapsLanes s (.bra g off) gl c (loWord x) false false ∧ TrapsLanes s (.call g off) gl c (loWord x) false false
      ∧ (s.guardU g = true → TrapsLanes s (.sbra g off) s.subset c (loWord x) true false))
    ∧ (v2Ok s.curAlloc a = true → ∀ code, (∀ l ∈ gl, targetTrap ((s.lane l).v2 a.toNat) = some (code l)) →
      TrapsEach s (.jmpr g a) 0 gl code (fun l => loWord ((s.lane l).v2 a.toNat)) false)
    ∧ (∀ code tval, (∀ l ∈ gl, ((s.lane l).depth = 0 ∧ code l = 0x09 ∧ tval l = 0xFFFFFFF8)
        ∨ (0 < (s.lane l).depth ∧ targetTrap (top l) = some (code l) ∧ tval l = loWord (top l))) →
      TrapsEach s (.ret g) 1 gl code tval false)
    ∧ (targetTrap x = none →
      (∀ l ∈ gl, 8 ≤ (s.lane l).depth ∧ (s.hdr s.cur.core).stkSize < 8 * ((s.lane l).depth - 8) + 8) →
      TrapsEach s (.call g off) 1 gl (fun _ => 0x09) (fun l => BitVec.ofNat 32 (8 * ((s.lane l).depth - 8))) false)
    ∧ (s.guardU g = true → sOk a = true → s.subset ≠ [] →
      TrapsLanes s (.rett g a) s.subset 0x08 (Instr.rett g a).word true false)

/-! ### Traps -/

/-- R271: a lane word that no thread of the subset executes, and a uniform word whose guard is false, do nothing, whatever
their other fields hold: nothing changes but the PCs of the subset. (SFQ takes its team's next token even so, R91; the names
that the model has given out, which count up, are its own.) -/
def Obligations.FalseGuardsDoNothing : Prop :=
  ∀ (s : State) (i : Instr) (g : BitVec 3), s.stop = none →
    (laneGuard i = some g → s.guarded g = [] → (∀ d a k, i ≠ .sfq g d a k) →
      ∃ n, Completes i s { s with nextSeq := s.nextSeq + n } (fun _ x => x) id)
    ∧ (unifGuard i = some g → s.guardU g = false → Completes i s s (fun _ x => x) id)

/-- R273: of the register fields of a word, in the order d, a, b, sb, ACC, the first that fails its check is in the TVAL of
ILLEGAL_REG, its value in bits [6:0] and its place in bits [10:8]; it traps the threads that execute the word (R182, R272,
R280), and nothing else changes. -/
def Obligations.RegisterFieldTraps : Prop :=
  (∀ (fs : List (Bool × Nat × Nat)) (v : Word), firstBad fs = some v ↔
    ∃ pre place x post, fs = pre ++ (false, place, x) :: post ∧ (∀ f ∈ pre, f.1 = true) ∧ v = BitVec.ofNat 32 (x + 256 * place))
  ∧ ∀ (s : State) (i : Instr) (v : Word), s.stop = none → i.wf = true → unitPresent s i = true → entryFirst s i = true →
    executes s i = true → firstBad (regFields s.curAlloc (s.hdr s.cur.core).accs i) = some v →
    TrapsLanes s i (executing s i) 0x02 v (isUniform i) false

/-- R22, R182, R271, R280: an instruction with a code that is not defined traps the threads that execute it ILLEGAL_INSN;
one whose unit the core does not have, UNIT_ABSENT, whatever its registers are; and a word that is no instruction, ILLEGAL_INSN:
its bits [25:23] are the guard, but in formats LA, LE and LC. TVAL is the word. -/
def Obligations.IllegalWordsAndAbsentUnits : Prop :=
  (∀ (s : State) (i : Instr), i.isEvent = false → (∀ imm w, i ≠ .ext imm w) → (∀ a b w, i ≠ .pat a b w) → s.stop = none →
    executes s i = true →
    (i.wf = false → TrapsLanes s i (executing s i) 0x01 i.word (isUniform i) false)
    ∧ (i.wf = true → unitPresent s i = false → TrapsLanes s i (executing s i) 0x07 i.word (isUniform i) false))
  ∧ ∀ (s : State) (w : Word),
    let g := BitVec.ofNat 3 (w.toNat / 2 ^ 23)
    let traps := fun (ls : List Nat) (unif : Bool) => outsideHandler s ls →
      UnitEffect s (s.illegalWord w) s (lanesWith ls (fun _ => trapped s 0x01 w unif false)) id
    (setGroup w < 0x1F → traps (if 0x16 ≤ setGroup w ∧ setGroup w ≤ 0x19 then s.subset else s.guarded g) false)
    ∧ (32 ≤ setGroup w → (s.guardU g = true → traps s.subset true)
      ∧ (s.guardU g = false → UnitEffect s (s.illegalWord w) s (fun _ x => x) id))

/-- R184, R326, R412: TRAP and BRKPT of the whole subset, and TRAPL of the threads whose guard holds, take the threads
into the handler: TPC is the next unit, TCAUSE and TVAL hold the code, and no register changes. -/
def Obligations.SoftwareTraps : Prop :=
  ∀ (s : State) (g : BitVec 3) (code : BitVec 8),
    TrapsLanes s (.trapl g code) (s.guarded g) 0x10 (code.zeroExtend 32) false true
    ∧ (s.guardU g = true → TrapsLanes s (.trap g code) s.subset 0x10 (code.zeroExtend 32) true true
      ∧ TrapsLanes s (.brkpt g) s.subset 0x11 0 true true)

/-- R182, R183, R380: an SREAD of a handler register by threads that are all outside their handlers traps them PRIVILEGE, and
where some thread alone is outside, the check fails for every thread whose guard holds, so that one inside takes the context
down (log 28, DEDUCED); a
RETT in whose subset every thread is in its handler leaves it for TPC plus the offset, where every target is a code
address. R184: a trap of a thread that is in its handler, or of a launch without one, leaves the thread as it stands and
faults its context with HANDLER_ABSENT and the code as CAUSE. -/
def Obligations.HandlersAndPrivilege : Prop :=
  (∀ (s : State) (g : BitVec 3) (d a sel : BitVec 7),
     (bad1 s.curAlloc d = none → 0x11 ≤ sel.toNat → sel.toNat ≤ 0x14 →
       TrapsLanes s (.sread g d sel) (s.guarded g) 0x08 (Instr.sread g d sel).word false false
       ∧ ((∃ l ∈ s.guarded g, (s.lane l).inHandler = false) → exec (.sread g d sel) s
         = .next (s.advance.trapLanes (s.guarded g) 0x08 (Instr.sread g d sel).word false false false).endIssue))
     ∧ (s.guardU g = true → sOk a = true →
       let target := fun (l : Nat) => ((s.lane l).tpc.zeroExtend 64 + (s.team.sr a.toNat).signExtend 64 : DWord)
       (∀ l ∈ s.subset, (s.lane l).inHandler = true ∧ targetTrap (target l) = none) →
       Completes (.rett g a) s s (lanesWith s.subset (fun l x =>
         { x with inHandler := false, pc := BitVec.ofNat 57 (target l).toNat })) id))
  ∧ (∀ (s : State) (core team lane code : Nat) (tval cause : Word) (tpc : PC) (x : Thread),
     s.thread? core team lane = some x →
     (s.hdr core).handler = 0 ∨ x.inHandler = true →
     s.takeTrap core team lane code tval cause tpc = s.coreFault core 0x25 code tpc.toNat 0 0 false)

/-! ### Waits -/

/-- R355, R392, R421, R425: WAITC leaves its thresholds in every thread; SFWAIT makes the executing threads wait for the
tokens of its mask that are outstanding; JOIN makes those wait whose bit of the mask is set, once their arrival is counted;
YIELD, of a team whose pier was told of no cancellation, ranks the team lowest. -/
def Obligations.WaitsAndYield : Prop :=
  ∀ (s : State) (g k : BitVec 3) (ld st cp mx : BitVec 4) (mask : BitVec 16),
    let gl := s.guarded g
    let nos := (sfTokens s.team.sfNo mask).filter (fun n => s.sfqs.any (fun x => x.uid = s.team.uid && x.no = n))
    let ls := gl.filter (fun l => (s.team.k k.toNat).getLsbD l)
    (s.guardU g = true → Completes (.waitc g ld st cp mx) s s (lanesWith s.subset
      (fun _ x => { x with wait := .waitc ld.toNat st.toNat cp.toNat mx.toNat })) id)
    ∧ Completes (.sfwait g mask) s s
        (lanesWith gl (fun _ x => if nos = [] then x else { x with wait := .sfwait nos })) id
    ∧ Completes (.join g k) s
        (if ls = [] then s else
          { s with arrivals := s.arrivals ++ [arrivalOf s (ls.map (fun l => (s.lane l).tid)) none (some k.toNat) true]
                   nextSeq := s.nextSeq + 1 })
        (lanesWith ls (fun _ x => { x with wait := .arrive s.nextSeq })) id
    ∧ (s.guardU g = true → s.told = false → Completes (.yield g) s s (fun _ x => x) (fun m => { m with rank := 0 }))
    ∧ (s.guardU g = true → (s.votes && s.told) = false → Completes (.sibchk g) s s (fun _ x => x) id)

/-! ### Barriers, fences and arrival words -/

/-- R314, R43: BAR.SYNC makes an arrival of its subset, which waits until it is counted; BAR.ARV makes one and only the
threads with an arrival in the phase under way, or not counted yet, wait; BAR.WAIT, where no thread of the subset passes,
makes all wait for the phase under way. Of a team told of no cancellation, and at the cluster's level of a launch with
CLUSTER = 1. -/
def Obligations.BarrierArrivalsAndWaits : Prop :=
  ∀ (s : State) (g : BitVec 3) (lvl : BitVec 2) (n : BitVec 5), s.guardU g = true → barNumOk lvl n = true →
    (lvl = 2 → (s.hdr s.cur.core).cluster = true) → (lvl ≠ 0 → s.told = false) →
    let k := barKeyOf lvl.toNat n.toNat
    let phase := (s.barrier s.cur.core s.cur.team k).phase
    let arr := fun (sync : Bool) => { s with
      arrivals := s.arrivals ++ [arrivalOf s (s.subset.map (fun l => (s.lane l).tid)) (some k) none sync]
      nextSeq := s.nextSeq + 1 }
    let again := s.subset.filter (fun l =>
      (match (s.lane l).lastArrival k with | some (p, _) => p = phase | none => false)
        || s.arrivals.any (fun (a : Arrival) => a.bar = some k && a.agents.contains (s.lane l).tid))
    Completes (.barSync g lvl n) s (arr true) (lanesWith s.subset (fun _ x => { x with wait := .arrive s.nextSeq })) id
    ∧ Completes (.barArv g lvl n) s (arr false) (lanesWith again (fun _ x => { x with wait := .arrive s.nextSeq })) id
    ∧ ((∀ l ∈ s.subset, (s.lane l).waitPasses k phase = false) →
      Completes (.barWait g lvl n) s s
        (lanesWith s.subset (fun _ x => { x.markWaited k with wait := .barrier k phase })) id)

/-- R315: BAR.QRY samples the barrier at its issue, and writes to s[d] the arrivals still needed, M less A, saturated at
0xFFFFFF, and the completed phases modulo 256 above them; nothing else changes. -/
def Obligations.BarrierQuery : Prop :=
  ∀ (s : State) (g : BitVec 3) (lvl : BitVec 2) (n : BitVec 5) (d : BitVec 7), s.guardU g = true →
    barNumOk lvl n = true → (lvl = 2 → (s.hdr s.cur.core).cluster = true) → d.toNat < 96 →
    let b := s.barrier s.cur.core s.cur.team (barKeyOf lvl.toNat n.toNat)
    WritesTeam s (.barQry g lvl n d)
      (fun m => m.setSr d.toNat (BitVec.ofNat 32 (min (b.m - b.a) 0xFFFFFF + b.phase % 256 * 0x1000000)))

/-- R123, R345: FENCE begins a fence of its subset and of the team's uniform accesses, with the effects its kind names,
and the subset is not ready until it is complete. R123, R124: an acquire of some threads completes at once where every
earlier load of its agents is satisfied and every effect here of what the other die's clock names has taken place (R119, R120),
and leaves the threads ready and, beyond BLOCK scope, the core's L1 view empty; otherwise the threads wait for it. -/
def Obligations.FencesBeginAndAcquire : Prop :=
  (∀ (s : State) (g : BitVec 3) (sc k : BitVec 2), s.guardU g = true → k.toNat ≠ 3 →
     let names := s.subset.map (fun l => (s.lane l).tid)
     ∃ t, exec (.fence g sc k) s = .next t
       ∧ WaitEffect s t { s with
           fences := s.fences ++ [⟨s.nextSeq, s.cur.core, s.team.uid, names ++ [s.team.uid], sc.toNat, k.toNat ≠ 0, k.toNat ≠ 1, []⟩]
           nextSeq := s.nextSeq + 1 } names (.fence s.nextSeq) id)
  ∧ (∀ (s : State) (core uid : Nat) (names : List Nat) (scope n l : Nat) (x : Thread) (v : List Word),
     s.thread? core n l = some x → x.tid ∈ names →
     let f : FenceReq := ⟨s.nextSeq, core, uid, names ++ [uid], scope, false, true, v⟩
     let t := s.acquire core uid names scope v
     let due := v ≠ [] ∧ s.dueBefore (coreDie core) v none = true
     ((∀ a ∈ s.loads, a.agent ∈ names ∨ a.agent = uid → s.nextSeq ≤ a.id) → ¬ due →
       t.thread? core n l = some { x with wait := .ready }
       ∧ (1 ≤ scope → ∀ e ∈ t.l1, viewUnit e.1 ≠ core))
     ∧ ((∃ a ∈ s.loads, (a.agent ∈ names ∨ a.agent = uid) ∧ a.id < s.nextSeq) ∨ due →
       t.thread? core n l = some { x with wait := .fence s.nextSeq } ∧ f ∈ t.fences))

/-- R305 to R309: with an aligned offset inside SCRATCH, AWINIT stores the whole word through the uniform agent's buffer;
AWQRY loads it; AWWAIT on a generation that still stands makes the subset wait. R422, R423: a WAITM whose word is reached
and does not meet its condition makes the subset wait on it; where it does, the wait ends as an acquire at DEVICE scope, of
what the die that the word is read at knows. -/
def Obligations.ArrivalWordsAndWaitOnWord : Prop :=
  (∀ (s : State) (g : BitVec 3) (a b d : BitVec 7), s.guardU g = true → sOk a = true →
     let off := (s.team.sr a.toNat).toNat
     off % 8 = 0 → off + 8 ≤ s.scratchBytes s.cur.core →
     let key := scratchKey s.cur.core off
     let va := (s.team.sr a.toNat).zeroExtend 64
     let w : WEntry := ⟨s.nextSeq + 1, s.cur.core, s.team.uid,
       .team (((s.wg? s.cur.core).map (·.launch)).getD 0) s.team.uid s.nextSeq (s.team.stCount + 1), key,
       toBytes 8 ((s.team.sr b.toNat).toNat % 0x1000000 * 0x100000000), none, some (s.ctxOf s.cur.core), va, false⟩
     (sOk b = true →
       Completes (.awinit g a b) s
         { s with stbuf := s.stbuf ++ [w], writes := s.writes ++ [tracked w], nextSeq := s.nextSeq + 2 }
         (fun _ x => x) (fun m => { m with st := m.st ++ [⟨s.nextSeq, false⟩], stCount := m.stCount + 1 }))
     ∧ (sOk d = true →
       Completes (.awqry g a d) s { s with
           loads := s.loads ++ [⟨s.nextSeq + 1, s.cur.core, s.cur.team, s.team.uid, s.team.uid, key, 8, 0, .awqry d.toNat,
             s.nextSeq, va⟩]
           nextSeq := s.nextSeq + 2 }
         (fun _ x => x) (fun m => { m with ld := m.ld ++ [⟨s.nextSeq, false⟩] }))
     ∧ (sOk b = true →
       let gen := (s.team.sr b.toNat).toNat % 256
       ((s.unifView s.team.uid key 8).getD 7 0).toNat = gen →
       Completes (.awwait g a b) s s (lanesWith s.subset (fun _ x => { x with wait := .awwait off gen })) id))
  ∧ (∀ (s : State) (g : BitVec 3) (c : BitVec 4) (a b : BitVec 7) (key : Nat), s.guardU g = true → c.toNat ≤ 9 →
     s2Ok a = true → sOk b = true → s.stop = none →
     let addr := s.team.sr2 a.toNat
     let y := s.team.sr b.toNat
     reaches s addr 4 false = some key →
     s.firewallOk (s.ctxOf s.cur.core) key = true →
     (∀ va, s.place s.cur.core addr 4 = .virt va → memExists s.part key = true) →
     let holds := intCond c.toNat (BitVec.ofNat 32 (s.homeNat (s.ctxOf s.cur.core) key 4)) y
     (holds = false →
       Completes (.waitm g c a b) s s (lanesWith s.subset (fun _ x => { x with wait := .waitm addr key c.toNat y })) id)
     ∧ (holds = true → exec (.waitm g c a b) s
         = .next (s.advance.acquire s.cur.core s.team.uid (s.subset.map (fun l => (s.lane l).tid)) 2
           (s.stampFrom s.cur.core key)).endIssue))

/-- R132, R133, R306, R309, R314, R316, R372, R387, R422: the checks of the barriers, arrival words, SEAL and UNSEAL, queue
instructions and WAITM, each of which traps the whole subset; and the waits that are over at their issue: BAR.WAIT of threads
whose phase is complete and AWWAIT on a generation that has gone end as an acquire, at the barrier's scope or BLOCK. -/
def Obligations.SynchronisationChecksAndPasses : Prop :=
  ∀ (s : State) (g : BitVec 3) (a b d : BitVec 7) (n : BitVec 5) (lvl : BitVec 2) (c : BitVec 4), s.guardU g = true →
    let T := fun (i : Instr) (code : Nat) (v : Word) => TrapsLanes s i s.subset code v true false
    let names := s.subset.map (fun l => (s.lane l).tid)
    let x := s.team.sr a.toNat
    let addr := s.team.sr2 a.toNat
    (barNumOk 2 n = true → (s.hdr s.cur.core).cluster = false →
      T (.barSync g 2 n) 0x01 (Instr.barSync g 2 n).word ∧ T (.barArv g 2 n) 0x01 (Instr.barArv g 2 n).word
      ∧ T (.barWait g 2 n) 0x01 (Instr.barWait g 2 n).word ∧ T (.barQry g 2 n d) 0x01 (Instr.barQry g 2 n d).word)
    ∧ (sOk a = true → ∀ code v,
      (x.toNat % 8 ≠ 0 ∧ code = 0x03 ∨ x.toNat % 8 = 0 ∧ s.scratchBytes s.cur.core < x.toNat + 8 ∧ code = 0x04) → v = x →
      (sOk b = true → T (.awinit g a b) code v ∧ T (.awwait g a b) code v) ∧ (sOk d = true → T (.awqry g a d) code v))
    ∧ (s2Ok a = true → sOk b = true → ∀ code v,
      (addr.toNat % 0x20000 ≠ 0 ∧ code = 0x03
        ∨ addr.toNat % 0x20000 = 0 ∧ (2 ^ 57 ≤ addr.toNat ∨ addr.toNat / 2 ^ 48 = 0x1FF
            ∨ 2 ^ 57 < addr.toNat + 0x20000 * (s.team.sr b.toNat).toNat) ∧ code = 0x04) → v = loWord addr →
      T (.seal g a b) code v ∧ T (.unseal g a b) code v)
    ∧ (s2Ok a = true → sOk b = true → intCondOk c = true → s.stop = none →
      (s.place s.cur.core addr 4 = .invalid → T (.waitm g c a b) 0x04 (loWord addr))
      ∧ (s.place s.cur.core addr 4 ≠ .invalid → addr.toNat % 4 ≠ 0 → T (.waitm g c a b) 0x03 (loWord addr)))
    ∧ (sOk d = true →
      let h := s.team.sr d.toNat
      let Q := fun (code : Nat) (v : Word) (long : Bool) =>
        if long then sOk a = true → T (.qpushL g d a) code v ∧ T (.qpopL g d a) code v ∧ T (.qtryL g d a) code v
        else s2Ok a = true → T (.qpushD g d a) code v ∧ T (.qpopD g d a) code v ∧ T (.qtryD g d a) code v
      let placed := fun (long : Bool) => long = true → x.toNat % 64 = 0 ∧ x.toNat + 64 ≤ s.scratchBytes s.cur.core
      (x.toNat % 64 ≠ 0 → Q 0x03 x true)
      ∧ (x.toNat % 64 = 0 → s.scratchBytes s.cur.core < x.toNat + 64 → Q 0x04 x true)
      ∧ ∀ long, placed long →
        (kvGet s.hwqs (h.toNat % 2 ^ 31) = none → Q 0x0B h long)
        ∧ ∀ q, kvGet s.hwqs (h.toNat % 2 ^ 31) = some q →
          (4096 ≤ h.toNat % 2 ^ 31 ∨ q.long ≠ long → Q 0x0B h long)
          ∧ (h.toNat % 2 ^ 31 < 4096 → q.long = long → q.inScope s.cur.core = false → Q 0x0C (BitVec.ofNat 32 (h.toNat % 2 ^ 31)) long))
    ∧ (barNumOk lvl n = true → (lvl = 2 → (s.hdr s.cur.core).cluster = true) → (lvl ≠ 0 → s.told = false) →
      let k := barKeyOf lvl.toNat n.toNat
      s.subset ≠ [] → (∀ l ∈ s.subset, (s.lane l).waitPasses k (s.barrier s.cur.core s.cur.team k).phase = true) →
      let u := s.advance.onLanes s.subset (fun _ t => t.markWaited k)
      exec (.barWait g lvl n) s = .next (u.acquire s.cur.core s.team.uid names k.scope (u.barStamp s.cur.core s.cur.team k)).endIssue)
    ∧ (sOk a = true → sOk b = true → x.toNat % 8 = 0 → x.toNat + 8 ≤ s.scratchBytes s.cur.core →
      ((s.unifView s.team.uid (scratchKey s.cur.core x.toNat) 8).getD 7 0).toNat ≠ (s.team.sr b.toNat).toNat % 256 →
      exec (.awwait g a b) s = .next (s.advance.acquire s.cur.core s.team.uid names 0 []).endIssue)

/-- R213, R316, R394, R425: at YIELD, at SIBCHK of threads that vote, and at a barrier of workgroup level or above, a workgroup
whose pier has been told that its sibling is cancelled stops whole: no thread of it stands in any lane or bin. -/
def Obligations.CancellationPoints : Prop :=
  ∀ (s : State) (g : BitVec 3) (lvl : BitVec 2) (n : BitVec 5) (w : Workgroup), s.guardU g = true → s.told = true →
    s.wg? s.cur.core = some w → (s.wgLaunch? s.cur.core).isSome = true →
    let stops := fun (i : Instr) => ∃ t, exec i s = .next t ∧ (∀ m l, t.thread? s.cur.core m l = none)
      ∧ ∀ v, t.wg? s.cur.core = some v → v.cancelled = true ∧ v.bins = []
    stops (.yield g) ∧ (s.votes = true → stops (.sibchk g))
    ∧ (barNumOk lvl n = true → lvl ≠ 0 → (lvl = 2 → (s.hdr s.cur.core).cluster = true) →
      stops (.barSync g lvl n) ∧ stops (.barArv g lvl n) ∧ stops (.barWait g lvl n))

/-! ### Engine commands -/

/-- R73, R74, R88: each engine command whose checks pass and whose effective count is not 0 is accepted at its issue, and its
subset goes on. -/
def Obligations.EngineCommandsAccepted : Prop :=
  ∀ (s : State) (g : BitVec 3) (a : BitVec 7) (acc : BitVec 2), s.guardU g = true → sOk a = true →
    let off := (s.team.sr a.toNat).toNat
    (acc.toNat < (s.hdr s.cur.core).accs →
      CommandAccepted s (.mma g a acc) .mma acc.toNat off ∧ CommandAccepted s (.aswap g a acc) .aswap acc.toNat off
      ∧ CommandAccepted s (.azero g a acc) .azero acc.toNat off ∧ CommandAccepted s (.ald g a acc) .ald acc.toNat off
      ∧ CommandAccepted s (.ast g a acc) .ast acc.toNat off)
    ∧ CommandAccepted s (.tcopy g a) .tcopy 0 off ∧ CommandAccepted s (.tqst g a) .tqst 0 off
    ∧ CommandAccepted s (.tchain g a) .tchain 0 off ∧ CommandAccepted s (.trot g a) .trot 0 off

/-- R73, R74, R88: the block's offset is checked for its alignment and its place before its fields; a command that fails a check
traps the subset precisely and has no other effect; one whose guard word no TLB translates is held at its unit; and one with
an effective count of 0 leaves no command of its name. -/
def Obligations.EngineCommandsChecked : Prop :=
  ∀ (s : State) (g : BitVec 3) (a : BitVec 7) (acc : BitVec 2), s.guardU g = true → sOk a = true →
    let off := (s.team.sr a.toNat).toNat
    let guard := s.readNat (scratchKey s.cur.core off) 8
    let count := s.readNat (scratchKey s.cur.core (off + 8)) 4
    let checked := fun (i : Instr) (k : CmdKind) =>
      (∀ c v, s.cmdCheck5 k off = some (c, v) → TrapsLanes s i s.subset c v true false)
      ∧ (s.cmdCheck5 k off = none →
        (guard ≠ 0 → s.guardRead guard = .miss →
          Completes i s (s.needWalk s.cur.core (s.ctxOf s.cur.core) guard) (lanesWith s.subset (fun _ => heldAt s
            (.walk ⟨s.ctxOf s.cur.core, BitVec.ofNat 64 guard, false, false, true, true, false⟩))) id)
        ∧ ((guard = 0 ∧ count = 0) ∨ (guard ≠ 0 ∧ ∃ x, s.guardRead guard = .word x ∧ min count x = 0) →
          ∃ t, exec i s = .next t ∧ (∀ w, t.wg? s.cur.core = some w → ∀ c ∈ w.cmds, c.id ≠ s.nextSeq) ∧ t.mem = s.mem
            ∧ ∀ c n l, t.thread? c n l = (s.thread? c n l).map (fun x =>
                if c = s.cur.core ∧ n = s.cur.team ∧ l ∈ s.subset then movedOn s x else x)))
    (∀ k, (off % 64 ≠ 0 → s.cmdCheck5 k off = some (0x03, s.team.sr a.toNat))
      ∧ (off % 64 = 0 → s.scratchBytes s.cur.core < off + 64 → s.cmdCheck5 k off = some (0x04, s.team.sr a.toNat)))
    ∧ (acc.toNat < (s.hdr s.cur.core).accs →
      checked (.mma g a acc) .mma ∧ checked (.aswap g a acc) .aswap ∧ checked (.azero g a acc) .azero
      ∧ checked (.ald g a acc) .ald ∧ checked (.ast g a acc) .ast)
    ∧ checked (.tcopy g a) .tcopy ∧ checked (.tqst g a) .tqst ∧ checked (.tchain g a) .tchain ∧ checked (.trot g a) .trot

/-! ### Token fetches, posts, seals and hardware queues -/

/-- R33, R321, R323, R410: TFETCH of threads outside their handlers makes an arrival of its subset at the workgroup's implied
barrier and names its Q register; BPOST and BQRY of threads that vote send a post or a query, BPOST behind a release at DEVICE
scope, and the subset goes on; of threads that do not vote they write the status that says so. -/
def Obligations.TokenFetchAndBallotIssue : Prop :=
  ∀ (s : State) (g q : BitVec 3) (d a b : BitVec 7), s.guardU g = true →
    let names := s.subset.map (fun l => (s.lane l).tid)
    let post := fun (id : Nat) (h : Option (DWord × Word)) =>
      (⟨id, s.cur.core, s.cur.team, s.team.uid, d.toNat, (s.hdr s.cur.core).sibgrp, s.sibling, h, none⟩ : Post)
    ((∀ l ∈ s.subset, (s.lane l).inHandler = false) →
      ∃ t, exec (.tfetch g q) s = .next t
        ∧ GroupEffect s t { s with
            arrivals := s.arrivals ++ [arrivalOf s names none none true]
            nextSeq := s.nextSeq + 1 }
          (lanesWith s.subset (fun _ x => { x with wait := .arrive s.nextSeq })) id
          (fun w => { w with tfPreds := if w.tfPreds.contains (s.cur.team, q.toNat) then w.tfPreds
                                        else w.tfPreds ++ [(s.cur.team, q.toNat)] }))
    ∧ (sOk d = true →
      (s.votes = false → WritesTeam s (.bqry g d) (fun m => m.setSr d.toNat 8))
      ∧ (s.votes = true → Completes (.bqry g d) s { s with
          posts := s.posts ++ [post s.nextSeq none], nextSeq := s.nextSeq + 1 } (fun _ x => x) id))
    ∧ (sOk d = true → s2Ok a = true → sOk b = true →
      (s.votes = false → WritesTeam s (.bpost g d a b) (fun m => m.setSr d.toNat 4))
      ∧ (s.votes = true → Completes (.bpost g d a b) s { s with
            fences := s.fences ++ [⟨s.nextSeq, s.cur.core, s.team.uid, names ++ [s.team.uid], 2, true, false, []⟩]
            posts := s.posts ++ [post s.nextSeq (some (s.team.sr2 a.toNat, s.team.sr b.toNat))]
            nextSeq := s.nextSeq + 1 } (fun _ x => x) id))

/-- R386, R387, R388: a SEAL or UNSEAL of whole units of 128 KiB inside the address space, whose walks meet no fault, sends its
request behind an ACQREL fence at DEVICE scope, and its subset waits for it; one of no page does nothing. -/
def Obligations.SealRequests : Prop :=
  ∀ (s : State) (g : BitVec 3) (a b : BitVec 7), s.guardU g = true → s2Ok a = true → sOk b = true →
    let base := s.team.sr2 a.toNat
    let pages := (s.team.sr b.toNat).toNat
    base.toNat % 0x20000 = 0 → nbits base.toNat 63 57 = 0 → nbits base.toNat 56 48 ≠ 0x1FF →
    base.toNat + 0x20000 * pages ≤ 2 ^ 57 →
    let sent := fun (i : Instr) (unsl : Bool) =>
      (pages = 0 → Completes i s s (fun _ x => x) id)
      ∧ (pages ≠ 0 → s.regionFault (s.ctxOf s.cur.core) (!unsl) (base.toNat + 0x20000 * pages) pages base.toNat = none →
        Completes i s { s with
          seals := s.seals ++ [⟨s.nextSeq, s.cur.core, s.team.uid, s.ctxOf s.cur.core, base, pages, unsl, false, []⟩]
          fences := s.fences ++ [⟨s.nextSeq, s.cur.core, s.team.uid, s.subset.map (fun l => (s.lane l).tid) ++ [s.team.uid], 2,
            true, true, []⟩]
          nextSeq := s.nextSeq + 1 } (lanesWith s.subset (fun _ x => { x with wait := .seal s.nextSeq })) id)
    sent (.seal g a b) false ∧ sent (.unseal g a b) true

/-- R372 to R375: a queue instruction whose handle names a queue of its form in scope sends its operation, with a push's entry
taken at issue, and counts in ST or LD; the subset waits at a push only where the queue is full, and at every pop. That the whole subset waits, and
that fullness is judged at the issue, are the model's (log 38, DEDUCED). -/
def Obligations.QueueOperationsSent : Prop :=
  ∀ (s : State) (g : BitVec 3) (d a : BitVec 7), s.guardU g = true → sOk d = true →
    let h := s.team.sr d.toNat
    let n := h.toNat % 2 ^ 31
    let off := (s.team.sr a.toNat).toNat
    let names := s.subset.map (fun l => (s.lane l).tid)
    let full := ∃ q, kvGet s.hwqs n = some q ∧ 2 ^ q.logcap ≤ s.queueLoad n q
    let sent := fun (i : Instr) (op : Nat) (long : Bool) (data : List Byte) (waits : Bool) =>
      s.queueTrap h off long = none →
      Completes i s { s with
          qops := s.qops ++ [⟨s.nextSeq, op, n, s.cur.core, s.cur.team, s.team.uid, names ++ [s.team.uid], d.toNat,
            if long then off else a.toNat, data, s.team.stCount⟩]
          nextSeq := s.nextSeq + 1 }
        (lanesWith s.subset (fun _ x => if waits then { x with wait := .queue s.nextSeq } else x))
        (fun m => if op = 0 then { m with st := m.st ++ [⟨s.nextSeq, false⟩] } else { m with ld := m.ld ++ [⟨s.nextSeq, false⟩] })
    (s2Ok a = true →
      (∀ w : Bool, (w = true ↔ full) → sent (.qpushD g d a) 0 false (toBytes 8 (s.team.sr2 a.toNat).toNat) w)
      ∧ sent (.qpopD g d a) 1 false [] true ∧ sent (.qtryD g d a) 2 false [] false)
    ∧ (sOk a = true →
      (∀ w : Bool, (w = true ↔ full) → sent (.qpushL g d a) 0 true (s.readBytes (scratchKey s.cur.core off) 64) w)
      ∧ sent (.qpopL g d a) 1 true [] true ∧ sent (.qtryL g d a) 2 true [] false)

/-! ### EXIT and REFORM -/

/-- R39, R40, R337, R338, R378: the threads whose guard holds stand in no lane of their team after EXIT; after a REFORM of a
launch without accumulators each of them is in the bin of the next unit's PC, changed in nothing but its wait, where the bin has
room for them all; a thread that makes the bin full has it drawn, where a team's slot is free, into the lanes of a team there, with
the uniform registers that the bin holds; a REFORM of a launch with accumulators traps; and of no executing thread both only move
their subset on. The core's teams are listed in order. -/
def Obligations.ExitAndReform : Prop :=
  ∀ (s : State) (g : BitVec 3),
    let gl := s.guarded g
    let core := s.cur.core
    let team := s.cur.team
    (∀ w, s.wg? core = some w → kvWf w.teams = true) →
    (gl = [] → Completes (.exit g) s s (fun _ x => x) id ∧ Completes (.reform g) s s (fun _ x => x) id)
    ∧ (∃ t, exec (.exit g) s = .next t ∧ ∀ l ∈ gl, t.thread? core team l = none)
    ∧ ((s.hdr core).accs ≠ 0 → TrapsLanes s (.reform g) gl 0x0A 0 false false)
    ∧ ((s.hdr core).accs = 0 → gl.length < 64 → (∀ l ∈ gl, ∃ x, s.thread? core team l = some x) →
      (∀ w b, s.wg? core = some w → b ∈ w.bins → b.key = s.cur.next → b.threads.length + gl.length < 64) →
      ∃ t, exec (.reform g) s = .next t ∧ ∀ l ∈ gl, t.thread? core team l = none
        ∧ ∃ w b x y, t.wg? core = some w ∧ b ∈ w.bins ∧ b.key = s.cur.next ∧ (team, l, x) ∈ b.threads
          ∧ s.thread? core team l = some y ∧ x = { movedOn s y with wait := x.wait })
    ∧ (∀ l x w pre b post, (s.hdr core).accs = 0 → gl = [l] → s.thread? core team l = some x → s.wg? core = some w →
      w.bins = pre ++ b :: post → b.key = s.cur.next → b.threads.length = 63 →
      (∀ e ∈ pre ++ post, e.key ≠ s.cur.next) → (s.freeTeamSlot core).isSome = true →
      ∃ t slot m v, exec (.reform g) s = .next t ∧ t.team? core slot = some m
        ∧ m.lanes = (List.range 64).zip (b.threads.map (fun e => e.2.2.newTeam) ++ [(movedOn s x).newTeam])
        ∧ m.sregs = b.sregs ∧ m.qpreds = b.qpreds ∧ m.mode = b.mode ∧ m.rank = b.rank
        ∧ t.wg? core = some v ∧ v.bins = pre ++ post)

/-! ### Prefixes -/

/-- R276 to R279, R339, R368: a prefix that may govern the word after it makes that word's instruction run with the prefix's
immediate or patterns; so MOVI takes its upper half from EXT, and IADD its sources from the lanes that PAT names. One that
may not traps every thread of its subset at the prefix with ILLEGAL_INSTRUCTION, bit 8 of TCAUSE set. -/
def Obligations.Prefixes : Prop :=
  ∀ (s : State) (imm : BitVec 25) (pa pb : BitVec 8) (w : Word),
    let e : State := { s with cur := { s.cur with pfx := .ext imm } }
    let p : State := { s with cur := { s.cur with pfx := .pat pa pb } }
    let n : State := { s with cur := { s.cur with pfx := .none } }
    (∀ i, decodeWord w.toNat = some i →
      (extGoverns imm w = true → exec (.ext imm w) s = exec i e)
      ∧ (patGoverns pa pb w = true → exec (.pat pa pb w) s = exec i p))
    ∧ (∀ g d k, decodeWord w.toNat = some (.movi g d k) → extGoverns imm w = true → bad1 s.curAlloc d = none →
      ∃ t, exec (.ext imm w) s = .next t ∧ UnitEffect e t e
        (lanesWith (s.guarded g) (fun _ x => x.setV d.toNat (BitVec.ofNat 32 (k.toNat + imm.toNat * 0x10000)))) id)
    ∧ (∀ g d a b, decodeWord w.toNat = some (.iadd g d a b) → patGoverns pa pb w = true → bad3 s.curAlloc d a b = none →
      let src := fun (q : BitVec 8) (l : Nat) (r : BitVec 7) => ((kvGet s.team.lanes (patLane q l)).getD Thread.empty).v r.toNat
      ∃ t, exec (.pat pa pb w) s = .next t ∧ UnitEffect p t p
        (lanesWith (s.guarded g) (fun l x => x.setV d.toNat (src pa l a + src pb l b))) id)
    ∧ (extGoverns imm w = false → outsideHandler s s.subset → ∃ t, exec (.ext imm w) s = .next t
        ∧ UnitEffect n t n (lanesWith s.subset (fun _ => entered s (Instr.ext imm w).word 0x101 s.cur.pc)) id)
    ∧ (patGoverns pa pb w = false → outsideHandler s s.subset → ∃ t, exec (.pat pa pb w) s = .next t
        ∧ UnitEffect n t n (lanesWith s.subset (fun _ => entered s (Instr.pat pa pb w).word 0x101 s.cur.pc)) id)

/-! ### The ordering machine -/

/-- R88, R114, R308, R359: a plain load that nothing blocks takes, byte by byte, the youngest of its agent's buffered stores,
its core's write path, its L1 view's line, and else what its die, port or scratchpad holds; memory does not change. That a load
takes bytes that stand in several of these places together is the model's (log 27, DEDUCED), and so are lines of 128 bytes (log 12,
DEDUCED). -/
def Obligations.LoadsAreSatisfied : Prop :=
  ∀ (s : State) (l : LoadReq) (bs : List Byte), s.loads.find? (fun o => o.id = l.id) = some l → s.loadBlocked l = false →
    s.firewallOk (s.ctxOf l.core) l.key = true → memExists s.part l.key = true →
    let newer := s.wpath.filter (fun w => w.core = l.core) ++ s.stbuf.filter (fun w => w.agent = l.agent && w.id < l.id)
    let line := if isDevice l.key then kvGet s.l1 (viewKey l.core (lineOf l.key)) else none
    let covered := ∀ i < l.n, ∃ w ∈ newer, w.meets (l.key + i) 1 = true
    (∃ b, line = some b ∧ bs = (b.drop (l.key % 128)).take l.n) ∨ (line = none ∧ covered ∧ bs = [])
      ∨ (line = none ∧ ¬ covered ∧ s.dieReadable (coreDie l.core) l.key = true ∧ bs = s.dieBytes (s.ctxOf l.core) (coreDie l.core) l.key l.n) →
    let x := ofBytes (newer.foldl (WEntry.over l.key l.n) bs)
    let ends := fun (F : Thread → Thread) (M : Team → Team) =>
      ∃ u, exec (.loadSatisfy l.id) s = .next u.sweep ∧ Satisfied s u l s.mem F M
    (∀ d sg, l.dst = .lane d sg → ends (fun t => t.putLoad d l.n x sg) id)
    ∧ (l.dst = .refill → ends (fun t => { t with
        rstack := t.rstack.tail ++ [BitVec.ofNat 64 x], depth := t.depth - 1
        pc := BitVec.ofNat 57 (t.rstack.headD 0).toNat, wait := .ready }) id)
    ∧ (∀ d, l.dst = .unif d → ends id (fun t => if l.n = 8 then t.setSr2 d (BitVec.ofNat 64 x) else t.setSr d (BitVec.ofNat 32 x)))
    ∧ (∀ d, l.dst = .awqry d → ends id (fun t => t.setSr d
        (BitVec.ofNat 32 (min (x % 0x100000000) 0xFFFFFF + x / 0x100000000000000 % 256 * 0x1000000))))

/-- R111, R303, R331: a returning atomic or CAS on its own scratchpad, or on memory of its own die at DEVICE scope or beyond,
that no write of its own core stands before, reads and writes its place in one step: the thread gets the old value, and memory
the new one (bytes of it free where R101 leaves them undefined), or nothing where a CAS finds another value. -/
def Obligations.AtomicsAtTheirHome : Prop :=
  ∀ (s : State) (l : LoadReq), s.loads.find? (fun o => o.id = l.id) = some l → s.loadBlocked l = false →
    s.firewallOk (s.ctxOf l.core) l.key = true → memExists s.part l.key = true →
    (∀ w ∈ s.stbuf, w.agent = l.agent → w.id < l.id → w.meets l.key l.n = false) →
    isScratch l.key = true ∨ ((isDevice l.key = true → 2 ≤ l.scope) ∧ homeDie l.key = coreDie l.core ∧ homeDie l.key ≠ 5
      ∧ ∀ w ∈ s.wpath ++ s.capath, w.core = l.core → w.meets l.key l.n = false) →
    let old := s.readNat l.key l.n
    let ends := fun (F : Thread → Thread) (new : Option Nat) =>
      ∃ u, exec (.loadSatisfy l.id) s = .next u.sweep
        ∧ Satisfied s u l (match new with
          | some y => memPut s.mem l.key (s.settled (s.atomEntry l y) (toBytes l.n y)) | none => s.mem) F id
    (∀ d op y, l.dst = .atom d op y → ends (fun t => t.setV d (BitVec.ofNat 32 old)) (some (atomNew op (BitVec.ofNat 32 old) y).toNat))
    ∧ (∀ d e y, l.dst = .cas d e y → ends (fun t => t.putLoad d l.n old false)
        (if old = e.toNat % 256 ^ l.n then some (y.toNat % 256 ^ l.n) else none))

/-- R115, R426: an entry of a pending-store buffer that nothing of its agent stands before drains: onto its scratchpad;
into its core's write path, the L1 view taking a plain store's bytes where it holds the line and losing the line to a
RED; or, a RED of BLOCK or CLUSTER scope on device memory, as the new value in the view and the path of its L1 or cluster
unit. R111, R116, R426: an entry of a core's write path, or of a cluster's atomic path, that no older entry of its path
overlaps, that waits at no fault, and that the firewall lets through leaves it. Of the stores of one instruction to the same bytes
the highest lane's drains last (R67, R403). A die's own copy of a line goes as its write is sent (log 13, DEDUCED);
lines are of 128 bytes (log 12, DEDUCED). -/
def Obligations.StoresReachTheirHomes : Prop :=
  (∀ (s : State) (w : WEntry), s.stbuf.find? (fun o => o.id = w.id) = some w →
     (∀ o ∈ s.stbuf, o.agent = w.agent → o.id < w.id → o.meets w.key w.data.length = false) →
     (∀ o ∈ s.loads, o.agent = w.agent → o.id < w.id → rangesMeet o.key o.n w.key w.data.length = false) →
     (∀ o ∈ s.stbuf, o.lowerLane w = false) → s.ordered w.agent w.id = true →
     let line := lineOf w.key
     let t : State := { s with stbuf := s.stbuf.filter (fun o => o.id ≠ w.id) }
     let ends := fun (u : State) => exec (.storeBufferDrain w.id) s = .next u.sweep
     (isScratch w.key = true → uncounted w → Wrote (.storeBufferDrain w.id) s t w.key (performedData s w))
     ∧ (isScratch w.key = false →
       (w.red = none → ends { t with
         wpath := s.wpath ++ [w]
         l1 := match (if isDevice w.key then kvGet s.l1 (viewKey w.core line) else none) with
           | some b => kvPut s.l1 (viewKey w.core line) (overlay b (w.key % 128) w.data)
           | none => s.l1 })
       ∧ ∀ op sc, w.red = some (op, sc) →
         (isDevice w.key = false ∨ 2 ≤ sc → ends { t with wpath := s.wpath ++ [w], l1 := kvDel s.l1 (viewKey w.core line) })
         ∧ (isDevice w.key = true → sc < 2 →
           (∀ o ∈ s.pointPath w.core (sc = 1), o.red.isSome = true → o.meets w.key w.data.length = false) →
           ∀ v b, s.pointLine w.core (sc = 1) line = some (v, b) →
           let old : Word := BitVec.ofNat 32 (ofBytes ((b.drop (w.key % 128)).take 4))
           let x := { w with data := toBytes 4 (atomNew op old (BitVec.ofNat 32 (ofBytes w.data))).toNat, red := none }
           let b' := overlay v (w.key % 128) x.data
           ends (if sc = 1 then { t with caview := kvPut s.caview (viewKey (clusterOf w.core) line) b', capath := s.capath ++ [x] }
             else { t with l1 := kvPut s.l1 (viewKey w.core line) b', wpath := s.wpath ++ [x] }))))
  ∧ (∀ (s : State) (w : WEntry), s.writeOk w = true → memExists s.part w.key = true →
     (s.wpath.find? (fun o => o.id = w.id) = some w → w.held = false → s.olderMeets (s.pointPath w.core false) w = false →
       LeavesPath (.writePathLeave w.id) s { s with wpath := s.wpath.filter (fun o => o.id ≠ w.id) } w)
     ∧ (s.capath.find? (fun o => o.id = w.id) = some w → s.olderMeets (s.pointPath w.core true) w = false →
       LeavesPath (.clusterAtomicPathLeave w.id) s { s with capath := s.capath.filter (fun o => o.id ≠ w.id) } w))

/-- R117, R119 to R121, R426: a view, of a core or of a cluster's atomic unit, or a die drops a line; an L1 view takes a line that
its die holds; the gate of a die applies a channel's oldest message once nothing that its stamp knows of is still due there: a
write takes effect at its home, an update changes the copy, a read is answered with the line, a reply's line is kept as a
copy and in the L1 view of the core that asked, and a clock is merged. The die's own writes on their way stand over a line that
comes (log 13, DEDUCED), and a copy's updates keep to the order of their numbers (log 13); lines are of 128
bytes (log 12, DEDUCED). -/
def Obligations.ViewsCopiesAndGates : Prop :=
  ∀ (s : State) (core die line : Nat),
    exec (.l1ViewDrop core line) s = .next (if s.choice % 2 = 1
      then { s with caview := kvDel s.caview (viewKey (clusterOf core) line) } else { s with l1 := kvDel s.l1 (viewKey core line) })
    ∧ exec (.dieCopyDrop die line) s = .next { s with copies := kvDel s.copies (viewKey die line) }
    ∧ (coreExists s.part core = true → isDevice (128 * line) = true → memExists s.part (128 * line) = true →
      s.dieReadable (coreDie core) (128 * line) = true →
      exec (.l1ViewFill core line) s = .next { s with
        l1 := kvPut s.l1 (viewKey core line) (s.dieBytes (s.ctxOf core) (coreDie core) (128 * line) 128) })
    ∧ ∀ m : Msg, s.chans.find? (fun o => o.src = m.src && o.dst = m.dst) = some m → s.gateOpen m = true →
      let i := Instr.gateApply m.src m.dst
      let t : State := { s with retries := kvDel s.retries (8 * m.src + m.dst + s.linkSel m.src m.dst)
                                chans := s.chans.eraseP (fun o => o.src = m.src && o.dst = m.dst) }
      (∀ w, m.body = .write w → uncounted w → memExists s.part w.key = true → Wrote i s t w.key (performedData s w))
      ∧ (∀ id l off data, m.body = .update id l off data → ∃ u, exec i s = .next u.sweep
        ∧ beside u = beside { t with copies := kvMod s.copies (viewKey m.dst l) (fun b => t.ownOver m.dst l (overlay b off data)) })
      ∧ (∀ ld l, m.body = .read ld l → memExists s.part (128 * l) = true → ∃ u r, exec i s = .next u.sweep
        ∧ beside u = beside t
        ∧ r ∈ u.chans ∧ r.src = m.dst ∧ r.dst = m.src ∧ r.body = .reply ld l (s.readBytes (128 * l) 128))
      ∧ (∀ ld l data, m.body = .reply ld l data →
        let bs := t.ownOver m.dst l data
        ∃ u, exec i s = .next u.sweep ∧ beside u = beside { t with copies := kvPut s.copies (viewKey m.dst l) bs }
          ∧ ∀ r, s.loads.find? (fun o => o.id = ld) = some r → kvGet u.l1 (viewKey r.core l) = some bs)
      ∧ (m.body = .clock → m.stamp.length = 8 → ∃ u, exec i s = .next u.sweep ∧ beside u = beside t
        ∧ u.vcOf m.dst = List.zipWith serialMax (s.vcOf m.dst) m.stamp)

/-- R113, R122, R123, R221, R231, R423: a port performs the oldest of its writes that overlap, a fabric write through a Viaduct port
that is up, but drops one under a key whose kill its engine has acknowledged; a fence whose loads and stores have got to where
its scope asks completes, an acquire beyond BLOCK scope dropping its core's and its cluster's views, and its threads are ready;
a poll of a team whose waits are all on one word that it may read tests each, and ends those that hold as an acquire at
DEVICE scope, of what the die that the word is read at knows. -/
def Obligations.PortsFencesAndPolls : Prop :=
  ∀ (s : State),
    (∀ w : WEntry, s.ports.find? (fun o => o.id = w.id) = some w → s.olderMeets s.ports w = false → uncounted w →
      let up := (List.range s.part.viaducts).filter (fun p => !s.viaductDown.contains p)
      let port := up.getD (s.choice % up.length) 0
      let t : State := { s with ports := s.ports.filter (fun o => o.id ≠ w.id)
                                retries := if spaceOf w.key = 3 then kvDel s.retries (64 + port) else s.retries }
      (spaceOf w.key = 3 → up ≠ []) →
      ((∀ c, w.ctx = some c → s.keyAcked c (w.engine port) = false) → Wrote (.portAcknowledge w.id) s t w.key (performedData s w))
      ∧ (∀ c, w.ctx = some c → s.keyAcked c (w.engine port) = true →
        ∃ u, exec (.portAcknowledge w.id) s = .next u.sweep ∧ beside u = beside t))
    ∧ (∀ f : FenceReq, s.fences.find? (fun o => o.id = f.id) = some f → s.fenceEnabled f = true →
      ∃ t, exec (.fenceComplete f.id) s = .next t ∧ beside t = beside s ∧ t.fences = s.fences.filter (fun o => o.id ≠ f.id)
        ∧ (f.acq = true → 1 ≤ f.scope →
          (∀ e ∈ t.l1, viewUnit e.1 ≠ f.core) ∧ ∀ e ∈ t.caview, viewUnit e.1 ≠ clusterOf f.core)
        ∧ ∀ c n l, t.thread? c n l = (s.thread? c n l).map (fun x =>
          if c = f.core ∧ x.wait = .fence f.id then { x with wait := .ready } else x))
    ∧ ∀ core team m va key k, s.team? core team = some m → s.stop = none → m.waitmLanes ≠ [] →
      (∀ w ∈ m.waitmLanes, w.2.1 = va ∧ w.2.2.1 = key) → s.firewallOk (s.ctxOf core) k = true →
      (s.place core va 4 = .window k ∨ ∃ a, s.place core va 4 = .virt a
        ∧ s.translateNow core (s.ctxOf core) a false false = .ok k ∧ memExists s.part k = true) →
      let v := s.modLanes core team (m.waitmLanes.map (·.1)) (fun _ x => match x.wait with
        | .waitm a _ c y => { x with wait := .waitm a k c y }
        | _ => x)
      let hit := (m.waitmLanes.filter (fun w =>
        intCond w.2.2.2.1 (BitVec.ofNat 32 (s.homeNat (s.ctxOf core) k 4)) w.2.2.2.2)).map (·.1)
      exec (.waitmPoll core team) s = .next (if hit = [] then v
        else v.acquire core m.uid (hit.filterMap (fun l => (v.thread? core team l).map (·.tid))) 2 (v.stampFrom core k))

/-- R131 to R134, R203, R204, R372, R374, R375: a push with its release done, room and the home in reach, that no earlier queue
instruction of its team on the queue stands before, enters its queue's ring, in whose memory its bytes stand, and its threads are
ready; a pop takes the oldest entry, in an EARLY queue once the producer's writes up to it are complete, into its register pair or
its scratchpad; a try does too, or says that there is none. R128, R129, R191, R388: SEAL, once its fence is complete and no other
stands before it, sets bit 5 of every leaf that maps its region, drops what the TLBs hold of it, and waits for the writes under way
to the region; when they are complete its threads are ready. UNSEAL drops every copy of the region, clears bit 5, drops what the
TLBs hold, and its threads go on. Where the entries stand in the ring's memory is the model's choice (log 48, DESIGN CHOICE). -/
def Obligations.QueueTransfersAndSeals : Prop :=
  (∀ (s : State) (x : QOp) (q : HwQueue), kvGet s.hwqs x.q = some q →
     let rest := s.qops.filter (fun y => y.id ≠ x.id)
     (s.qops.find? (fun y => y.id = x.id && y.op = 0) = some x → s.pushHeld x = false → q.entries.length < 2 ^ q.logcap →
       (q.early = true ∧ q.span = false ∨ s.remoteReady (coreDie x.core) q.home = true) →
       (∀ y ∈ s.qops, y.q = x.q → y.uid = x.uid → x.id ≤ y.id) →
       let r := if q.vocab = 0 then (x.data, false) else vocabCheck q.vocab.toNat x.data
       ∃ u : State, exec (.qpushEnterRing x.id) s = .next u.sweep ∧ u.qops = rest
         ∧ kvGet u.hwqs x.q = some { q with entries := q.entries ++ [⟨r.1, x.uid, x.count⟩], recv := q.recv + 1
                                            oovcnt := if r.2 then satInc q.oovcnt else q.oovcnt }
         ∧ (∀ n, n ≠ x.q → kvGet u.hwqs n = kvGet s.hwqs n) ∧ u.mem = (s.ringPut q r.1).mem
         ∧ (∀ c n l, (u.thread? c n l).map noWait = (s.thread? c n l).map noWait)
         ∧ ∀ n l y, u.thread? x.core n l = some y → y.wait ≠ .queue x.id)
     ∧ (s.qops.find? (fun y => y.id = x.id && y.op ≠ 0) = some x → s.remoteReady (coreDie x.core) q.home = true →
       (∀ y ∈ s.qops, y.q = x.q → y.uid = x.uid → y.id < x.id → y.op = 0 ∧ 2 ^ q.logcap ≤ q.entries.length) →
       let did := fun (r : State) (W : Team → Team) => ∃ u : State, exec (.qpopDeliver x.id) s = .next u
         ∧ beside u = beside { r with qops := rest }
         ∧ ∀ c n, (u.team? c n).map (fun t => (t.uid, t.sregs))
           = (s.team? c n).map (fun t => (t.uid, if t.uid = x.uid then (W t).sregs else t.sregs))
       let status := fun (t : Team) (b : Nat) =>
         if 2 ≤ x.op then t.setSr x.d (BitVec.ofNat 32 ((t.sr x.d).toNat % 0x80000000 + b)) else t
       (2 ≤ x.op → s.poppable q = none → did s (fun t => status t 0x80000000))
       ∧ (q.entries = [] → s.poppable q = none)
       ∧ ∀ e r, q.entries = e :: r →
         (q.early = true → ∀ w ∈ s.writes, ∀ l k n, w.owner = .team l e.uid k n → e.count.toNat < n.toNat) →
         let bs := s.ringGet q e
         (x.op ≠ 3 → did { s with hwqs := kvPut s.hwqs x.q { q with entries := r }
                                  mem := if q.long then memPut s.mem (scratchKey x.core x.a) bs else s.mem }
           (fun t => status (if q.long then t else t.setSr2 x.a (BitVec.ofNat 64 (ofBytes bs))) 0))
         ∧ (x.op = 3 → exec (.qpopDeliver x.id) s = .next s)))
  ∧ (∀ (s : State) (q : HwQueue) (k : Nat) (bs : List Byte), (∀ x ∈ s.was, x.nibble = false) → isScratch k = false →
     beside (s.homeWrite k bs) = beside { s with mem := memPut s.mem k bs }
     ∧ (s.ringKey q q.recv.toNat true = none → s.ringPut q bs = s)
     ∧ (s.ringKey q q.recv.toNat true = some k → k % 128 + bs.length ≤ 128 →
       beside (s.ringPut q bs) = beside { s with mem := memPut s.mem k bs }))
  ∧ (∀ (s : State) (r : SealReq),
     let ls := s.sealLeaves r
     let put := fun (bit : Nat) (v : State) (f : Leaf) =>
       (v.homeWrite f.pte (toBytes 8 (f.val / 64 * 64 + bit + f.val % 32))).dropTlb r.ctx f.va (f.va + f.bytes)
     let ready := fun (u t : State) => u.seals = s.seals.filter (fun o => o.id ≠ r.id)
       ∧ ∀ c n l, (u.thread? c n l) = (t.thread? c n l).map (fun x =>
         if c = r.core ∧ x.wait = .seal r.id then { x with wait := .ready } else x)
     (s.seals.find? (fun o => o.id = r.id && !o.unsl) = some r →
       (r.accepted = true → s.allOver r.awaiting = true →
         ∃ u : State, exec (.sealComplete r.id) s = .next u ∧ ready u s
           ∧ beside u = beside { s with seals := u.seals, sealedFrames := (s.sealedFrames ++ leafFrames ls).dedup })
       ∧ (r.accepted = false → s.sealReady r = true → ∃ u : State, exec (.sealComplete r.id) s = .next u
         ∧ beside u = beside { ls.foldl (put 32) s with seals := u.seals }
         ∧ u.seals = s.seals.map (fun (o : SealReq) => if o.id = r.id then
             { o with accepted := true, awaiting := ls.flatMap (fun f => u.writesTo f.key f.bytes) } else o)))
     ∧ (s.seals.find? (fun o => o.id = r.id && o.unsl) = some r → s.sealReady r = true →
       ∃ u : State, exec (.unsealComplete r.id) s = .next u ∧ u.seals = s.seals.filter (fun o => o.id ≠ r.id)
         ∧ (∀ n l x, u.thread? r.core n l = some x → x.wait ≠ .seal r.id)
         ∧ let cut : State := { ls.foldl (fun v f => v.dropLines f.key f.bytes) s with
             sealedFrames := s.sealedFrames.filter (fun g => !(leafFrames ls).contains g) }
           beside u = beside { ls.foldl (put 0) cut with seals := u.seals }))

/-! ### The steps of a core's own units -/

/-- R33, R42, R43, R314: once the release it makes is complete, an arrival is counted: of threads that had not arrived in
the phase, at a numbered barrier, as so many of A, the phase completing at M, and at a grid barrier what their die knows joins what the
release acquires; at a join mask and at TFETCH's barrier its threads wait on, and the mask or the workgroup is tested. R33, R40, R45, R390, R391: when a tile's claims are served,
every thread is born into its work item, or without one; of the bins 256 cycles old the first goes into a free team slot, its threads
from lane 0 on; a team whose counter has reached 80 is served next; a special function's result goes to its thread and
its flags to MODE, one lane a step. (Which of two codes within 1 ulp a special function gives is free by its operand, log 5; log 1 says in
what order the steps come.) -/
def Obligations.ArrivalsAndCoreUnits : Prop :=
  (∀ (s : State) (a : Arrival), s.arrivals.find? (fun o => o.id = a.id) = some a → s.fenceEnabled a.release = true →
     s.arrivalSaved a = false → s.arrivalHere a = true →
     let done : State := { s with arrivals := s.arrivals.filter (fun o => o.id ≠ a.id) }
     let i := Instr.barrierArrivalCounted a.id
     (∀ k, a.bar = some k → (s.team? a.core a.team).isSome = true → (s.wgLaunch? a.core).isSome = true → a.agents ≠ [] →
       let b := s.barrier a.core a.team k
       (∀ tid ∈ a.agents, ∀ n l x p, s.findTid a.core tid = some (n, l, x) → x.lastArrival k = some p → p.1 ≠ b.phase) →
       ∃ u : State, exec i s = .next u.sweep ∧ u.arrivals = done.arrivals
         ∧ u.barrier a.core a.team k = let c : Barrier := { b with a := b.a + a.agents.length, stamp := b.joined k (s.vcOf (coreDie a.core)) }
           if c.m ≤ c.a then { c with a := 0, phase := b.phase + 1 } else c)
     ∧ (∀ k, a.bar = none → a.join = some k → exec i s
       = .next ((done.setWaits a.core (fun t => t.wait = .arrive a.id) (.join k)).joinTest a.core a.team).sweep)
     ∧ (a.bar = none → a.join = none → exec i s
       = .next (((((done.setWaits a.core (fun t => t.wait = .arrive a.id) .tfetch).modWg a.core
           (fun w => { w with tfArrived := w.tfArrived ++ a.agents })).orderArrival a.core a.team none).tfetchCheck a.core).sweep)))
  ∧ (∀ (s : State),
     (∀ core w l tile, s.wg? core = some w → s.wgLaunch? core = some l → w.tfTile = some tile → w.frozen = false →
       ∃ u, exec (.tfetchComplete core) s = .next u
         ∧ ∀ n k, (u.thread? core n k).map noWait
           = (s.thread? core n k).map (fun x => noWait (s.tfThread core n k l.hdr tile x)))
     ∧ (∀ core key w b, s.wg? core = some w → w.runs = true → w.bins.find? (fun b => b.key = key) = some b →
       w.bins.find? (fun b => b.since + 256 ≤ ((s.cluster (clusterOf core)).cycles : Int)) = some b → ∀ slot, s.freeTeamSlot core = some slot →
       ∃ u, exec (.reformBinTimeout core key) s = .next u
         ∧ u.team? core slot = some { Team.empty with
             uid := s.nextSeq, sregs := b.sregs, qpreds := b.qpreds, mode := b.mode, rank := b.rank, order := [key]
             bars := barsOf b.threads.length 8
             lanes := (List.range b.threads.length).zip (b.threads.map (fun e => e.2.2.newTeam)) }
         ∧ (∀ n, n ≠ slot → u.team? core n = s.team? core n)
         ∧ (u.wg? core).map (·.bins) = some (w.bins.filter (fun x => x.key ≠ key)))
     ∧ (∀ core part unif team pc t, s.pick core part unif = some (team, pc) → s.team? core team = some t →
       80 ≤ (if unif then t.starveU else t.starveL) →
       exec (.starvationPriority core part unif) s = .next { s with agenda := .issue core part unif :: s.agenda })
     ∧ (∀ x lane tid a, s.sfqs.find? (fun o => o.id = x.id) = some x → x.todo.find? (fun p => p.1 = lane) = some (lane, tid, a) →
       let r := sfqVal x.fn (Config.ulpBit x.fn a.toNat) a.toNat
       let todo := x.todo.filter (fun p => p.1 ≠ lane)
       ∃ u, exec (.sfqResult x.id lane) s = .next u
         ∧ { u with wgs := s.wgs } = { s with
             sfqs := if todo.isEmpty then s.sfqs.filter (fun y => y.id ≠ x.id)
                     else s.sfqs.map (fun (y : Sfq) => if y.id = x.id then { y with todo := todo } else y) }
         ∧ (∀ c n l, u.thread? c n l
           = (s.thread? c n l).map (fun y => if c = x.core ∧ y.tid = tid then y.setV x.d (BitVec.ofNat 32 r.1) else y))
         ∧ ∀ c n, (u.team? c n).map teamShared
           = (s.team? c n).map (fun m => teamShared (if m.uid = x.uid then withFlags r.2 m else m))))

/-- R139, R140, R142, R152, R153: a mark settles into its core's store, where an estate of its key that is not pinned makes way, or is
discarded where its sibling is cancelled; a close none of whose estates is pinned any more writes its record, the first word last, and
completes its packet. -/
def Obligations.EstatesSettleAndCloses : Prop :=
  ∀ (s : State),
    (∀ x, s.settles.find? (fun o => o.id = x.id) = some x →
      let e := x.est
      let gone := ∃ l, s.launch? x.launch = some l ∧ l.hdr.sibf ≠ 0 ∧ s.sibCancelled l (l.hdr.sibOfId e.ident) = true
      let same := fun (y : Estate) => y.ctx = e.ctx ∧ y.lin = e.lin ∧ y.ident = e.ident
      let held := kvGetD [] s.stores x.core
      let kept := held.filter (fun y => y.pinned || !(y.ctx = e.ctx && y.lin = e.lin && y.ident = e.ident))
      ∃ u, exec (.estateSettle x.id) s = .next u
        ∧ (gone → u.stores = s.stores ∧ u.settles = s.settles.filter (fun o => o.id ≠ x.id)
          ∧ ∃ c ∈ u.lineages, c.ctx = e.ctx ∧ c.lin = e.lin ∧ c.bequeathed ≠ 0 ∧ c.discarded ≠ 0 ∧ c.cancelled ≠ 0)
        ∧ (¬ gone → kept.length < 4096 → u.settles = s.settles.filter (fun o => o.id ≠ x.id)
          ∧ kvGetD [] u.stores x.core = kept ++ [{ e with order := s.nextSeq }]
          ∧ (∀ y ∈ kvGetD [] u.stores x.core, same y → y.pinned = true ∨ y = { e with order := s.nextSeq })
          ∧ ∃ c ∈ u.lineages, c.ctx = e.ctx ∧ c.lin = e.lin ∧ c.bequeathed ≠ 0))
    ∧ ∀ c, s.closes.find? (fun o => o.id = c.id) = some c → c.pins = [] →
      let t : State := { s with closes := s.closes.filter (fun o => o.id ≠ c.id) }
      let v := if c.buf = 0 then t else (t.ksStore c.counts.ctx (c.buf + 8) c.counts.words).ksStore c.counts.ctx c.buf
        (toBytes 4 (c.counts.lin + 65536 + if c.overCap then 131072 else 0))
      exec (.lineageCloseFinish c.id) s = .next (if c.launch = none then v.completePacket c.queue 1 0 else v)

/-! ### The engines -/

/-- R78, R81, R92: a command whose engine is free and that nothing of its workgroup blocks begins; a multicast tile goes
to every member of its set that still stands, once each has issued as many commands for the set, and stands in each for the operand, as
read between the last of their issues and this step; a copy command that has begun writes one
chunk of its row, or one line of a TQST, and its workgroup ends with it where no thread is left, where no access of the
step meets a place without memory. R64, R77, R79, R80, R81, R296, R299: a matrix command that has begun acts whole: MMA
leaves its sums in WORK, AZERO clears the first rows of WORK, ASWAP exchanges the banks, ALD fills VIS from memory, AST
writes VIS's rows; but for AST's writes the state is as before beside its team's accumulator and the command, which leaves: every
thread, every other accumulator and every other team, but for the retired operation. What a command reads that another agent writes
meanwhile is one of the values it has had, freely chosen (log 37). -/
def Obligations.EngineCommandsProceed : Prop :=
  (∀ (s : State) (id len core : Nat) (w : Workgroup) (c : Cmd), s.cmd? id = some (core, w, c) → s.stop = none →
     (s.engineFree core w id = true → w.canBegin c = true →
       exec (.engineCommandBegin id) s = .next (s.bump.modCmd core id (fun c => { c with begun := true, start := s.nextSeq })))
     ∧ (∀ m, c.mc.head? = some m →
       let here := s.mcMembers m
       (∀ p ∈ here, m.round < p.2.mcIssued.count m.key) →
       let cmds := ((core, w) :: here).filterMap (fun p =>
         (p.2.cmds.find? (fun c => c.mc.any (fun x => x.key = m.key))).map (fun o => (p.1, o.id)))
       exec (.multicastFetch id) s = .next (cmds.foldl (fun t p =>
         t.modCmd p.1 p.2 (fun o => o.deliver m.key ((cmds.map (·.2)).foldl max 0) s.nextSeq)) s.bump))
     ∧ (c.begun = true → c.issued = false → 0 < len → w.stopping = none → s.engineFree core w id = true →
       let ends := fun (u : State) => (u.endWorkgroup core).stop = none →
         exec (.copyChunkWrite id len) s = .next (u.endWorkgroup core)
       (c.kind = .tcopy → ends (s.copyChunk core w.launch c len)) ∧ (c.kind = .tqst → ends (s.qstLine core w.launch c))
       ∧ (c.kind = .tchain → ends (s.chainChunk core w.launch c len)) ∧ (c.kind = .trot → ends (s.rotChunk core w.launch c len))))
  ∧ (∀ (s : State) (id core : Nat) (w : Workgroup) (c : Cmd) (t : Team), s.cmd? id = some (core, w, c) →
     c.begun = true → c.issued = false → s.engineFree core w id = true → s.team? core c.team = some t →
     let a := kvGetD ⟨[], []⟩ t.accs c.acc
     let m := mmaBlk c.blk
     let b := bankBlk c
     let leaves := fun (f : AccTile → AccTile) =>
       let u := (s.modAcc core c f).cmdRetire c.id
       ((u.endWorkgroup core).stop = none → exec (.tensorCommandComplete id) s = .next (u.endWorkgroup core))
       ∧ { u with wgs := s.wgs, was := s.was } = s
       ∧ (u.team? core c.team).map (·.accs) = some (kvSetD ⟨[], []⟩ t.accs c.acc (f a))
       ∧ (∀ k n l, u.thread? k n l = s.thread? k n l)
       ∧ (∀ k n, (k = core → n ≠ c.team) → (u.team? k n).map noTokens = (s.team? k n).map noTokens)
       ∧ ∀ w, u.wg? core = some w → ∀ o ∈ w.cmds, o.id ≠ c.id
     (c.kind = .mma → leaves (fun b => { b with work := bankPut b.work ((List.range (min m.vr c.n)).flatMap (fun i =>
         (List.range m.vc).map (fun j => (i, j, s.mmaElem (s.mmaLook c false) (s.mmaLook c true) m (c.mmaTile core false) (c.mmaTile core true)
           i j (if m.accum then (kvGetD 0 a.work (64 * i + j)).toNat else 0))))) }))
     ∧ (c.kind = .azero → leaves (fun b => { b with work := b.work.filter (fun e => 64 * min c.n 64 ≤ e.1) }))
     ∧ (c.kind = .aswap → leaves (fun b => ⟨b.vis, b.work⟩))
     ∧ (∀ bs, c.kind = .ald →
       s.engRead core c b.size ((List.range b.rows).map (fun i => (b.addr + i * b.rs, b.vc * b.size))) = .ok bs →
       leaves (fun x => { x with vis := bankPut x.vis ((List.range b.rows).flatMap (fun i => (List.range b.vc).map (fun j =>
         let x := elemAt bs b.size (i * b.vc + j)
         (i, j, if b.ty = 8 then x else fp32.rne ((tyFmt b.ty).value x))))) }))
     ∧ (∀ v, c.kind = .ast → s.engWrites core w.launch c.id false (b.writes c.free (fun i j =>
           let x := (kvGetD 0 a.vis (64 * i + j)).toNat
           if fp32.isNan x then (tyFmt b.ty).defNan else if b.ty = 8 then x else (tyFmt b.ty).rne (fp32.value x))) = .ok v →
       let u := (v.modCmd core c.id (fun c => { c with issued := true })).cmdCheck c.id
       (u.endWorkgroup core).stop = none → exec (.tensorCommandComplete id) s = .next (u.endWorkgroup core)))

/-! ### Translation faults, errors and links -/

/-- R192, R193, R195, R197, R198: a walk that finds a leaf fills the TLBs of the cores that wait, whose threads run their
units again (a lane holds one thread), but where the leaf faults their write; where the leaf or the walk faults, a fault is recorded for each access. A fault is failed at once while the buffer is not enabled,
and else posted with the next sequence number, its record's first word last. A REPLAY lets its threads or its engine go
on, with a new walk; a FAIL fails it. A RED that waits at a fault and whose thread is gone moves to a replay buffer. R11, R14, R194, R221:
an invalidation drops what the TLBs hold of its range, and its BUSY stands until the accesses made through them, and the
walks of the range, are over; an uncorrectable error of a word of memory is kept and logged; a flit that fails nine times
in a row takes its link down, a Span link or a Viaduct port. (What names the source of a link's record, and what becomes of a link of the
Keystone die, are the model's choice, log 47.) -/
def Obligations.FaultsInvalidationsAndLinks : Prop :=
  (∀ (s : State), s.stop = none →
     (∀ die ctx vpage, s.walkRunning ⟨die, ctx, vpage⟩ = true →
       let who := s.walkers ⟨die, ctx, vpage⟩
       let faults := fun (u : State) (who : List (Nat × Nat × Nat × PC × Miss)) (k : Nat) => ∀ a ∈ accessHeads who, ∃ f ∈ u.faults,
         f.who = .threads a.1 ∧ f.kind = k ∧ f.m = a.2.2.2.2 ∧ f.seq = none
       (∀ e, s.walk ctx (vpage * 131072) = .leaf e → ∃ u, exec (.pageWalkComplete die ctx vpage) s = .next u
         ∧ u.walks = s.walks.filter (· ≠ ⟨die, ctx, vpage⟩) ∧ u.mem = s.mem
         ∧ (let refuses := fun (m : Miss) => match e.check s.cxlCoherent m.va.toNat m.write false with | .fault _ => true | _ => false
           faults u (who.filter (fun a => refuses a.2.2.2.2)) 1
           ∧ ∀ c n l x m, s.thread? c n l = some x → coreDie c = die → x.wait = .walk m → m.ctx = ctx → m.va.toNat / 131072 = vpage →
             refuses m = false → (∀ a ∈ who, a.1 = c → a.2.1 = n → a.2.2.1 = l → a.2.2.2.2 = m) → u.thread? c n l = some { x with wait := m.again }
               ∧ (e.covers ctx m.va.toNat = true → u.tlbFind c ctx m.va.toNat = some e)))
       ∧ (∀ k, s.walk ctx (vpage * 131072) = .fault k → ∃ u, exec (.pageWalkComplete die ctx vpage) s = .next u
         ∧ u.walks = s.walks.filter (· ≠ ⟨die, ctx, vpage⟩) ∧ u.mem = s.mem ∧ faults u who k))
     ∧ (∀ f, s.faults.find? (fun g => g.id = f.id && g.seq.isNone) = some f →
       let a := s.fb.base.toNat + 32 * (s.fb.wptr.toNat % 2 ^ s.fb.logsz)
       (s.fb.enable = false → exec (.faultPost f.id) s = .next (s.failFault f 0))
       ∧ (s.fb.enable = true → (s.fb.wptr - s.fb.rptr).toNat < 2 ^ s.fb.logsz → f.kind ≠ 4 → exec (.faultPost f.id) s
         = .next { (s.ksWrite (physKey (a + 4)) (s.faultBody f)).ksWriteNat (physKey a) 4 s.fb.nextSeq.toNat with
             fb := { s.fb with wptr := s.fb.wptr + 1, nextSeq := s.fb.nextSeq + 1 }
             faults := s.faults.map (fun (g : FaultReq) => if g.id = f.id then { g with seq := some s.fb.nextSeq } else g)
             irqs := if s.fb.inten then s.irqs ++ [.faultBuffer] else s.irqs }))
     ∧ (∀ f q, s.faults.find? (fun g => g.seq = some q) = some f →
       let t := fun (core : Nat) => ({ s with faults := s.faults.filter (fun g => g.id ≠ f.id) } : State).tlbEvict core f.m.ctx f.m.va.toNat
       (∀ core, f.who = .threads core → ∃ u, exec (.faultRespReplay q) s = .next u ∧ { u with wgs := s.wgs } = t core
         ∧ ∀ c n l, u.thread? c n l = (s.thread? c n l).map (fun x =>
           if c = core ∧ x.wait = .fault f.id then { x with wait := f.m.again } else x))
       ∧ (∀ core id, f.who = .engine core id → exec (.faultRespReplay q) s = .next (t core))
       ∧ exec (.faultRespFail q) s = .next (s.failFault f q))
     ∧ (∀ w, s.wpath.find? (fun o => o.id = w.id && o.held) = some w → s.alive w.agent = false →
       let slice := coreDie w.core * 256 + w.va.toNat / 131072 % 128 % homeSlices (coreDie w.core)
       (s.replay.filter (fun e => e.1 = slice)).length < 32 → exec (.redReplayBufferMove w.id) s
         = .next ({ s with wpath := s.wpath.filter (fun o => o.id ≠ w.id), replay := s.replay ++ [(slice, w)] } : State).sweep))
  ∧ (∀ (s : State),
     let r := s.inval.range
     let ctx := s.inval.ctx.toNat
     (s.inval.busy = false → ∃ u, exec .invalidateGo s = .next u
       ∧ u.inval = { s.inval with busy := true, awaiting := s.accessesIn ctx r.1 r.2 }
       ∧ { u with l1tlb := s.l1tlb, cltlb := s.cltlb, lltlb := s.lltlb, inval := s.inval } = s
       ∧ ∀ k ∈ u.l1tlb ++ u.cltlb ++ u.lltlb, ∀ e ∈ k.2, e.ctx = ctx →
         rangesMeet (e.vbase * 2 ^ pageBits e.size) (2 ^ pageBits e.size) r.1 (r.2 - r.1) = false)
     ∧ (s.inval.busy = true → s.allOver s.inval.awaiting = true →
       (∀ w ∈ s.walks, w.ctx = ctx → r.1 ≤ w.vpage * 131072 → r.2 ≤ w.vpage * 131072) →
       exec .tlbInvalidationDone s = .next { s with inval := { s.inval with busy := false, awaiting := [] } })
     ∧ (∀ pa, memExists s.part (keyOf spDevice pa) = true →
       let o := s.owner (keyOf spDevice pa)
       exec (.softErrorUncorrectable pa) s = .next (({ s with
         softErrs := if s.softErrs.contains (pa / 8) then s.softErrs else s.softErrs ++ [pa / 8] } : State).logWrite false 3
           (homeDie (keyOf spDevice pa)) 0 0 (BitVec.ofNat 64 (if o = 0 then pa else pa / 131072 * 131072)) (BitVec.ofNat 64 (o % 65536))))
     ∧ (∀ a b, s.linkUp a b = true →
       let k := fun (a b : Nat) => 8 * a + b + s.linkSel a b
       (s.chans ≠ [] → exec (.spanFlitCrcFail a b) s
         = .next { s with retries := kvPut s.retries (k a b) (min 9 (kvGetD 0 s.retries (k a b) + 1)) })
       ∧ (9 ≤ kvGetD 0 s.retries (k a b) →
         let t := ({ s with linksDown := kvPut s.linksDown (linkKey a b + s.linkSel a b) 1
                            retries := kvDel (kvDel s.retries (k a b)) (8 * b + a + s.linkSel a b) } : State).logWrite
           false 1 a 0 0 (linkArg a b) (linkDir a b)
         exec (.spanLinkDown a b) s
           = .next (if a = 5 ∨ b = 5 then t else t.logWrite true 0x0103 a 0 0 (linkArg a b) (linkDir a b))))
     ∧ (∀ p, s.portUp p = true →
       ((∃ w ∈ s.ports, spaceOf w.key = spFabric) → ∀ d, exec (.spanFlitCrcFail (64 + p) d) s
         = .next { s with retries := kvPut s.retries (64 + p) (min 9 (kvGetD 0 s.retries (64 + p) + 1)) })
       ∧ (s.choice = p → 9 ≤ kvGetD 0 s.retries (64 + p) → exec .viaductLinkDown s
         = .next (({ s with viaductDown := s.viaductDown ++ [p], retries := kvDel s.retries (64 + p) } : State).logWrite
             false 2 5 0 0 (BitVec.ofNat 64 p) 0))))

/-! ### The ballot unit -/

/-- R208 to R218, R260, R321, R323: the unit accepts a post that has left its core after those before it, counts a sibling's
first one while its group votes, decides at the threshold, and answers; it tells the piers of a cancelled sibling whose
exchange is done, walks the page lists, writes the accounting record, its first word last, once no settle of a cancelled sibling
waits, and closes an open group; answers are written to their registers. A decrement is told where no engine command's nibbles are
under way (R99). (The order of the posts of a die, and when a query reads its group, are logged in 23, DEDUCED.) -/
def Obligations.BallotUnit : Prop :=
  ∀ (s : State),
    (∀ p hash work, s.posts.find? (fun o => o.id = p.id && o.answer.isNone) = some p → p.hash = some (hash, work) →
      s.postArrives p = true →
      let s0 := s.mergeStamp 5 (s.vcOf (coreDie p.core))
      let say := fun (s : State) (x : Word) =>
        ({ s with posts := s.posts.map (fun (o : Post) => if o.id = p.id then { o with answer := some x } else o) } : State)
      let i := Instr.ballotPostAccept p.id
      (s.liveGroup p.handle = none → exec i s = .next (say s0 2))
      ∧ ∀ k g b, s.liveGroup p.handle = some (k, g) → g.sibs[p.sib]? = some b →
        let seen := ({ g with nposts := g.nposts + 1 } : Group).modSib p.sib (fun b => { b with work := b.work + work })
        let t : State := { s0 with groups := kvPut s.groups k seen }
        (g.state = .voting → b.post.isSome = true → exec i s = .next (say t 1))
        ∧ (g.state ≠ .voting → exec i s = .next (say t (if b.cancelled then 3 else 2)))
        ∧ (g.state = .voting → b.post = none →
          let counted := seen.modSib p.sib (fun b => { b with post := some (hash, g.nposts + 1) })
          exec i s = .next ((if g.t ≤ (counted.counted.filter (fun e => e.2.1 = hash)).length
            then (say s0 0).decideGroup k counted hash (g.nposts + 1)
            else { say s0 0 with groups := kvPut s.groups k counted }).siblingsQuiet g.launch)))
    ∧ (∀ slot g l, kvGet s.groups slot = some g → g.state ≠ .closed → s.launch? g.launch = some l →
      let due := (List.range g.sibs.length).filter (fun i => match g.sibs[i]? with
        | some b => b.cancelled && !b.told && s.exchangeDone g i
        | none => false)
      due ≠ [] → exec (.siblingCancelNotify slot) s
        = .next ((due.foldl (fun s i => s.tellSibling slot l i) s).siblingsQuiet g.launch))
    ∧ (∀ p, s.fiveReaches (coreDie p.core) = true →
      let writes := fun (i : Instr) (x : Word) => ∃ u : State, exec i s = .next u
        ∧ beside u = beside { s with posts := s.posts.filter (fun o => o.id ≠ p.id) }
        ∧ (∀ c n, u.team? c n = (s.team? c n).map (fun t => if t.uid = p.uid then t.setSr p.d x else t))
      (∀ x, s.posts.find? (fun o => o.id = p.id && o.hash.isSome) = some p → p.answer = some x →
        (∀ k g, s.liveGroup p.handle = some (k, g) → ∀ b ∈ g.sibs, b.cancelled = true → b.told = true) →
        writes (.bpostStatusDeliver p.id) x)
      ∧ (s.posts.find? (fun o => o.id = p.id && o.hash.isNone) = some p →
        (s.liveGroup p.handle = none → writes (.bqryResultDeliver p.id) 1)
        ∧ ∀ k g b, s.liveGroup p.handle = some (k, g) → g.sibs[p.sib]? = some b → writes (.bqryResultDeliver p.id)
          (BitVec.ofNat 32 ((if g.outcome ≠ 0 ∨ g.state = .releasing then 1 else 0) + (if b.cancelled then 2 else 0)
            + (if b.post.isSome then 4 else 0) + 256 * g.counted.length))))
    ∧ (∀ slot g, kvGet s.groups slot = some g → g.state = .releasing →
      let put := fun (g : Group) => ({ s with groups := kvPut s.groups slot g } : State)
      let walks := fun (u : State) => exec (.pageReleaseWalk slot) s = .next u
      let head := g.pages + BitVec.ofNat 64 (8 * g.walk.1)
      (g.walk.1 < g.n → g.walk.2.1 = none →
        (s.ksPlace g.ctx head false = none → walks (put (g.nextList true)))
        ∧ ((s.ksPlace g.ctx head false).isSome = true → walks (if s.ksReadNat g.ctx head 8 = 0 then put (g.nextList false)
          else put { g with walk := (g.walk.1, some (BitVec.ofNat 64 (s.ksReadNat g.ctx head 8)), 0) })))
      ∧ (∀ a, g.walk.1 < g.n → g.walk.2.1 = some a → (s.ksPlace g.ctx a false).isSome = true →
        let node := s.ksRead g.ctx a 64
        let j := g.walk.2.2 / 2
        pkt node 8 8 < 4 → (pkt node 8 8 ≠ 0 ∨ pkt node 0 8 = 0) →
        (pkt node 8 8 ≤ j → walks (if pkt node 0 8 = 0 then put (g.nextList false)
          else put { g with walk := (g.walk.1, some (BitVec.ofNat 64 (pkt node 0 8)), 0) }))
        ∧ (j < pkt node 8 8 → g.walk.2.2 % 2 = 1 → walks (s.pushPage slot g (pkt node (0x10 + 16 * j) 8)))
        ∧ (j < pkt node 8 8 → g.walk.2.2 % 2 = 0 → ∀ key, pkt node (0x18 + 16 * j) 8 % 4 = 0 →
          s.ksPlace g.ctx (BitVec.ofNat 64 (pkt node (0x18 + 16 * j) 8)) true = some key → isDevice key = true →
          s.remoteReady 5 (homeDie key) = true → (∀ x ∈ s.was, x.nibble = false) →
          let old := s.readNat key 4
          ∃ u, walks u ∧ u.mem = memPut s.mem key (toBytes 4 ((old + 0xFFFFFFFF) % 0x100000000))
            ∧ kvGet u.groups slot = some { (if old = 1 then { g with walk := (g.walk.1, g.walk.2.1, g.walk.2.2 + 1) }
              else g.nextEntry (old = 0)) with pagesrel := g.pagesrel + 1 }))
      ∧ (g.n ≤ g.walk.1 → (∀ b ∈ g.sibs, b.cancelled = true → b.told = true) → s.settlesCancelled g = false →
        let r := g.header ++ g.sibs.flatMap Sibling.entry
        exec (.accountingRecordWrite slot) s = .next { (s.ksStore g.ctx (g.acct + 4) (r.drop 4)).ksStore g.ctx g.acct (r.take 4) with
          groups := kvPut s.groups slot g.closed }))
    ∧ ∀ fn handle k g c, s.openGroup handle = some (k, g) → s.up = true → s.context? g.ctx = some c → c.reg.fn = fn →
      exec (.sibclose fn handle) s
        = .next { s with groups := kvPut s.groups k { g with state := .releasing, outcome := 3, winner := 0, dseq := 0 } }

/-! ### Host queues and registers -/

/-- R6, R10, R154, R169, R194, R197, R205, R220, R223, R237: what a write of each register does. A write to a locked register acts as here
while its function's interface is CONFIG_UNLOCKED, and moves a CONFIG_LOCKED or RUN one to ERROR. In recovery SLEN and the staging area are
written, and CMD's COMMIT and REBOOT act unless BUSY. That a queue belongs to the function that wrote it first, that a write of a locked
field with its own value is no write to it, and the offset 2^32 of the CXL mode, are the model's choice (log 20). -/
def Obligations.HostRegisterWrites : Prop :=
  (∀ (s : State) (q fn : Nat) (val : Word), s.up = true →
    let x := s.queue q
    let put := fun (i : Instr) (y : HostQueue) => exec i s = .next (s.setQueue q y)
    let reg := fun (off : Nat) (t : State) => exec (.registerWrite 0 off val) s = .next t
    (q < 1024 →
      put (.queueDoorbell q val) { x with wptr := val } ∧ put (.wclear q) { x with withdrawn := [] }
      ∧ put (.queueResume q) { x with error := false }
      ∧ put (.queueReset q) (if x.busy.isSome ∨ s.statusHeld q = true then { x with resetReq := true }
          else { x with rptr := x.wptr, error := false, withdrawn := [] })
      ∧ ((s.iface x.fn).state = 0 → (s.iface x.fn).resetting = 0 →
          (x.enable = true → put (.queueEnableWrite q val)
            { x with prio := val.toNat / 32 % 8, enable := val.getLsbD 8 })
          ∧ (x.enable = false → put (.queueEnableWrite q val)
            { x with logsz := val.toNat % 32, prio := val.toNat / 32 % 8
                     enable := val.getLsbD 8 && decide (4 ≤ val.toNat % 32 ∧ val.toNat % 32 ≤ 16) }))
      ∧ (fn < 32 → (kvGet s.queues q = none ∨ x.fn = fn) → (s.iface fn).state = 0 →
          (x.enable = true → ∀ off ∈ [0, 4, 12], exec (.registerWrite fn (0x100000 + 64 * q + off) val) s = .next s)
          ∧ (x.enable = false →
            put (.registerWrite fn (0x100000 + 64 * q) val) { x with fn := fn, base := pairOf val (hiWord x.base) }
            ∧ put (.registerWrite fn (0x100000 + 64 * q + 4) val) { x with fn := fn, base := pairOf (loWord x.base) val }
            ∧ put (.registerWrite fn (0x100000 + 64 * q + 12) val) { x with fn := fn, ctx := val.toNat }))
      ∧ (val ≠ 0 →
          let t := s.setQueue q { x with withdrawn := if val ∈ x.withdrawn then x.withdrawn
            else (x.withdrawn ++ [val]).drop (x.withdrawn.length + 1 - 16) }
          (∀ k l, s.launches.find? (fun e => e.2.queue = q && e.2.tag = val && e.2.state = .waiting) = some (k, l) →
            exec (.withdraw q val) s = .next (t.withdrawLaunch l))
          ∧ ((∀ e ∈ s.launches, e.2.queue ≠ q) → exec (.withdraw q val) s = .next t)))
    ∧ (reg 0x3004 { s with faultLog := { s.faultLog with rptr := val } }
      ∧ reg 0x300C { s with faultLog := { s.faultLog with inten := val.getLsbD 0 } }
      ∧ reg 0x3044 { s with eventLog := { s.eventLog with rptr := val } }
      ∧ reg 0x304C { s with eventLog := { s.eventLog with inten := val.getLsbD 0 } }
      ∧ reg 0x80010 { s with fb := { s.fb with rptr := val } }
      ∧ reg 0x80040 { s with inval := { s.inval with va := pairOf val (hiWord s.inval.va) } }
      ∧ reg 0x80044 { s with inval := { s.inval with va := pairOf (loWord s.inval.va) val } }
      ∧ reg 0x80048 { s with inval := { s.inval with pages := val } }
      ∧ reg 0x8004C { s with inval := { s.inval with ctx := val } })
    ∧ ((s.iface 0).state = 0 →
      reg 0x80000 { s with fb := { s.fb with base := pairOf val (hiWord s.fb.base) } }
      ∧ reg 0x80004 { s with fb := { s.fb with base := pairOf (loWord s.fb.base) val } }
      ∧ reg 0x80008 { s with fb := { s.fb with logsz := val.toNat % 32, enable := val.getLsbD 5, inten := val.getLsbD 6 } }
      ∧ reg 0x100000000 { s with cxlCoherent := val.getLsbD 0 })
    ∧ ((s.iface 0).state = 1 ∨ (s.iface 0).state = 2 → ∀ off ∈ [0x80000, 0x80004, 0x100000000],
      reg off (s.enterError 0 true false false))
    ∧ ((s.iface 0).state = 3 → ∀ off ∈ [0x80000, 0x80004, 0x100000000], reg off s)
    ∧ (val.toNat % 32 = s.fb.logsz → reg 0x80008 { s with fb := { s.fb with enable := val.getLsbD 5, inten := val.getLsbD 6 } })
    ∧ (val.toNat % 32 ≠ s.fb.logsz →
      ((s.iface 0).state = 1 ∨ (s.iface 0).state = 2 → reg 0x80008 (s.enterError 0 true false false))
      ∧ ((s.iface 0).state = 3 → reg 0x80008 s))
    ∧ (∀ n y, n < 4096 → fn < 32 → kvGet s.hwqs n = some y → y.fn = fn → ∃ u, exec (.registerWrite fn (0x90000 + 8 * n) val) s = .next u
      ∧ kvGet u.hwqs n = some { y with oovcnt := val } ∧ (∀ k, k ≠ n → kvGet u.hwqs k = kvGet s.hwqs k) ∧ { u with hwqs := s.hwqs } = s))
  ∧ ∀ (s : State) (val : Word), s.powered = true → s.recov.active = true →
    exec (.registerWrite 0 0x2008 val) s = .next { s with recov := { s.recov with slen := val } }
    ∧ (∀ off, off % 4 = 0 → 0x2000000 ≤ off → off < 0x4000000 →
      exec (.registerWrite 0 off val) s = .next { s with mem := memPut s.mem (keyOf spStage (off - 0x2000000)) (toBytes 4 val.toNat) })
    ∧ (s.recov.busy = false → exec .recoveryCommit s = .next { s with recov := { s.recov with busy := true } }
      ∧ exec .recoveryReboot s = .next s.cold.boot)
    ∧ (s.recov.busy = true → exec .recoveryReboot s = .next s)

/-- R154 to R169, R208: what parsing each packet does. A reserved header bit, or a reserved or misaligned field, completes the packet
with BAD_PACKET (4); a condition of R159 refuses it (3) with its DETAIL. A launch that passes waits for cores, with its group
voting; a BATCH takes its snapshot first. A FENCE completes once its conditions hold; SIGNAL and SIBOPEN once their writes are
complete, SIBOPEN waiting where no group slot is free; LINEAGE_CLOSE with its close. The packet stays as it was read (R155). (The attempts
of a snapshot agree, log 24; what the Keystone die does at an address that does not translate is logged in 16.) -/
def Obligations.PacketsAreParsed : Prop :=
  ∀ (s : State) (q type : Nat) (p : List Byte), Parses s q type p →
    let x := s.queue q
    let r := s.setQueue q { x with packet := ⟨x.headAddr, x.ctx, p⟩ }
    let ends := fun (i : Instr) (status detail : Nat) => exec i s = .next (r.completePacket q status detail)
    let hdr := s.ksRead x.ctx (BitVec.ofNat 64 (pkt p 8 8)) 128
    let h := parseHeader hdr
    let queued := fun (u v : State) (cmin cmax dies : Nat) (cpl : DWord × DWord) (batch : Option (Nat × DWord × Nat)) =>
      let id := v.nextSeq
      u.launches = kvPut v.launches id ⟨id, x.ctx, q, BitVec.ofNat 32 (pkt p 4 4), x.prio, h, h.cores cmin, h.cores cmax,
          BitVec.ofNat 5 dies, cpl.1, cpl.2, .waiting, [], [], [], batch, [], [], [], 0⟩
      ∧ u.queue q = { v.queue q with busy := some (.launch id) }
      ∧ (h.sibf = 0 → u.groups = v.groups)
      ∧ (h.sibf ≠ 0 → ∀ k g, v.openGroup h.sibgrp = some (k, g) →
        u.groups = kvPut v.groups k { g with state := .voting, launch := id })
      ∧ ({ u with launches := v.launches, queues := v.queues, groups := v.groups, nextSeq := v.nextSeq } : State) = v
    (∀ i t, (i, t) ∈ [(Instr.launch q, 1), (.fencePacket q, 2), (.signal q, 3), (.batch q, 4), (.sibopen q, 5), (.lineageClose q, 6),
        (.save q, 7), (.restore q, 8)] → type = t → 2 ≤ pkt p 1 1 → ends i 4 0)
    ∧ (pkt p 1 1 < 2 →
      (type = 1 →
        let dies := pkt p 0x14 4
        let ok := dies < 32 ∧ zeroFrom p 0x28 = true ∧ pkt p 8 8 % 128 = 0 ∧ pkt p 0x18 8 % 8 = 0
        let cores := s.coresDetail (pkt p 0x10 2) (pkt p 0x12 2) (BitVec.ofNat 5 dies)
        (¬ ok → ends (.launch q) 4 0)
        ∧ (ok → (∀ d, s.headerDetail hdr = some d → ends (.launch q) 3 d)
          ∧ (s.headerDetail hdr = none → cores ≠ none → ends (.launch q) 3 0x0C)
          ∧ (s.headerDetail hdr = none → cores = none → ∃ u, exec (.launch q) s = .next u
            ∧ queued u r (pkt p 0x10 2) (pkt p 0x12 2) dies (BitVec.ofNat 64 (pkt p 0x18 8), BitVec.ofNat 64 (pkt p 0x20 8)) none)))
      ∧ (type = 4 →
        let dies := pkt p 0x28 4
        let nent := pkt p 0x20 4 % 8192
        let bf := pkt p 0x20 4 / 8192 % 8
        let table : DWord := BitVec.ofNat 64 (pkt p 0x10 8)
        let snap : DWord := BitVec.ofNat 64 (pkt p 0x18 8)
        pkt p 0x20 4 < 65536 → dies < 32 → pkt p 0x2C 4 = 0 → pkt p 8 8 % 128 = 0 → pkt p 0x10 8 % 64 = 0 → pkt p 0x18 8 % 64 = 0 →
        pkt p 0x30 8 % 8 = 0 → s.headerDetail hdr = none →
        s.coresDetail (pkt p 0x24 2) (pkt p 0x26 2) (BitVec.ofNat 5 dies) = none →
        let fits := 1 ≤ nent ∧ nent ≤ 4096 ∧ 2 ≤ bf ∧ bf ≤ 5 ∧ h.ext.getD (bf - 2) 0 = nent
        (¬ fits → ends (.batch q) 3 0x0D)
        ∧ (fits → ∃ u, exec (.batch q) s = .next u
          ∧ queued u ((List.range nent).foldl (fun s i => s.snapEntry x.ctx x.withdrawn table snap i) r) (pkt p 0x24 2) (pkt p 0x26 2)
              dies (BitVec.ofNat 64 (pkt p 0x30 8), BitVec.ofNat 64 (pkt p 0x38 8)) (some (bf, snap, nent))))
      ∧ (type = 2 →
        let n := pkt p 0x10 4 % 16
        let es := (List.range n).map (fun i => s.ksRead x.ctx (BitVec.ofNat 64 (pkt p 8 8 + 16 * i)) 16)
        let cond := fun (e : List Byte) =>
          ((BitVec.ofNat 64 (nbits (pkt e 0 8) 56 0) : DWord), nbits (pkt e 0 8) 59 57, decide (nbits (pkt e 0 8) 60 60 = 1),
            (BitVec.ofNat 64 (pkt e 8 8) : DWord))
        let any := decide (pkt p 0x10 1 / 16 % 2 = 1)
        let t := r.setQueue q { r.queue q with busy := some (.fence (es.map cond) any), fenceWait := true }
        pkt p 0x10 4 < 32 → zeroFrom p 0x14 = true → 1 ≤ n → n ≤ 12 → pkt p 8 8 % 16 = 0 →
        (∀ e ∈ es, nbits (pkt e 0 8) 59 57 < 5 ∧ nbits (pkt e 0 8) 63 61 = 0
          ∧ nbits (pkt e 0 8) 56 0 % (if nbits (pkt e 0 8) 60 60 = 1 then 4 else 8) = 0) →
        exec (.fencePacket q) s = .next (if s.fenceMet x.ctx (es.map cond) any then t.putStatus q 1 0 (0, 0) else t))
      ∧ (type = 3 →
        let a := pkt p 8 8
        let v := pkt p 0x10 8
        let addr : DWord := BitVec.ofNat 64 a
        zeroFrom p 0x1C = true →
        (pkt p 0x18 4 = 0 → a % 8 = 0 → exec (.signal q) s = .next ((r.ksStoreNat x.ctx addr 8 v).awaitWrites q s.nextSeq).pollFences)
        ∧ (pkt p 0x18 4 = 1 → a % 8 = 0 → exec (.signal q) s
          = .next ((r.ksAdd x.ctx addr v).awaitWrites q s.nextSeq).pollFences)
        ∧ (pkt p 0x18 4 = 2 → a % 4 = 0 → exec (.signal q) s
          = .next ((r.ksStoreNat x.ctx addr 4 (v % 2 ^ 32)).awaitWrites q s.nextSeq).pollFences))
      ∧ (type = 5 →
        let n := pkt p 0x28 4 % 128
        let t := pkt p 0x28 4 / 128 % 128
        let live := pkt p 8 8
        pkt p 0x28 4 < 16384 → zeroFrom p 0x30 = true → live % 4 = 0 →
        (t = 0 ∨ n < t ∨ 64 < n ∨ s.freeqOk x.ctx (pkt p 0x2C 4) = false → ends (.sibopen q) 3 0x10)
        ∧ (1 ≤ t → t ≤ n → n ≤ 64 → s.freeqOk x.ctx (pkt p 0x2C 4) = true →
          (s.freeGroup = none → exec (.sibopen q) s = .next (r.waitPacket q))
          ∧ ∀ k gen, s.freeGroup = some (k, gen) →
            let g : Group := ⟨gen, .opened, x.ctx, x.fn, BitVec.ofNat 64 live, BitVec.ofNat 64 (pkt p 0x10 8), BitVec.ofNat 64 (pkt p 0x18 8),
              BitVec.ofNat 32 (pkt p 0x2C 4), n, t, 0, 0, List.replicate n ⟨none, 0, 0, 0, 0, false, false⟩, 0, 0, 0, 0, 0, 0, (0, none, 0)⟩
            let u := (List.range n).foldl (fun (s : State) i => s.ksStoreNat x.ctx (BitVec.ofNat 64 (live + 4 * i)) 4 1)
              { r with groups := kvPut s.groups k g }
            exec (.sibopen q) s
              = .next ((u.ksStoreNat x.ctx (BitVec.ofNat 64 (pkt p 0x20 8)) 4 (k + 256 * gen)).awaitWrites q s.nextSeq)))
      ∧ (type = 6 → pkt p 8 4 < 65536 → pkt p 0x0C 4 = 0 → zeroFrom p 0x18 = true →
        let u := r.startClose x.ctx (pkt p 8 2) q none (BitVec.ofNat 64 (pkt p 0x10 8))
        ∀ c, u.closes.getLast? = some c →
          exec (.lineageClose q) s = .next (u.setQueue q { u.queue q with busy := some (.closing c.id) })))

/-- R165, R178, R201: SAVE of a launch that has started, none of whose workgroups is being moved, moves the images already saved to their
slots and stops the rest; while one is being moved it waits, as the packet in progress; RESTORE of a suspended launch, whose images pass
their checks, makes it run, and the first image that fails one decides how it ends, a failing tag as a context fault. A FENCE in progress is
done when a poll finds its conditions met (R161). -/
def Obligations.SaveRestoreAndFencePolls : Prop :=
  (∀ (s : State) (q type : Nat) (p : List Byte) (l : Launch) (c : Context), Parses s q type p → pkt p 1 1 < 2 → saveBodyOk p = true →
    s.context? l.ctx = some c →
    let img : DWord := BitVec.ofNat 64 (pkt p 0x10 8)
    let stride := pkt p 0x18 4
    let nslot := pkt p 0x1C 4
    let x := s.queue q
    let r := s.setQueue q { x with packet := ⟨x.headAddr, x.ctx, p⟩ }
    let ends := fun (i : Instr) (status detail : Nat) => exec i s = .next (r.completePacket q status detail)
    (r.namedLaunch x.ctx p = none → (type = 7 → ends (.save q) 3 0x0E) ∧ (type = 8 → ends (.restore q) 3 0x0E))
    ∧ (r.namedLaunch x.ctx p = some l →
      (type = 7 → s.moving l = true → exec (.save q) s = .next (r.waitPacket q))
      ∧ (type = 7 → s.moving l = false →
        (l.state ≠ .running → l.state ≠ .closing → ends (.save q) 3 0x0E)
        ∧ (l.state = .running ∨ l.state = .closing →
          let fits := fun (w : Workgroup) => w.imageSize l.hdr c.prot ≤ stride ∧ w.num < nslot
          let all := (∀ e ∈ s.wgs, e.2.launch = l.id → e.2.ended = false → fits e.2) ∧ (∀ v ∈ l.saved, fits v.wg)
          (¬ all → ends (.save q) 3 0x0F)
          ∧ (all → let u := l.saved.foldl (fun s v => s.moveImage l img stride v) r
            exec (.save q) s = .next ((u.setQueue q { u.queue q with busy := some (.saving l.id img stride nslot) }).saveDone q none))))
      ∧ (type = 8 → (l.state ≠ .suspended → ends (.restore q) 3 0x0E)
        ∧ (l.state = .suspended → (∃ v ∈ l.saved, nslot ≤ v.num) → ends (.restore q) 3 0x0F)
        ∧ (l.state = .suspended → (∀ v ∈ l.saved, v.num < nslot) →
          let nums := (List.range (min nslot 608)).filter (fun n => l.saved.any (fun v => v.num = n))
          let here := nums.filterMap (fun n => (l.saved.find? (fun v => v.num = n)).map (fun v =>
            { v with addr := img + BitVec.ofNat 64 (stride * n), stride := stride, slot := none }))
          let first := (here.map (r.checkImage l c)).find? (· ≠ .ok)
          (first = none → exec (.restore q) s
            = .next ((r.modLaunch l.id (fun l => { l with state := .running, saved := here })).completePacket q 1 0))
          ∧ (first = some .mismatch → ends (.restore q) 3 0x0F)
          ∧ (first = some .capacity → ends (.restore q) 0x21 0)
          ∧ (first = some .stale → ends (.restore q) 0x22 0)
          ∧ (first = some .tag → exec (.restore q) s = .next ((r.waitPacket q).contextFault l.ctx
            ⟨0x23, 0, 0, 0, 5, 0, 0, false, 0, l.queue, l.tag.toNat⟩))))))
  ∧ ∀ (s : State) (q : Nat) (cs : List (DWord × Nat × Bool × DWord)) (any : Bool), (s.queue q).busy = some (.fence cs any) →
    s.statusHeld q = false →
    let met := fun (c : DWord × Nat × Bool × DWord) =>
      fenceCond c.2.1 c.2.2.1 (s.ksReadNat (s.queue q).packet.ctx c.1 (if c.2.2.1 then 4 else 8)) c.2.2.2.toNat = true
    ((if any then ∃ c ∈ cs, met c else ∀ c ∈ cs, met c) → exec (.fencePacketPoll q) s = .next (s.putStatus q 1 0 (0, 0)))
    ∧ (¬ (if any then ∃ c ∈ cs, met c else ∀ c ∈ cs, met c) → exec (.fencePacketPoll q) s = .next s)

/-! ### Piers -/

/-- R31, R32, R171, R175 to R179, R196, R201: a pier executes the oldest command of its link. PLACE asks for a first tile, and a
workgroup that receives one waits to be born; it is born with its launch's arguments, entry and work items; STOP stops it; its
image is written once all it has begun is over, and it leaves its core; RESUME checks the image and loads it; DISCARD leaves
nothing of it. A workgroup all of whose threads wait is stopped for a saved one that does not. -/
def Obligations.PiersExecuteCommands : Prop :=
  ∀ (s : State) (core : Nat),
    (∀ lid num l, s.pierNext core = some (.place lid core num) → (s.cluster (clusterOf core)).clearing = none → s.launch? lid = some l →
      s.pinnedOther core l.ctx = false →
      let t := ((s.pierTake (.place lid core num)).reclaimFor core l.ctx).modLaunch lid
        (fun l => { l with toPlace := l.toPlace.filter (fun p => p.1 ≠ core) })
      let who := (List.range l.hdr.teams).flatMap (fun t => (List.range 64).map (fun i => (t, i)))
      (t.dispense l core = none → exec (.pierPlace core) s = .next (((t.unstarted core l).siblingsQuiet lid).heirClose lid))
      ∧ (∀ n, t.dispense l core = some n →
        let w : Workgroup := ⟨lid, num, clusterOf core, some n, [], [], [], [], none, [], [], [], true, false, false, none, false, [], [], 0, []⟩
        let u : State := { t with launches := kvMod t.launches lid (fun l => { l with handed := l.handed ++ [n] }), wgs := kvPut t.wgs core w }
        exec (.pierPlace core) s = .next (((u.claimTile l core n who).sliceBegins core l.ctx).siblingsQuiet lid)))
    ∧ (∀ w l, s.wg? core = some w → s.launch? w.launch = some l → w.unborn = true → w.frozen = false → l.toPlace = [] →
      ∃ u, exec (.workgroupBirth core) s = .next u
        ∧ (∀ n, n < l.hdr.teams → (∃ t, u.team? core n = some t ∧ t.sregs = sparseWords (if l.hdr.args = 0 then zeros 64 else s.ksRead l.ctx l.hdr.args 64) 16)
          ∧ ∀ i, i < 64 → ∃ x, u.thread? core n i = some x ∧ noWait x = s.bornThread l core w.num (w.tile.getD 0) s.nextSeq n i
            ∧ x.pc = BitVec.ofNat 57 l.hdr.entry.toNat ∧ x.workid = l.hdr.workId (w.tile.getD 0) n i ∧ x.hasItem = true
            ∧ x.inHandler = false)
        ∧ (∀ c n i, c ≠ core → (u.thread? c n i).map noWait = (s.thread? c n i).map noWait) ∧ (∀ e ∈ u.l1, viewUnit e.1 ≠ core)
        ∧ (∀ e ∈ u.caview, viewUnit e.1 ≠ clusterOf core))
    ∧ (∀ ctx addr slot, s.pierNext core = some (.stop core ctx addr slot) →
      let t := s.pierTake (.stop core ctx addr slot)
      (s.wg? core = none → exec (.pierStop core) s = .next (t.freeSave ctx slot))
      ∧ (∀ w, s.wg? core = some w → (w.cancelled = true ∨ w.ended = true → exec (.pierStop core) s = .next (t.freeSave ctx slot))
        ∧ (w.cancelled = false → w.ended = false → t.imageRoom w slot < w.imageSize (t.hdr core) (t.isProt ctx) →
          exec (.pierStop core) s = .next ((t.freeSave ctx slot).unstop core w))
        ∧ (w.cancelled = false → w.ended = false → w.imageSize (t.hdr core) (t.isProt ctx) ≤ t.imageRoom w slot → exec (.pierStop core) s
          = .next { t with wgs := kvMod s.wgs core (fun w => { w with stopping := some (addr, slot) }) })))
    ∧ (∀ w l c addr slot, s.wg? core = some w → s.launch? w.launch = some l → s.context? l.ctx = some c →
      w.stopping = some (addr, slot) → w.frozen = false → w.cancelled = false → l.state ≠ .done → s.stopReady core w = true →
      let uids := w.teams.map (fun (e : Nat × Team) => e.2.uid)
      let ops := s.qops.filter (fun x => uids.contains x.uid)
      let v := w.saved (s.cluster (clusterOf core)).cycles (s.setsLeft core w)
      let scratch := s.readBytes (scratchKey core 0) (1024 * l.hdr.scratch)
      let bytes := v.image l c scratch (c.savectr + 1)
      let t := (s.modContext l.ctx (fun x => { x with savectr := c.savectr + 1 })).ksStore l.ctx addr bytes
      let g : SavedWg := ⟨w.num, addr, t.imageRoom w slot, slot, c.savectr + 1, v, scratch, ops, core,
        t.vcOf (coreDie core)⟩
      let u : State := { t with launches := kvMod t.launches l.id (fun l => { l with saved := l.saved ++ [g] })
                                wgs := kvDel t.wgs core, qops := t.qops.filter (fun x => !uids.contains x.uid) }
      (∀ e ∈ s.queues, ∀ k a b n, e.2.busy ≠ some (.saving k a b n)) →
      exec (.saveImageWritten core) s = .next u)
    ∧ (∀ lid num l x v, s.pierNext core = some (.resume lid core num) → s.launch? lid = some l → s.context? l.ctx = some x →
      l.saved.find? (fun v => v.num = num) = some v → l.state = .running → s.savedCancelled l v = false → s.resumeReady core l.ctx v = true →
      let t := s.pierTake (.resume lid core num)
      let done := fun (u : State) => exec (.pierResume core) s = .next u
      (t.checkImage l x v = .ok → done (t.loadSaved l x v core))
      ∧ (t.checkImage l x v = .capacity → done (t.giveBack lid core))
      ∧ (t.checkImage l x v = .tag → done (t.imageFault l core 0x23))
      ∧ (t.checkImage l x v = .stale ∨ t.checkImage l x v = .mismatch → done (t.imageFault l core 0x26)))
    ∧ (s.pierNext core = some (.discard core) →
      let t := s.pierTake (.discard core)
      (s.wg? core = none → exec (.pierDiscard core) s = .next t)
      ∧ (∀ w, s.wg? core = some w →
        let u := t.discardWg core
        ((∃ l, s.launch? w.launch = some l ∧ l.state = .done) → (∀ e ∈ u.wgs, e.2.launch ≠ w.launch) →
          exec (.pierDiscard core) s = .next { u with launches := kvDel u.launches w.launch })
        ∧ ((∀ l, s.launch? w.launch = some l → l.state ≠ .done) → exec (.pierDiscard core) s = .next (u.siblingsQuiet w.launch))))
    ∧ (∀ w l c k, s.wg? core = some w → s.launch? w.launch = some l → s.context? l.ctx = some c → s.up = true → l.state = .running →
      l.hdr.cluster = false → s.beingSaved l.id = false → (∃ v ∈ l.saved, s.savedWaits l v = false ∧ s.fitsCore l v core = true) →
      s.stoppable core w = true → s.allWait l w s.qops = true → w.tfTile = none → s.permit core = true →
      c.saveSlot (w.imageSize l.hdr c.prot) = some k → exec (.savedWorkgroupExchange core) s
        = .next { s with contexts := kvMod s.contexts l.ctx (fun c => { c with slots := c.slots ++ [k] })
                         links := s.links ++ [.stop core l.ctx (c.saveAddr k) (some k)] })

/-! ### Interfaces, keys, contexts and requests of the host -/

/-- R222 to R225, R231, R232, R239: a session lets a requester lock and start its interface, which enters RUN with the response; a
stop and a function-level reset run the reset sequence, which with no context and nothing on its way leaves the function's
queues and interface at reset and every die clock at 0; a failed IDE stream moves a locked or running interface to ERROR; a killed key is gone with the
last engine's acknowledgement. -/
def Obligations.InterfacesKeysAndResets : Prop :=
  (∀ (s : State) (fn : Nat), s.up = true → fn < 32 →
    let i := s.iface fn
    exec (.keyExchange fn) s = .next (s.setIface fn { i with session := true })
    ∧ (i.session = true →
      (i.state = 0 → i.resetting = 0 → exec (.lockInterfaceRequest fn) s = .next (s.setIface fn { i with state := 1 }))
      ∧ (i.state = 1 → exec (.startInterfaceRequest fn false) s = .next (s.setIface fn { i with starting := true })
        ∧ (i.starting = true →
          exec (.startInterfaceRequest fn true) s = .next (s.setIface fn { i with state := 2, starting := false })))
      ∧ (i.resetting ≠ 1 → exec (.stopInterfaceRequest fn) s = .next ((s.beginReset fn 1).finishReset fn)))
    ∧ (i.state = 1 ∨ i.state = 2 → exec (.ideStreamFailure fn) s = .next (s.enterError fn false false true))
    ∧ (i.resetting ≠ 1 → exec (.functionLevelReset fn) s = .next ((s.beginReset fn 1).finishReset fn))
    ∧ (i.resetting ≠ 1 → fn ≠ 0 → (∀ e ∈ s.contexts, e.2.reg.fn ≠ fn) → s.chans = [] → (∀ t ∈ s.writes, t.nums = []) →
      s.deferredCpl = [] →
      ∃ u, exec (.functionLevelReset fn) s = .next u ∧ u.iface fn = ⟨0, false, false, false, false, false, 0⟩
        ∧ (∀ e ∈ u.queues, e.2.fn ≠ fn) ∧ u.vc = []
        ∧ { u with ifaces := s.ifaces, queues := s.queues } = s.zeroClocks))
  ∧ ∀ (s : State) (slot engine : Nat), (s.key slot).state = 2 → engine < 14 → (∀ fn, (s.iface fn).resetting = 0) →
    let acks := (s.key slot).acks ||| BitVec.twoPow 14 engine
    ∃ u, exec (.keyKillAck slot engine) s = .next u ∧ { u with keys := s.keys } = s
      ∧ (acks = BitVec.allOnes 14 → (u.key slot).state = 0)
      ∧ (acks ≠ BitVec.allOnes 14 → u.key slot = { s.key slot with acks := acks })
      ∧ ∀ k, k ≠ slot → u.key k = s.key k

/-- R131, R132, R151, R191, R217, R222, R223, R226, R263: a context is registered, protected where its function is in RUN, with its
key loaded and its granules tagged; a registration of a context that stands is written anew while unlocked (log 20); a locked one moves the
interface to ERROR. A context ends once no launch of it stands (log 25): its
estates, queues, tags and open groups go. A hardware queue takes the lowest free number. A request of the host reaches granules
that are open or its stream's own; else it is refused and logged, its stream's context faults, and its function is in error, or refused from
then on. A request under a dead key is dropped. The host writes its own memory. (That a refused function that is neither locked nor running
stays where it is, is the model's choice, log 20.) -/
def Obligations.ContextsQueuesAndHostRequests : Prop :=
  ∀ (s : State), s.up = true →
    (∀ (r : CtxReg), r.fn < 32 → (s.iface r.fn).resetting = 0 →
      let st := (s.iface r.fn).state
      let done := fun (u : State) => exec (.contextRegistration r) s = .next u
      (st = 0 → s.context? r.ctx = none → done { s with contexts := kvPut s.contexts r.ctx ⟨r, false, 0, [], false⟩ })
      ∧ (∀ c, st = 0 → s.context? r.ctx = some c → c.reg.fn = r.fn →
        done { s with contexts := kvPut s.contexts r.ctx { c with reg := r } })
      ∧ (st = 2 → s.context? r.ctx = none → r.keySlot < 64 → (s.key r.keySlot).state = 0 →
        done { s with contexts := kvPut s.contexts r.ctx ⟨r, true, 0, [], false⟩, keys := kvPut s.keys r.keySlot ⟨1, 0, r.ctx⟩
                      owners := (granuleKeys r).foldl (fun m k => kvSetD 0 m (granuleOf k) (r.ctx % 65536)) s.owners })
      ∧ (st = 1 ∨ (st = 2 ∧ s.context? r.ctx ≠ none) → done (s.enterError r.fn true false false))
      ∧ (st = 3 → done s))
    ∧ (∀ ctx c, s.context? ctx = some c → (∀ e ∈ s.launches, e.2.ctx ≠ ctx) →
      let t := s.dropEstates ctx
      let u := if c.prot then t.killKey c.reg.keySlot else t
      exec (.contextEnd ctx) s = .next { u with
        groups := u.groups.map (fun (e : Nat × Group) => if e.2.ctx = ctx && e.2.state = GState.opened then (e.1, e.2.closed) else e)
        owners := (granuleKeys c.reg).foldl (fun m k => kvDel m (granuleOf k)) u.owners
        hwqs := u.hwqs.filter (fun e => e.2.ctx ≠ ctx)
        contexts := kvDel u.contexts ctx })
    ∧ (∀ ctx desc c key n, s.context? ctx = some c → s.ksPlace ctx desc false = some key → n < 4096 → kvGet s.hwqs n = none →
      (∀ k, k < n → kvGet s.hwqs k ≠ none) →
      let d := s.ksRead ctx desc 64
      let m := pkt d 8 4
      let a := pkt d 0x0C 4
      let q : HwQueue := { num := n, ctx := ctx, fn := c.reg.fn, desc := desc, home := homeDie key, ring := BitVec.ofNat 64 (pkt d 0 8)
                           logcap := m % 32, long := decide (m / 32 % 2 = 1), early := decide (m / 64 % 2 = 1), scope := m / 128 % 4
                           span := decide (m / 512 % 2 = 1), adie := a % 16, ax := a / 16 % 32, ay := a / 512 % 8
                           vocab := BitVec.ofNat 32 (pkt d 0x10 4), entries := [], oovcnt := 0, recv := 0 }
      descOk d = true → exec (.hardwareQueueRegistration ctx desc) s = .next { s with hwqs := kvPut s.hwqs n q })
    ∧ (∀ (r : HostReq),
      let n := match r.data with | some bs => bs.length | none => r.n
      let key := keyOf spDevice r.pa
      let logged := s.logWrite false 5 5 0 0 (BitVec.ofNat 64 (r.ide.getD 0)) (if r.fn < 32 then 1 else 0)
      (r.host = true → ∀ bs, r.data = some bs → exec (.hostRequest r) s
        = .next (({ s with mem := memPut s.mem (keyOf spHost r.pa) bs } : State).waitmTouched (keyOf spHost r.pa) bs.length))
      ∧ (r.host = false → 0 < n →
        (s.ideDead r = true → exec (.hostRequest r) s
          = .next (if r.fn < 32 ∧ ((s.iface r.fn).state = 1 ∨ (s.iface r.fn).state = 2) then s.enterError r.fn false false true else s))
        ∧ (s.ideDead r = false → s.requestOk r = true → memExists s.part (key + n - 1) = true → memExists s.part key = true →
          (r.data = none → exec (.hostRequest r) s = .next s)
          ∧ (∀ bs, r.data = some bs → exec (.hostRequest r) s = .next (s.ksWrite key bs)))
        ∧ (s.ideDead r = false → s.requestOk r = false →
          (32 ≤ r.fn → exec (.hostRequest r) s = .next logged)
          ∧ (r.fn < 32 →
            let t := match r.ide with
              | some c => logged.contextFault c ⟨0x20, 0, 0, r.pa, 5, 0, 0, false, 0, 0, 0⟩
              | none => logged
            ((t.iface r.fn).state = 0 ∨ (t.iface r.fn).state = 3 →
              exec (.hostRequest r) s = .next (t.setIface r.fn { t.iface r.fn with fwall := true }))
            ∧ ((t.iface r.fn).state = 1 ∨ (t.iface r.fn).state = 2 → exec (.hostRequest r) s = .next (t.enterError r.fn false true false))))))

/-! ### Scheduling, power and firmware -/

/-- R24, R127, R160, R171, R172, R173, R228, R229: a launch that waits alone is given cores, the eligible ones its launch prefers, and
where no command is on its way and no workgroup stands PLACE goes to each of them; a launch that is over completes its packet with its
signal; a slice ends after 1,800,000 cycles, with what was held to its end, and its next one begins; and a clear sequence is over after
10,800 cycles, with the cluster scrubbed. (Which of the eligible cores, and in what order the model serves, is logged in 25; whose turn it is
and what it means, in 1.) -/
def Obligations.SchedulingSteps : Prop :=
  (∀ (s : State) (l : Launch), s.up = true → s.launches = [(l.id, l)] → l.state = .waiting → l.saved = [] → s.isProt l.ctx = false →
    l.cmin ≤ (s.eligible l).length →
    let cores := s.chooseCores l (s.eligible l) (min l.cmax (s.eligible l).length)
    let cls := if l.hdr.cluster then (cores.map clusterOf).dedup else []
    ∃ u, exec .coreAssign s = .next u
      ∧ u.launch? l.id = some { l with
          state := .running, mask := cores, toPlace := cores.zip (List.range cores.length), started := s.nextSeq
          gbars := barsOf (64 * l.hdr.teams * cores.length) 4
          cbars := cls.foldl (fun b cl => (List.range 8).foldl (fun b n => kvPut b (8 * cl + n) ⟨8 * (64 * l.hdr.teams), 0, 0, []⟩) b) [] }
      ∧ (s.links = [] → s.wgs = [] → u.links = (cores.zip (List.range cores.length)).map (fun p => .place l.id p.1 p.2))
      ∧ { u with launches := s.launches, links := s.links, nextSeq := s.nextSeq } = s)
  ∧ (∀ (s : State) (l : Launch), s.launch? s.choice = some l → s.launchOver l = true →
    let t := (s.modLaunch l.id (fun l => { l with state := .done, mask := [] })).completeNow l.queue 1 0 (l.cpladdr, l.cplval)
    exec .launchComplete s = .next (if t.statusHeld l.queue then t else t.forget l.id))
  ∧ ∀ (s : State) (x t0 : Nat), (s.cluster s.choice).active = some x →
    let cl := s.choice
    let c := s.cluster cl
    ((s.cluster cl).sliceStart = some t0 → (s.cluster cl).clearing = none →
      (c.cycles < t0 + 1800000 → exec .timeSliceEnd s = .next s)
      ∧ (t0 + 1800000 ≤ c.cycles → ∃ u, exec .timeSliceEnd s = .next u
        ∧ let v := (s.flushSlice cl).setCluster cl { c with sliceStart := some (t0 + 1800000) }
          let t := ({ ({ v with choice := 0 } : State).assign (some cl) with choice := cl } : State).savesAtEnd cl
          u = t ∨ u = t.setCluster cl { t.cluster cl with clearing := some c.cycles }))
    ∧ ((s.cluster cl).clearing = some t0 →
      let busy := (∃ e ∈ s.wgs, clusterOf e.1 = cl) ∨ (∃ e ∈ s.settles, clusterOf e.core = cl)
        ∨ (∃ k ∈ s.links, clusterOf k.core = cl ∧ ((∃ a b c d, k = .stop a b c d) ∨ ∃ a, k = .discard a))
        ∨ (∃ e ∈ s.stores, clusterOf e.1 = cl ∧ ∃ x ∈ e.2, x.pinned = true)
      let coming := ∃ e ∈ s.launches, e.2.ctx = x ∧ ∃ k ∈ e.2.mask, clusterOf k = cl
      (busy → exec .clearSequenceComplete s = .next (s.setCluster cl { c with clearing := some c.cycles }))
      ∧ (¬ busy → c.cycles < t0 + 10800 → exec .clearSequenceComplete s = .next s)
      ∧ (¬ busy → t0 + 10800 ≤ c.cycles →
        (coming → exec .clearSequenceComplete s
          = .next ((s.scrubCluster cl (fun e => e.ctx ≠ x)).setCluster cl { c with clearing := none }))
        ∧ (¬ coming → exec .clearSequenceComplete s = .next ((((s.scrubCluster cl (fun e => e.ctx = x)).setCluster cl
            { c with active := none, sliceStart := none, clearing := none }).setClock cl 1050).finishResets))))

/-- R24, R233 to R239: a cluster with no protected context goes down by 50 MHz under the power limit, to no less than 600, and up
again to no more than 1,050. Power-on, and a reboot from recovery, boot from the slot the marker names, else the other, else
enter recovery, with the part that the variant record gives; power loss keeps what outlives it. A commit writes the image and its marker
record, or nothing. The measurements are those of the ROM, the running image, the variant record and the interface, signed. (The places in
flash, and where a read or a write of flash fails, are the model's choice, log 21.) -/
def Obligations.PowerAndFirmware : Prop :=
  ∀ (s : State),
    (s.openCluster s.choice = true →
      let m := (s.cluster s.choice).mhz
      (650 ≤ m → exec .powerLimitExceeded s = .next (s.setClock s.choice (m - 50)))
      ∧ (m < 650 → exec .powerLimitExceeded s = .next s)
      ∧ (m ≤ 1000 → exec .clockStepUp s = .next (s.setClock s.choice (m + 50)))
      ∧ (1000 < m → exec .clockStepUp s = .next s))
    ∧ (s.powered = false → exec .powerOn s = .next s.cold.boot)
    ∧ (s.powered = true → s.recov.active = true → s.recov.busy = false →
      exec .recoveryReboot s = .next s.cold.boot
      ∧ exec .recoveryCommit s = .next { s with recov := { s.recov with busy := true } })
    ∧ (s.powered = true → s.recov.active = true → s.recov.busy = true →
      exec .recoveryReboot s = .next s
      ∧ (∀ e, s.commitPlan = .error e → exec .recoveryCommit s = .next { s with recov := { s.recov with stage := e, busy := false } })
      ∧ (∀ b img r m, s.commitPlan = .ok (b, img, r, m) → s.choice = 1 → exec .recoveryCommit s
        = .next { s with recov := { s.recov with stage := 4, busy := false } })
      ∧ (∀ b img r m, s.commitPlan = .ok (b, img, r, m) → s.choice ≠ 1 → exec .recoveryCommit s
        = .next { s with mem := memPut (memPut s.mem (slotKey b) img) (markerKey r) m, recov := { s.recov with stage := 1, busy := false } }))
    ∧ (s.powered = true → (s.choice = 0 ∨ s.recov.busy = false) → ∃ u, exec .powerLoss s = .next u
      ∧ u = { State.reset with part := s.part, mem := s.mem.filter outlives, agenda := s.agenda, nextSeq := s.nextSeq
                               freeCtr := s.freeCtr, choice := s.choice, powered := false })
    ∧ (s.powered = true →
      let image : List Byte := match s.recov.running.bind (fun b => imageParts (s.readBytes (slotKey b) slotBytes)) with
        | some p => p.1
        | none => []
      let blocks := [toBytes 4 Config.romVersion.toNat, image, sha3 (s.readBytes variantAt variantBytes), toBytes 4 (s.iface s.choice).state]
      exec .getMeasurements s = .next { s with recov := { s.recov with
        measured := blocks, signature := Config.mldsaSign blocks.flatten } })
    ∧ (let b := s.boot
      let named := match s.winner with | some (_, m) => m.slot | none => 0
      let e1 := s.slotError named (s.winner.map (fun p => p.2.digest))
      let e2 := s.slotError (1 - named) none
      b.part = (if s.variantOk then variantPart (s.readBytes variantAt variantBytes) else s.part)
      ∧ (s.variantOk = true → e1 = 0 → b.recov.active = false ∧ b.recov.running = some named)
      ∧ (s.variantOk = true → e1 ≠ 0 → e2 = 0 → b.recov.active = false ∧ b.recov.running = some (1 - named))
      ∧ (s.variantOk = false ∨ (e1 ≠ 0 ∧ e2 ≠ 0) → b.recov.active = true ∧ b.recov.running = none))

/-! ### Decoding, steps and the whole machine -/

/-- R281 to R284: no bit of an encoding is dropped. Decoding the bytes of any encoded instruction gives it back, with what follows it
left over; and a word that decodes is the encoding of what it decodes to, so that no two words are one instruction and every
reserved bit of a word that decodes is 0. -/
def Obligations.DecodeAndEncodeAgree : Prop :=
  (∀ (i : Instr) (rest : List Byte), i.isEvent = false → decode ((encode i).flatMap (leBytes 4) ++ rest) = .unit i rest)
  ∧ ∀ (w : Nat) (i : Instr), w < 2 ^ 32 → decodeWord w = some i → encodeWord i = w

/-- Words that the spec writes out beside their instructions (R72, R102, R136, R313, R337, R384, R399, R410, and the listings of the
programs) decode to those instructions. -/
def Obligations.SampleWords : Prop :=
  decodeWord 0xB3940004 = some (.mma 7 20 1) ∧ decodeWord 0x3784040C = some (.vqnsE2m1 7 4 2 3)
  ∧ decodeWord 0x3B80080A = some (.will 7 4 2) ∧ decodeWord 0x3B940007 = some (.heirq 7 20 1)
  ∧ decodeWord 0x0383040C = some (.iadd 7 3 2 3) ∧ decodeWord 0x1B910415 = some (.icmp 7 2 1 2 5)
  ∧ decodeWord 0x1C840002 = some (.fmul 1 4 0 0) ∧ decodeWord 0x43850004 = some (.movi 7 5 4)
  ∧ decodeWord 0x4F850808 = some (.ldW 7 5 4 2) ∧ decodeWord 0x50900602 = some (.stW 1 16 3 0)
  ∧ decodeWord 0xA0000002 = some (.sbra 0 2) ∧ decodeWord 0xBF800003 = some (.tfetch 7 0) ∧ decodeWord 0x7B900000 = some (.exit 7)
  ∧ decodeWord 0x83982C5C = some (.sadd 7 24 22 23) ∧ decodeWord 0x8F812840 = some (.scmp 7 0 1 20 16)
  ∧ decodeWord 0x8F940403 = some (.ssr 7 20 2) ∧ decodeWord 0xA7A00000 = some (.barSync 7 1 0)
  ∧ decodeUnit 0x7C001234 0x43855678 = some (.ext 0x1234 0x43855678)
  ∧ decodeUnit 0x7E004200 0x0381040C = some (.pat 0 0x21 0x0381040C)

/-- R267, R280: a turn of a slot whose entry is ready issues it, and the step is `exec` of the instruction that the bytes at its PC
decode to, a prefix together with the word after it; a word that decodes to nothing raises ILLEGAL_INSN. A turn of another agent
is `exec` of its step; with no turn named the first ready slot issues. A fetch that the firewall refuses runs nothing (R226, R227). (The agenda, which names whose turn it is, is the
model's: log 1.) -/
def Obligations.StepRunsTheDecodedInstruction : Prop :=
  (∀ (s : State) (rest : List Turn) (core part : Nat) (unif : Bool) (team : Nat) (pc : PC),
    s.agenda = .issue core part unif :: rest →
    let t : State := { s with agenda := rest }
    t.pick core part unif = some (team, pc) →
    let v := t.beginIssue core team pc unif
    v.hasDeferred = false → nbits pc.toNat 56 48 ≠ 0x1FF →
    let ctx := v.ctxOf core
    let word := fun (key : Nat) => v.crypt ctx key (v.readBytes key 4)
    ∀ key, v.translate core ctx pc.toNat false false = .ok key → memExists v.part key = true →
      (v.firewallOk ctx key = false → step s = .next (v.firewallFault core pc.toNat none))
      ∧ (v.firewallOk ctx key = true →
        (∀ i, decode (word key) = .unit i [] → step s = exec i v)
        ∧ (isPrefixWord (ofBytes (word key)) = false → decodeWord (ofBytes (word key)) = none →
          step s = .next (v.illegalWord (BitVec.ofNat 32 (ofBytes (word key)))))
        ∧ (isPrefixWord (ofBytes (word key)) = true → nbits (pc + 4).toNat 56 48 ≠ 0x1FF →
          ∀ key1, v.translate core ctx (pc + 4).toNat false false = .ok key1 → memExists v.part key1 = true →
          v.firewallOk ctx key1 = true →
          ∀ i, decode (word key ++ word key1) = .unit i [] → step s = exec i v)))
  ∧ (∀ (s : State) (rest : List Turn) (i : Instr) (n : Nat), s.agenda = .event i n :: rest → i.isEvent = true →
    step s = exec i { s with agenda := rest, choice := n })
  ∧ ∀ (s : State) (core part : Nat) (unif : Bool), s.agenda = [] → s.readySlot = some (core, part, unif) →
    step s = step { s with agenda := [.issue core part unif] }

/-- The memory keeps its canonical form through every step: strictly rising addresses, and no entry that an unlisted address reads as. -/
def Obligations.StepKeepsMemoryForm : Prop :=
  ∀ (s t : State), memWf s.mem = true → step s = .next t → memWf t.mem = true

/-- R8, R10, R154, R197, R222, R225: right after reset no context, launch, workgroup or packet exists, every register of a queue, of the
logs, of the fault buffer and of the interfaces has its Reset value, clusters run at 1,050 MHz, and memory is in canonical form
with nothing listed (that such a byte reads as 0 is the model's choice: log 2; so are the values of what the spec gives no reset value,
log 33, and the CXL mode, log 20). -/
def Obligations.ResetState : Prop :=
  let s := State.reset
  memWf s.mem = true ∧ s.mem = [] ∧ s.contexts = [] ∧ s.launches = [] ∧ s.wgs = [] ∧ s.chans = [] ∧ s.hwqs = []
    ∧ (∀ q, (s.queue q).base = 0 ∧ (s.queue q).logsz = 0 ∧ (s.queue q).prio = 0 ∧ (s.queue q).enable = false ∧ (s.queue q).ctx = 0
      ∧ (s.queue q).wptr = 0 ∧ (s.queue q).rptr = 0 ∧ (s.queue q).error = false ∧ (s.queue q).fenceWait = false
      ∧ (s.queue q).lasterr = 0 ∧ (s.queue q).withdrawn = [])
    ∧ (s.faultLog.wptr = 0 ∧ s.faultLog.rptr = 0 ∧ s.faultLog.lost = 0 ∧ s.faultLog.inten = true)
    ∧ (s.eventLog.wptr = 0 ∧ s.eventLog.rptr = 0 ∧ s.eventLog.lost = 0 ∧ s.eventLog.inten = false)
    ∧ (s.fb.base = 0 ∧ s.fb.logsz = 0 ∧ s.fb.enable = false ∧ s.fb.inten = false ∧ s.fb.wptr = 0 ∧ s.fb.rptr = 0)
    ∧ (∀ fn, (s.iface fn).state = 0 ∧ (s.iface fn).lockwr = false ∧ (s.iface fn).fwall = false ∧ (s.iface fn).ideerr = false)
    ∧ (∀ k, (s.key k).state = 0) ∧ (∀ cl, (s.cluster cl).mhz = 1050) ∧ s.cxlCoherent = false ∧ s.inval.busy = false
    ∧ ∀ key n, s.readBytes key n = List.replicate n 0
end

