-- ==== Sys2Proof/Laws/Sync.lean ====
section
/-! SUPPORT. What the synchronising units read after their subset has moved on, and what waits and acquires change: one
lemma for each shared operation. -/

namespace Sys2Proof.Machine

theorem laneUnit_loads (s : State) (i : Instr) (gl : List Nat) (addr : Nat → DWord) (n scope : Nat) (write : Bool)
    (dst : Nat → LoadDst) (e : exec i s = .next (s.laneUnit i gl false none false (fun t => t.laneLoads gl addr n scope write dst)))
    (hw : i.wf = true) : IssuesLoads s i gl addr n scope write dst := by
  intro h
  refine ⟨_, e, ?_⟩
  rw [laneUnit_ok _ _ _ _ hw]
  exact laneLoads_effect s gl addr n scope write dst h

theorem laneUnit_stores (s : State) (i : Instr) (gl : List Nat) (addr : Nat → DWord) (n : Nat) (data : Nat → List Byte)
    (red : Option (Nat × Nat)) (e : exec i s = .next (s.laneUnit i gl false none false (fun t => t.laneStores gl addr data n red)))
    (hw : i.wf = true) : IssuesStores s i gl addr n data red := by
  intro h
  refine ⟨_, e, ?_⟩
  rw [laneUnit_ok _ _ _ _ hw]
  exact laneStores_effect s gl addr n data red h

theorem unifOp_completes (s : State) (i : Instr) (g : BitVec 3) (d a b : BitVec 7) (f : Word → Word → Word)
    (e : exec i s = .next (s.unifOp i g d a b f)) (hw : i.wf = true) (hg : s.guardU g = true) (h : badS3 d a b = none) :
    WritesTeam s i (fun m => m.setSr d.toNat (f (m.sr a.toNat) (m.sr b.toNat))) := by
  refine ⟨_, e, ?_⟩
  rw [State.unifOp, h, hg]
  refine unifSet_effect s i _ hw (fun _ => rfl) ?_
  intro x y h
  simp only [teamShared, Team.mk.injEq] at h
  simp only [teamShared, Team.setSr, Team.sr, Team.mk.injEq]; simp_all

theorem setQ_lanes (m : Team) (n : Nat) (b : Bool) : (m.setQ n b).lanes = m.lanes := by
  unfold Team.setQ; split <;> rfl

theorem setQ_shared (f : Team → Bool) (n : Nat) (hf : ∀ x y, teamShared x = teamShared y → f x = f y) :
    ∀ x y, teamShared x = teamShared y → teamShared (x.setQ n (f x)) = teamShared (y.setQ n (f y)) := by
  intro x y h
  rw [hf x y h]
  simp only [teamShared, Team.mk.injEq] at h
  unfold Team.setQ
  split <;> simp only [teamShared, Team.mk.injEq] <;> simp_all

theorem team?_advance_map {α : Type} (s : State) (c n : Nat) (f : Team → α) (hf : ∀ m, f (teamShared m) = f m) :
    (s.advance.team? c n).map f = (s.team? c n).map f := by
  have e : f = f ∘ teamShared := funext (fun m => (hf m).symm)
  have h : (s.advance.team? c n).map teamShared = (s.team? c n).map teamShared := by
    simp only [State.advance, State.onLanes, shared_modLanes]
  rw [e, ← Option.map_map, h, Option.map_map]

theorem wg?_advance_map {α : Type} (s : State) (c : Nat) (f : Workgroup → α) (hf : ∀ m, f (groupShell m) = f m) :
    (s.advance.wg? c).map f = (s.wg? c).map f := wg?_effect_map (Effect.advance s) f hf c

theorem barrier_advance (s : State) (c n : Nat) (k : BarKey) : s.advance.barrier c n k = s.barrier c n k := by
  cases k with
  | team i => simp only [State.barrier]; rw [team?_advance_map s c n (fun t => kvGetD barZero t.bars i) (fun _ => rfl)]
  | wg i => simp only [State.barrier]; rw [wg?_advance_map s c (fun t => kvGetD barZero t.bars i) (fun _ => rfl)]
  | cluster i =>
    simp only [State.barrier, wgLaunch?_advance]
    have h := wg?_advance_map s c (fun w => w.grp) (fun _ => rfl)
    revert h
    generalize s.advance.wg? c = x
    generalize s.wg? c = y
    intro h
    cases x <;> cases y <;> cases s.wgLaunch? c <;> simp_all
  | grid i => simp only [State.barrier, wgLaunch?_advance]

theorem arrived_lane_advance (s : State) (l : Nat) : (s.advance.lane l).arrived = (s.lane l).arrived := by
  rw [lane_advance, State.lane]; cases kvGet s.team.lanes l with
  | none => rfl
  | some x => simp only [Option.getD_some]; split <;> rfl

theorem barUnit_ok (s : State) (i : Instr) (g : BitVec 3) (lvl : BitVec 2) (body : State → State) (hw : i.wf = true)
    (hg : s.guardU g = true) (hc : lvl = 2 → (s.hdr s.cur.core).cluster = true) (ht : lvl ≠ 0 → s.told = false) :
    s.barUnit i g lvl body = (body s.advance).endIssue := by
  unfold State.barUnit
  rw [hg, unifUnit_ok _ _ _ hw]
  have e1 : (decide (lvl.toNat = 2) && !(s.advance.hdr s.advance.cur.core).cluster) = false := by
    rw [cur_advance, hdr_advance]
    by_cases h : lvl = 2
    · simp [hc h]
    · have : ¬ lvl.toNat = 2 := fun x => h (BitVec.eq_of_toNat_eq x)
      simp [this]
  have e2 : (decide (lvl.toNat ≠ 0) && s.advance.told) = false := by
    rw [told_advance]
    by_cases h : lvl = 0
    · subst h; rfl
    · rw [ht h]; simp
  show (if _ then _ else _ : State).endIssue = _
  rw [if_neg (by rw [e1]; decide), if_neg (by rw [e2]; decide)]

theorem setSr_shared (n : Nat) (r : Word) : ∀ x y : Team, teamShared x = teamShared y → teamShared (x.setSr n r) = teamShared (y.setSr n r) := by
  intro x y e
  simp only [teamShared, Team.setSr, Team.mk.injEq] at e ⊢; simp_all

theorem setSr_lanes (m : Team) (n : Nat) (r : Word) : (m.setSr n r).lanes = m.lanes := rfl

theorem thread?_setWaits (s : State) (core : Nat) (p : Thread → Bool) (w : Wait) (c n l : Nat) :
    (s.setWaits core p w).thread? c n l = (s.thread? c n l).map (fun x => if c = core ∧ p x = true then { x with wait := w } else x) := by
  unfold State.setWaits
  simp only [State.thread?, State.team?, wg?_modWg]
  by_cases hc : c = core
  · subst hc
    rw [if_pos rfl]
    cases s.wg? c with
    | none => rfl
    | some g =>
      simp only [Option.map_some, Option.bind_some]
      have h1 := kvGet_map g.teams n (fun _ (m : Team) => { m with lanes := m.lanes.map (fun (l : Nat × Thread) => if p l.2 then (l.1, { l.2 with wait := w }) else l) })
      rw [h1]
      cases kvGet g.teams n with
      | none => rfl
      | some m =>
        simp only [Option.map_some, Option.bind_some]
        have : (fun l : Nat × Thread => if p l.2 then (l.1, { l.2 with wait := w }) else l)
            = (fun l => (l.1, if p l.2 then { l.2 with wait := w } else l.2)) := by
          funext l; split <;> rfl
        rw [this]
        have h2 := kvGet_map m.lanes l (fun _ (x : Thread) => if p x then { x with wait := w } else x)
        rw [h2]
        simp
  · simp only [hc, if_false, false_and]
    simp

theorem setWaits_team (s : State) (core : Nat) (p : Thread → Bool) (w : Wait) (c n : Nat) :
    ((s.setWaits core p w).team? c n).map teamShared = (s.team? c n).map teamShared := by
  unfold State.setWaits
  simp only [State.team?, wg?_modWg]
  split
  · cases s.wg? c with
    | none => rfl
    | some g =>
      simp only [Option.map_some, Option.bind_some]
      have h1 := kvGet_map g.teams n (fun _ (m : Team) => { m with lanes := m.lanes.map (fun (l : Nat × Thread) => if p l.2 then (l.1, { l.2 with wait := w }) else l) })
      rw [h1]
      cases kvGet g.teams n <;> rfl
  · rfl

theorem setWaits_groups (s : State) (core : Nat) (p : Thread → Bool) (w : Wait) (c : Nat) :
    ((s.setWaits core p w).wg? c).map groupShell = (s.wg? c).map groupShell := by
  unfold State.setWaits
  simp only [wg?_modWg]
  split
  · cases s.wg? c <;> rfl
  · rfl

theorem wait_effect {s b r : State} {M : Team → Team} (h : UnitEffect s b r (fun _ x => x) M) (names : List Nat) (w : Wait) :
    WaitEffect s (b.setWaits s.cur.core (fun t => names.contains t.tid) w) r names w M := by
  refine ⟨?_, ?_, ?_, ?_, ?_⟩
  · intro c n l
    rw [thread?_setWaits]
    by_cases hl : c = s.cur.core ∧ n = s.cur.team ∧ l ∈ s.subset
    · obtain ⟨rfl, rfl, hl⟩ := hl
      rw [h.threads l hl]
      cases s.thread? s.cur.core s.cur.team l with
      | none => rfl
      | some x => simp [hl, movedOn]
    · rw [h.others c n l (fun a b c => hl ⟨a, b, c⟩)]
      cases s.thread? c n l with
      | none => rfl
      | some x => simp [hl]
  · rw [setWaits_team]; exact h.team
  · intro c n k; rw [setWaits_team]; exact h.teams c n k
  · intro c; rw [setWaits_groups]; exact h.groups c
  · exact h.rest

theorem wait_ends {s b r : State} {names : List Nat} {w : Wait} {M : Team → Team} (h : WaitEffect s b r names w M) :
    WaitEffect s b.endIssue r names w M :=
  ⟨fun c n l => by rw [thread?_endIssue]; exact h.threads c n l, by rw [shared_endIssue]; exact h.team,
   fun c n k => by rw [shared_endIssue]; exact h.teams c n k, fun c => by rw [shell_endIssue]; exact h.groups c, h.rest⟩

/-- A wait, and then a change beside the workgroups. -/
theorem wait_map {s b r : State} {names : List Nat} {w : Wait} {M : Team → Team} (h : WaitEffect s b r names w M)
    (g : State → State) (hw : ∀ x, (g x).wgs = x.wgs)
    (hg : ∀ (x : State) v, { g x with wgs := v } = g { x with wgs := v }) : WaitEffect s (g b) (g r) names w M := by
  have t : ∀ c n, (g b).team? c n = b.team? c n := fun c n => by simp only [State.team?, State.wg?, hw]
  refine ⟨?_, ?_, ?_, ?_, by rw [hg, h.rest]⟩
  · intro c n l; simp only [State.thread?, t]; exact h.threads c n l
  · rw [t]; exact h.team
  · intro c n k; rw [t]; exact h.teams c n k
  · intro c; simp only [State.wg?, hw]; exact h.groups c

/-- What a wait leaves as it was: the launch header of each core and the issuing team's own words. -/
theorem wait_reads {s b r : State} {names : List Nat} {w : Wait} (h : WaitEffect s b r names w id)
    (hl : r.launches = s.launches) (hc : r.cur = s.cur) :
    (∀ c, b.hdr c = s.hdr c) ∧ b.cur = s.cur ∧ b.team.uid = s.team.uid
      ∧ (∀ c, (b.wg? c).bind (·.tile) = (s.wg? c).bind (·.tile)) := by
  have hcur : b.cur = s.cur := by rw [← hc, ← h.rest]
  refine ⟨fun c => ?_, hcur, ?_, fun c => ?_⟩
  · simp only [State.hdr, wgLaunch?_of_groups (by rw [← hl, ← h.rest]) h.groups]
  · have k := h.team
    simp only [State.team, hcur]
    revert k
    generalize b.team? s.cur.core s.cur.team = x
    generalize s.team? s.cur.core s.cur.team = y
    intro k
    cases x <;> cases y <;> simp_all [teamShared]
  · have k := h.groups c
    revert k
    generalize b.wg? c = x
    generalize s.wg? c = y
    intro k
    cases x <;> cases y <;> simp_all [groupShell]

theorem awUnit_ok (s : State) (i : Instr) (g : BitVec 3) (a : BitVec 7) (body : State → Nat → State) (hw : i.wf = true)
    (hg : s.guardU g = true) (h8 : (s.team.sr a.toNat).toNat % 8 = 0) (hs : (s.team.sr a.toNat).toNat + 8 ≤ s.scratchBytes s.cur.core) :
    s.awUnit i g a none body = (body s.advance (scratchKey s.cur.core (s.team.sr a.toNat).toNat)).endIssue := by
  unfold State.awUnit
  rw [hg, unifUnit_ok _ _ _ hw]
  show (if _ then _ else _ : State).endIssue = _
  rw [if_neg (by omega), if_neg (by rw [cur_advance, scratchBytes_advance]; omega), cur_advance]

theorem stop_foldl {α : Type} (f : State → α → State) (h : ∀ s x, (f s x).stop = s.stop) (l : List α) (s : State) :
    (l.foldl f s).stop = s.stop := by
  induction l generalizing s with
  | nil => rfl
  | cons x l ih => rw [List.foldl_cons, ih, h]

theorem stop_mergeStamp (s : State) (d : Nat) (v : List Word) : (s.mergeStamp d v).stop = s.stop := by
  unfold State.mergeStamp; split
  · rfl
  · unfold State.sendClock; exact stop_foldl (fun s j => s.send d j .clock) (fun _ _ => rfl) _ _

theorem stop_finishFence (s : State) (f : FenceReq) : (s.finishFence f).stop = s.stop := by
  unfold State.finishFence
  show State.stop (if _ then _ else _ : State) = _
  split
  · split <;> rfl
  · rw [stop_mergeStamp]; split <;> rfl

theorem stop_acquire (s : State) (c u : Nat) (n : List Nat) (k : Nat) (v : List Word) : (s.acquire c u n k v).stop = s.stop := by
  show (if _ then _ else _ : State).stop = _
  split
  · rw [stop_finishFence]; rfl
  · rfl

theorem stop_endIssue (s : State) : s.endIssue.stop = s.stop := rfl

theorem stop_onLanes (s : State) (l : List Nat) (f : Nat → Thread → Thread) : (s.onLanes l f).stop = s.stop := rfl

theorem stop_advance (s : State) : s.advance.stop = s.stop := rfl

theorem mem_advance (s : State) : s.advance.mem = s.mem := rfl

theorem ports_advance (s : State) : s.advance.ports = s.ports := rfl

theorem homeNat_advance (s : State) (x k n : Nat) : s.advance.homeNat x k n = s.homeNat x k n := rfl

theorem translate_advance (s : State) (c x v : Nat) (w e : Bool) : s.advance.translate c x v w e = s.translate c x v w e := rfl

theorem firewallOk_advance (s : State) (x k : Nat) : s.advance.firewallOk x k = s.firewallOk x k := rfl

theorem missOf_ctx_advance (s : State) (a : DWord) (w u : Bool) : (s.advance.missOf a w u).ctx = s.ctxOf s.cur.core := by
  rw [show (s.advance.missOf a w u).ctx = s.advance.ctxOf s.cur.core from rfl, ctxOf_advance]

theorem checkMem_ok (s : State) (k : Nat) (h : memExists s.part k = true) : s.checkMem k = s := by
  unfold State.checkMem; rw [if_pos h]

theorem part_advance (s : State) : s.advance.part = s.part := rfl

end Sys2Proof.Machine
end

