-- ==== Sys2Proof/Laws/Checks.lean ====
section
/-! SUPPORT. The shape of every word's meaning: a lane word is a lane unit, a uniform word a uniform unit, with the register
checks of its fields; so the checks of R280 are proved once for all of them. -/

namespace Sys2Proof.Machine

/-- A lane word's meaning is a lane unit of the threads that execute it. -/
theorem exec_lane (s : State) (i : Instr) (hu : isUniform i = false) (he : i.isEvent = false) (h1 : ∀ imm w, i ≠ .ext imm w)
    (h2 : ∀ a b w, i ≠ .pat a b w) : ∃ bad pr body,
    exec i s = .next (s.laneUnit i (executing s i) (!unitPresent s i) bad pr body)
    ∧ ((∀ g a b, i ≠ .will g a b) → bad = firstBad (regFields s.curAlloc (s.hdr s.cur.core).accs i)) := by
  have hh : (isUniform i || i.isEvent) = false := by rw [hu, he]; rfl
  clear hu he
  cases i with
  | iadd g d a b => exact ⟨_, _, _, by
      show execIadd g d a b s = _; simp only [execIadd, State.laneOp, State.laneSet]; rfl, fun _ => rfl⟩
  | isub g d a b => exact ⟨_, _, _, by
      show execIsub g d a b s = _; simp only [execIsub, State.laneOp, State.laneSet]; rfl, fun _ => rfl⟩
  | imul g d a b => exact ⟨_, _, _, by
      show execImul g d a b s = _; simp only [execImul, State.laneOp, State.laneSet]; rfl, fun _ => rfl⟩
  | imulh g d a b => exact ⟨_, _, _, by
      show execImulh g d a b s = _; simp only [execImulh, State.laneOp, State.laneSet]; rfl, fun _ => rfl⟩
  | imulhu g d a b => exact ⟨_, _, _, by
      show execImulhu g d a b s = _; simp only [execImulhu, State.laneOp, State.laneSet]; rfl, fun _ => rfl⟩
  | imad g d a b => exact ⟨_, _, _, by
      show execImad g d a b s = _; simp only [execImad, State.laneOp, State.laneSet]; rfl, fun _ => rfl⟩
  | imin g d a b => exact ⟨_, _, _, by
      show execImin g d a b s = _; simp only [execImin, State.laneOp, State.laneSet]; rfl, fun _ => rfl⟩
  | imax g d a b => exact ⟨_, _, _, by
      show execImax g d a b s = _; simp only [execImax, State.laneOp, State.laneSet]; rfl, fun _ => rfl⟩
  | iminu g d a b => exact ⟨_, _, _, by
      show execIminu g d a b s = _; simp only [execIminu, State.laneOp, State.laneSet]; rfl, fun _ => rfl⟩
  | imaxu g d a b => exact ⟨_, _, _, by
      show execImaxu g d a b s = _; simp only [execImaxu, State.laneOp, State.laneSet]; rfl, fun _ => rfl⟩
  | isel n d a b => exact ⟨_, _, _, by
      show execIsel n d a b s = _; simp only [execIsel, State.laneSet]; rfl, fun _ => rfl⟩
  | iabsd g d a b => exact ⟨_, _, _, by
      show execIabsd g d a b s = _; simp only [execIabsd, State.laneOp, State.laneSet]; rfl, fun _ => rfl⟩
  | and g d a b => exact ⟨_, _, _, by
      show execAnd g d a b s = _; simp only [execAnd, State.laneOp, State.laneSet]; rfl, fun _ => rfl⟩
  | or g d a b => exact ⟨_, _, _, by
      show execOr g d a b s = _; simp only [execOr, State.laneOp, State.laneSet]; rfl, fun _ => rfl⟩
  | xor g d a b => exact ⟨_, _, _, by
      show execXor g d a b s = _; simp only [execXor, State.laneOp, State.laneSet]; rfl, fun _ => rfl⟩
  | andn g d a b => exact ⟨_, _, _, by
      show execAndn g d a b s = _; simp only [execAndn, State.laneOp, State.laneSet]; rfl, fun _ => rfl⟩
  | shl g d a b => exact ⟨_, _, _, by
      show execShl g d a b s = _; simp only [execShl, State.laneOp, State.laneSet]; rfl, fun _ => rfl⟩
  | shr g d a b => exact ⟨_, _, _, by
      show execShr g d a b s = _; simp only [execShr, State.laneOp, State.laneSet]; rfl, fun _ => rfl⟩
  | shra g d a b => exact ⟨_, _, _, by
      show execShra g d a b s = _; simp only [execShra, State.laneOp, State.laneSet]; rfl, fun _ => rfl⟩
  | rotl g d a b => exact ⟨_, _, _, by
      show execRotl g d a b s = _; simp only [execRotl, State.laneOp, State.laneSet]; rfl, fun _ => rfl⟩
  | popc g d a => exact ⟨_, _, _, by
      show execPopc g d a s = _; simp only [execPopc, State.laneOp1, State.laneSet]; rfl, fun _ => rfl⟩
  | clz g d a => exact ⟨_, _, _, by
      show execClz g d a s = _; simp only [execClz, State.laneOp1, State.laneSet]; rfl, fun _ => rfl⟩
  | brev g d a => exact ⟨_, _, _, by
      show execBrev g d a s = _; simp only [execBrev, State.laneOp1, State.laneSet]; rfl, fun _ => rfl⟩
  | bfx g d a b => exact ⟨_, _, _, by
      show execBfx g d a b s = _; simp only [execBfx, State.laneOp, State.laneSet]; rfl, fun _ => rfl⟩
  | bfi g d a b => exact ⟨_, _, _, by
      show execBfi g d a b s = _; simp only [execBfi, State.laneOp, State.laneSet]; rfl, fun _ => rfl⟩
  | icmp g cond p a b => exact ⟨_, _, _, by
      show execIcmp g cond p a b s = _; simp only [execIcmp, State.lanePred, State.laneFp]; rfl, fun _ => rfl⟩
  | fcmp g cond p a b => exact ⟨_, _, _, by
      show execFcmp g cond p a b s = _; simp only [execFcmp, State.lanePred, State.laneFp]; rfl, fun _ => rfl⟩
  | mov g d a => exact ⟨_, _, _, by
      show execMov g d a s = _; simp only [execMov, State.laneOp1, State.laneSet]; rfl, fun _ => rfl⟩
  | fadd g d a b => exact ⟨_, _, _, by
      show execFadd g d a b s = _; simp only [execFadd, State.laneFp3, State.laneFp]; rfl, fun _ => rfl⟩
  | fsub g d a b => exact ⟨_, _, _, by
      show execFsub g d a b s = _; simp only [execFsub, State.laneFp3, State.laneFp]; rfl, fun _ => rfl⟩
  | fmul g d a b => exact ⟨_, _, _, by
      show execFmul g d a b s = _; simp only [execFmul, State.laneFp3, State.laneFp]; rfl, fun _ => rfl⟩
  | ffma g d a b => exact ⟨_, _, _, by
      show execFfma g d a b s = _; simp only [execFfma, State.laneFp3, State.laneFp]; rfl, fun _ => rfl⟩
  | fmin g d a b => exact ⟨_, _, _, by
      show execFmin g d a b s = _; simp only [execFmin, State.laneFp3, State.laneFp]; rfl, fun _ => rfl⟩
  | fmax g d a b => exact ⟨_, _, _, by
      show execFmax g d a b s = _; simp only [execFmax, State.laneFp3, State.laneFp]; rfl, fun _ => rfl⟩
  | frnd g d a code => exact ⟨_, _, _, by
      show execFrnd g d a code s = _; simp only [execFrnd, State.laneFp]; rfl, fun _ => rfl⟩
  | fcvt g d a code => exact ⟨_, _, _, by
      show execFcvt g d a code s = _; simp only [execFcvt, State.laneFp]; rfl, fun _ => rfl⟩
  | hadd2 g d a b => exact ⟨_, _, _, by
      show execHadd2 g d a b s = _; simp only [execHadd2, State.lanePair3, State.laneFp]; rfl, fun _ => rfl⟩
  | hmul2 g d a b => exact ⟨_, _, _, by
      show execHmul2 g d a b s = _; simp only [execHmul2, State.lanePair3, State.laneFp]; rfl, fun _ => rfl⟩
  | hfma2 g d a b => exact ⟨_, _, _, by
      show execHfma2 g d a b s = _; simp only [execHfma2, State.lanePair3, State.laneFp]; rfl, fun _ => rfl⟩
  | hmax2 g d a b => exact ⟨_, _, _, by
      show execHmax2 g d a b s = _; simp only [execHmax2, State.lanePair3, State.laneFp]; rfl, fun _ => rfl⟩
  | badd2 g d a b => exact ⟨_, _, _, by
      show execBadd2 g d a b s = _; simp only [execBadd2, State.lanePair3, State.laneFp]; rfl, fun _ => rfl⟩
  | bmul2 g d a b => exact ⟨_, _, _, by
      show execBmul2 g d a b s = _; simp only [execBmul2, State.lanePair3, State.laneFp]; rfl, fun _ => rfl⟩
  | bfma2 g d a b => exact ⟨_, _, _, by
      show execBfma2 g d a b s = _; simp only [execBfma2, State.lanePair3, State.laneFp]; rfl, fun _ => rfl⟩
  | bmax2 g d a b => exact ⟨_, _, _, by
      show execBmax2 g d a b s = _; simp only [execBmax2, State.lanePair3, State.laneFp]; rfl, fun _ => rfl⟩
  | dadd g d a b => exact ⟨_, _, _, by
      show execDadd g d a b s = _; simp only [execDadd, State.laneFp64, State.laneFp]; rfl, fun _ => rfl⟩
  | dmul g d a b => exact ⟨_, _, _, by
      show execDmul g d a b s = _; simp only [execDmul, State.laneFp64, State.laneFp]; rfl, fun _ => rfl⟩
  | dfma g d a b => exact ⟨_, _, _, by
      show execDfma g d a b s = _; simp only [execDfma, State.laneFp64, State.laneFp]; rfl, fun _ => rfl⟩
  | dcvt g d a code =>
    refine ⟨_, _, _, by show execDcvt g d a code s = _; simp only [execDcvt, State.laneFp]; rfl, fun _ => ?_⟩
    simp only [regFields]; split <;> simp_all
  | vnbr g d a code => exact ⟨_, _, _, by
      show execVnbr g d a code s = _; simp only [execVnbr, State.laneSet]; rfl, fun _ => rfl⟩
  | vscan g d a code => exact ⟨_, _, _, by
      show execVscan g d a code s = _; simp only [execVscan]; rfl, fun _ => rfl⟩
  | vred g d a code => exact ⟨_, _, _, by
      show execVred g d a code s = _; simp only [execVred]; rfl, fun _ => rfl⟩
  | vvote g d p code => exact ⟨_, _, _, by
      show execVvote g d p code s = _; simp only [execVvote, State.laneSet]; rfl, fun _ => rfl⟩
  | vqnsE2m1 g d a b => exact ⟨_, _, _, by
      show execVqnsE2m1 g d a b s = _; simp only [execVqnsE2m1]; rfl, fun _ => rfl⟩
  | vqnsI4h g d a b => exact ⟨_, _, _, by
      show execVqnsI4h g d a b s = _; simp only [execVqnsI4h]; rfl, fun _ => rfl⟩
  | vqnsI8h g d a b => exact ⟨_, _, _, by
      show execVqnsI8h g d a b s = _; simp only [execVqnsI8h]; rfl, fun _ => rfl⟩
  | vdq g d a b => exact ⟨_, _, _, by
      show execVdq g d a b s = _; simp only [execVdq, State.laneSet]; rfl, fun _ => rfl⟩
  | sfq g d a code => exact ⟨_, _, _, by
      show execSfq g d a code s = _; simp only [execSfq]; rfl, fun _ => rfl⟩
  | sread g d sel => exact ⟨_, _, _, by
      show execSread g d sel s = _; simp only [execSread]; rfl, fun _ => rfl⟩
  | will g a b => exact ⟨_, _, _, by
      show execWill g a b s = _; simp only [execWill]; rfl, fun h => absurd rfl (h _ _ _)⟩
  | heirq g d b => exact ⟨_, _, _, by
      show execHeirq g d b s = _; simp only [execHeirq, State.laneSet]; rfl, fun _ => rfl⟩
  | pand g d a b => exact ⟨_, _, _, by
      show execPand g d a b s = _; simp only [execPand, State.predOp, State.laneSet]; rfl, fun _ => rfl⟩
  | por g d a b => exact ⟨_, _, _, by
      show execPor g d a b s = _; simp only [execPor, State.predOp, State.laneSet]; rfl, fun _ => rfl⟩
  | pxor g d a b => exact ⟨_, _, _, by
      show execPxor g d a b s = _; simp only [execPxor, State.predOp, State.laneSet]; rfl, fun _ => rfl⟩
  | pnand g d a b => exact ⟨_, _, _, by
      show execPnand g d a b s = _; simp only [execPnand, State.predOp, State.laneSet]; rfl, fun _ => rfl⟩
  | movi g d imm => exact ⟨_, _, _, by
      show execMovi g d imm s = _; simp only [execMovi, State.laneSet]; rfl, fun _ => rfl⟩
  | iaddi g d a imm => exact ⟨_, _, _, by
      show execIaddi g d a imm s = _; simp only [execIaddi, State.laneOp1, State.laneSet]; rfl, fun _ => rfl⟩
  | ldB g d a sb => exact ⟨_, _, _, by
      show execLdB g d a sb s = _; simp only [execLdB, State.ldForm]; rfl, fun _ => rfl⟩
  | ldSb g d a sb => exact ⟨_, _, _, by
      show execLdSb g d a sb s = _; simp only [execLdSb, State.ldForm]; rfl, fun _ => rfl⟩
  | ldH g d a sb => exact ⟨_, _, _, by
      show execLdH g d a sb s = _; simp only [execLdH, State.ldForm]; rfl, fun _ => rfl⟩
  | ldSh g d a sb => exact ⟨_, _, _, by
      show execLdSh g d a sb s = _; simp only [execLdSh, State.ldForm]; rfl, fun _ => rfl⟩
  | ldW g d a sb => exact ⟨_, _, _, by
      show execLdW g d a sb s = _; simp only [execLdW, State.ldForm]; rfl, fun _ => rfl⟩
  | ldD g d a sb => exact ⟨_, _, _, by
      show execLdD g d a sb s = _; simp only [execLdD, State.ldForm]; rfl, fun _ => rfl⟩
  | ldQ g d a sb => exact ⟨_, _, _, by
      show execLdQ g d a sb s = _; simp only [execLdQ, State.ldForm]; rfl, fun _ => rfl⟩
  | prf g a sb => exact ⟨_, _, _, by
      show execPrf g a sb s = _; simp only [execPrf]; rfl, fun _ => rfl⟩
  | stB g d a sb => exact ⟨_, _, _, by
      show execStB g d a sb s = _; simp only [execStB, State.stForm]; rfl, fun _ => rfl⟩
  | stH g d a sb => exact ⟨_, _, _, by
      show execStH g d a sb s = _; simp only [execStH, State.stForm]; rfl, fun _ => rfl⟩
  | stW g d a sb => exact ⟨_, _, _, by
      show execStW g d a sb s = _; simp only [execStW, State.stForm]; rfl, fun _ => rfl⟩
  | stD g d a sb => exact ⟨_, _, _, by
      show execStD g d a sb s = _; simp only [execStD, State.stForm]; rfl, fun _ => rfl⟩
  | stQ g d a sb => exact ⟨_, _, _, by
      show execStQ g d a sb s = _; simp only [execStQ, State.stForm]; rfl, fun _ => rfl⟩
  | atomAdd sc d a b => exact ⟨_, _, _, by
      show execAtomAdd sc d a b s = _; simp only [execAtomAdd, State.atomForm]; rfl, fun _ => rfl⟩
  | atomFadd sc d a b => exact ⟨_, _, _, by
      show execAtomFadd sc d a b s = _; simp only [execAtomFadd, State.atomForm]; rfl, fun _ => rfl⟩
  | atomMin sc d a b => exact ⟨_, _, _, by
      show execAtomMin sc d a b s = _; simp only [execAtomMin, State.atomForm]; rfl, fun _ => rfl⟩
  | atomMax sc d a b => exact ⟨_, _, _, by
      show execAtomMax sc d a b s = _; simp only [execAtomMax, State.atomForm]; rfl, fun _ => rfl⟩
  | atomAnd sc d a b => exact ⟨_, _, _, by
      show execAtomAnd sc d a b s = _; simp only [execAtomAnd, State.atomForm]; rfl, fun _ => rfl⟩
  | atomOr sc d a b => exact ⟨_, _, _, by
      show execAtomOr sc d a b s = _; simp only [execAtomOr, State.atomForm]; rfl, fun _ => rfl⟩
  | atomXor sc d a b => exact ⟨_, _, _, by
      show execAtomXor sc d a b s = _; simp only [execAtomXor, State.atomForm]; rfl, fun _ => rfl⟩
  | atomExch sc d a b => exact ⟨_, _, _, by
      show execAtomExch sc d a b s = _; simp only [execAtomExch, State.atomForm]; rfl, fun _ => rfl⟩
  | red sc op a b => exact ⟨_, _, _, by
      show execRed sc op a b s = _; simp only [execRed]; rfl, fun _ => rfl⟩
  | casW sc d a b => exact ⟨_, _, _, by
      show execCasW sc d a b s = _; simp only [execCasW, State.casForm]; rfl, fun _ => rfl⟩
  | casD sc d a b => exact ⟨_, _, _, by
      show execCasD sc d a b s = _; simp only [execCasD, State.casForm]; rfl, fun _ => rfl⟩
  | bra g off => exact ⟨_, _, _, by
      show execBra g off s = _; simp only [execBra]; rfl, fun _ => rfl⟩
  | call g off => exact ⟨_, _, _, by
      show execCall g off s = _; simp only [execCall]; rfl, fun _ => rfl⟩
  | ret g => exact ⟨_, _, _, by
      show execRet g s = _; simp only [execRet]; rfl, fun _ => rfl⟩
  | jmpr g a => exact ⟨_, _, _, by
      show execJmpr g a s = _; simp only [execJmpr]; rfl, fun _ => rfl⟩
  | exit g => exact ⟨_, _, _, by
      show execExit g s = _; simp only [execExit]; rfl, fun _ => rfl⟩
  | reform g => exact ⟨_, _, _, by
      show execReform g s = _; simp only [execReform]; rfl, fun _ => rfl⟩
  | join g k => exact ⟨_, _, _, by
      show execJoin g k s = _; simp only [execJoin]; rfl, fun _ => rfl⟩
  | sfwait g mask => exact ⟨_, _, _, by
      show execSfwait g mask s = _; simp only [execSfwait]; rfl, fun _ => rfl⟩
  | nop g => exact ⟨_, _, _, by
      show execNop g s = _; simp only [execNop]; rfl, fun _ => rfl⟩
  | trapl g code => exact ⟨_, _, _, by
      show execTrapl g code s = _; simp only [execTrapl]; rfl, fun _ => rfl⟩
  | ext imm w => exact absurd rfl (h1 _ _)
  | pat a b w => exact absurd rfl (h2 _ _ _)
  | _ => cases hh

theorem finish_next (o : Host.Outcome State Fault Refusal) (u : State) (e : o = finish u) (h : u.stop = none) : o = .next u := by
  rw [e, finish, h]

/-- A uniform word's meaning is a uniform unit; WAITM's ends where its access meets a place without memory, and the check
that a cluster barrier needs CLUSTER = 1 stands before BAR.QRY's register field. -/
theorem exec_unif (s : State) (i : Instr) (hu : isUniform i = true) : ∃ bad pr body,
    (let u := s.unifUnit i (executes s i) bad pr body
     exec i s = .next u ∨ (s.stop = none → u.stop = none → exec i s = .next u))
    ∧ ((∀ g l n d, i ≠ .barQry g l n d) → bad = firstBad (regFields s.curAlloc (s.hdr s.cur.core).accs i)) := by
  cases i with
  | sadd g d a b => exact ⟨_, _, _, Or.inl (by
      show execSadd g d a b s = _; simp only [execSadd, State.unifOp, State.unifSet]; rfl), fun _ => rfl⟩
  | ssub g d a b => exact ⟨_, _, _, Or.inl (by
      show execSsub g d a b s = _; simp only [execSsub, State.unifOp, State.unifSet]; rfl), fun _ => rfl⟩
  | smul g d a b => exact ⟨_, _, _, Or.inl (by
      show execSmul g d a b s = _; simp only [execSmul, State.unifOp, State.unifSet]; rfl), fun _ => rfl⟩
  | smulh g d a b => exact ⟨_, _, _, Or.inl (by
      show execSmulh g d a b s = _; simp only [execSmulh, State.unifOp, State.unifSet]; rfl), fun _ => rfl⟩
  | sand g d a b => exact ⟨_, _, _, Or.inl (by
      show execSand g d a b s = _; simp only [execSand, State.unifOp, State.unifSet]; rfl), fun _ => rfl⟩
  | sor g d a b => exact ⟨_, _, _, Or.inl (by
      show execSor g d a b s = _; simp only [execSor, State.unifOp, State.unifSet]; rfl), fun _ => rfl⟩
  | sxor g d a b => exact ⟨_, _, _, Or.inl (by
      show execSxor g d a b s = _; simp only [execSxor, State.unifOp, State.unifSet]; rfl), fun _ => rfl⟩
  | sshl g d a b => exact ⟨_, _, _, Or.inl (by
      show execSshl g d a b s = _; simp only [execSshl, State.unifOp, State.unifSet]; rfl), fun _ => rfl⟩
  | sshr g d a b => exact ⟨_, _, _, Or.inl (by
      show execSshr g d a b s = _; simp only [execSshr, State.unifOp, State.unifSet]; rfl), fun _ => rfl⟩
  | sshra g d a b => exact ⟨_, _, _, Or.inl (by
      show execSshra g d a b s = _; simp only [execSshra, State.unifOp, State.unifSet]; rfl), fun _ => rfl⟩
  | smin g d a b => exact ⟨_, _, _, Or.inl (by
      show execSmin g d a b s = _; simp only [execSmin, State.unifOp, State.unifSet]; rfl), fun _ => rfl⟩
  | smax g d a b => exact ⟨_, _, _, Or.inl (by
      show execSmax g d a b s = _; simp only [execSmax, State.unifOp, State.unifSet]; rfl), fun _ => rfl⟩
  | scmp g cond q a b => exact ⟨_, _, _, Or.inl (by
      show execScmp g cond q a b s = _; simp only [execScmp, State.unifSet]; rfl), fun _ => rfl⟩
  | ssel n d a b => exact ⟨_, _, _, Or.inl (by
      show execSsel n d a b s = _; simp only [execSsel, State.unifSet]; rfl), fun _ => rfl⟩
  | smov g d a => exact ⟨_, _, _, Or.inl (by
      show execSmov g d a s = _; simp only [execSmov, State.unifSet]; rfl), fun _ => rfl⟩
  | ssr g d sel => exact ⟨_, _, _, Or.inl (by
      show execSsr g d sel s = _; simp only [execSsr]; rfl), fun _ => rfl⟩
  | smovi g d imm => exact ⟨_, _, _, Or.inl (by
      show execSmovi g d imm s = _; simp only [execSmovi, State.unifSet]; rfl), fun _ => rfl⟩
  | saddi g d a imm => exact ⟨_, _, _, Or.inl (by
      show execSaddi g d a imm s = _; simp only [execSaddi, State.unifSet]; rfl), fun _ => rfl⟩
  | sldW g d a imm => exact ⟨_, _, _, Or.inl (by
      show execSldW g d a imm s = _; simp only [execSldW, State.sldForm]; rfl), fun _ => rfl⟩
  | sldD g d a imm => exact ⟨_, _, _, Or.inl (by
      show execSldD g d a imm s = _; simp only [execSldD, State.sldForm]; rfl), fun _ => rfl⟩
  | sstW g d a imm => exact ⟨_, _, _, Or.inl (by
      show execSstW g d a imm s = _; simp only [execSstW, State.sstForm]; rfl), fun _ => rfl⟩
  | sstD g d a imm => exact ⟨_, _, _, Or.inl (by
      show execSstD g d a imm s = _; simp only [execSstD, State.sstForm]; rfl), fun _ => rfl⟩
  | qand g d a b => exact ⟨_, _, _, Or.inl (by
      show execQand g d a b s = _; simp only [execQand, State.unifPred, State.unifSet]; rfl), fun _ => rfl⟩
  | qor g d a b => exact ⟨_, _, _, Or.inl (by
      show execQor g d a b s = _; simp only [execQor, State.unifPred, State.unifSet]; rfl), fun _ => rfl⟩
  | qxor g d a b => exact ⟨_, _, _, Or.inl (by
      show execQxor g d a b s = _; simp only [execQxor, State.unifPred, State.unifSet]; rfl), fun _ => rfl⟩
  | qnand g d a b => exact ⟨_, _, _, Or.inl (by
      show execQnand g d a b s = _; simp only [execQnand, State.unifPred, State.unifSet]; rfl), fun _ => rfl⟩
  | sbra g off => exact ⟨_, _, _, Or.inl (by
      show execSbra g off s = _; simp only [execSbra]; rfl), fun _ => rfl⟩
  | barSync g lvl n => exact ⟨_, _, _, Or.inl (by
      show execBarSync g lvl n s = _; simp only [execBarSync, State.barUnit]; rfl), fun _ => rfl⟩
  | barArv g lvl n => exact ⟨_, _, _, Or.inl (by
      show execBarArv g lvl n s = _; simp only [execBarArv, State.barUnit]; rfl), fun _ => rfl⟩
  | barWait g lvl n => exact ⟨_, _, _, Or.inl (by
      show execBarWait g lvl n s = _; simp only [execBarWait, State.barUnit]; rfl), fun _ => rfl⟩
  | barQry g lvl n d => exact ⟨_, _, _, Or.inl (by
      show execBarQry g lvl n d s = _; simp only [execBarQry]; rfl), fun h => absurd rfl (h _ _ _ _)⟩
  | kset g d => exact ⟨_, _, _, Or.inl (by
      show execKset g d s = _; simp only [execKset, State.maskSet]; rfl), fun _ => rfl⟩
  | kand g d a b => exact ⟨_, _, _, Or.inl (by
      show execKand g d a b s = _; simp only [execKand, State.maskSet]; rfl), fun _ => rfl⟩
  | kor g d a b => exact ⟨_, _, _, Or.inl (by
      show execKor g d a b s = _; simp only [execKor, State.maskSet]; rfl), fun _ => rfl⟩
  | kmov g d a => exact ⟨_, _, _, Or.inl (by
      show execKmov g d a s = _; simp only [execKmov, State.maskSet]; rfl), fun _ => rfl⟩
  | waitc g ld st cp mx => exact ⟨_, _, _, Or.inl (by
      show execWaitc g ld st cp mx s = _; simp only [execWaitc]; rfl), fun _ => rfl⟩
  | fence g sc k => exact ⟨_, _, _, Or.inl (by
      show execFence g sc k s = _; simp only [execFence]; rfl), fun _ => rfl⟩
  | smode g a => exact ⟨_, _, _, Or.inl (by
      show execSmode g a s = _; simp only [execSmode, State.unifSet]; rfl), fun _ => rfl⟩
  | yield g => exact ⟨_, _, _, Or.inl (by
      show execYield g s = _; simp only [execYield]; rfl), fun _ => rfl⟩
  | mma g a acc => exact ⟨_, _, _, Or.inl (by
      show execMma g a acc s = _; simp only [execMma, State.command]; rfl), fun _ => rfl⟩
  | aswap g a acc => exact ⟨_, _, _, Or.inl (by
      show execAswap g a acc s = _; simp only [execAswap, State.command]; rfl), fun _ => rfl⟩
  | azero g a acc => exact ⟨_, _, _, Or.inl (by
      show execAzero g a acc s = _; simp only [execAzero, State.command]; rfl), fun _ => rfl⟩
  | ald g a acc => exact ⟨_, _, _, Or.inl (by
      show execAld g a acc s = _; simp only [execAld, State.command]; rfl), fun _ => rfl⟩
  | ast g a acc => exact ⟨_, _, _, Or.inl (by
      show execAst g a acc s = _; simp only [execAst, State.command]; rfl), fun _ => rfl⟩
  | tcopy g a => exact ⟨_, _, _, Or.inl (by
      show execTcopy g a s = _; simp only [execTcopy, State.command]; rfl), fun _ => rfl⟩
  | tqst g a => exact ⟨_, _, _, Or.inl (by
      show execTqst g a s = _; simp only [execTqst, State.command]; rfl), fun _ => rfl⟩
  | tchain g a => exact ⟨_, _, _, Or.inl (by
      show execTchain g a s = _; simp only [execTchain, State.command]; rfl), fun _ => rfl⟩
  | trot g a => exact ⟨_, _, _, Or.inl (by
      show execTrot g a s = _; simp only [execTrot, State.command]; rfl), fun _ => rfl⟩
  | awinit g a b => exact ⟨_, _, _, Or.inl (by
      show execAwinit g a b s = _; simp only [execAwinit, State.awUnit]; rfl), fun _ => rfl⟩
  | awwait g a b => exact ⟨_, _, _, Or.inl (by
      show execAwwait g a b s = _; simp only [execAwwait, State.awUnit]; rfl), fun _ => rfl⟩
  | awqry g a d => exact ⟨_, _, _, Or.inl (by
      show execAwqry g a d s = _; simp only [execAwqry, State.awUnit]; rfl), fun _ => rfl⟩
  | tfetch g q => exact ⟨_, _, _, Or.inl (by
      show execTfetch g q s = _; simp only [execTfetch]; rfl), fun _ => rfl⟩
  | bpost g d a b => exact ⟨_, _, _, Or.inl (by
      show execBpost g d a b s = _; simp only [execBpost]; rfl), fun _ => rfl⟩
  | bqry g d => exact ⟨_, _, _, Or.inl (by
      show execBqry g d s = _; simp only [execBqry]; rfl), fun _ => rfl⟩
  | sibchk g => exact ⟨_, _, _, Or.inl (by
      show execSibchk g s = _; simp only [execSibchk]; rfl), fun _ => rfl⟩
  | waitm g cond a b =>
    exact ⟨_, _, _, Or.inr (fun _ => finish_next (exec (.waitm g cond a b) s) _ rfl), fun _ => rfl⟩
  | qpushD g d a => exact ⟨_, _, _, Or.inl (by
      show execQpushD g d a s = _; simp only [execQpushD, State.queueForm]; rfl), fun _ => rfl⟩
  | qpushL g d a => exact ⟨_, _, _, Or.inl (by
      show execQpushL g d a s = _; simp only [execQpushL, State.queueForm]; rfl), fun _ => rfl⟩
  | qpopD g d a => exact ⟨_, _, _, Or.inl (by
      show execQpopD g d a s = _; simp only [execQpopD, State.queueForm]; rfl), fun _ => rfl⟩
  | qpopL g d a => exact ⟨_, _, _, Or.inl (by
      show execQpopL g d a s = _; simp only [execQpopL, State.queueForm]; rfl), fun _ => rfl⟩
  | qtryD g d a => exact ⟨_, _, _, Or.inl (by
      show execQtryD g d a s = _; simp only [execQtryD, State.queueForm]; rfl), fun _ => rfl⟩
  | qtryL g d a => exact ⟨_, _, _, Or.inl (by
      show execQtryL g d a s = _; simp only [execQtryL, State.queueForm]; rfl), fun _ => rfl⟩
  | trap g code => exact ⟨_, _, _, Or.inl (by
      show execTrap g code s = _; simp only [execTrap]; rfl), fun _ => rfl⟩
  | rett g a => exact ⟨_, _, _, Or.inl (by
      show execRett g a s = _; simp only [execRett]; rfl), fun _ => rfl⟩
  | brkpt g => exact ⟨_, _, _, Or.inl (by
      show execBrkpt g s = _; simp only [execBrkpt]; rfl), fun _ => rfl⟩
  | _ => first
    | (rename_i g a b; exact ⟨_, _, _, Or.inl (by show execSeal g a b s = _; simp only [execSeal, State.sealForm]; rfl), fun _ => rfl⟩)
    | (rename_i g a b; exact ⟨_, _, _, Or.inl (by show execUnseal g a b s = _; simp only [execUnseal, State.sealForm]; rfl), fun _ => rfl⟩)
    | exact nomatch hu

/-! ### What a unit does where a check fails, and where it does not execute -/

theorem trapUnif_effect (s : State) (code : Nat) (v : Word) (ho : outsideHandler s s.subset) :
    UnitEffect s (s.advance.trapLanes s.subset code v true false false).endIssue s
      (lanesWith s.subset (fun _ => trapped s code v true false)) id :=
  Effect.ends (trapLanes_effect s s.subset (subset_nodup s) (fun _ h => h) ho code v true false)

theorem unifUnit_bad (s : State) (i : Instr) (v : Word) (pr : Bool) (body : State → State) (hw : i.wf = true) :
    s.unifUnit i true (some v) pr body = (s.advance.trapLanes s.subset 0x02 v true false false).endIssue := by
  simp [State.unifUnit, hw]

theorem unifUnit_illegal (s : State) (i : Instr) (bad : Option Word) (pr : Bool) (body : State → State) (hw : i.wf = false) :
    s.unifUnit i true bad pr body = (s.advance.trapLanes s.subset 0x01 i.word true false false).endIssue := by
  simp [State.unifUnit, hw]

theorem unifUnit_idle (s : State) (i : Instr) (bad : Option Word) (pr : Bool) (body : State → State) :
    s.unifUnit i false bad pr body = s.advance.endIssue := by simp [State.unifUnit]

theorem laneUnit_illegal (s : State) (i : Instr) (gl : List Nat) (ab : Bool) (bad : Option Word) (pr : Bool)
    (body : State → State) (hw : i.wf = false) :
    s.laneUnit i gl ab bad pr body = (s.advance.trapLanes gl 0x01 i.word false false false).endIssue := by
  simp [State.laneUnit, hw]

theorem stop_takeTrap (s : State) (core team lane code : Nat) (tval cause : Word) (tpc : PC) (x : Thread)
    (ht : s.thread? core team lane = some x) (hh : (s.hdr core).handler ≠ 0) (hx : x.inHandler = false) :
    (s.takeTrap core team lane code tval cause tpc).stop = s.stop := by
  simp only [State.takeTrap, ht, hx, Bool.or_false]
  rw [if_neg (by simpa using hh)]; rfl

theorem idle_effect (s : State) : UnitEffect s s.advance.endIssue s (fun _ x => x) id := Effect.ends (Effect.advance s)

end Sys2Proof.Machine
end

