-- ==== Sys2Proof/Laws/Leaving.lean ====
section
/-! SUPPORT. What releases, barriers and join masks leave as it was: threads but for their waits, bins and the order of a
workgroup's teams; and that the threads that exit or enter a bin stand in no lane afterwards. -/

namespace Sys2Proof.Machine

/-- From `s` to `t` threads have changed in their waits only, no bin has changed, and teams are listed in order if they
were. -/
structure OnlyWaits (s t : State) : Prop where
  threads : ∀ c n l, (t.thread? c n l).map noWait = (s.thread? c n l).map noWait
  teams : ∀ c n, (t.team? c n).map (fun m => (m.uid, m.sregs)) = (s.team? c n).map (fun m => (m.uid, m.sregs))
  bins : ∀ c, (t.wg? c).map (·.bins) = (s.wg? c).map (·.bins)
  order : ∀ c w', t.wg? c = some w' → (∀ w, s.wg? c = some w → kvWf w.teams = true) → kvWf w'.teams = true
  cur : t.cur = s.cur

theorem kvWf_mod {α : Type} (m : KV α) (k : Nat) (f : α → α) (h : kvWf m = true) : kvWf (kvMod m k f) = true := by
  unfold kvMod; split
  · exact kvWf_put _ _ _ h
  · exact h

theorem kvSortedFrom_map {α β : Type} (m : KV α) (lo : Nat) (f : Nat × α → β) :
    kvSortedFrom lo (m.map (fun e => (e.1, f e))) = kvSortedFrom lo m := by
  induction m generalizing lo with
  | nil => rfl
  | cons e r ih => simp only [List.map_cons, kvSortedFrom, ih]

theorem kvWf_map {α β : Type} (m : KV α) (f : Nat × α → β) (h : kvWf m = true) :
    kvWf (m.map (fun e => (e.1, f e))) = true := by unfold kvWf; rw [kvSortedFrom_map]; exact h

namespace OnlyWaits

theorem refl (s : State) : OnlyWaits s s :=
  ⟨fun _ _ _ => rfl, fun _ _ => rfl, fun _ => rfl, fun _ w h k => k w h, rfl⟩

theorem trans {s t u : State} (h : OnlyWaits s t) (k : OnlyWaits t u) : OnlyWaits s u :=
  ⟨fun c n l => (k.threads c n l).trans (h.threads c n l), fun c n => (k.teams c n).trans (h.teams c n), fun c => (k.bins c).trans (h.bins c),
   fun c w' e f => k.order c w' e (fun w g => h.order c w g f), k.cur.trans h.cur⟩

theorem outside {s t : State} (hw : t.wgs = s.wgs) (hc : t.cur = s.cur) : OnlyWaits s t := by
  refine ⟨fun c n l => ?_, fun c n => ?_, fun c => ?_, fun c w' e f => ?_, hc⟩
  · simp only [State.thread?, State.team?, State.wg?, hw]
  · simp only [State.team?, State.wg?, hw]
  · simp only [State.wg?, hw]
  · simp only [State.wg?, hw] at e f; exact f w' e

theorem fold {α : Type} (f : State → α → State) (l : List α) (h : ∀ s, ∀ x ∈ l, OnlyWaits s (f s x)) (s : State) :
    OnlyWaits s (l.foldl f s) := by
  induction l generalizing s with
  | nil => exact refl s
  | cons x r ih =>
    exact trans (h s x (List.mem_cons_self ..)) (ih (fun s y hy => h s y (List.mem_cons_of_mem _ hy)) (f s x))

/-- A change of what a workgroup holds beside teams and bins. -/
theorem modWg (s : State) (c : Nat) (f : Workgroup → Workgroup) (hb : ∀ w, (f w).bins = w.bins)
    (ht : ∀ w, (f w).teams = w.teams) : OnlyWaits s (s.modWg c f) := by
  refine ⟨fun c' n l => ?_, fun c' n => ?_, fun c' => ?_, fun c' w' e k => ?_, rfl⟩
  · rw [thread?_modWg_of _ _ _ _ _ _ ht]
  · rw [team?_modWg_of _ _ _ _ _ ht]
  · rw [wg?_modWg]; split
    · cases s.wg? c' <;> simp [hb]
    · rfl
  · rw [wg?_modWg] at e
    split at e
    · cases hs : s.wg? c' with
      | none => rw [hs] at e; simp at e
      | some w =>
        rw [hs] at e
        simp only [Option.map_some, Option.some.injEq] at e
        rw [← e, ht]; exact k w hs
    · exact k w' e

/-- A change of what a team holds beside its threads. -/
theorem modTeam (s : State) (c n : Nat) (f : Team → Team) (hl : ∀ m, (f m).lanes = m.lanes)
    (hr : ∀ m, ((f m).uid, (f m).sregs) = (m.uid, m.sregs)) : OnlyWaits s (s.modTeam c n f) := by
  refine ⟨fun c' n' l => by rw [thread?_modTeam_of _ _ _ _ hl], fun c' n' => ?_, fun c' => ?_, fun c' w' e k => ?_, rfl⟩
  · rw [team?_modTeam]; split
    · cases s.team? c' n' <;> simp [hr]
    · rfl
  · simp only [State.modTeam, wg?_modWg]; split
    · cases s.wg? c' <;> rfl
    · rfl
  · simp only [State.modTeam, wg?_modWg] at e
    split at e
    · cases hs : s.wg? c' with
      | none => rw [hs] at e; simp at e
      | some w =>
        rw [hs] at e
        simp only [Option.map_some, Option.some.injEq] at e
        rw [← e]; exact kvWf_mod _ _ _ (k w hs)
    · exact k w' e

/-- A change of every team of a workgroup beside its threads. -/
theorem modTeams (s : State) (c : Nat) (f : Workgroup → Workgroup) (g : Workgroup → Nat × Team → Team)
    (hb : ∀ w, (f w).bins = w.bins) (ht : ∀ w, (f w).teams = w.teams.map (fun e => (e.1, g w e)))
    (hl : ∀ w e l, (kvGet (g w e).lanes l).map noWait = (kvGet e.2.lanes l).map noWait)
    (hr : ∀ w e, ((g w e).uid, (g w e).sregs) = (e.2.uid, e.2.sregs)) : OnlyWaits s (s.modWg c f) := by
  refine ⟨fun c' n l => ?_, fun c' n => ?_, fun c' => ?_, fun c' w' e k => ?_, rfl⟩
  · simp only [State.thread?, State.team?, wg?_modWg]
    split
    · cases s.wg? c' with
      | none => rfl
      | some w =>
        simp only [Option.map_some, Option.bind_some, ht]
        have := kvGet_map w.teams n (fun i m => g w (i, m))
        rw [this]
        cases kvGet w.teams n with
        | none => rfl
        | some m => simp only [Option.map_some, Option.bind_some]; exact hl w (n, m) l
    · rfl
  · simp only [State.team?, wg?_modWg]
    split
    · cases s.wg? c' with
      | none => rfl
      | some w =>
        simp only [Option.map_some, Option.bind_some, ht]
        have := kvGet_map w.teams n (fun i m => g w (i, m))
        rw [this]
        cases kvGet w.teams n with
        | none => rfl
        | some m => simp only [Option.map_some]; exact congrArg some (hr w (n, m))
    · rfl
  · rw [wg?_modWg]; split
    · cases s.wg? c' <;> simp [hb]
    · rfl
  · rw [wg?_modWg] at e
    split at e
    · cases hs : s.wg? c' with
      | none => rw [hs] at e; simp at e
      | some w =>
        rw [hs] at e
        simp only [Option.map_some, Option.some.injEq] at e
        rw [← e, ht]; exact kvWf_map _ _ (k w hs)
    · exact k w' e

theorem setWaits (s : State) (c : Nat) (p : Thread → Bool) (w : Wait) : OnlyWaits s (s.setWaits c p w) := by
  refine modTeams s c _ (fun _ e => { e.2 with lanes := e.2.lanes.map (fun l => if p l.2 then (l.1, { l.2 with wait := w }) else l) })
    (fun _ => rfl) (fun _ => rfl) (fun _ e l => ?_) (fun _ _ => rfl)
  have : (fun l : Nat × Thread => if p l.2 then (l.1, { l.2 with wait := w }) else l)
      = (fun l => (l.1, (fun (_ : Nat) (x : Thread) => if p x then { x with wait := w } else x) l.1 l.2)) := by
    funext l; split <;> simp_all
  simp only [this]
  rw [kvGet_map e.2.lanes l (fun (_ : Nat) (x : Thread) => if p x then { x with wait := w } else x)]
  cases kvGet e.2.lanes l with
  | none => rfl
  | some x => simp only [Option.map_some]; split <;> rfl

theorem send (s : State) (a b : Nat) (m : Payload) : OnlyWaits s (s.send a b m) := outside rfl rfl
theorem numberWrite (s : State) (d i : Nat) : OnlyWaits s (s.numberWrite d i) := by
  unfold State.numberWrite
  split
  · exact outside rfl rfl
  · exact refl s
theorem sendClock (s : State) (d : Nat) : OnlyWaits s (s.sendClock d) :=
  fold _ _ (fun _ _ _ => send _ _ _ _) s

theorem mergeStamp (s : State) (d : Nat) (v : List Word) : OnlyWaits s (s.mergeStamp d v) := by
  unfold State.mergeStamp
  split
  · exact refl s
  · exact trans (t := s.mergeOnly d v) (outside rfl rfl) (sendClock _ _)

theorem finishFence (s : State) (f : FenceReq) : OnlyWaits s (s.finishFence f) := by
  unfold State.finishFence
  extract_lets s1 v1 s2 s3
  refine trans ?_ (setWaits s3 _ _ _)
  have a1 : OnlyWaits s s1 := outside rfl rfl
  have a2 : OnlyWaits s1 s2 := by
    refine outside ?_ ?_
    · show (if _ then _ else _ : State).wgs = _; split <;> rfl
    · show (if _ then _ else _ : State).cur = _; split <;> rfl
  refine (a1.trans a2).trans ?_
  show OnlyWaits s2 (if _ then _ else _ : State)
  split
  · exact refl _
  · exact mergeStamp _ _ _

theorem acquire (s : State) (c u : Nat) (ts : List Nat) (k : Nat) (v : List Word) : OnlyWaits s (s.acquire c u ts k v) := by
  have h : OnlyWaits s (s.startFence c u ts k false true v) := by
    refine trans (t := { s.bump with fences := s.fences ++ [⟨s.nextSeq, c, u, ts ++ [u], k, false, true, v⟩] }) (outside rfl rfl) ?_
    exact setWaits _ c (fun t => ts.contains t.tid) (.fence s.nextSeq)
  show OnlyWaits s (if _ then _ else _ : State)
  split
  · exact trans h (finishFence _ _)
  · exact h

theorem setBarrier (s : State) (c n : Nat) (k : BarKey) (b : Barrier) : OnlyWaits s (s.setBarrier c n k b) := by
  cases k with
  | team i => exact modTeam _ _ _ _ (fun _ => rfl) (fun _ => rfl)
  | wg i => exact modWg _ _ _ (fun _ => rfl) (fun _ => rfl)
  | cluster i => simp only [State.setBarrier]; split <;> exact outside rfl rfl
  | grid i => simp only [State.setBarrier]; split <;> exact outside rfl rfl

theorem renew (s : State) (c : Nat) (k : Option BarKey) : OnlyWaits s (s.modWg c (fun w => w.renew k)) :=
  modTeams s c _ (fun w e => { e.2 with rank :=
      if ((w.arriveOrder.filter (fun p => p.1 = k)).map (·.2)).contains e.1 then
        ((w.arriveOrder.filter (fun p => p.1 = k)).map (·.2)).idxOf e.1 + 1 else 0 })
    (fun _ => rfl) (fun _ => rfl) (fun _ _ _ => rfl) (fun _ _ => rfl)

theorem releaseTeam (s : State) (c n : Nat) (k : BarKey) (d : Nat) : OnlyWaits s (s.releaseTeam c n k d) := by
  unfold State.releaseTeam
  split
  · exact refl s
  · show OnlyWaits s (if _ then _ else _ : State)
    split
    · exact refl s
    · exact acquire _ _ _ _ _ _

theorem checkPhase (s : State) (c n : Nat) (k : BarKey) : OnlyWaits s (s.checkPhase c n k) := by
  unfold State.checkPhase
  dsimp only
  split
  · refine trans ?_ (fold _ _ (fun s x _ => ?_) _)
    · cases k with
      | wg i => exact trans (setBarrier _ _ _ _ _) (renew _ _ _)
      | _ => exact setBarrier _ _ _ _ _
    · exact fold _ _ (fun s y _ => releaseTeam _ _ _ _ _) s
  · exact refl s

theorem lessMember (s : State) (c n : Nat) (k : BarKey) : OnlyWaits s (s.lessMember c n k) :=
  trans (setBarrier s c n k _) (checkPhase _ c n k)

theorem leaveBarriers (s : State) (c n : Nat) : OnlyWaits s (s.leaveBarriers c n) :=
  fold _ _ (fun s k _ => lessMember s c n k) s

theorem joinTest (s : State) (c n : Nat) : OnlyWaits s (s.joinTest c n) := by
  refine fold _ _ (fun s k _ => ?_) s
  dsimp only
  split
  · exact refl s
  · split
    · exact acquire _ _ _ _ _ _
    · exact refl s

theorem mapTeams (s : State) (f : Nat × Workgroup → Workgroup) (g : Nat × Workgroup → Nat × Team → Team)
    (hb : ∀ e, (f e).bins = e.2.bins) (ht : ∀ e, (f e).teams = e.2.teams.map (fun m => (m.1, g e m)))
    (hl : ∀ e m l, (kvGet (g e m).lanes l).map noWait = (kvGet m.2.lanes l).map noWait)
    (hr : ∀ e m, ((g e m).uid, (g e m).sregs) = (m.2.uid, m.2.sregs)) :
    OnlyWaits s { s with wgs := s.wgs.map (fun e => (e.1, f e)) } := by
  have hw : ∀ c, ({ s with wgs := s.wgs.map (fun e => (e.1, f e)) } : State).wg? c = (s.wg? c).map (fun w => f (c, w)) := by
    intro c; simp only [State.wg?]; exact kvGet_map s.wgs c (fun i w => f (i, w))
  refine ⟨fun c n l => ?_, fun c n => ?_, fun c => ?_, fun c w' e k => ?_, rfl⟩
  · simp only [State.thread?, State.team?, hw]
    cases s.wg? c with
    | none => rfl
    | some w =>
      simp only [Option.map_some, Option.bind_some, ht]
      rw [kvGet_map w.teams n (fun i m => g (c, w) (i, m))]
      cases kvGet w.teams n with
      | none => rfl
      | some m => simp only [Option.map_some, Option.bind_some]; exact hl (c, w) (n, m) l
  · simp only [State.team?, hw]
    cases s.wg? c with
    | none => rfl
    | some w =>
      simp only [Option.map_some, Option.bind_some, ht]
      rw [kvGet_map w.teams n (fun i m => g (c, w) (i, m))]
      cases kvGet w.teams n with
      | none => rfl
      | some m => simp only [Option.map_some]; exact congrArg some (hr (c, w) (n, m))
  · rw [hw]; cases s.wg? c <;> simp [hb]
  · rw [hw] at e
    cases hs : s.wg? c with
    | none => rw [hs] at e; simp at e
    | some w =>
      rw [hs] at e
      simp only [Option.map_some, Option.some.injEq] at e
      rw [← e, ht]; exact kvWf_map _ _ (k w hs)

theorem modUid (s : State) (u : Nat) (f : Team → Team) (hl : ∀ m, (f m).lanes = m.lanes)
    (hr : ∀ m, ((f m).uid, (f m).sregs) = (m.uid, m.sregs)) : OnlyWaits s (s.modUid u f) := by
  have e : (fun t : Nat × Team => if t.2.uid = u then (t.1, f t.2) else t) = (fun t => (t.1, if t.2.uid = u then f t.2 else t.2)) := by
    funext t; split <;> rfl
  unfold State.modUid
  rw [e]
  refine mapTeams s (fun e => { e.2 with teams := e.2.teams.map (fun t => (t.1, if t.2.uid = u then f t.2 else t.2)) })
    (fun _ m => if m.2.uid = u then f m.2 else m.2) (fun _ => rfl) (fun _ => rfl) (fun e m l => ?_) (fun e m => ?_)
  · split
    · rw [hl]
    · rfl
  · split
    · exact hr _
    · rfl

theorem cmdRetire (s : State) (id : Nat) : OnlyWaits s (s.cmdRetire id) := by
  refine trans (mapTeams s (fun e => if e.2.cmds.any (fun c => c.id = id) then
      { e.2 with cmds := e.2.cmds.filter (fun c => c.id ≠ id), teams := e.2.teams.map (fun t => (t.1, t.2.tokDone id)) } else e.2)
    (fun e m => if e.2.cmds.any (fun c => c.id = id) then m.2.tokDone id else m.2) (fun e => ?_) (fun e => ?_) (fun e m l => ?_)
    (fun e m => ?_)) (outside rfl rfl)
  · split <;> rfl
  · split
    · rfl
    · exact (List.map_id' _).symm
  · split <;> rfl
  · split <;> rfl

theorem completeWrite (s : State) (id : Nat) : OnlyWaits s (s.completeWrite id) := by
  unfold State.completeWrite
  split
  · exact refl s
  · next t _ =>
    refine trans (t := { s with writes := s.writes.filter (fun (t : WTrack) => t.id ≠ id) }) (outside rfl rfl) ?_
    dsimp only
    split
    · split
      · exact refl _
      · exact modUid _ _ _ (fun _ => rfl) (fun _ => rfl)
    · unfold State.cmdCheck
      dsimp only
      split
      · exact cmdRetire _ _
      · exact refl _
    · exact refl _

theorem checkWrite (s : State) (id : Nat) : OnlyWaits s (s.checkWrite id) := by
  unfold State.checkWrite
  split
  · split
    · exact completeWrite _ _
    · exact refl s
  · exact refl s

theorem waitmTouched (s : State) (key n : Nat) : OnlyWaits s (s.waitmTouched key n) := by
  refine fold _ _ (fun s k _ => ?_) s
  refine fold _ _ (fun s c _ => ?_) s
  split
  · exact refl s
  · exact fold _ _ (fun s u _ => acquire _ _ _ _ _ _) s

theorem arrivalAt (s : State) (c o b : Nat) : OnlyWaits s (s.arrivalAt c o b) := by
  unfold State.arrivalAt
  dsimp only
  refine trans (t := (s.writeBytes (scratchKey c o) (toBytes 8 (arrivalAdd (s.readNat (scratchKey c o) 8) b))).waitmTouched (scratchKey c o) 8) (trans (t := s.writeBytes (scratchKey c o) (toBytes 8 (arrivalAdd (s.readNat (scratchKey c o) 8) b))) (outside rfl rfl) (waitmTouched _ _ _)) ?_
  split
  · exact refl _
  · refine fold _ _ (fun s e _ => ?_) _
    split
    · exact refl s
    · exact acquire _ _ _ _ _ _

theorem arrivalFor (s : State) (i b : Nat) : OnlyWaits s (s.arrivalFor i b) := by
  unfold State.arrivalFor
  split
  · exact refl s
  · split
    · exact refl s
    · exact arrivalAt _ _ _ _

theorem noteOld (s : State) (w : WEntry) (b : List Byte) : OnlyWaits s (s.noteOld w b) := by
  unfold State.noteOld State.noteWas
  split
  · exact outside rfl rfl
  · exact refl s

theorem performAt (s : State) (h : Nat) (w : WEntry) : OnlyWaits s (s.performAt h w) := by
  unfold State.performAt
  extract_lets data s1 s2 s3 holders fresh s4 s5 s6 s7 s8 s9
  have a1 : OnlyWaits s s1 := by
    show OnlyWaits s (if _ then _ else _ : State)
    split
    · exact refl _
    · exact noteOld _ _ _
  have a2 : OnlyWaits s1 s3 := outside rfl rfl
  have a4 : OnlyWaits s3 s4 := by
    show OnlyWaits s3 (if _ then _ else _ : State)
    split
    · exact refl _
    · exact numberWrite _ _ _
  have a5 : OnlyWaits s4 s5 := fold _ _ (fun s x _ => send _ _ _ _) _
  have a6 : OnlyWaits s5 s6 := by
    show OnlyWaits s5 (if _ then _ else _ : State)
    split
    · exact refl _
    · exact sendClock _ _
  have a7 : OnlyWaits s6 s7 := outside rfl rfl
  have a8 : OnlyWaits s7 s8 := waitmTouched _ _ _
  have a9 : OnlyWaits s8 s9 := by
    show OnlyWaits s8 (match w.owner with
      | .cmd _ id true => s8.arrivalFor id data.length
      | _ => s8)
    split
    · exact arrivalFor _ _ _
    · exact refl _
  exact (((((((a1.trans a2).trans a4).trans a5).trans a6).trans a7).trans a8).trans a9).trans (checkWrite _ _)

theorem toPort (s : State) (d : Nat) (w : WEntry) : OnlyWaits s (s.toPort d w) :=
  trans (noteOld s w _) (outside rfl rfl)

theorem ksSend (s : State) (r : Option (Nat × Nat)) (k : Nat) (b : List Byte) : OnlyWaits s (s.ksSend r k b) := by
  unfold State.ksSend
  extract_lets w s1 h s2
  have a1 : OnlyWaits s s1 := outside rfl rfl
  refine a1.trans ?_
  split
  · split
    · exact toPort _ _ _
    · exact performAt _ _ _
  · have a2 : OnlyWaits s1 s2 := numberWrite _ _ _
    exact (a2.trans (send _ _ _ _)).trans (sendClock _ _)

theorem ksWrite (s : State) (k : Nat) (b : List Byte) : OnlyWaits s (s.ksWrite k b) :=
  fold _ _ (fun s _ _ => ksSend s _ _ _) s

theorem ksStore (s : State) (c : Nat) (a : DWord) (b : List Byte) : OnlyWaits s (s.ksStore c a b) := by
  refine fold _ _ (fun s p _ => ?_) s
  split
  · exact ksWrite _ _ _
  · exact refl s

theorem freeSlot (s : State) (c k : Nat) : OnlyWaits s (s.freeSlot c k) :=
  trans (ksStore s c _ _) (outside rfl rfl)

theorem startClose (s : State) (c l q : Nat) (la : Option Nat) (b : DWord) : OnlyWaits s (s.startClose c l q la b) := by
  unfold State.startClose
  extract_lets counts held spilt pins all cap out lost s1 s2 s3 counts2
  have a1 : OnlyWaits s s1 := outside rfl rfl
  have a2 : OnlyWaits s1 s2 := fold _ _ (fun s k _ => freeSlot _ _ _) _
  have a3 : OnlyWaits s2 s3 := fold _ _ (fun s k _ => ksStore _ _ _ _) _
  exact ((a1.trans a2).trans a3).trans (outside rfl rfl)

theorem heirClose (s : State) (l : Nat) : OnlyWaits s (s.heirClose l) := by
  unfold State.heirClose
  split
  · exact refl s
  · split
    · refine trans (t := s.modLaunch l (fun l => { l with state := .closing })) (outside rfl rfl) ?_
      exact startClose _ _ _ _ _ _
    · exact refl s

end OnlyWaits

/-! ### What touches no workgroup -/

theorem foldl_wgs {α : Type} (f : State → α → State) (l : List α) (h : ∀ s x, (f s x).wgs = s.wgs) (s : State) :
    (l.foldl f s).wgs = s.wgs := by
  induction l generalizing s with
  | nil => rfl
  | cons x r ih => exact (ih (f s x)).trans (h s x)

theorem endItem_wgs (s : State) (c : Nat) (l : Launch) (t : Thread) : (s.endItem c l t).wgs = s.wgs := by
  unfold State.endItem; split <;> rfl

theorem closeDispenser_wgs (s : State) (l : Launch) : (s.closeDispenser l).wgs = s.wgs := by
  unfold State.closeDispenser; split <;> rfl

theorem siblingsQuiet_wgs (s : State) (l : Nat) : (s.siblingsQuiet l).wgs = s.wgs := by
  unfold State.siblingsQuiet
  split
  · rfl
  · next l0 _ =>
    have h : (if s.launchEnded l0 then s.closeDispenser l0 else s : State).wgs = s.wgs := by
      split
      · exact closeDispenser_wgs _ _
      · rfl
    revert h
    dsimp only
    generalize (if s.launchEnded l0 then s.closeDispenser l0 else s : State) = u
    intro h
    split
    · exact h
    · split
      · exact h
      · split
        · exact (closeDispenser_wgs _ _).trans h
        · exact h

theorem modLineage_wgs (s : State) (c l : Nat) (f : Lineage → Lineage) : (s.modLineage c l f).wgs = s.wgs := by
  unfold State.modLineage; split <;> rfl

theorem claimOne_wgs (s : State) (l : Launch) (c t n j : Nat) (x : DWord) : (s.claimOne l c t n j x).wgs = s.wgs := by
  unfold State.claimOne
  dsimp only
  split
  · exact modLineage_wgs _ _ _ _
  · refine (modLineage_wgs _ _ _ _).trans ?_
    split <;> rfl

theorem claimTile_wgs (s : State) (l : Launch) (c n : Nat) (who : List (Nat × Nat)) : (s.claimTile l c n who).wgs = s.wgs := by
  unfold State.claimTile
  split
  · rfl
  · exact foldl_wgs _ _ (fun s p => foldl_wgs _ _ (fun s j => claimOne_wgs _ _ _ _ _ _ _) _) _

/-! ### Threads that stand in no lane -/

/-- A core's teams are listed in order, and none of the lanes of a list of a team holds a thread. -/
def Absent (c n : Nat) (D : List Nat) (s : State) : Prop :=
  (∀ w, s.wg? c = some w → kvWf w.teams = true) ∧ ∀ l ∈ D, s.thread? c n l = none

namespace Absent

variable {c n : Nat} {D : List Nat} {s t : State}

theorem waits (k : OnlyWaits s t) (h : Absent c n D s) : Absent c n D t :=
  ⟨fun w e => k.order c w e h.1, fun l hl => by
    have := k.threads c n l
    rw [h.2 l hl] at this
    cases ht : t.thread? c n l with
    | none => rfl
    | some x => rw [ht] at this; simp at this⟩

theorem same (hw : t.wgs = s.wgs) (h : Absent c n D s) : Absent c n D t := by
  refine ⟨fun w e => h.1 w ?_, fun l hl => ?_⟩
  · simpa only [State.wg?, hw] using e
  · have := h.2 l hl
    simpa only [State.thread?, State.team?, State.wg?, hw] using this

theorem gone (hw : t.wg? c = none) : Absent c n D t :=
  ⟨fun w e => by rw [hw] at e; simp at e, fun l _ => by simp [State.thread?, State.team?, hw]⟩

theorem fold {α : Type} (f : State → α → State) (l : List α) (hf : ∀ s x, Absent c n D s → Absent c n D (f s x)) (s : State)
    (h : Absent c n D s) : Absent c n D (l.foldl f s) := by
  induction l generalizing s with
  | nil => exact h
  | cons x r ih => exact ih (f s x) (hf s x h)

/-- A change of every team of a core that brings no thread. -/
theorem teams (c' : Nat) (f : Workgroup → Workgroup) (g : Workgroup → Nat × Team → Team)
    (ht : ∀ w, (f w).teams = w.teams.map (fun e => (e.1, g w e)))
    (hl : ∀ w e l, kvGet e.2.lanes l = none → kvGet (g w e).lanes l = none) (h : Absent c n D s) :
    Absent c n D (s.modWg c' f) := by
  refine ⟨fun w e => ?_, fun l hl' => ?_⟩
  · rw [wg?_modWg] at e
    split at e
    · cases hs : s.wg? c with
      | none => rw [hs] at e; simp at e
      | some w0 =>
        rw [hs] at e
        simp only [Option.map_some, Option.some.injEq] at e
        rw [← e, ht]; exact kvWf_map _ _ (h.1 w0 hs)
    · exact h.1 w e
  · have k := h.2 l hl'
    simp only [State.thread?, State.team?, wg?_modWg] at k ⊢
    split
    · cases hs : s.wg? c with
      | none => rfl
      | some w0 =>
        rw [hs] at k
        simp only [Option.map_some, Option.bind_some, ht] at k ⊢
        rw [kvGet_map w0.teams n (fun i m => g w0 (i, m))]
        cases hk : kvGet w0.teams n with
        | none => rfl
        | some m =>
          rw [hk] at k
          simp only [Option.map_some, Option.bind_some] at k ⊢
          exact hl w0 (n, m) l k
    · exact k

/-- The slots of teams without a thread are freed. -/
theorem freeTeams (c' : Nat) (h : Absent c n D s) : Absent c n D (s.freeTeams c') := by
  have kf : ∀ (m : KV Team) (lo : Nat) (p : Nat × Team → Bool) (l : Nat), kvSortedFrom lo m = true →
      (kvGet m n).bind (fun x => kvGet x.lanes l) = none → (kvGet (m.filter p) n).bind (fun x => kvGet x.lanes l) = none := by
    intro m
    induction m with
    | nil => intros; rfl
    | cons e r ih =>
      intro lo p l hs hg
      obtain ⟨a, b⟩ := e
      simp only [kvSortedFrom, Bool.and_eq_true] at hs
      have above : ∀ (m : KV Team) (lo : Nat), n < lo → kvSortedFrom lo m = true → kvGet m n = none := by
        intro m
        induction m with
        | nil => intros; rfl
        | cons e r ih =>
          intro lo hlo hs
          obtain ⟨a, b⟩ := e
          simp only [kvSortedFrom, Bool.and_eq_true, decide_eq_true_eq] at hs
          simp only [kvGet]; rw [if_neg (by omega)]
          exact ih (a + 1) (by omega) hs.2
      by_cases ha : n = a
      · subst ha
        simp only [kvGet, if_true] at hg
        simp only [List.filter_cons]
        split
        · simp only [kvGet, if_true]; exact hg
        · rw [above (r.filter p) (n + 1) (by omega) (kvSortedFrom_filter r _ p hs.2)]; rfl
      · simp only [kvGet, ha, if_false] at hg
        simp only [List.filter_cons]
        split
        · simp only [kvGet, ha, if_false]; exact ih (a + 1) p l hs.2 hg
        · exact ih (a + 1) p l hs.2 hg
  refine ⟨fun w e => ?_, fun l hl => ?_⟩
  · simp only [State.freeTeams, wg?_modWg] at e
    split at e
    · cases hs : s.wg? c with
      | none => rw [hs] at e; simp at e
      | some w0 =>
        rw [hs] at e
        simp only [Option.map_some, Option.some.injEq] at e
        rw [← e]; exact kvSortedFrom_filter _ 0 _ (h.1 w0 hs)
    · exact h.1 w e
  · have k := h.2 l hl
    simp only [State.freeTeams, State.thread?, State.team?, wg?_modWg] at k ⊢
    split
    · cases hs : s.wg? c with
      | none => rfl
      | some w0 =>
        rw [hs] at k
        simp only [Option.map_some, Option.bind_some] at k ⊢
        exact kf w0.teams 0 _ l (h.1 w0 hs) k
    · exact k

/-- One more lane is emptied. -/
theorem del (l0 : Nat) (h : Absent c n D s) :
    Absent c n (l0 :: D) (s.modTeam c n (fun m => { m with lanes := kvDel m.lanes l0 })) := by
  refine ⟨fun w e => ?_, fun l hl => ?_⟩
  · simp only [State.modTeam, wg?_modWg, if_true] at e
    cases hs : s.wg? c with
    | none => rw [hs] at e; simp at e
    | some w0 =>
      rw [hs] at e
      simp only [Option.map_some, Option.some.injEq] at e
      rw [← e]; exact kvWf_mod _ _ _ (h.1 w0 hs)
  · simp only [State.thread?, team?_modTeam, and_self, if_true]
    cases hs : s.team? c n with
    | none => rfl
    | some m =>
      simp only [Option.map_some, Option.bind_some]
      by_cases e : l = l0
      · rw [e]; exact kvGet_del_same _ _
      · rw [kvGet_del_ne _ _ _ e]
        have := h.2 l (by simpa [e] using hl)
        simpa only [State.thread?, hs, Option.bind_some] using this

theorem forget_wgs (s : State) (l : Nat) : (s.forget l).wgs = s.wgs := by
  unfold State.forget; split
  · split <;> rfl
  · rfl

theorem coreReturns_wgs (s : State) (c : Nat) (w : Workgroup) : (s.coreReturns c w).wgs = kvDel s.wgs c := by
  unfold State.coreReturns
  rw [forget_wgs]
  split <;> rfl

theorem endWorkgroup (c' : Nat) (h : Absent c n D s) : Absent c n D (s.endWorkgroup c') := by
  unfold State.endWorkgroup
  split
  · exact h
  · next w _ =>
    split
    · refine waits (OnlyWaits.heirClose _ _) (same (siblingsQuiet_wgs _ _) ?_)
      split
      · have hw := coreReturns_wgs s c' w
        by_cases e : c = c'
        · subst e
          exact gone (by rw [State.wg?, hw]; exact kvGet_del_same _ _)
        · have hc : (s.coreReturns c' w).wg? c = s.wg? c := by rw [State.wg?, hw]; exact kvGet_del_ne _ _ _ e
          refine ⟨fun w k => h.1 w (by rwa [hc] at k), fun l hl => ?_⟩
          have := h.2 l hl
          simpa only [State.thread?, State.team?, hc] using this
      · exact h
    · exact h

theorem addInsns_wgs (s : State) (l : Launch) (w : Workgroup) : (s.addInsns l w).wgs = s.wgs := by
  unfold State.addInsns
  split
  · split <;> rfl
  · rfl

theorem cancelStop (c' : Nat) (h : Absent c n D s) : Absent c n D (s.cancelStop c') := by
  unfold State.cancelStop
  split
  · refine endWorkgroup _ ?_
    refine teams c' _ (fun _ e => { e.2 with lanes := [], order := [] }) (fun _ => rfl) (fun _ _ _ _ => rfl) ?_
    refine same rfl ?_
    refine fold _ _ (fun s x k => waits (OnlyWaits.fold _ _ (fun s k _ => OnlyWaits.lessMember s _ _ k) s) k) _ ?_
    refine fold _ _ (fun s x k => waits (OnlyWaits.fold _ _ (fun s k _ => OnlyWaits.lessMember s _ _ k) s) k) _ ?_
    exact same (addInsns_wgs _ _ _) h
  · exact h

theorem tfetchCheck (c' : Nat) (h : Absent c n D s) : Absent c n D (s.tfetchCheck c') := by
  unfold State.tfetchCheck
  split
  · next w l _ _ =>
    split
    · extract_lets s1 s2 tile s3
      have a1 : Absent c n D s1 := same (foldl_wgs _ _ (fun s e => endItem_wgs _ _ _ _) _) h
      have a2 : Absent c n D s2 := by
        refine teams c' _ (fun _ e => { e.2 with lanes := e.2.lanes.map (fun x =>
          (x.1, { x.2 with hasItem := false, mark := (0, 0) })) }) (fun _ => rfl) (fun _ e l hn => ?_) a1
        dsimp only
        have k := kvGet_map e.2.lanes l (fun _ (x : Thread) => { x with hasItem := false, mark := (0, 0) })
        rw [hn] at k; exact k
      split
      · exact cancelStop _ a2
      · have a3 : Absent c n D s3 := waits (OnlyWaits.modWg _ _ _ (fun _ => rfl) (fun _ => rfl)) a2
        clear_value s3 tile
        cases tile with
        | none => exact same (siblingsQuiet_wgs _ _) a3
        | some n =>
          dsimp only
          refine same ((siblingsQuiet_wgs _ _).trans (claimTile_wgs _ _ _ _ _)) ?_
          exact waits (OnlyWaits.modWg _ _ _ (fun _ => rfl) (fun _ => rfl)) (same (t := s3.modLaunch _ _) rfl a3)
    · exact h
  · exact h

theorem dropLoads (i : Nat) (h : Absent c n D s) : Absent c n D (s.dropLoads i) := by
  unfold State.dropLoads
  dsimp only
  refine fold _ _ (fun s x k => ?_) _ (same rfl h)
  split
  · exact k
  · exact waits (OnlyWaits.modTeam _ _ _ _ (fun _ => rfl) (fun _ => rfl)) k

end Absent

theorem dropLoads_cur (s : State) (i : Nat) : (s.dropLoads i).cur = s.cur := by
  unfold State.dropLoads
  dsimp only
  have : ∀ (l : List Nat) (u : State), (l.foldl (fun s k => if s.loads.any (fun x => x.tok = k) then s else s.onTeam (fun m => m.tokDone k)) u).cur = u.cur := by
    intro l
    induction l with
    | nil => intro u; rfl
    | cons x r ih => intro u; rw [List.foldl_cons, ih]; split <;> rfl
  rw [this]

theorem leave_absent (s s1 : State) (D : List Nat) (l tid : Nat) (c1 : s1.cur = s.cur) (a1 : Absent s.cur.core s.cur.team D s1) :
    let t : State := ((s1.leaveBarriers s1.cur.core s1.cur.team).onTeam (fun m => { m with lanes := kvDel m.lanes l })).dropLoads tid
    Absent s.cur.core s.cur.team (l :: D) t ∧ t.cur = s.cur := by
  have w2 : OnlyWaits s1 (s1.leaveBarriers s1.cur.core s1.cur.team) := OnlyWaits.leaveBarriers _ _ _
  have a2 := Absent.waits w2 a1
  have c2 := w2.cur.trans c1
  revert a2 c2
  generalize s1.leaveBarriers s1.cur.core s1.cur.team = s2
  intro a2 c2
  have a3 := Absent.del l a2
  have e3 : s2.onTeam (fun m => { m with lanes := kvDel m.lanes l }) = s2.modTeam s.cur.core s.cur.team (fun m => { m with lanes := kvDel m.lanes l }) := by
    unfold State.onTeam; rw [c2]
  dsimp only
  rw [e3]
  exact ⟨Absent.dropLoads _ a3, (dropLoads_cur _ _).trans c2⟩

/-- One thread exits: it stands in its lane no longer, and no other lane has got a thread (R337). -/
theorem exitThread_absent (s : State) (D : List Nat) (l : Nat) (h : Absent s.cur.core s.cur.team D s) :
    Absent s.cur.core s.cur.team (l :: D) (s.exitThread l) ∧ (s.exitThread l).cur = s.cur := by
  cases hx : s.thread? s.cur.core s.cur.team l with
  | none =>
    unfold State.exitThread
    rw [hx]
    refine ⟨⟨h.1, fun k hk => ?_⟩, rfl⟩
    rcases List.mem_cons.1 hk with e | e
    · exact e ▸ hx
    · exact h.2 k e
  | some x =>
    unfold State.exitThread
    rw [hx]
    refine leave_absent s _ D l x.tid ?_ ?_
    · split
      · unfold State.endItem; split <;> rfl
      · rfl
    · split
      · exact Absent.same (endItem_wgs _ _ _ _) h
      · exact h

/-- The threads that exit stand in no lane after the rest of EXIT (R337, R338). -/
theorem exits_absent (s : State) (gl D : List Nat) (h : Absent s.cur.core s.cur.team D s) :
    Absent s.cur.core s.cur.team (gl ++ D) (gl.foldl (fun s l => s.exitThread l) s)
      ∧ (gl.foldl (fun s l => s.exitThread l) s).cur = s.cur := by
  induction gl generalizing s D with
  | nil => exact ⟨h, rfl⟩
  | cons l r ih =>
    obtain ⟨h1, h2⟩ := exitThread_absent s D l h
    have k := ih (s.exitThread l) (l :: D) (by rw [h2]; exact h1)
    rw [h2] at k
    refine ⟨⟨k.1.1, fun m hm => k.1.2 m ?_⟩, k.2⟩
    simp only [List.cons_append, List.mem_cons, List.mem_append] at hm ⊢
    tauto

/-! ### Threads that enter a bin -/

/-- A team that holds a thread keeps its slot. -/
theorem thread?_freeTeams (s : State) (c' c n l : Nat) (x : Thread) (h : s.thread? c n l = some x) :
    (s.freeTeams c').thread? c n l = some x := by
  have kf : ∀ (m : KV Team) (p : Nat × Team → Bool), (∀ e : Nat × Team, e.2.lanes ≠ [] → p e = true) →
      (kvGet m n).bind (fun t => kvGet t.lanes l) = some x → (kvGet (m.filter p) n).bind (fun t => kvGet t.lanes l) = some x := by
    intro m p hp
    induction m with
    | nil => intro h; exact h
    | cons e r ih =>
      obtain ⟨a, b⟩ := e
      intro hg
      by_cases ha : n = a
      · subst ha
        simp only [kvGet, if_true] at hg
        have : p (n, b) = true := hp _ (by intro e; dsimp only at e; rw [Option.bind_some, e] at hg; simp [kvGet] at hg)
        rw [List.filter_cons_of_pos this]; simp only [kvGet, if_true]; exact hg
      · simp only [kvGet, ha, if_false] at hg
        rw [List.filter_cons]; split
        · simp only [kvGet, ha, if_false]; exact ih hg
        · exact ih hg
  simp only [State.freeTeams, State.thread?, State.team?, wg?_modWg] at h ⊢
  split
  · cases hs : s.wg? c with
    | none => rw [hs] at h; simp at h
    | some w =>
      rw [hs] at h
      simp only [Option.map_some, Option.bind_some] at h ⊢
      refine kf w.teams _ (fun e he => ?_) h
      simp only [Bool.or_eq_true, Bool.not_eq_true']
      left
      cases hl : e.2.lanes with
      | nil => exact absurd hl he
      | cons _ _ => rfl
  · exact h

/-- Threads `done` of the subset have entered the bin of the next unit's PC, `left` are still in their lanes, and the bin has
room for them; `orig` is each as it was. -/
structure Binned (s0 : State) (orig : Nat → Thread) (done left : List Nat) (s : State) : Prop where
  cur : s.cur = s0.cur
  few : left.length < 64
  gone : Absent s0.cur.core s0.cur.team done s
  here : ∀ l ∈ left, ∃ x, s.thread? s0.cur.core s0.cur.team l = some x ∧ noWait x = noWait (orig l)
  room : ∀ w b, s.wg? s0.cur.core = some w → b ∈ w.bins → b.key = s0.cur.next → b.threads.length + left.length < 64
  bin : ∀ l ∈ done, ∃ w b x, s.wg? s0.cur.core = some w ∧ b ∈ w.bins ∧ b.key = s0.cur.next
    ∧ (s0.cur.team, l, x) ∈ b.threads ∧ noWait x = noWait (orig l)

theorem Binned.waits {s0 s t : State} {orig : Nat → Thread} {done left : List Nat} (k : OnlyWaits s t)
    (h : Binned s0 orig done left s) : Binned s0 orig done left t := by
  have hw : ∀ w', t.wg? s0.cur.core = some w' → ∃ w, s.wg? s0.cur.core = some w ∧ w'.bins = w.bins := by
    intro w' e
    have b := k.bins s0.cur.core
    rw [e] at b
    cases hs : s.wg? s0.cur.core with
    | none => rw [hs] at b; simp at b
    | some w => rw [hs] at b; exact ⟨w, rfl, by simpa using b⟩
  refine ⟨k.cur.trans h.cur, h.few, Absent.waits k h.gone, fun l hl => ?_, fun w' b e hb hk => ?_, fun l hl => ?_⟩
  · obtain ⟨x, h1, h2⟩ := h.here l hl
    have b := k.threads s0.cur.core s0.cur.team l
    rw [h1] at b
    cases ht : t.thread? s0.cur.core s0.cur.team l with
    | none => rw [ht] at b; simp at b
    | some y => rw [ht] at b; exact ⟨y, rfl, (by simpa using b : noWait y = noWait x).trans h2⟩
  · obtain ⟨w, e1, e2⟩ := hw w' e
    exact h.room w b e1 (e2 ▸ hb) hk
  · obtain ⟨w, b, x, e1, e2, e3, e4, e5⟩ := h.bin l hl
    have bb := k.bins s0.cur.core
    rw [e1] at bb
    cases ht : t.wg? s0.cur.core with
    | none => rw [ht] at bb; simp at bb
    | some w' =>
      rw [ht] at bb
      have : w'.bins = w.bins := by simpa using bb
      exact ⟨w', b, x, rfl, this ▸ e2, e3, e4, e5⟩

/-- A thread leaves its lane for the bin. -/
theorem Binned.move {s0 u : State} {orig : Nat → Thread} {done left : List Nat} (l : Nat) (x : Thread) (hl : l ∉ left)
    (h : Binned s0 orig done (l :: left) u) (hn : noWait x = noWait (orig l)) (new : Bin) (hk : new.key = s0.cur.next)
    (ht : new.threads = []) :
    Binned s0 orig (l :: done) left ((u.modTeam s0.cur.core s0.cur.team (fun m => { m with lanes := kvDel m.lanes l })).modWg
      s0.cur.core (fun w => { w with
        bins := List.map (fun (b : Bin) => if b.key = s0.cur.next then { b with threads := b.threads ++ [(s0.cur.team, l, x)] } else b)
          (if (!w.bins.any (fun b => decide (b.key = s0.cur.next))) = true then w.bins ++ [new] else w.bins) })) := by
  obtain ⟨y, hy, -⟩ := h.here l (List.mem_cons_self ..)
  obtain ⟨w, hw⟩ : ∃ w, u.wg? s0.cur.core = some w := by
    simp only [State.thread?, State.team?] at hy
    cases hs : u.wg? s0.cur.core with
    | none => rw [hs] at hy; simp at hy
    | some w => exact ⟨w, rfl⟩
  have hfew : left.length + 1 < 64 := h.few
  have hmem : ∀ b ∈ (if (!w.bins.any (fun b => decide (b.key = s0.cur.next))) = true then w.bins ++ [new] else w.bins),
      b.key = s0.cur.next → b.threads.length + (left.length + 1) < 64 := by
    intro b hb hbk
    split at hb
    · rcases List.mem_append.1 hb with e | e
      · exact h.room w b hw e hbk
      · rw [List.mem_singleton.1 e, ht]; simpa using hfew
    · exact h.room w b hw hb hbk
  have hex : ∃ b ∈ (if (!w.bins.any (fun b => decide (b.key = s0.cur.next))) = true then w.bins ++ [new] else w.bins), b.key = s0.cur.next := by
    split
    · exact ⟨new, by simp, hk⟩
    · next e =>
      simp only [Bool.not_eq_true', Bool.not_eq_false, List.any_eq_true, decide_eq_true_eq] at e
      exact e
  have hsub : ∀ b ∈ w.bins, b ∈ (if (!w.bins.any (fun b => decide (b.key = s0.cur.next))) = true then w.bins ++ [new] else w.bins) := by
    intro b hb; split
    · exact List.mem_append_left _ hb
    · exact hb
  have hwg : ∀ f : Workgroup → Workgroup, ((u.modTeam s0.cur.core s0.cur.team (fun m => { m with lanes := kvDel m.lanes l })).modWg s0.cur.core f).wg? s0.cur.core
      = some (f { w with teams := kvMod w.teams s0.cur.team (fun m => { m with lanes := kvDel m.lanes l }) }) := by
    intro f
    rw [wg?_modWg, if_pos rfl]
    simp only [State.modTeam, wg?_modWg, if_pos, hw, Option.map_some]
  refine ⟨h.cur, by omega, ?_, ?_, ?_, ?_⟩
  · exact Absent.waits (OnlyWaits.refl _) ⟨fun w' e => by
      rw [hwg] at e
      simp only [Option.some.injEq] at e
      rw [← e]; exact kvWf_mod _ _ _ (h.gone.1 w hw), fun k hkk => by
      exact (thread?_modWg_of _ _ _ _ _ _ (by intro w; rfl)).trans ((Absent.del l h.gone).2 k hkk)⟩
  · intro k hkk
    obtain ⟨z, h1, h2⟩ := h.here k (List.mem_cons_of_mem _ hkk)
    refine ⟨z, (thread?_modWg_of _ _ _ _ _ _ (by intro w; rfl)).trans ?_, h2⟩
    have : k ≠ l := fun e => hl (e ▸ hkk)
    simp only [State.thread?, team?_modTeam, and_self, if_true] at h1 ⊢
    cases hs : u.team? s0.cur.core s0.cur.team with
    | none => rw [hs] at h1; simp at h1
    | some m => rw [hs] at h1; simp only [Option.map_some, Option.bind_some, kvGet_del_ne _ _ _ this] at h1 ⊢; exact h1
  · intro w' b e hb hbk
    rw [hwg] at e
    simp only [Option.some.injEq] at e
    rw [← e] at hb
    obtain ⟨b0, hb0, he⟩ := List.mem_map.1 hb
    split at he
    · next hk0 =>
      have := hmem b0 hb0 hk0
      rw [← he]; simp only [List.length_append, List.length_cons, List.length_nil]; omega
    · next hk0 => rw [he] at hk0; exact absurd hbk hk0
  · intro k hkk
    rcases List.mem_cons.1 hkk with e | e
    · subst e
      obtain ⟨b, hb, hbk⟩ := hex
      exact ⟨_, { b with threads := b.threads ++ [(s0.cur.team, k, x)] }, x, hwg _, List.mem_map.2 ⟨b, hb, by rw [if_pos hbk]⟩, hbk, by simp, hn⟩
    · obtain ⟨w1, b, z, e1, e2, e3, e4, e5⟩ := h.bin k e
      rw [hw] at e1
      simp only [Option.some.injEq] at e1
      subst e1
      exact ⟨_, { b with threads := b.threads ++ [(s0.cur.team, l, x)] }, z, hwg _, List.mem_map.2 ⟨b, hsub b e2, by rw [if_pos e3]⟩, e3,
        List.mem_append_left _ e4, e5⟩

theorem Binned.free {s0 u : State} {orig : Nat → Thread} {done left : List Nat} (h : Binned s0 orig done left u) :
    Binned s0 orig done left (u.freeTeams s0.cur.core) := by
  have hb : ∀ w', (u.freeTeams s0.cur.core).wg? s0.cur.core = some w' → ∃ w, u.wg? s0.cur.core = some w ∧ w'.bins = w.bins := by
    intro w' e
    simp only [State.freeTeams, wg?_modWg, if_true] at e
    cases hs : u.wg? s0.cur.core with
    | none => rw [hs] at e; simp at e
    | some w => rw [hs] at e; simp only [Option.map_some, Option.some.injEq] at e; exact ⟨w, rfl, by rw [← e]⟩
  refine ⟨h.cur, h.few, Absent.freeTeams _ h.gone, fun k hk => ?_, fun w' b e hb' hbk => ?_, fun k hk => ?_⟩
  · obtain ⟨x, h1, h2⟩ := h.here k hk
    exact ⟨x, thread?_freeTeams _ _ _ _ _ _ h1, h2⟩
  · obtain ⟨w, e1, e2⟩ := hb w' e
    exact h.room w b e1 (e2 ▸ hb') hbk
  · obtain ⟨w, b, x, e1, e2, e3, e4, e5⟩ := h.bin k hk
    refine ⟨{ w with teams := w.teams.filter (fun e => !e.2.lanes.isEmpty || w.cmds.any (fun c => c.team = e.1 && c.kind.matrix)) },
      b, x, ?_, e2, e3, e4, e5⟩
    simp only [State.freeTeams, wg?_modWg, if_true, e1, Option.map_some]

/-- A thread that enters the bin (R39). -/
theorem enterBin_binned (s0 s : State) (orig : Nat → Thread) (done left : List Nat) (l : Nat) (hl : l ∉ left)
    (h : Binned s0 orig done (l :: left) s) : Binned s0 orig (l :: done) left (s.enterBin l) := by
  obtain ⟨x, hx, hn⟩ := h.here l (List.mem_cons_self ..)
  unfold State.enterBin
  dsimp only
  rw [h.cur, hx]
  dsimp only
  generalize teamBars = tb
  have h1 := Binned.waits (OnlyWaits.fold (fun s k => s.lessMember s0.cur.core s0.cur.team k) tb (fun s k _ => OnlyWaits.lessMember s _ _ k) s) h
  revert h1
  generalize List.foldl (fun (s : State) k => s.lessMember s0.cur.core s0.cur.team k) s tb = u
  intro h1
  have h2 := Binned.move l x hl h1 hn ⟨s0.cur.next, ((u.modTeam s0.cur.core s0.cur.team
    (fun m => { m with lanes := kvDel m.lanes l })).cluster (clusterOf s0.cur.core)).cycles, [], s.team.sregs, s.team.qpreds, s.team.mode, s.team.rank⟩ rfl rfl
  have h3 := Binned.free (Binned.waits (OnlyWaits.joinTest _ s0.cur.core s0.cur.team) h2)
  have e3 : u.onTeam (fun m => { m with lanes := kvDel m.lanes l }) = u.modTeam s0.cur.core s0.cur.team (fun m => { m with lanes := kvDel m.lanes l }) := by
    unfold State.onTeam; rw [h1.cur]
  rw [e3]
  have hf : ∀ v : State, Binned s0 orig (l :: done) left v →
      ((v.wg? s0.cur.core).map (fun w => w.bins.any (fun b => decide (b.key = s0.cur.next) && decide (teamWidth ≤ b.threads.length)))).getD false = false := by
    intro v hv
    cases hs : v.wg? s0.cur.core with
    | none => rfl
    | some w =>
      simp only [Option.map_some, Option.getD_some]
      rw [List.any_eq_false]
      intro b hb
      simp only [Bool.and_eq_true, decide_eq_true_eq, not_and, Nat.not_le]
      intro hk
      have := hv.room w b hs hb hk
      show b.threads.length < 64
      omega
  rw [if_neg (by rw [hf _ h3]; decide)]
  exact h3

end Sys2Proof.Machine
end

