-- ==== Sys2Proof/Laws/Memory.lean ====
section
/-! SUPPORT. The canonical form of memory under its operations, and what the ordering machine's shared steps leave of it:
releases, clocks and completions leave memory as it was, and a write performed at its home puts its bytes there. -/

namespace Sys2Proof.Machine

/-! ### The canonical form -/

theorem memWf_setByte (m : List Host.Cell) (k : Nat) (b : Byte) (h : memWf m = true) : memWf (memSetByte m k b) = true :=
  kvWfD_set _ _ _ _ h

theorem memWf_put (m : List Host.Cell) (k : Nat) (bs : List Byte) (h : memWf m = true) : memWf (memPut m k bs) = true := by
  induction bs generalizing m k with
  | nil => exact h
  | cons b r ih => exact ih _ _ (memWf_setByte _ _ _ h)

theorem memWf_writeBytes (s : State) (k : Nat) (bs : List Byte) (h : memWf s.mem = true) :
    memWf (s.writeBytes k bs).mem = true := memWf_put _ _ _ h

theorem memWf_zeroRange (s : State) (k n : Nat) (h : memWf s.mem = true) : memWf (s.zeroRange k n).mem = true :=
  kvWfD_filter _ _ _ h

/-! ### Steps that leave the rest as it was -/

theorem foldl_beside {α : Type} (f : State → α → State) (l : List α) (h : ∀ s x, beside (f s x) = beside s) (s : State) :
    beside (l.foldl f s) = beside s := by
  induction l generalizing s with
  | nil => rfl
  | cons x r ih => exact (ih (f s x)).trans (h s x)

@[simp] theorem beside_setWaits (s : State) (c : Nat) (p : Thread → Bool) (w : Wait) : beside (s.setWaits c p w) = beside s := rfl

@[simp] theorem beside_send (s : State) (a b : Nat) (m : Payload) : beside (s.send a b m) = beside s := rfl
@[simp] theorem beside_sendClock (s : State) (d : Nat) : beside (s.sendClock d) = beside s := by
  unfold State.sendClock; exact foldl_beside (fun s j => s.send d j .clock) _ (fun _ _ => rfl) s
@[simp] theorem beside_numberWrite (s : State) (d i : Nat) : beside (s.numberWrite d i) = beside s := by
  unfold State.numberWrite
  split <;> rfl
@[simp] theorem beside_mergeStamp (s : State) (d : Nat) (v : List Word) : beside (s.mergeStamp d v) = beside s := by
  unfold State.mergeStamp
  split
  · rfl
  · exact beside_sendClock _ _

@[simp] theorem beside_finishFence (s : State) (f : FenceReq) : beside (s.finishFence f) = beside s := by
  unfold State.finishFence
  extract_lets s1 v1 s2 s3
  rw [beside_setWaits]
  have e3 : beside s3 = beside s2 := by
    show beside (if _ then _ else _ : State) = _
    split
    · rfl
    · exact beside_mergeStamp _ _ _
  rw [e3]
  show beside (if _ then _ else _ : State) = _
  split <;> rfl

@[simp] theorem beside_acquire (s : State) (c u : Nat) (ts : List Nat) (k : Nat) (v : List Word) :
    beside (s.acquire c u ts k v) = beside s := by
  show beside (if _ then _ else _ : State) = _
  split
  · exact beside_finishFence _ _
  · rfl

@[simp] theorem beside_modUid (s : State) (u : Nat) (f : Team → Team) : beside (s.modUid u f) = beside s := rfl
@[simp] theorem beside_cmdRetire (s : State) (i : Nat) : beside (s.cmdRetire i) = beside s := rfl

@[simp] theorem beside_completeWrite (s : State) (i : Nat) : beside (s.completeWrite i) = beside s := by
  unfold State.completeWrite
  split
  · rfl
  · dsimp only
    split
    · split <;> rfl
    · unfold State.cmdCheck; dsimp only; split <;> rfl
    · rfl
@[simp] theorem beside_checkWrite (s : State) (i : Nat) : beside (s.checkWrite i) = beside s := by
  unfold State.checkWrite
  split
  · split
    · exact beside_completeWrite _ _
    · rfl
  · rfl

@[simp] theorem beside_waitmTouched (s : State) (k n : Nat) : beside (s.waitmTouched k n) = beside s := by
  refine foldl_beside _ _ (fun s k => ?_) s
  refine foldl_beside _ _ (fun s c => ?_) s
  dsimp only
  split
  · rfl
  · exact foldl_beside _ _ (fun s u => beside_acquire _ _ _ _ _ _) s

@[simp] theorem beside_sendRead (s : State) (d i l : Nat) : beside (s.sendRead d i l) = beside s := by
  unfold State.sendRead; split <;> rfl

@[simp] theorem beside_noteOld (s : State) (w : WEntry) (b : List Byte) : beside (s.noteOld w b) = beside s := by
  unfold State.noteOld State.noteWas; split <;> rfl

/-- A write that no arrival word counts, performed at its home, puts its bytes there (R112). -/
theorem beside_performAt (s : State) (h : Nat) (w : WEntry) (hc : uncounted w) :
    beside (s.performAt h w) = beside (s.writeBytes w.key (performedData s w)) := by
  unfold State.performAt
  extract_lets data s1 s2 s3 holders fresh s4 s5 s6 s7 s8 s9
  have e1 : beside s1 = beside s := by
    show beside (if _ then _ else _ : State) = _
    split
    · rfl
    · exact beside_noteOld _ _ _
  have e3 : beside s3 = beside (s.writeBytes w.key (performedData s w)) :=
    congrArg (fun v : State => ({ v with mem := memPut v.mem w.key (performedData s w) } : State)) e1
  have e4 : beside s4 = beside s3 := by
    show beside (if _ then _ else _ : State) = _
    split
    · rfl
    · exact beside_numberWrite _ _ _
  have e5 : beside s5 = beside s4 := foldl_beside (fun s d => s.send h d (.update w.id (lineOf w.key) (w.key % 128) data)) _ (fun s d => rfl) _
  have e6 : beside s6 = beside s5 := by
    show beside (if _ then _ else _ : State) = _
    split
    · rfl
    · exact beside_sendClock _ _
  have e7 : beside s7 = beside s6 := rfl
  have e8 : beside s8 = beside s7 := beside_waitmTouched s7 _ _
  have e9 : s9 = s8 := by
    show (match w.owner with
      | .cmd _ id true => s8.arrivalFor id data.length
      | _ => s8) = s8
    split
    · next c i e => exact absurd e (hc _ _)
    · rfl
  rw [beside_checkWrite, e9, e8, e7, e6, e5, e4, e3]

/-- The state but for what a write of the Keystone die's units changes: memory, ports, and what `beside` leaves out. -/
def ksAside (s : State) : State := { beside s with mem := [], ports := [] }

theorem ksAside_of {s t : State} (h : beside s = beside t) : ksAside s = ksAside t := by
  have := congrArg (fun v : State => ({ v with mem := [], ports := [] } : State)) h; exact this

theorem ksAside_ksSend (s : State) (k : Nat) (bs : List Byte) : ksAside (s.ksSend none k bs) = ksAside s := by
  unfold State.ksSend
  extract_lets w s1 h s2
  have hu : uncounted w := fun c i => by rintro ⟨⟩
  have hq : ksAside s1 = ksAside s := rfl
  rw [← hq]
  split
  · split
    · have := ksAside_of (beside_noteOld s1 w (s1.portBytes w.key (s1.portData w).length)); exact this
    · have := ksAside_of (beside_performAt s1 5 w hu); exact this
  · rw [ksAside_of (beside_sendClock _ _), ksAside_of (beside_send _ _ _ _), ksAside_of (beside_numberWrite _ _ _)]

theorem ksAside_ksWrite (s : State) (k : Nat) (bs : List Byte) : ksAside (s.ksWrite k bs) = ksAside s := by
  unfold State.ksWrite
  generalize cutLines (bs.length + 1) k bs = l
  induction l generalizing s with
  | nil => rfl
  | cons p r ih => rw [List.foldl_cons, ih, ksAside_ksSend]

theorem ksAside_ksStore (s : State) (c : Nat) (a : DWord) (bs : List Byte) : ksAside (s.ksStore c a bs) = ksAside s := by
  unfold State.ksStore
  generalize pagePieces (bs.length / 131072 + 2) a.toNat bs.length = l
  induction l generalizing s with
  | nil => rfl
  | cons p r ih =>
    rw [List.foldl_cons, ih]
    split
    · exact ksAside_ksWrite _ _ _
    · rfl

/-- A store of the Keystone die leaves the group slots alone. -/
theorem ksStore_groups (s : State) (c : Nat) (a : DWord) (bs : List Byte) : (s.ksStore c a bs).groups = s.groups := by
  show (ksAside (s.ksStore c a bs)).groups = (ksAside s).groups
  rw [ksAside_ksStore]

theorem mem_of_beside {s t : State} (h : beside s = beside t) : s.mem = t.mem := by
  show (beside s).mem = (beside t).mem; rw [h]
theorem loads_of_beside {s t : State} (h : beside s = beside t) : s.loads = t.loads := by
  show (beside s).loads = (beside t).loads; rw [h]

/-! ### Loads -/

theorem thread?_modTid (s : State) (c i : Nat) (f : Thread → Thread) (c' n l : Nat) :
    (s.modTid c i f).thread? c' n l = (s.thread? c' n l).map (fun x => if c' = c ∧ x.tid = i then f x else x) := by
  simp only [State.thread?, State.team?, State.modTid, wg?_modWg]
  by_cases hc : c' = c
  · subst hc
    rw [if_pos rfl]
    cases s.wg? c' with
    | none => rfl
    | some w =>
      simp only [Option.map_some, Option.bind_some]
      have h1 := kvGet_map w.teams n (fun _ (m : Team) => { m with lanes := m.lanes.map (fun (l : Nat × Thread) => if l.2.tid = i then (l.1, f l.2) else l) })
      rw [h1]
      cases kvGet w.teams n with
      | none => rfl
      | some m =>
        simp only [Option.map_some, Option.bind_some]
        have : (fun l : Nat × Thread => if l.2.tid = i then (l.1, f l.2) else l)
            = (fun l => (l.1, if l.2.tid = i then f l.2 else l.2)) := by
          funext l; split <;> rfl
        rw [this]
        have h2 := kvGet_map m.lanes l (fun _ (x : Thread) => if x.tid = i then f x else x)
        rw [h2]
        simp
  · simp only [hc, if_false, false_and]
    simp

theorem team?_modTid (s : State) (c i : Nat) (f : Thread → Thread) (c' n : Nat) :
    ((s.modTid c i f).team? c' n).map (fun t => (t.uid, t.sregs)) = (s.team? c' n).map (fun t => (t.uid, t.sregs)) := by
  simp only [State.team?, State.modTid, wg?_modWg]
  split
  · cases s.wg? c' with
    | none => rfl
    | some w =>
      simp only [Option.map_some, Option.bind_some]
      have h1 := kvGet_map w.teams n (fun _ (m : Team) => { m with lanes := m.lanes.map (fun (l : Nat × Thread) => if l.2.tid = i then (l.1, f l.2) else l) })
      rw [h1]
      cases kvGet w.teams n <;> rfl
  · rfl

theorem team?_modUid (s : State) (u : Nat) (f : Team → Team) (c n : Nat) :
    (s.modUid u f).team? c n = (s.team? c n).map (fun t => if t.uid = u then f t else t) := by
  simp only [State.team?, State.wg?, State.modUid]
  have h0 := kvGet_map s.wgs c (fun _ (w : Workgroup) => { w with teams := w.teams.map (fun (t : Nat × Team) => if t.2.uid = u then (t.1, f t.2) else t) })
  rw [h0]
  cases kvGet s.wgs c with
  | none => rfl
  | some w =>
    simp only [Option.map_some, Option.bind_some]
    have : (fun t : Nat × Team => if t.2.uid = u then (t.1, f t.2) else t) = (fun t => (t.1, if t.2.uid = u then f t.2 else t.2)) := by
      funext t; split <;> rfl
    rw [this]
    exact kvGet_map w.teams n (fun _ (m : Team) => if m.uid = u then f m else m)

theorem thread?_modUid (s : State) (u : Nat) (f : Team → Team) (hl : ∀ m, (f m).lanes = m.lanes) (c n l : Nat) :
    (s.modUid u f).thread? c n l = s.thread? c n l := by
  simp only [State.thread?, team?_modUid]
  cases s.team? c n with
  | none => rfl
  | some m => simp only [Option.map_some, Option.bind_some]; split <;> simp [hl]

/-- A load whose value goes to its thread. -/
theorem loadDone_lane (s : State) (l : LoadReq) (x : Nat) (F : Thread → Thread)
    (h : (∃ d sg, l.dst = .lane d sg ∧ F = fun t => t.putLoad d l.n x sg) ∨ (∃ d op y, l.dst = .atom d op y ∧ F = fun t => t.setV d (BitVec.ofNat 32 x))
      ∨ (∃ d e y, l.dst = .cas d e y ∧ F = fun t => t.putLoad d l.n x false)) :
    Satisfied s (s.loadDone l x) l s.mem F id := by
  have e : s.loadDone l x = (let t : State := { s with loads := s.loads.filter (fun o => o.id ≠ l.id) }.modTid l.core l.agent F
      if t.loads.any (fun o => o.tok = l.tok) then t else t.modUid l.uid (fun m => m.tokDone l.tok)) := by
    unfold State.loadDone
    rcases h with ⟨d, sg, h, rfl⟩ | ⟨d, op, y, h, rfl⟩ | ⟨d, e, y, h, rfl⟩ <;> rw [h]
  rw [e]
  have hth : ∀ c n k, ({ s with loads := s.loads.filter (fun o => o.id ≠ l.id) }.modTid l.core l.agent F : State).thread? c n k
      = (s.thread? c n k).map (fun x => if c = l.core ∧ x.tid = l.agent then F x else x) := fun c n k => thread?_modTid _ _ _ _ _ _ _
  have htm : ∀ c n, (({ s with loads := s.loads.filter (fun o => o.id ≠ l.id) }.modTid l.core l.agent F : State).team? c n).map (fun t => (t.uid, t.sregs))
      = (s.team? c n).map (fun t => (t.uid, t.sregs)) := fun c n => team?_modTid _ _ _ _ _ _
  dsimp only
  split
  · refine ⟨rfl, rfl, fun c n k => ?_, fun c n => ?_⟩
    · rw [hth]; cases s.thread? c n k <;> rfl
    · rw [htm]; cases s.team? c n <;> simp
  · refine ⟨rfl, rfl, fun c n k => ?_, fun c n => ?_⟩
    · rw [thread?_modUid _ _ (fun m => m.tokDone l.tok) (fun _ => rfl), hth]; cases s.thread? c n k <;> rfl
    · rw [team?_modUid, Option.map_map]
      have : ((fun t : Team => (t.uid, t.sregs)) ∘ fun t => if t.uid = l.uid then t.tokDone l.tok else t) = fun t => (t.uid, t.sregs) := by
        funext t; simp only [Function.comp]; split <;> rfl
      rw [this, htm]; cases s.team? c n <;> simp

/-- A load whose value goes to its team's uniform registers. -/
theorem loadDone_unif (s : State) (l : LoadReq) (x : Nat) (M : Team → Team)
    (h : (∃ d, l.dst = .unif d ∧ M = fun t => if l.n = 8 then t.setSr2 d (BitVec.ofNat 64 x) else t.setSr d (BitVec.ofNat 32 x))
      ∨ (∃ d v, l.dst = .awqry d ∧ v = awqryWord x ∧ M = fun t => t.setSr d v)) :
    Satisfied s (s.loadDone l x) l s.mem id M := by
  have hM : ∀ m, (M m).lanes = m.lanes ∧ (M m).uid = m.uid := by
    intro m
    rcases h with ⟨d, h, rfl⟩ | ⟨d, v, h, -, rfl⟩
    · dsimp only; split <;> exact ⟨rfl, rfl⟩
    · exact ⟨rfl, rfl⟩
  have e : s.loadDone l x = (let t : State := { s with loads := s.loads.filter (fun o => o.id ≠ l.id) }.modUid l.uid M
      if t.loads.any (fun o => o.tok = l.tok) then t else t.modUid l.uid (fun m => m.tokDone l.tok)) := by
    unfold State.loadDone
    rcases h with ⟨d, h, rfl⟩ | ⟨d, v, h, hv, rfl⟩
    · rw [h]
    · rw [h, hv]
  rw [e]
  have hth : ∀ c n k, ({ s with loads := s.loads.filter (fun o => o.id ≠ l.id) }.modUid l.uid M : State).thread? c n k
      = s.thread? c n k := fun c n k => thread?_modUid _ _ _ (fun m => (hM m).1) _ _ _
  have htm : ∀ c n, ({ s with loads := s.loads.filter (fun o => o.id ≠ l.id) }.modUid l.uid M : State).team? c n
      = (s.team? c n).map (fun t => if t.uid = l.uid then M t else t) := fun c n => team?_modUid _ _ _ _ _
  dsimp only
  split
  · refine ⟨rfl, rfl, fun c n k => ?_, fun c n => ?_⟩
    · rw [hth]; cases s.thread? c n k <;> simp
    · rw [htm]; cases s.team? c n with
      | none => rfl
      | some m => simp only [Option.map_some]; split <;> simp [(hM m).2]
  · refine ⟨rfl, rfl, fun c n k => ?_, fun c n => ?_⟩
    · rw [thread?_modUid _ _ (fun m => m.tokDone l.tok) (fun _ => rfl), hth]; cases s.thread? c n k <;> simp
    · rw [team?_modUid, htm]; cases s.team? c n with
      | none => rfl
      | some m =>
        simp only [Option.map_some]
        by_cases hu : m.uid = l.uid
        · have hq : (M m).uid = l.uid := (hM m).2.trans hu
          simp only [hu, if_true, hq]
          exact congrArg some (Prod.ext (show ((M m).tokDone l.tok).uid = l.uid from hq) rfl)
        · simp [hu]

/-- An access that stands behind no QTRY has none to go ahead of (R375). -/
theorem pastTries_of_ordered (s : State) (agent id : Nat) (h : s.ordered agent id = true) : s.pastTries agent id = s := by
  have hq : s.qops.map (fun (x : QOp) => if x.op = 2 && x.id < id && x.agents.contains agent then { x with op := 3 } else x) = s.qops := by
    refine (List.map_congr_left fun x hx => ?_).trans (List.map_id _)
    unfold State.ordered at h
    rw [Bool.and_eq_true, Bool.not_eq_true', List.any_eq_false] at h
    have := h.2 x hx
    rw [if_neg (fun e => this ?_)]; · rfl
    simp only [Bool.and_eq_true, Bool.or_eq_true, decide_eq_true_eq] at e ⊢
    exact ⟨⟨e.1.2, e.2⟩, .inl e.1.1⟩
  unfold State.pastTries
  split
  · rfl
  · rw [hq]

/-- A load that nothing blocks stands behind no fence (R123). -/
theorem ordered_of_unblocked (s : State) (l : LoadReq) (h : s.loadBlocked l = false) : s.ordered l.agent l.id = true := by
  unfold State.loadBlocked at h
  simp only [Bool.or_eq_false_iff, Bool.not_eq_false'] at h
  exact h.1.1.2

/-- Bringing a core's entries up to date keeps its threads and uniform registers. -/
theorem regroupCore_thread (s : State) (core c n k : Nat) : (s.regroupCore core).thread? c n k = s.thread? c n k
    ∧ ((s.regroupCore core).team? c n).map (fun t => (t.uid, t.sregs)) = (s.team? c n).map (fun t => (t.uid, t.sregs)) := by
  have h : (s.regroupCore core).team? c n = (s.team? c n).map (fun t => if c = core then t.regroup none else t) := by
    unfold State.regroupCore State.team?
    rw [wg?_modWg]
    by_cases hc : c = core
    · rw [if_pos hc]
      cases s.wg? c with
      | none => rfl
      | some w =>
        simp only [Option.map_some, Option.bind_some, hc, if_true]
        exact kvGet_map w.teams n (fun _ (m : Team) => m.regroup none)
    · rw [if_neg hc]; simp [hc]
  constructor
  · unfold State.thread?
    rw [h]
    cases s.team? c n with
    | none => rfl
    | some m => simp only [Option.map_some, Option.bind_some]; split <;> rfl
  · rw [h]
    cases s.team? c n with
    | none => rfl
    | some m => simp only [Option.map_some]; split <;> rfl

/-- The refill of a return stack (R379). -/
theorem loadDone_refill (s : State) (l : LoadReq) (x : Nat) (hd : l.dst = .refill) :
    Satisfied s (s.loadDone l x) l s.mem (fun t => { t with
        rstack := t.rstack.tail ++ [BitVec.ofNat 64 x], depth := t.depth - 1
        pc := BitVec.ofNat 57 (t.rstack.headD 0).toNat, wait := .ready }) id := by
  let F : Thread → Thread := fun t => t.pop [BitVec.ofNat 64 x]
  have e : s.loadDone l x = (let t : State := (({ s with loads := s.loads.filter (fun o => o.id ≠ l.id) }.modTid l.core l.agent F : State)).regroupCore l.core
      if t.loads.any (fun o => o.tok = l.tok) then t else t.modUid l.uid (fun m => m.tokDone l.tok)) := by
    unfold State.loadDone
    rw [hd]
  rw [e]
  have hth : ∀ c n k, ({ s with loads := s.loads.filter (fun o => o.id ≠ l.id) }.modTid l.core l.agent F : State).thread? c n k
      = (s.thread? c n k).map (fun x => if c = l.core ∧ x.tid = l.agent then F x else x) := fun c n k => thread?_modTid _ _ _ _ _ _ _
  have htm : ∀ c n, (({ s with loads := s.loads.filter (fun o => o.id ≠ l.id) }.modTid l.core l.agent F : State).team? c n).map (fun t => (t.uid, t.sregs))
      = (s.team? c n).map (fun t => (t.uid, t.sregs)) := fun c n => team?_modTid _ _ _ _ _ _
  dsimp only
  split
  · refine ⟨rfl, rfl, fun c n k => ?_, fun c n => ?_⟩
    · rw [(regroupCore_thread _ _ c n k).1, hth]; cases s.thread? c n k <;> rfl
    · rw [(regroupCore_thread _ _ c n 0).2, htm]; cases s.team? c n <;> simp
  · refine ⟨rfl, rfl, fun c n k => ?_, fun c n => ?_⟩
    · rw [thread?_modUid _ _ (fun m => m.tokDone l.tok) (fun _ => rfl), (regroupCore_thread _ _ c n k).1, hth]; cases s.thread? c n k <;> rfl
    · rw [team?_modUid, Option.map_map]
      have : ((fun t : Team => (t.uid, t.sregs)) ∘ fun t => if t.uid = l.uid then t.tokDone l.tok else t) = fun t => (t.uid, t.sregs) := by
        funext t; simp only [Function.comp]; split <;> rfl
      rw [this, (regroupCore_thread _ _ c n 0).2, htm]; cases s.team? c n <;> simp

/-- A plain write of device memory leaves its own bytes where no merge of a nibble is noted (R99, R101). -/
theorem settled_plain (s : State) (w : WEntry) (data : List Byte) (hw : w.merges = false) (hd : isDevice w.key = true)
    (hl : data.length ≤ 128) (hx : ∀ x ∈ s.was, x.nibble = false) : s.settled w data = data := by
  unfold State.settled
  split
  · dsimp only
    have : ∀ p ∈ data.zipIdx, (if s.entryMet w (w.key + p.2) = true then Config.freeByte (s.freeCtr + p.2)
      else if s.nibbleMet w (w.key + p.2) = true then BitVec.ofNat 8 (p.1.toNat % 16 + (Config.freeByte (s.freeCtr + p.2)).toNat / 16 * 16)
      else p.1) = p.1 := by
      intro p hp
      have hi : p.2 < data.length := by
        have := List.snd_lt_of_mem_zipIdx hp; omega
      have h1 : s.entryMet w (w.key + p.2) = false := by
        unfold State.entryMet
        have : isScratch (w.key + p.2) = false := by
          have hd' : w.key / 1152921504606846976 = 0 := by simpa [isDevice, spaceOf] using hd
          show decide ((w.key + p.2) / 1152921504606846976 = 5) = false
          simp; omega
        rw [this]; rfl
      have h2 : s.nibbleMet w (w.key + p.2) = false := by
        unfold State.nibbleMet
        rw [hw, if_neg (by decide), Bool.eq_false_iff]
        intro h
        obtain ⟨x, hm, h⟩ := List.any_eq_true.1 h
        rw [hx x hm] at h; simp at h
      rw [h1, h2]; rfl
    rw [List.map_congr_left this]
    exact List.zipIdx_map_fst 0 data
  · rfl

/-- A write of the Keystone die at a home puts its bytes there. -/
theorem homeWrite_mem (s : State) (k : Nat) (bs : List Byte) (hd : isDevice k = true) (hl : bs.length ≤ 128)
    (hx : ∀ x ∈ s.was, x.nibble = false) : (s.homeWrite k bs).mem = memPut s.mem k bs
    ∧ (s.homeWrite k bs).groups = s.groups := by
  have h : beside (s.homeWrite k bs) = beside { s with mem := memPut s.mem k bs } := by
    unfold State.homeWrite
    dsimp only
    rw [beside_performAt]
    · have : performedData (s.bump.track ⟨s.nextSeq, 0, s.nextSeq, .keystone, k, bs, none, none, 0, false⟩) ⟨s.nextSeq, 0, s.nextSeq, .keystone, k, bs, none, none, 0, false⟩ = bs :=
        settled_plain _ _ bs rfl hd hl hx
      rw [this]
      rfl
    · intro c i h; exact absurd h (by simp)
  have h1 := congrArg State.mem h
  have h2 := congrArg State.groups h
  exact ⟨h1, h2⟩

end Sys2Proof.Machine
end

