-- ==== Sys2Proof/Laws/Traps.lean ====
section
/-! SUPPORT. What the units whose accesses trap or miss do; and folds over the lanes of a unit. -/

namespace Sys2Proof.Machine

theorem executing_subset (s : State) (i : Instr) : ∀ l ∈ executing s i, l ∈ s.subset := by
  intro l hl; unfold executing at hl; split at hl
  · exact mem_guarded s _ l hl
  · exact hl
theorem executing_nodup (s : State) (i : Instr) : (executing s i).Nodup := by
  unfold executing; split
  · exact guarded_nodup s _
  · exact subset_nodup s

/-- Places and translations of a state that a unit's effect has left. -/
theorem place_effect {s b r : State} {F M} (h : UnitEffect s b r F M) (hl : r.launches = s.launches) (hp : r.part = s.part)
    (hc : r.contexts = s.contexts)
    (c : Nat) (a : DWord) (n : Nat) : b.place c a n = s.place c a n := by
  have e : ∀ l, b.launch? l = s.launch? l := by intro l; simp only [State.launch?]; rw [← hl, ← h.rest]
  have hb : b.launches = s.launches := by rw [← hl, ← h.rest]
  have h2 : ∀ p, (b.wg? p).map (·.launch) = (s.wg? p).map (·.launch) := by
    exact fun p => wg?_effect_map h (fun w => w.launch) (fun _ => rfl) p
  have hw := wgLaunch?_of_groups hb h.groups
  have hpart : b.part = s.part := by rw [← hp, ← h.rest]
  have hctx : b.contexts = s.contexts := by rw [← hc, ← h.rest]
  have hd : ∀ x d o k, b.dieSharedOk x d o k = s.dieSharedOk x d o k := by
    intro x d o k; simp only [State.dieSharedOk, State.context?, hctx]
  have hh : ∀ c, b.hdr c = s.hdr c := hdr_effect h hl
  have hsb : ∀ c, b.scratchBytes c = s.scratchBytes c := fun c => by simp only [State.scratchBytes, hh]
  simp only [State.place, State.window, State.ctxOf, hw, hd, hpart, hh, hsb]
  split
  · rfl
  · split
    · split
      · rfl
      · split
        · rfl
        · split
          · rfl
          · next p _ =>
            have h3 := h2 p
            have h1 := h2 c
            revert h1 h3
            generalize b.wg? c = x
            generalize s.wg? c = y
            generalize b.wg? p = u
            generalize s.wg? p = v
            intro h1 h3
            cases x <;> cases y <;> cases u <;> cases v <;> simp_all
      · rfl
      · rfl
    · rfl

theorem translate_effect {s b r : State} {F M} (h : UnitEffect s b r F M) (h1 : r.l1tlb = s.l1tlb) (h2 : r.cltlb = s.cltlb) (h3 : r.lltlb = s.lltlb)
    (h4 : r.cxlCoherent = s.cxlCoherent) (c x v : Nat) (w e : Bool) : b.translate c x v w e = s.translate c x v w e := by
  have e1 : b.l1tlb = s.l1tlb := by rw [← h1, ← h.rest]
  have e2 : b.cltlb = s.cltlb := by rw [← h2, ← h.rest]
  have e3 : b.lltlb = s.lltlb := by rw [← h3, ← h.rest]
  have e4 : b.cxlCoherent = s.cxlCoherent := by rw [← h4, ← h.rest]
  simp only [State.translate, State.tlbFind, e1, e2, e3, e4]

/-- A fold over distinct lanes each step of which changes its own lane's thread, and the rest of the state by turns. -/
theorem fold_vary {s : State} {M : Team → Team} (step : State → Nat → State) (r : List Nat → State) (f : Nat → Thread → Thread)
    (gl : List Nat) (hn : gl.Nodup)
    (hs : ∀ b l D R, gl = D ++ l :: R → l ∉ D → UnitEffect s b (r D) (lanesWith D f) M →
      UnitEffect s (step b l) (r (D ++ [l])) (lanesWith (D ++ [l]) f) M)
    (b : State) (h : UnitEffect s b (r []) (lanesWith [] f) M) : UnitEffect s (gl.foldl step b) (r gl) (lanesWith gl f) M := by
  have key : ∀ (R D : List Nat) (b : State), gl = D ++ R → UnitEffect s b (r D) (lanesWith D f) M →
      UnitEffect s (R.foldl step b) (r gl) (lanesWith gl f) M := by
    intro R
    induction R with
    | nil => intro D b e h; rw [List.append_nil] at e; subst e; exact h
    | cons l R ih =>
      intro D b e h
      have hl : l ∉ D := by
        intro hd
        rw [e] at hn
        exact (List.nodup_append.1 hn).2.2 l hd l (by simp) rfl
      exact ih (D ++ [l]) _ (by rw [e]; simp) (hs b l D R e hl h)
  exact key gl [] b rfl h

theorem lanes_snoc (D : List Nat) (l : Nat) (f : Nat → Thread → Thread) (hl : l ∉ D) :
    (fun i x => if i = l then f l (lanesWith D f i x) else lanesWith D f i x) = lanesWith (D ++ [l]) f := by
  funext i x
  simp only [lanesWith, List.mem_append, List.mem_singleton]
  by_cases h1 : i = l
  · subst h1; simp [hl]
  · simp [h1]

/-- One lane's thread changes. -/
theorem one_thread {s b r : State} {M : Team → Team} {f : Nat → Thread → Thread} {D : List Nat} (l : Nat) (hl : l ∉ D) (hs : l ∈ s.subset)
    (h : UnitEffect s b r (lanesWith D f) M) : UnitEffect s (b.modThread s.cur.core s.cur.team l (f l)) r (lanesWith (D ++ [l]) f) M := by
  have := Effect.thread h l hs (f l)
  rw [lanes_snoc D l f hl] at this; exact this

theorem thread_of_effect_lanes {s b r : State} {M : Team → Team} {f : Nat → Thread → Thread} {D : List Nat} (l : Nat) (hl : l ∉ D) (hs : l ∈ s.subset)
    (h : UnitEffect s b r (lanesWith D f) M) : b.thread? s.cur.core s.cur.team l = (s.thread? s.cur.core s.cur.team l).map (movedOn s) := by
  rw [h.threads l hs]; congr 1; funext x; simp only [lanesWith, hl, if_false]

/-- One lane traps. -/
theorem one_trap {s b r : State} {M : Team → Team} {D : List Nat} (l : Nat) (v : Nat → Word) (code : Nat → Nat) (w : Bool) (hl : l ∉ D) (hs : l ∈ s.subset)
    (hc : r.cur = s.cur) (hla : r.launches = s.launches) (ho : (s.hdr s.cur.core).handler ≠ 0)
    (hx : ∃ x, s.thread? s.cur.core s.cur.team l = some x ∧ x.inHandler = false)
    (h : UnitEffect s b r (lanesWith D (fun l => entered s (v l) (tcause (code l) s.cur.pfx.isPrefix false w false) s.cur.pc)) M) :
    UnitEffect s (b.trapEach [(l, v l)] (code l) false w) r
      (lanesWith (D ++ [l]) (fun l => entered s (v l) (tcause (code l) s.cur.pfx.isPrefix false w false) s.cur.pc)) M := by
  obtain ⟨x, hx, hi⟩ := hx
  have hb := thread_of_effect_lanes l hl hs h
  rw [hx] at hb
  have hcur := Effect.cur_eq h hc
  have hh := hdr_effect h hla
  have e : b.trapEach [(l, v l)] (code l) false w = b.modThread s.cur.core s.cur.team l
      (entered s (v l) (tcause (code l) s.cur.pfx.isPrefix false w false) s.cur.pc) := by
    simp only [State.trapEach, List.foldl_cons, List.foldl_nil, hcur, State.takeTrap, hb, Option.map_some, hh]
    rw [if_neg (by simp [movedOn, hi]; simpa using ho)]
    rfl
  rw [e]
  exact one_thread (f := fun l => entered s (v l) (tcause (code l) s.cur.pfx.isPrefix false w false) s.cur.pc) l hl hs h

theorem access_traps (b : State) (l : Nat) (addr : DWord) (n : Nat) (write red : Bool) (go) (c : Nat) (hr : red = true → write = true)
    (ht : (b.thread? b.cur.core b.cur.team l).isSome = true) (hk : accessTrap b addr n write = some c) :
    b.laneAccess l addr n write red go = b.trapEach [(l, loWord addr)] c false write := by
  obtain ⟨t, ht⟩ := Option.isSome_iff_exists.1 ht
  simp only [accessTrap] at hk
  simp only [State.laneAccess, ht]
  split at hk
  · next ha => cases hk; rw [if_pos ha]
  · next ha =>
    rw [if_neg ha]
    cases hp : b.place b.cur.core addr n with
    | invalid => simp only [hp] at hk; cases hk; rfl
    | window k => simp only [hp] at hk; cases hk
    | virt va =>
      simp only [hp] at hk
      split at hk
      · next hq =>
        cases hk
        have h2 : b.translate b.cur.core (b.missOf addr write false).ctx va write false = .sealed := hq
        cases red with
        | false => simp only [Bool.false_eq_true, if_false, h2]
        | true =>
          have hw := hr rfl; subst hw
          have h3 : b.translateNow b.cur.core (b.missOf addr true false).ctx va true false = .sealed := by
            simp only [State.translate] at h2
            simp only [State.translateNow]
            cases hf : b.tlbFind b.cur.core (b.missOf addr true false).ctx va with
            | none => simp [hf] at h2
            | some t => simpa [hf] using h2
          simp only [if_true, h3]
      · cases hk

theorem window_virt (b : State) (c v n x : Nat) : b.window c v n ≠ .virt x := by
  intro h
  unfold State.window at h
  dsimp only at h
  repeat' (split at h)
  all_goals cases h

theorem access_misses (b : State) (l : Nat) (addr : DWord) (n : Nat) (write : Bool) (go) 
    (ht : (b.thread? b.cur.core b.cur.team l).isSome = true) (hk : accessMisses b addr n write) :
    b.laneAccess l addr n write false go = (b.needWalk b.cur.core (b.ctxOf b.cur.core) addr.toNat).hold [l] (.walk (missOfUnit b addr write false)) := by
  obtain ⟨t, ht⟩ := Option.isSome_iff_exists.1 ht
  obtain ⟨ha, va, hp, hq⟩ := hk
  have hva : va = addr.toNat := by
    simp only [State.place] at hp
    split at hp
    · cases hp
    · split at hp
      · exact absurd hp (window_virt b _ _ _ _)
      · cases hp; rfl
  subst hva
  simp only [State.laneAccess, ht]
  rw [if_neg (by omega)]
  simp only [hp]
  have h2 : b.translate b.cur.core (b.missOf addr write false).ctx addr.toNat write false = .miss := hq
  simp only [Bool.false_eq_true, if_false, h2]; rfl

theorem one_held {s b r : State} {M : Team → Team} {f : Nat → Thread → Thread} {D : List Nat} (l : Nat) (w : Wait) (hl : l ∉ D) (hs : l ∈ s.subset)
    (hc : r.cur = s.cur) (hf : ∀ x, f l x = heldAt s w x)
    (h : UnitEffect s b r (lanesWith D f) M) : UnitEffect s (b.hold [l] w) r (lanesWith (D ++ [l]) f) M := by
  have e : b.hold [l] w = b.onLanes [l] f := by
    unfold State.hold
    rw [Effect.cur_eq h hc]
    exact onLanes_one b l _ f (fun t => (hf t).symm)
  rw [e]
  have k := Effect.lanes h hc [l] (by simpa using hs) f
  have e2 : (fun i x => if i ∈ [l] then f i (lanesWith D f i x) else lanesWith D f i x) = lanesWith (D ++ [l]) f := by
    funext i x
    simp only [lanesWith, List.mem_append, List.mem_singleton]
    by_cases h1 : i = l
    · subst h1; simp [hl]
    · simp [h1]
  rw [e2] at k; exact k

/-- The fields that places and translations read. -/
structure SameMap (s r : State) : Prop where
  cur : r.cur = s.cur
  launches : r.launches = s.launches
  part : r.part = s.part
  contexts : r.contexts = s.contexts
  l1tlb : r.l1tlb = s.l1tlb
  cltlb : r.cltlb = s.cltlb
  lltlb : r.lltlb = s.lltlb
  cxlCoherent : r.cxlCoherent = s.cxlCoherent

theorem ctxOf_effect {s b r : State} {F M} (h : UnitEffect s b r F M) (k : SameMap s r) (c : Nat) : b.ctxOf c = s.ctxOf c := by
  simp only [State.ctxOf, wgLaunch?_of_groups (by rw [← k.launches, ← h.rest]) h.groups]

theorem accessTrap_effect {s b r : State} {F M} (h : UnitEffect s b r F M) (k : SameMap s r) (a : DWord) (n : Nat) (w : Bool) :
    accessTrap b a n w = accessTrap s a n w := by
  simp only [accessTrap, Effect.cur_eq h k.cur, place_effect h k.launches k.part k.contexts, ctxOf_effect h k, translate_effect h k.l1tlb k.cltlb k.lltlb k.cxlCoherent]

theorem accessMisses_effect {s b r : State} {F M} (h : UnitEffect s b r F M) (k : SameMap s r) (a : DWord) (n : Nat) (w : Bool) :
    accessMisses b a n w ↔ accessMisses s a n w := by
  simp only [accessMisses, Effect.cur_eq h k.cur, place_effect h k.launches k.part k.contexts, ctxOf_effect h k, translate_effect h k.l1tlb k.cltlb k.lltlb k.cxlCoherent]

theorem reaches_effect {s b r : State} {F M} (h : UnitEffect s b r F M) (k : SameMap s r) (a : DWord) (n : Nat) (w : Bool) :
    reaches b a n w = reaches s a n w := by
  simp only [reaches, Effect.cur_eq h k.cur, place_effect h k.launches k.part k.contexts, ctxOf_effect h k, translate_effect h k.l1tlb k.cltlb k.lltlb k.cxlCoherent]

theorem isSome_thread_of_effect {s b r : State} {M : Team → Team} {f : Nat → Thread → Thread} {D : List Nat} (l : Nat) (hl : l ∉ D) (hs : l ∈ s.subset)
    (hc : r.cur = s.cur) (h : UnitEffect s b r (lanesWith D f) M) (ht : (s.thread? s.cur.core s.cur.team l).isSome = true) :
    (b.thread? b.cur.core b.cur.team l).isSome = true := by
  rw [Effect.cur_eq h hc, thread_of_effect_lanes l hl hs h, Option.isSome_map]; exact ht

theorem traps_fold (s : State) (gl : List Nat) (addr : Nat → DWord) (n : Nat) (write red : Bool) (go : Nat → State → Thread → Except Nat Nat → State)
    (code : Nat → Nat) (hr : red = true → write = true) (hn : gl.Nodup) (hs : ∀ l ∈ gl, l ∈ s.subset) (ho : outsideHandler s gl)
    (hk : ∀ l ∈ gl, accessTrap s (addr l) n write = some (code l)) :
    UnitEffect s (gl.foldl (fun b l => b.laneAccess l (addr l) n write red (go l)) s.advance.bump) { s with nextSeq := s.nextSeq + 1 }
      (lanesWith gl (fun l => entered s (loWord (addr l)) (tcause (code l) s.cur.pfx.isPrefix false write false) s.cur.pc)) id := by
  have k : SameMap s { s with nextSeq := s.nextSeq + 1 } := ⟨rfl, rfl, rfl, rfl, rfl, rfl, rfl, rfl⟩
  refine fold_vary _ (fun _ => { s with nextSeq := s.nextSeq + 1 }) _ gl hn (fun b l D R e hl h => ?_) _ ?_
  · have hg : l ∈ gl := by rw [e]; simp
    obtain ⟨x, hx, hi⟩ := ho.2 l hg
    rw [access_traps b l (addr l) n write red (go l) (code l) hr
      (isSome_thread_of_effect l hl (hs l hg) k.cur h (by rw [hx]; rfl)) (by rw [accessTrap_effect h k]; exact hk l hg)]
    exact one_trap l (fun l => loWord (addr l)) code write hl (hs l hg) rfl rfl ho.1 ⟨x, hx, hi⟩ h
  · rw [lanesWith_nil]; exact Effect.outside (Effect.advance s) _ rfl

theorem loads_trap (s : State) (gl : List Nat) (addr : Nat → DWord) (n sc : Nat) (write : Bool) (dst : Nat → LoadDst) (code : Nat → Nat)
    (hn : gl.Nodup) (hs : ∀ l ∈ gl, l ∈ s.subset) (ho : outsideHandler s gl) (hk : ∀ l ∈ gl, accessTrap s (addr l) n write = some (code l)) :
    UnitEffect s (s.advance.laneLoads gl addr n sc write dst) { s with nextSeq := s.nextSeq + 1 }
      (lanesWith gl (fun l => entered s (loWord (addr l)) (tcause (code l) s.cur.pfx.isPrefix false write false) s.cur.pc)) id := by
  have h := traps_fold s gl addr n write false (fun l u t k => match k with
    | .ok key => u.addLoad t.tid key n sc s.advance.nextSeq (dst l) (addr l)
    | .error _ => u) code (by simp) hn hs ho hk
  unfold State.laneLoads State.ldIssued
  dsimp only
  rw [if_neg]
  · exact h
  · rw [show (gl.foldl _ s.advance.bump : State).loads = s.loads from by
      have := congrArg State.loads h.rest; exact this]
    exact Nat.lt_irrefl _

theorem stores_trap (s : State) (gl : List Nat) (addr : Nat → DWord) (data : Nat → List Byte) (n : Nat) (red : Option (Nat × Nat)) (code : Nat → Nat)
    (hn : gl.Nodup) (hs : ∀ l ∈ gl, l ∈ s.subset) (ho : outsideHandler s gl) (hk : ∀ l ∈ gl, accessTrap s (addr l) n true = some (code l)) :
    UnitEffect s (s.advance.laneStores gl addr data n red) { s with nextSeq := s.nextSeq + 1 }
      (lanesWith gl (fun l => entered s (loWord (addr l)) (tcause (code l) s.cur.pfx.isPrefix false true false) s.cur.pc)) id := by
  have h := traps_fold s gl addr n true red.isSome (fun l u t k => match k with
    | .ok key => u.addStore t.tid key (data l) red s.advance.nextSeq (addr l)
    | .error kind => u.addHeldRed t.tid (data l) red s.advance.nextSeq (addr l) kind) code (by simp) hn hs ho hk
  unfold State.laneStores State.stIssued
  dsimp only
  rw [if_neg]
  · exact h
  · rw [show (gl.foldl _ s.advance.bump : State).writes = s.writes from by
      have := congrArg State.writes h.rest; exact this]
    exact Nat.lt_irrefl _

/-- The walks that the misses of a list of lanes ask for. -/
def walksFor (s : State) (addr : Nat → DWord) (D : List Nat) : State :=
  D.foldl (fun t l => t.needWalk s.cur.core (s.ctxOf s.cur.core) (addr l).toNat) { s with nextSeq := s.nextSeq + 1 }

theorem needWalk_eq (s : State) (c x v : Nat) : ∃ w, s.needWalk c x v = { s with walks := w } := by
  unfold State.needWalk; dsimp only; split
  · exact ⟨s.walks, rfl⟩
  · exact ⟨_, rfl⟩

theorem walksFor_eq (s : State) (addr : Nat → DWord) (D : List Nat) : ∃ w, walksFor s addr D = { s with nextSeq := s.nextSeq + 1, walks := w } := by
  have key : ∀ (D : List Nat) (t : State), (∃ w, t = { s with nextSeq := s.nextSeq + 1, walks := w }) →
      ∃ w, D.foldl (fun t l => t.needWalk s.cur.core (s.ctxOf s.cur.core) (addr l).toNat) t = { s with nextSeq := s.nextSeq + 1, walks := w } := by
    intro D
    induction D with
    | nil => intro t h; exact h
    | cons l D ih =>
      rintro t ⟨w, rfl⟩
      refine ih _ ?_
      obtain ⟨w', h⟩ := needWalk_eq { s with nextSeq := s.nextSeq + 1, walks := w } s.cur.core (s.ctxOf s.cur.core) (addr l).toNat
      exact ⟨w', h⟩
  exact key D _ ⟨s.walks, rfl⟩

theorem misses_fold (s : State) (gl : List Nat) (addr : Nat → DWord) (n : Nat) (write : Bool) (go : Nat → State → Thread → Except Nat Nat → State)
    (hn : gl.Nodup) (hs : ∀ l ∈ gl, l ∈ s.subset)
    (hk : ∀ l ∈ gl, (s.thread? s.cur.core s.cur.team l).isSome = true ∧ accessMisses s (addr l) n write) :
    UnitEffect s (gl.foldl (fun b l => b.laneAccess l (addr l) n write false (go l)) s.advance.bump) (walksFor s addr gl)
      (lanesWith gl (fun l => heldAt s (.walk (missOfUnit s (addr l) write false)))) id := by
  refine fold_vary _ (walksFor s addr) _ gl hn (fun b l D R e hl h => ?_) _ ?_
  · have hg : l ∈ gl := by rw [e]; simp
    obtain ⟨w, hw⟩ := walksFor_eq s addr D
    have k : SameMap s (walksFor s addr D) := by rw [hw]; exact ⟨rfl, rfl, rfl, rfl, rfl, rfl, rfl, rfl⟩
    have hcur := Effect.cur_eq h k.cur
    rw [access_misses b l (addr l) n write (go l) (isSome_thread_of_effect l hl (hs l hg) k.cur h (hk l hg).1) ((accessMisses_effect h k _ _ _).2 (hk l hg).2)]
    have hm : missOfUnit b (addr l) write false = missOfUnit s (addr l) write false := by
      simp only [missOfUnit, hcur, ctxOf_effect h k]
    rw [hm, hcur, ctxOf_effect h k]
    refine one_held l _ hl (hs l hg) ?_ (fun _ => rfl) ?_
    · obtain ⟨w, hw⟩ := walksFor_eq s addr (D ++ [l]); rw [hw]
    · have he : walksFor s addr (D ++ [l]) = (walksFor s addr D).needWalk s.cur.core (s.ctxOf s.cur.core) (addr l).toNat := by
        simp only [walksFor, List.foldl_append, List.foldl_cons, List.foldl_nil]
      rw [he]
      have hwk : b.walks = (walksFor s addr D).walks := by rw [← h.rest]
      have hb : b.needWalk s.cur.core (s.ctxOf s.cur.core) (addr l).toNat
          = { b with walks := ((walksFor s addr D).needWalk s.cur.core (s.ctxOf s.cur.core) (addr l).toNat).walks } := by
        simp only [State.needWalk, hwk]
        split
        · rw [← hwk]
        · rfl
      have hr : (walksFor s addr D).needWalk s.cur.core (s.ctxOf s.cur.core) (addr l).toNat
          = { walksFor s addr D with walks := ((walksFor s addr D).needWalk s.cur.core (s.ctxOf s.cur.core) (addr l).toNat).walks } := by
        simp only [State.needWalk]; split <;> rfl
      rw [hb, hr]
      exact Effect.map h (fun x => { x with walks := ((walksFor s addr D).needWalk s.cur.core (s.ctxOf s.cur.core) (addr l).toNat).walks })
        (fun _ => rfl) (fun _ _ => rfl)
  · rw [lanesWith_nil]; exact Effect.outside (Effect.advance s) _ rfl

theorem loads_miss (s : State) (gl : List Nat) (addr : Nat → DWord) (n sc : Nat) (write : Bool) (dst : Nat → LoadDst)
    (hn : gl.Nodup) (hs : ∀ l ∈ gl, l ∈ s.subset) (hk : ∀ l ∈ gl, (s.thread? s.cur.core s.cur.team l).isSome = true ∧ accessMisses s (addr l) n write) :
    UnitEffect s (s.advance.laneLoads gl addr n sc write dst) (walksFor s addr gl)
      (lanesWith gl (fun l => heldAt s (.walk (missOfUnit s (addr l) write false)))) id := by
  have h := misses_fold s gl addr n write (fun l u t k => match k with
    | .ok key => u.addLoad t.tid key n sc s.advance.nextSeq (dst l) (addr l)
    | .error _ => u) hn hs hk
  obtain ⟨w, hw⟩ := walksFor_eq s addr gl
  unfold State.laneLoads State.ldIssued
  dsimp only
  rw [if_neg]
  · exact h
  · rw [show (gl.foldl _ s.advance.bump : State).loads = s.loads from by
      have := congrArg State.loads h.rest; rw [hw] at this; exact this]
    exact Nat.lt_irrefl _

theorem stores_miss (s : State) (gl : List Nat) (addr : Nat → DWord) (data : Nat → List Byte) (n : Nat)
    (hn : gl.Nodup) (hs : ∀ l ∈ gl, l ∈ s.subset) (hk : ∀ l ∈ gl, (s.thread? s.cur.core s.cur.team l).isSome = true ∧ accessMisses s (addr l) n true) :
    UnitEffect s (s.advance.laneStores gl addr data n none) (walksFor s addr gl)
      (lanesWith gl (fun l => heldAt s (.walk (missOfUnit s (addr l) true false)))) id := by
  have h := misses_fold s gl addr n true (fun l u t k => match k with
    | .ok key => u.addStore t.tid key (data l) none s.advance.nextSeq (addr l)
    | .error kind => u.addHeldRed t.tid (data l) none s.advance.nextSeq (addr l) kind) hn hs hk
  obtain ⟨w, hw⟩ := walksFor_eq s addr gl
  unfold State.laneStores State.stIssued
  dsimp only
  rw [if_neg]
  · exact h
  · rw [show (gl.foldl _ s.advance.bump : State).writes = s.writes from by
      have := congrArg State.writes h.rest; rw [hw] at this; exact this]
    exact Nat.lt_irrefl _

theorem unif_access_traps (s : State) (addr : DWord) (n : Nat) (write : Bool) (go) (c : Nat) (ho : outsideHandler s s.subset)
    (hk : accessTrap s addr n write = some c) :
    UnitEffect s (s.advance.unifAccess addr n write go) s
      (lanesWith s.subset (fun _ => entered s (loWord addr) (tcause c s.cur.pfx.isPrefix true write false) s.cur.pc)) id := by
  have e : s.advance.unifAccess addr n write go = s.advance.trapLanes s.subset c (loWord addr) true write false := by
    simp only [accessTrap] at hk
    simp only [State.unifAccess, cur_advance, place_advance, subset_advance]
    split at hk
    · next ha => cases hk; rw [if_pos ha]
    · next ha =>
      rw [if_neg ha]
      cases hp : s.place s.cur.core addr n with
      | invalid => simp only [hp] at hk; cases hk; rfl
      | window k => simp only [hp] at hk; cases hk
      | virt va =>
        simp only [hp] at hk
        split at hk
        · next hq =>
          cases hk
          have h2 : s.advance.translate s.cur.core (s.advance.missOf addr write true).ctx va write false = .sealed := by
            rw [missOf_ctx_advance]; exact hq
          simp only [h2]
        · cases hk
  rw [e]
  exact takeTraps_from s _ (Effect.advance s) s.subset (subset_nodup s) (fun _ h => h) ho c (loWord addr) _ _

theorem unif_access_misses (s : State) (addr : DWord) (n : Nat) (write : Bool) (go) (hk : accessMisses s addr n write) :
    UnitEffect s (s.advance.unifAccess addr n write go) (s.needWalk s.cur.core (s.ctxOf s.cur.core) addr.toNat)
      (lanesWith s.subset (fun _ => heldAt s (.walk (missOfUnit s addr write true)))) id := by
  obtain ⟨ha, va, hp, hq⟩ := hk
  have hva : va = addr.toNat := by
    simp only [State.place] at hp
    split at hp
    · cases hp
    · split at hp
      · exact absurd hp (window_virt s _ _ _ _)
      · cases hp; rfl
  subst hva
  have e : s.advance.unifAccess addr n write go = (s.advance.needWalk s.cur.core (s.ctxOf s.cur.core) addr.toNat).hold s.subset (.walk (missOfUnit s addr write true)) := by
    simp only [State.unifAccess, cur_advance, place_advance, subset_advance]
    rw [if_neg (by omega)]
    simp only [hp]
    have h2 : s.advance.translate s.cur.core (s.ctxOf s.cur.core) addr.toNat write false = .miss := hq
    simp only [missOf_ctx_advance, h2]
    simp only [State.missOf, missOfUnit, cur_advance, ctxOf_advance]
  rw [e]
  obtain ⟨w, hw⟩ := needWalk_eq s s.cur.core (s.ctxOf s.cur.core) addr.toNat
  have hw2 : s.advance.needWalk s.cur.core (s.ctxOf s.cur.core) addr.toNat = { s.advance with walks := w } := by
    have hw1 := congrArg State.walks hw
    have e2 : (s.advance.needWalk s.cur.core (s.ctxOf s.cur.core) addr.toNat).walks = (s.needWalk s.cur.core (s.ctxOf s.cur.core) addr.toNat).walks := by
      simp only [State.needWalk]; 
      have : s.advance.walks = s.walks := rfl
      rw [this]; split <;> rfl
    obtain ⟨w', h'⟩ := needWalk_eq s.advance s.cur.core (s.ctxOf s.cur.core) addr.toNat
    have := congrArg State.walks h'
    rw [e2, hw1] at this
    rw [h']; simp only at this; rw [this]
  rw [hw, hw2]
  have o : UnitEffect s { s.advance with walks := w } { s with walks := w } (fun _ x => x) id := Effect.outside (Effect.advance s) _ rfl
  have := Effect.lanes o rfl s.subset (fun _ h => h) (fun _ => heldAt s (.walk (missOfUnit s addr write true)))
  exact this

/-- One lane of a fold changes by a function. -/
theorem one_lanes {s b r : State} {M : Team → Team} {f : Nat → Thread → Thread} {D : List Nat} (l : Nat) (hl : l ∉ D) (hs : l ∈ s.subset)
    (hc : r.cur = s.cur) (h : UnitEffect s b r (lanesWith D f) M) (g : Nat → Thread → Thread) (hg : ∀ x, g l x = f l x) :
    UnitEffect s (b.onLanes [l] g) r (lanesWith (D ++ [l]) f) M := by
  have e : b.onLanes [l] g = b.onLanes [l] f := onLanes_one b l _ f (fun t => hg t)
  rw [e]
  have k := Effect.lanes h hc [l] (by simpa using hs) f
  have e2 : (fun i x => if i ∈ [l] then f i (lanesWith D f i x) else lanesWith D f i x) = lanesWith (D ++ [l]) f := by
    funext i x
    simp only [lanesWith, List.mem_append, List.mem_singleton]
    by_cases h1 : i = l
    · subst h1; simp [hl]
    · simp [h1]
  rw [e2] at k; exact k

/-- What an effect leaves of the issuing team. -/
theorem team_of_effect {s b r : State} {F} (h : UnitEffect s b r F id) (hc : r.cur = s.cur) {α : Type} (g : Team → α) (hg : ∀ m, g (teamShared m) = g m) : g b.team = g s.team := by
  have e := Effect.cur_eq h hc
  have k := h.team
  simp only [State.team, e]
  revert k
  generalize b.team? s.cur.core s.cur.team = x
  generalize s.team? s.cur.core s.cur.team = y
  intro k
  cases x <;> cases y <;> simp_all
  rw [← hg, k, hg]

/-- An effect leaves every workgroup in its launch. -/
theorem launch_of_effect {s b r : State} {F M} (h : UnitEffect s b r F M) (c : Nat) : ((b.wg? c).map (·.launch)) = ((s.wg? c).map (·.launch)) :=
  wg?_effect_map h (fun w => w.launch) (fun _ => rfl) c

/-- The entries of one lane more. -/
theorem entries_snoc (s : State) (D : List Nat) (l : Nat) (addr : Nat → DWord) (n : Nat) (data : Nat → List Byte) (red) :
    storeEntries s (D ++ [l]) addr n data red = storeEntries s D addr n data red ++ [⟨s.nextSeq + 1 + D.length, s.cur.core, (s.lane l).tid,
    .team (((s.wg? s.cur.core).map (·.launch)).getD 0) s.team.uid s.nextSeq (s.team.stCount + 1),
    (reaches s (addr l) n true).getD 0, data l, red, some (s.ctxOf s.cur.core), addr l, false⟩] := by
  simp [storeEntries, List.zipIdx_append]

/-- The loads of one lane more. -/
theorem loads_snoc (s : State) (D : List Nat) (l : Nat) (addr : Nat → DWord) (n sc : Nat) (w : Bool) (dst : Nat → LoadDst) :
    loadReqs s (D ++ [l]) addr n sc w dst = loadReqs s D addr n sc w dst ++ [⟨s.nextSeq + 1 + D.length, s.cur.core, s.cur.team, s.team.uid, (s.lane l).tid,
    (reaches s (addr l) n w).getD 0, n, sc, dst l, s.nextSeq, addr l⟩] := by
  simp [loadReqs, List.zipIdx_append]

end Sys2Proof.Machine
end

