-- ==== Sys2Proof/Tests/Slice0.lean ====
section
/-! SUPPORT. Tests: words of the spec decode, ill-formed instructions are refused, and the hypotheses of the statements are met. -/

namespace Sys2Proof.Machine
open Sys2Proof

-- One theorem at a time: many kernel evaluations side by side would each hold a stack of their own.
set_option Elab.async false

/-! ### A small state -/

/-- A team's lanes 0 and 1, of 64 threads, issue at 0x1000; the two threads, the team and the launch's header are changed as
told. -/
def probe (f : Thread → Thread) (m : Team → Team) (h : Header → Header) : State :=
  let s : State := { State.reset.withFetchWord 32 0 with agenda := [], cur := ⟨0, 0, 3, 0x1000, .none⟩ }
  let s : State := (s.onLanes [0, 1] (fun _ => f)).onTeam m
  { s with launches := s.launches.map (fun e => (e.1, { e.2 with hdr := h e.2.hdr })) }

/-- The small state as it is. -/
def base : State := probe id id id

/-- Threads of a list that stand outside their handler, of a launch with one. -/
def outs (s : State) (ls : List Nat) : Bool :=
  decide ((s.hdr s.cur.core).handler ≠ 0)
    && ls.all (fun l => match s.thread? s.cur.core s.cur.team l with | some x => !x.inHandler | none => false)

theorem outs_spec (s : State) (ls : List Nat) (h : outs s ls = true) : outsideHandler s ls := by
  simp only [outs, Bool.and_eq_true, decide_eq_true_eq, List.all_eq_true] at h
  refine ⟨h.1, fun l hl => ?_⟩
  have k := h.2 l hl
  split at k
  · next x hx => exact ⟨x, hx, by simpa using k⟩
  · simp at k

/-! ### The hypotheses of the statements about lane instructions are met -/

theorem test_base_subset : base.subset = [0, 1] ∧ base.guarded 7 = [0, 1] ∧ base.guarded 0 = [] ∧ base.guardU 7 = true
    ∧ base.guardU 0 = false ∧ base.curAlloc = 128 ∧ base.stop = none := by decide +kernel

theorem test_hyp_LaneIntegersAndMoves : bad3 base.curAlloc 127 127 127 = none ∧ bad2 base.curAlloc 127 127 = none
    ∧ bad1 base.curAlloc 127 = none := by decide +kernel

theorem test_hyp_LaneLogicShiftsAndBits : bad3 base.curAlloc 127 0 127 = none ∧ bad2 base.curAlloc 127 0 = none := by
  decide +kernel

theorem test_hyp_PredicateWrites : intCondOk 9 = true ∧ base.guardU 7 = true
    ∧ firstBad [(vOk base.curAlloc 127, 1, 127), (vOk base.curAlloc 127, 2, 127)] = none
    ∧ firstBad [(sOk 95, 1, 95), (sOk 95, 2, 95)] = none := by decide +kernel

theorem test_hyp_LaneSingleFloat : bad3 base.curAlloc 127 127 127 = none ∧ bad2 base.curAlloc 127 127 = none
    ∧ fcvtCodeOk 0 = true ∧ fpCondOk 0 = true
    ∧ firstBad [(vOk base.curAlloc 127, 1, 127), (vOk base.curAlloc 127, 2, 127)] = none := by decide +kernel

theorem test_hyp_LanePairedAndDoubleFloat : bad3 base.curAlloc 127 127 127 = none ∧ hasFp64 base.part base.cur.core = true
    ∧ badPair3 base.curAlloc 126 126 126 = none ∧ v2Ok base.curAlloc 126 = true ∧ vOk base.curAlloc 127 = true := by
  decide +kernel

theorem test_hyp_CrossLaneResults : bad2 base.curAlloc 127 127 = none ∧ bad1 base.curAlloc 127 = none := by decide +kernel

theorem test_hyp_LaneQuantisation : bad3 base.curAlloc 127 127 126 = none ∧ (127 : BitVec 7) ≠ 126 := by decide +kernel

theorem test_hyp_SpecialRegisterReads : bad1 base.curAlloc 127 = none ∧ base.guardU 7 = true ∧ sOk 95 = true
    ∧ (∀ l ∈ (probe (fun t => { t with inHandler := true }) id id).guarded 7,
        ((probe (fun t => { t with inHandler := true }) id id).lane l).inHandler = true) := by decide +kernel

theorem test_hyp_SpecialFunctionIssueAndEstates : bad2 base.curAlloc 127 127 = none
    ∧ (119 : Nat) + 8 ≤ base.curAlloc ∧ (125 : Nat) + 2 < base.curAlloc := by decide +kernel

theorem test_hyp_LaneLoadsStoresAndAtomics : badLm base.curAlloc (vOk base.curAlloc 127) 127 126 0 = none
    ∧ badLm base.curAlloc (v2Ok base.curAlloc 126) 126 126 0 = none ∧ badLm base.curAlloc (v4Ok base.curAlloc 124) 124 126 0 = none
    ∧ badLm base.curAlloc true 0 126 0 = none
    ∧ firstBad [(vOk base.curAlloc 127, 0, 127), (v2Ok base.curAlloc 126, 1, 126), (vOk base.curAlloc 127, 2, 127)] = none
    ∧ firstBad [(v2Ok base.curAlloc 126, 0, 126), (v2Ok base.curAlloc 126, 1, 126), (v2Ok base.curAlloc 126, 2, 126)] = none
    ∧ allReach base (base.guarded 7) (fun l => base.lmAddr l 126 0) 16 false
    ∧ allReach base (base.guarded 7) (fun l => base.lmAddr l 126 0) 16 true
    ∧ allReach base base.subset (fun l => (base.lane l).v2 126) 8 true := by
  simp only [allReach]; decide +kernel

theorem test_hyp_UniformMemory : base.guardU 7 = true ∧ s2Ok 94 = true ∧ sOk 95 = true
    ∧ reaches base (base.team.sr2 94 + (0x3F : BitVec 7).signExtend 64 * 8) 8 false = some 504
    ∧ reaches base (base.team.sr2 94 + (0x3F : BitVec 7).signExtend 64 * 8) 4 true = some 504 := by decide +kernel

/-- Threads of the small state whose v0 and v1 hold an address. -/
def addrs (x : Word) (y : Word) : State := probe (fun t => (t.setV 0 x).setV 1 y) (fun m => (m.setSr 0 x).setSr 1 y) id

theorem test_hyp_AccessTrapsAndMisses :
    firstBad (regFields base.curAlloc (base.hdr base.cur.core).accs (.ldW 7 2 0 0)) = none
    ∧ accessTrap (addrs 2 0) 2 4 false = some 3 ∧ accessTrap (addrs 0 0x02000000) 0x0200000000000000 4 false = some 4
    ∧ outs (addrs 2 0) [0, 1] = true
    ∧ executes (addrs 2 0) (.sldW 7 2 0 0) = true := by decide +kernel

theorem test_miss_AccessTrapsAndMisses : accessMisses (addrs 0x20000 0) 0x20000 4 false :=
  ⟨by decide +kernel, 0x20000, by decide +kernel, by decide +kernel⟩

theorem test_hyp_UniformArithmetic : base.guardU 7 = true ∧ badS3 95 95 95 = none ∧ badS2 95 95 = none ∧ sOk 95 = true := by
  decide +kernel

theorem test_hyp_ModeAndMasks : base.guardU 7 = true ∧ sOk 95 = true
    ∧ (∀ e ∈ base.team.lanes, e.1 ∉ base.subset → e.2.wait = .ready) := by decide +kernel

/-- The team's threads of lanes 2 and 3 wait at the JOIN of k1, whose mask is theirs and those of lanes 0 and 1. -/
def joining : State :=
  (base.onTeam (fun m => m.setK 1 0xF)).modLanes 0 0 [2, 3] (fun _ x => { x with wait := .join 1 })

theorem test_joins_ModeAndMasks : joining.guardU 7 = true
    ∧ (joining.team.lanes.map (fun e => (e.1, e.2.wait))).filter (fun e => e.2 ≠ .ready) = [(2, .join 1), (3, .join 1)]
    ∧ (joining.team.setK 1 0xC).joinMet 1 = true ∧ (joining.team.setK 1 joining.cur.lanes).joinMet 1 = false := by decide +kernel

theorem test_hyp_Branches : targetTrap (BitVec.ofInt 64 ((base.cur.pc.toNat : Int) + 4 * (0x7FFC00 : BitVec 23).toInt)) = none
    ∧ base.guardU 7 = true ∧ v2Ok base.curAlloc 126 = true
    ∧ (∀ l ∈ base.guarded 7, targetTrap ((base.lane l).v2 126) = none) := by decide +kernel

/-- Threads of a stack depth, with a stack area at 0 of 64 bytes. -/
def deep (d : Nat) : State :=
  probe (fun t => { t with depth := d, rstack := List.replicate (min d 8) 0x2000 }) id (fun h => { h with stkSize := 64 })

theorem test_hyp_CallsAndReturns :
    (∀ l ∈ (deep 15).guarded 7, ((deep 15).thread? 0 0 l).isSome = true)
    ∧ (∀ l ∈ (deep 15).guarded 7, 8 * (((deep 15).lane l).depth - 8) + 8 ≤ ((deep 15).hdr 0).stkSize
        ∧ (reaches (deep 15) (((deep 15).lane l).stackBase + BitVec.ofNat 64 (8 * (((deep 15).lane l).depth - 8))) 8 true).isSome = true)
    ∧ (∀ l ∈ (deep 9).guarded 7, ((deep 9).thread? 0 0 l).isSome = true ∧ 0 < ((deep 9).lane l).depth
        ∧ targetTrap (((deep 9).lane l).rstack.headD 0) = none
        ∧ (reaches (deep 9) (((deep 9).lane l).stackBase + BitVec.ofNat 64 (8 * (((deep 9).lane l).depth - 9))) 8 false).isSome = true)
    ∧ targetTrap (BitVec.ofInt 64 (((deep 15).cur.pc.toNat : Int) + 4 * (1 : BitVec 23).toInt)) = none := by decide +kernel

theorem test_hyp_TransferTraps :
    targetTrap (BitVec.ofInt 64 ((base.cur.pc.toNat : Int) + 4 * (0x7FFBFF : BitVec 23).toInt)) = some 4
    ∧ (∀ l ∈ (addrs 2 0).guarded 7, targetTrap (((addrs 2 0).lane l).v2 0) = some 3)
    ∧ (∀ l ∈ (deep 0).guarded 7, ((deep 0).lane l).depth = 0)
    ∧ (∀ l ∈ (deep 16).guarded 7, 8 ≤ ((deep 16).lane l).depth ∧ ((deep 16).hdr 0).stkSize < 8 * (((deep 16).lane l).depth - 8) + 8)
    ∧ outs (deep 16) [0, 1] = true ∧ outs (addrs 2 0) [0, 1] = true ∧ outs (deep 0) [0, 1] = true ∧ outs base [0, 1] = true
    ∧ base.subset ≠ [] ∧ sOk 95 = true := by decide +kernel

theorem test_hyp_FalseGuardsDoNothing : laneGuard (.iadd 0 1 2 3) = some 0 ∧ base.guarded 0 = []
    ∧ unifGuard (.sadd 0 1 2 3) = some 0 ∧ base.guardU 0 = false ∧ base.stop = none := by decide +kernel

theorem test_hyp_RegisterFieldTraps : (Instr.sadd 7 96 0 0).wf = true ∧ unitPresent base (.sadd 7 96 0 0) = true
    ∧ entryFirst base (.sadd 7 96 0 0) = true ∧ executes base (.sadd 7 96 0 0) = true
    ∧ firstBad (regFields base.curAlloc (base.hdr base.cur.core).accs (.sadd 7 96 0 0)) = some 96
    ∧ outs base (executing base (.sadd 7 96 0 0)) = true := by decide +kernel

theorem test_hyp_IllegalWordsAndAbsentUnits : (Instr.vscan 7 1 2 6).wf = false ∧ executes base (.vscan 7 1 2 6) = true
    ∧ outs base (executing base (.vscan 7 1 2 6)) = true
    ∧ (Instr.dadd 7 0 2 4).wf = true ∧ unitPresent { base with part := .adk9405 } (.dadd 7 0 2 4) = false
    ∧ executes { base with part := .adk9405 } (.dadd 7 0 2 4) = true
    ∧ outs { base with part := .adk9405 } [0, 1] = true := by decide +kernel

theorem test_hyp_SoftwareTraps : outs base (base.guarded 7) = true ∧ outs base base.subset = true ∧ base.guardU 7 = true := by
  decide +kernel

/-- Threads in their handler, entered from 0x1000. -/
def handling : State := probe (fun t => { t with inHandler := true, tpc := 0x1000 }) id id

theorem test_hyp_HandlersAndPrivilege : bad1 base.curAlloc 127 = none ∧ outs base (base.guarded 7) = true
    ∧ handling.guardU 7 = true ∧ sOk 95 = true
    ∧ (∀ l ∈ handling.subset, (handling.lane l).inHandler = true
        ∧ targetTrap ((handling.lane l).tpc.zeroExtend 64 + (handling.team.sr 95).signExtend 64) = none)
    ∧ (handling.thread? 0 0 1).isSome = true
    ∧ (probe id id (fun h => { h with handler := 0 })).hdr 0 = { base.hdr 0 with handler := 0 } := by decide +kernel

/-- The workgroup has been told, and votes. -/
def told : State :=
  (probe id id (fun h => { h with sibf := 1 })).modWg 0 (fun w => { w with told := true })

theorem test_hyp_WaitsAndYield : base.guardU 7 = true ∧ base.told = false ∧ (base.votes && base.told) = false
    ∧ told.told = true ∧ told.votes = true := by decide +kernel

/-- A launch with CLUSTER = 1, threads that wait in no phase. -/
def clustered : State := probe id id (fun h => { h with cluster := true })

theorem test_hyp_BarrierArrivalsAndWaits : clustered.guardU 7 = true ∧ barNumOk 0 7 = true ∧ barNumOk 1 15 = true
    ∧ barNumOk 2 7 = true ∧ barNumOk 3 3 = true ∧ (clustered.hdr 0).cluster = true ∧ clustered.told = false
    ∧ (∀ l ∈ clustered.subset, (clustered.lane l).waitPasses (.team 7) 0 = false) := by decide +kernel

theorem test_hyp_BarrierQuery : base.guardU 7 = true ∧ barNumOk 0 7 = true ∧ barNumOk 3 3 = true ∧ (95 : BitVec 7).toNat < 96
    ∧ clustered.guardU 7 = true ∧ (clustered.hdr 0).cluster = true := by decide +kernel

/-- A load of thread 1 in flight. -/
def loading : State := { base with loads := [⟨65, 0, 0, 65, 1, 0, 4, 0, .lane 0 false, 65, 0⟩] }

theorem test_hyp_FencesBeginAndAcquire : base.guardU 7 = true ∧ (2 : BitVec 2).toNat ≠ 3
    ∧ (base.thread? 0 0 0).map (·.tid) = some 1 ∧ base.loads = []
    ∧ (loading.thread? 0 0 0).map (·.tid) = some 1
    ∧ ({ base with writes := [⟨60, .keystone, 0, [(1, 5)], true, [0], none, 0⟩] } : State).dueBefore (coreDie 0)
        [0, 5, 0, 0, 0, 0, 0, 0] none = true
    ∧ (∃ a ∈ loading.loads, (a.agent ∈ [1] ∨ a.agent = 65) ∧ a.id < loading.nextSeq) := by decide +kernel

/-- s0 holds the last place of the scratchpad where an arrival word fits. -/
def lastWord : State := probe id (fun m => m.setSr 0 0x7FFF8) id

theorem test_hyp_ArrivalWordsAndWaitOnWord : lastWord.guardU 7 = true ∧ sOk 0 = true ∧ sOk 95 = true
    ∧ (lastWord.team.sr 0).toNat % 8 = 0 ∧ (lastWord.team.sr 0).toNat + 8 ≤ lastWord.scratchBytes 0
    ∧ ((lastWord.unifView lastWord.team.uid (scratchKey 0 (lastWord.team.sr 0).toNat) 8).getD 7 0).toNat
        = (lastWord.team.sr 1).toNat % 256
    ∧ s2Ok 94 = true ∧ reaches lastWord (lastWord.team.sr2 94) 4 false = some 0 ∧ memExists lastWord.part 0 = true
    ∧ lastWord.firewallOk (lastWord.ctxOf 0) 0 = true ∧ lastWord.stop = none
    ∧ intCond 0 (BitVec.ofNat 32 (lastWord.homeNat 0 0 4)) (lastWord.team.sr 95) = true
    ∧ intCond 1 (BitVec.ofNat 32 (lastWord.homeNat 0 0 4)) (lastWord.team.sr 95) = false := by decide +kernel

/-- s0 and s1 hold two words. -/
def regs (x y : Word) : State := probe id (fun m => (m.setSr 0 x).setSr 1 y) id

/-- Queue 5, of register pairs, whose scope is another core's. -/
def queue5 (long : Bool) (scope y : Nat) (x : Word) : State :=
  { regs x 5 with hwqs := [(5, ⟨5, 0, 0, 0, 0, 0, 0, long, false, scope, false, 0, 0, y, 0, [], 0, 0⟩)] }

/-- Threads that arrived in phase 0 of team barrier 7, which has completed it. -/
def passed : State :=
  probe (fun t => t.setArrival (.team 7) 0 false) (fun m => { m with bars := [(7, ⟨64, 0, 1, []⟩)] }) id

theorem test_hyp_SynchronisationChecksAndPasses : base.guardU 7 = true ∧ barNumOk 2 7 = true ∧ (base.hdr 0).cluster = false
    ∧ outs base base.subset = true
    ∧ ((regs 0x7FFFC 0).team.sr 0).toNat % 8 ≠ 0
    ∧ ((regs 0x80000 0).team.sr 0).toNat % 8 = 0 ∧ (regs 0x80000 0).scratchBytes 0 < ((regs 0x80000 0).team.sr 0).toNat + 8
    ∧ ((regs 0x10000 0).team.sr2 0).toNat % 0x20000 ≠ 0
    ∧ ((regs 0 0x02000000).team.sr2 0).toNat % 0x20000 = 0 ∧ 2 ^ 57 ≤ ((regs 0 0x02000000).team.sr2 0).toNat
    ∧ (regs 0 0x02000000).place 0 ((regs 0 0x02000000).team.sr2 0) 4 = .invalid ∧ intCondOk 0 = true
    ∧ (regs 2 0).place 0 ((regs 2 0).team.sr2 0) 4 ≠ .invalid ∧ ((regs 2 0).team.sr2 0).toNat % 4 ≠ 0 := by decide +kernel

theorem test_queues_SynchronisationChecksAndPasses : ((regs 0x20 0).team.sr 0).toNat % 64 ≠ 0
    ∧ (regs 0x80000 0).scratchBytes 0 < ((regs 0x80000 0).team.sr 0).toNat + 64
    ∧ kvGet (regs 0 5).hwqs 5 = none
    ∧ (kvGet (queue5 true 2 0 0).hwqs (((queue5 true 2 0 0).team.sr 1).toNat % 2 ^ 31)).map (·.long) = some true
    ∧ (kvGet (queue5 false 0 1 0).hwqs 5).map (fun q => (q.long, q.inScope 0)) = some (false, false) := by decide +kernel

theorem test_passes_SynchronisationChecksAndPasses : passed.guardU 7 = true ∧ passed.subset ≠ []
    ∧ (∀ l ∈ passed.subset, (passed.lane l).waitPasses (.team 7) (passed.barrier 0 0 (.team 7)).phase = true)
    ∧ (((regs 0 1).unifView 65 (scratchKey 0 0) 8).getD 7 0).toNat ≠ ((regs 0 1).team.sr 1).toNat % 256 := by decide +kernel

theorem test_hyp_CancellationPoints : told.guardU 7 = true ∧ told.told = true ∧ (told.wg? 0).isSome = true
    ∧ (told.wgLaunch? 0).isSome = true ∧ told.votes = true ∧ barNumOk 1 15 = true ∧ barNumOk 3 3 = true := by decide +kernel

/-- A state with some words of its scratchpad. -/
def words (s : State) (o : Nat) (v : List (Nat × Nat)) : State :=
  { s with mem := v.foldl (fun m p => memPut m (scratchKey 0 (o + p.1)) (leBytes 4 p.2)) s.mem }

/-- A command's block at 0 with a count of 1, and the header of a tile of 16 rows at 0x100. -/
def blk (ty : Nat) (v : List (Nat × Nat)) : State := words (words base 0 ((8, 1) :: v)) 0x100 [(0, 0x100000 + ty), (4, 0x101)]

theorem test_hyp_EngineCommandsAccepted :
    (blk 0 [(0x10, 0x100), (0x14, 0x100), (0x18, 0x40000), (0x1C, 0x10101)]).cmdCheck5 .mma 0 = none
    ∧ (blk 0 []).cmdCheck5 .aswap 0 = none ∧ (blk 0 []).cmdCheck5 .azero 0 = none
    ∧ (blk 0 [(0x1C, 0x101)]).cmdCheck5 .ald 0 = none ∧ (blk 0 [(0x1C, 0x101)]).cmdCheck5 .ast 0 = none
    ∧ (blk 0 []).guardU 7 = true ∧ (3 : BitVec 2).toNat < ((blk 0 []).hdr 0).accs
    ∧ (blk 0 []).readNat (scratchKey 0 0) 8 = 0 ∧ (blk 0 []).readNat (scratchKey 0 8) 4 = 1 := by decide +kernel

theorem test_copies_EngineCommandsAccepted :
    (blk 0 [(0x1C, 0x100), (0x24, 8)]).cmdCheck5 .tcopy 0 = none
    ∧ (blk 8 [(0x1C, 0x100), (0x20, 2), (0x24, 8)]).cmdCheck5 .tqst 0 = none
    ∧ (blk 0 [(0x28, 0x1000001), (0x2C, 0x200)]).cmdCheck5 .tchain 0 = none
    ∧ (blk 0 [(0x18, 4), (0x1C, 1), (0x28, 2), (0x2C, 0x40000000), (0x30, 1), (0x34, 1)]).cmdCheck5 .trot 0 = none := by
  decide +kernel

theorem test_hyp_EngineCommandsChecked :
    ((regs 1 0).cmdCheck5 .azero 1).isSome = true ∧ outs base base.subset = true
    ∧ (blk 0 [(0, 0x20000)]).cmdCheck5 .azero 0 = none ∧ (blk 0 [(0, 0x20000)]).readNat (scratchKey 0 0) 8 = 0x20000
    ∧ (blk 0 [(0, 0x20000)]).guardRead 0x20000 = .miss
    ∧ (blk 0 [(0, 0x10000)]).guardRead 0x10000 = .word 0
    ∧ (words base 0 []).cmdCheck5 .azero 0 = none ∧ base.readNat (scratchKey 0 8) 4 = 0
    ∧ (524288 - 64 + 1) % 64 ≠ 0 ∧ base.scratchBytes 0 < 524288 + 64 := by decide +kernel

theorem test_hyp_TokenFetchAndBallotIssue : (∀ l ∈ base.subset, (base.lane l).inHandler = false) ∧ base.votes = false
    ∧ told.votes = true ∧ told.guardU 7 = true ∧ sOk 95 = true ∧ s2Ok 94 = true := by decide +kernel

/-- Page tables that map the first page of context 0, to write. -/
def mapped : State :=
  let s : State := regs 0 0
  { s with
    contexts := s.contexts.map (fun e => (e.1, { e.2 with reg := { e.2.reg with root := 0x100000 } }))
    mem := [(0x100000, 0x200001), (0x200000, 0x300001), (0x300000, 0x400001), (0x400000, 0x13)].foldl
      (fun m p => memPut m p.1 (leBytes 8 p.2)) s.mem }

theorem test_hyp_SealRequests : (regs 0 0).guardU 7 = true ∧ s2Ok 0 = true ∧ sOk 2 = true ∧ ((regs 0 0).team.sr 2).toNat = 0
    ∧ ((regs 0 0).team.sr2 0).toNat = 0
    ∧ mapped.regionFault 0 true 0x20000 1 0 = none ∧ mapped.regionFault 0 false 0x20000 1 0 = none := by decide +kernel

theorem test_hyp_QueueOperationsSent : (queue5 false 2 0 0).guardU 7 = true ∧ sOk 1 = true ∧ s2Ok 94 = true
    ∧ (queue5 false 2 0 0).queueTrap ((queue5 false 2 0 0).team.sr 1) 0 false = none
    ∧ (queue5 true 2 0 0).queueTrap ((queue5 true 2 0 0).team.sr 1) (0x80000 - 64) true = none := by decide +kernel

theorem test_hyp_ExitAndReform :
    ((probe id id (fun h => { h with accs := 0 })).wg? 0).map (fun w => (kvWf w.teams, w.bins)) = some (true, [])
    ∧ (probe id id (fun h => { h with accs := 0 })).guarded 0 = []
    ∧ ((probe id id (fun h => { h with accs := 0 })).hdr 0).accs = 0
    ∧ ((probe id id (fun h => { h with accs := 0 })).guarded 7).length < 64
    ∧ (∀ l ∈ (probe id id (fun h => { h with accs := 0 })).guarded 7,
        ((probe id id (fun h => { h with accs := 0 })).thread? 0 0 l).isSome = true)
    ∧ (base.hdr 0).accs ≠ 0 ∧ outs base (base.guarded 7) = true := by decide +kernel

/-- Lane 0 alone reforms, without accumulators, where the bin of its next unit holds 63 threads and the other team's slot is free. -/
def filling : State :=
  let s := probe id (fun m => { m with lanes := m.lanes.filter (fun e => e.1 = 0) }) (fun h => { h with accs := 0, teams := 2 })
  let s : State := { s with cur := { s.cur with lanes := 1 } }
  s.modWg 0 (fun w => { w with bins :=
    [⟨s.cur.next, 0, (List.range 63).map (fun l => (1, l, { Thread.empty with tid := 200 + l })), [(3, 9)], 5, 0, 1⟩] })

theorem test_fills_ExitAndReform : (filling.hdr 0).accs = 0 ∧ filling.guarded 7 = [0] ∧ (filling.thread? 0 0 0).isSome = true
    ∧ (filling.wg? 0).map (fun w => (kvWf w.teams, w.bins.map (fun b => (decide (b.key = filling.cur.next), b.threads.length))))
      = some (true, [(true, 63)])
    ∧ (filling.freeTeamSlot 0).isSome = true := by decide +kernel

theorem test_hyp_Prefixes : decodeWord 0x43855678 = some (.movi 7 5 0x5678) ∧ extGoverns 0x1234 0x43855678 = true
    ∧ bad1 base.curAlloc 5 = none ∧ decodeWord 0x0381040C = some (.iadd 7 1 2 3) ∧ patGoverns 0x20 0 0x0381040C = true
    ∧ bad3 base.curAlloc 1 2 3 = none ∧ extGoverns 0 0x0381040C = false ∧ patGoverns 0x20 0 0x43855678 = false
    ∧ outs base base.subset = true := by decide +kernel

/-! ### The hypotheses of the statements about the ordering machine and the cores' units are met -/

/-- Thread 1's load 65 in flight. -/
def ld (key n scope : Nat) (dst : LoadDst) : LoadReq := ⟨65, 0, 0, 65, 1, key, n, scope, dst, 65, BitVec.ofNat 64 key⟩
def inFlight (key n scope : Nat) (dst : LoadDst) : State := { base with loads := [ld key n scope dst] }

/-- Thread 1's write 60, of four bytes of 1. -/
def wr (key : Nat) (red : Option (Nat × Nat)) : WEntry :=
  ⟨60, 0, 1, .team 0 65 60 1, key, [1, 1, 1, 1], red, some 0, BitVec.ofNat 64 key, false⟩

theorem test_hyp_LoadsAreSatisfied :
    (∀ dst ∈ [LoadDst.lane 0 true, .refill, .unif 0, .awqry 0], let s := inFlight 0 4 0 dst;
      s.loads.find? (fun o => o.id = 65) = some (ld 0 4 0 dst) ∧ s.loadBlocked (ld 0 4 0 dst) = false
        ∧ s.dieReadable (coreDie 0) 0 = true)
    ∧ base.firewallOk (base.ctxOf 0) 0 = true ∧ memExists base.part 0 = true
    ∧ ¬ (∀ i < 4, ∃ w ∈ ([] : List WEntry), w.meets (0 + i) 1 = true)
    ∧ (∀ i < 4, ∃ w ∈ [wr 0 none], w.meets (0 + i) 1 = true)
    ∧ kvGet ({ base with l1 := [(viewKey 0 0, List.replicate 128 1)] } : State).l1 (viewKey 0 (lineOf 0))
      = some (List.replicate 128 1) := by decide +kernel

theorem test_hyp_AtomicsAtTheirHome :
    (∀ l ∈ [ld (scratchKey 0 0) 4 0 (.atom 0 0 1), ld 0 4 2 (.atom 0 7 1), ld 0 8 2 (.cas 0 0 1)],
      let s : State := { base with loads := [l] };
      s.loads.find? (fun o => o.id = 65) = some l ∧ s.loadBlocked l = false ∧ s.firewallOk (s.ctxOf 0) l.key = true
        ∧ memExists s.part l.key = true
        ∧ (isScratch l.key = true ∨ (2 ≤ l.scope ∧ homeDie l.key = coreDie 0 ∧ homeDie l.key ≠ 5)))
    ∧ base.stbuf = [] ∧ base.wpath ++ base.capath = [] := by decide +kernel

theorem test_hyp_StoresReachTheirHomes :
    (∀ w ∈ [wr (scratchKey 0 0) none, wr 0 none, wr 0 (some (0, 2)), wr 0 (some (0, 0)), wr 0 (some (0, 1))],
      let s : State := { base with stbuf := [w] };
      s.stbuf.find? (fun o => o.id = 60) = some w ∧ (∀ o ∈ s.stbuf, o.agent = 1 → o.id < 60 → o.meets w.key 4 = false)
        ∧ s.loads = [] ∧ s.ordered 1 60 = true ∧ (∀ o ∈ s.stbuf, o.lowerLane w = false)
        ∧ (s.pointLine 0 false 0).isSome = true ∧ (s.pointLine 0 true 0).isSome = true ∧ s.wpath = [] ∧ s.capath = [])
    ∧ (∀ w ∈ [wr 0 none, wr (2 ^ 38) none, wr (2 ^ 60) none], let s : State := { base with wpath := [w], capath := [w] };
      s.writeOk w = true ∧ memExists s.part w.key = true ∧ w.held = false ∧ s.wpath.find? (fun o => o.id = 60) = some w
        ∧ s.olderMeets (s.pointPath 0 false) w = false ∧ s.olderMeets (s.pointPath 0 true) w = false)
    ∧ homeDie 0 = 0 ∧ homeDie (2 ^ 38) = 1 ∧ homeDie (2 ^ 60) = 5 := by decide +kernel

theorem test_uncounted (key : Nat) (red : Option (Nat × Nat)) : uncounted (wr key red) := by
  intro c i; simp [wr]

/-- A message of die 1 to die 0. -/
def msg (b : Payload) : Msg := ⟨1, 0, 1, List.replicate 8 0, b⟩

theorem test_hyp_ViewsCopiesAndGates : coreExists base.part 0 = true ∧ isDevice (128 * 0) = true
    ∧ memExists base.part (128 * 0) = true ∧ base.dieReadable (coreDie 0) (128 * 0) = true ∧ base.wpath = []
    ∧ (∀ b ∈ [Payload.write (wr 0 none), .update 60 0 0 [1], .read 65 0, .reply 65 (2 ^ 31) [1], .clock],
      let s : State := { base with chans := [msg b] };
      s.chans.find? (fun o => o.src = 1 && o.dst = 0) = some (msg b) ∧ s.gateOpen (msg b) = true
        ∧ (msg b).stamp.length = 8 ∧ s.writes = []) := by decide +kernel

/-- Threads 1 and 2 wait on the word at 0 for a value. -/
def polling (y : Word) : State := probe (fun t => { t with wait := .waitm 0 0 0 y }) id id

theorem test_hyp_PortsFencesAndPolls :
    (let s : State := { base with ports := [wr (2 ^ 60) none] };
      s.ports.find? (fun o => o.id = 60) = some (wr (2 ^ 60) none) ∧ s.olderMeets s.ports (wr (2 ^ 60) none) = false)
    ∧ (let f : FenceReq := ⟨64, 0, 65, [1, 2, 65], 1, true, true, []⟩;
      let s : State := { base with fences := [f] };
      s.fences.find? (fun o => o.id = 64) = some f ∧ s.fenceEnabled f = true ∧ f.acq = true ∧ 1 ≤ f.scope)
    ∧ (polling 0).stop = none ∧ (∃ m, (polling 0).team? 0 0 = some m ∧ m.waitmLanes ≠ []
        ∧ ∀ w ∈ m.waitmLanes, w.2.1 = 0 ∧ w.2.2.1 = 0)
    ∧ (polling 0).place 0 0 4 = .virt 0 ∧ (polling 0).translate 0 ((polling 0).ctxOf 0) 0 false false = .ok 0
    ∧ (polling 0).firewallOk ((polling 0).ctxOf 0) 0 = true ∧ memExists (polling 0).part 0 = true := by
  refine ⟨by decide +kernel, by decide +kernel, by decide +kernel, ⟨(polling 0).team, ?_⟩, ?_⟩ <;> decide +kernel

/-- A queue operation under way on queue 5. -/
def qop (op : Nat) : QOp := ⟨60, op, 5, 0, 0, 65, [1, 2, 65], 1, 2, if op = 0 then [1, 2, 3, 4, 5, 6, 7, 8] else [], 0⟩
def qstate (op : Nat) (es : List QEntry) : State :=
  { base with qops := [qop op], hwqs := [(5, ⟨5, 0, 0, 0, 0, 0, 0, false, true, 2, false, 0, 0, 0, 0, es, 0, 0⟩)] }

theorem test_hyp_QueueTransfersAndSeals :
    (qstate 0 []).qops.find? (fun y => y.id = 60 && y.op = 0) = some (qop 0) ∧ (qstate 0 []).pushHeld (qop 0) = false
    ∧ (kvGet (qstate 0 []).hwqs 5).map (fun q => (q.early, decide (q.entries.length < 2 ^ q.logcap))) = some (true, true)
    ∧ (∀ y ∈ (qstate 0 []).qops, 60 ≤ y.id)
    ∧ (∀ op ∈ [1, 2, 3], (qstate op []).qops.find? (fun y => y.id = 60 && y.op ≠ 0) = some (qop op)
        ∧ (qstate op [⟨[1], 65, 0⟩]).remoteReady (coreDie 0) 0 = true ∧ (qstate op [⟨[1], 65, 0⟩]).writes = []) := by
  decide +kernel

/-- A queue whose ring lies in the mapped page, or in none. -/
theorem test_rings_QueueTransfersAndSeals : base.was = [] ∧ isScratch 0 = false
    ∧ (let q : HwQueue := ⟨5, 0, 0, 0, 0, 0x8000, 4, false, true, 2, false, 0, 0, 0, 0, [], 0, 0⟩;
      mapped.ringKey q 3 true = some 0x8018 ∧ mapped.ringKey { q with ring := 0x40000 } 3 true = none) := by decide +kernel

/-- A SEAL or UNSEAL of the mapped page. -/
def sealing (unsl acc : Bool) : SealReq := ⟨60, 0, 65, 0, 0, 1, unsl, acc, []⟩
def sealState (unsl acc : Bool) : State := { mapped with seals := [sealing unsl acc] }

theorem test_seals_QueueTransfersAndSeals :
    (sealState false true).seals.find? (fun o => o.id = 60 && !o.unsl) = some (sealing false true)
    ∧ (sealState false true).allOver [] = true
    ∧ (sealState false false).seals.find? (fun o => o.id = 60 && !o.unsl) = some (sealing false false)
    ∧ (sealState false false).sealReady (sealing false false) = true
    ∧ (sealState true false).seals.find? (fun o => o.id = 60 && o.unsl) = some (sealing true false)
    ∧ (sealState true false).sealReady (sealing true false) = true := by decide +kernel

/-- An arrival of threads 1 and 2. -/
def arr (bar : Option BarKey) (join : Option Nat) : Arrival := ⟨60, 0, 0, 65, [1, 2], bar, join, true, 0, 0, 0⟩

theorem test_hyp_ArrivalsAndCoreUnits :
    (∀ a ∈ [arr (some (.team 7)) none, arr none (some 0), arr none none], let s : State := { base with arrivals := [a] };
      s.arrivals.find? (fun o => o.id = 60) = some a ∧ s.fenceEnabled a.release = true ∧ s.arrivalSaved a = false
        ∧ s.arrivalHere a = true)
    ∧ (base.team? 0 0).isSome = true ∧ (base.wgLaunch? 0).isSome = true
    ∧ (∀ tid ∈ [1, 2], (base.findTid 0 tid).map (fun e => e.2.2.lastArrival (.team 7)) = some none) := by decide +kernel

/-- A workgroup that waits for its tile; one with a bin 256 cycles old; and a special function outstanding. -/
def tiled (tile : Option Nat) : State := base.modWg 0 (fun w => { w with tfTile := some tile })
def binned : State :=
  let s := (probe id id (fun h => { h with teams := 2 })).modWg 0 (fun w => { w with bins := [⟨0x1004, 0, [(0, 5, { Thread.empty with tid := 99 })], [], 0, 0, 0⟩] });
  { s with clusters := [(0, ⟨1050, 256, none, none, none, 0⟩)] }

theorem test_units_ArrivalsAndCoreUnits :
    (∀ tile ∈ [some 1, none], ((tiled tile).wg? 0).map (fun w => (w.tfTile, w.frozen)) = some (some tile, false)
      ∧ ((tiled tile).wgLaunch? 0).isSome = true)
    ∧ (binned.wg? 0).map (fun w => (w.runs, (w.bins.find? (fun b => b.key = 0x1004)).isSome)) = some (true, true)
    ∧ 0 + 256 ≤ (binned.cluster (clusterOf 0)).cycles ∧ binned.freeTeamSlot 0 = some 1
    ∧ (let s := mapped.onTeam (fun t => { t with starveL := 80, order := [0x1000] });
       s.pick 0 0 false = some (0, 0x1000) ∧ (s.team? 0 0).map (·.starveL) = some 80)
    ∧ (let x : Sfq := ⟨60, 0, 0, 65, 0, 0, 4, [(0, 1, 0x3F800000)]⟩;
       let s : State := { base with sfqs := [x] };
       s.sfqs.find? (fun o => o.id = 60) = some x ∧ x.todo.find? (fun p => p.1 = 0) = some (0, 1, 0x3F800000)) := by
  decide +kernel

/-! ### The hypotheses of the statements about estates, engines, faults and the ballot are met -/

/-- The state that a step leaves. -/
def after (i : Instr) (s : State) : State := match exec i s with | .next t => t | _ => s

/-- A settle of thread 1's mark waiting; and a close under way. -/
def settle1 : Settle := ⟨60, 0, 0, 1, ⟨0, 1, 0, [7], 0, false, 0⟩⟩
def cancelledLaunch : State :=
  { (probe id id (fun h => { h with sibf := 1, sibgrp := 256 })) with
    settles := [settle1]
    groups := [(0, ⟨1, .decided, 0, 0, 0x1000, 0x2000, 0x3000, 0, 2, 1, 0, 2, [⟨some (1, 1), 0, 0, 0, 0, true, true⟩], 1, 1, 1, 0, 0, 0,
      (0, none, 0)⟩)] }
def close1 : CloseReq := ⟨61, 0, none, ⟨0, 1, 0, 0, 0, 0, 0, 0, 0, 0, 0, 0, 0⟩, 0x4000, false, []⟩

theorem test_hyp_EstatesSettleAndCloses :
    ({ base with settles := [settle1] } : State).settles.find? (fun o => o.id = 60) = some settle1
    ∧ (kvGetD [] base.stores 0).length < 4096 ∧ (base.launch? 0).map (·.hdr.sibf) = some 0
    ∧ (cancelledLaunch.launch? 0).map (fun l => (l.hdr.sibf, cancelledLaunch.sibCancelled l (l.hdr.sibOfId 0))) = some (1, true)
    ∧ ({ base with closes := [close1] } : State).closes.find? (fun o => o.id = 61) = some close1
    ∧ base.stores = [] ∧ base.spilled = [] := by decide +kernel

/-- A command accepted at its issue, and begun. -/
def azero : State := after (.azero 7 0 0) (blk 0 [])
def mmaS : State := after (.mma 7 0 0) (blk 0 [(0x10, 0x100), (0x14, 0x100), (0x18, 0x40000), (0x1C, 0x10101)])
def tcopyS : State := after (.tcopy 7 0) (blk 0 [(0x1C, 0x100), (0x24, 8)])
def begun (s : State) : State := after (.engineCommandBegin 66) s

/-- What the statements ask of a command that stands at its core's engine. -/
def stands (s : State) (kind : CmdKind) (b : Bool) : Bool :=
  match s.cmd? 66 with
  | some (core, w, c) => core = 0 && c.kind = kind && c.begun = b && !c.issued && s.engineFree core w 66
      && (b || w.canBegin c) && w.stopping.isNone && (s.team? core c.team).isSome && s.stop.isNone
  | none => false

theorem test_hyp_EngineCommandsProceed : stands azero .azero false = true ∧ stands (begun azero) .azero true = true
    ∧ stands (begun mmaS) .mma true = true ∧ stands (begun (after (.aswap 7 0 0) (blk 0 []))) .aswap true = true
    ∧ stands (begun (after (.ald 7 0 0) (blk 0 [(0x1C, 0x101)]))) .ald true = true
    ∧ stands (begun (after (.ast 7 0 0) (blk 0 [(0x1C, 0x101)]))) .ast true = true := by decide +kernel

/-- Its operand B is of a set of the core alone, for which the core has issued it. -/
def sharing : State :=
  let m : Mcast := ⟨0, 0x100, 1, 1, [0], 0, true⟩;
  mmaS.modWg 0 (fun w => { w with mcIssued := [m.key], cmds := w.cmds.map (fun c => { c with mc := [m] }) })

theorem test_shares_EngineCommandsProceed :
    (match sharing.cmd? 66 with
      | some (_, _, c) => (match c.mc.head? with
        | some m => (sharing.mcMembers m).map (fun p => (p.1, decide (m.round < p.2.mcIssued.count m.key)))
        | none => [])
      | none => []) = [(0, true)] ∧ sharing.stop = none := by decide +kernel

theorem test_copies_EngineCommandsProceed : stands (begun tcopyS) .tcopy true = true
    ∧ stands (begun (after (.tqst 7 0) (blk 8 [(0x1C, 0x100), (0x20, 2), (0x24, 8)]))) .tqst true = true
    ∧ stands (begun (after (.tchain 7 0) (blk 0 [(0x28, 0x1000001), (0x2C, 0x200)]))) .tchain true = true
    ∧ stands (begun (after (.trot 7 0) (blk 0 [(0x18, 4), (0x1C, 1), (0x28, 2), (0x2C, 0x40000000), (0x30, 1), (0x34, 1)])))
        .trot true = true := by decide +kernel

/-- Threads 1 and 2 held at a load of a page that the tables map, or do not. -/
def missing (x : Word) : State :=
  after (.ldW 7 2 0 0) ({ (mapped.onLanes [0, 1] (fun _ t => t.setV 0 x)) with l1tlb := [] })

theorem test_hyp_FaultsInvalidationsAndLinks :
    (missing 0).walkRunning ⟨0, 0, 0⟩ = true
    ∧ ((missing 0).walkers ⟨0, 0, 0⟩).Pairwise (fun a b => a.2.2.1 ≠ b.2.2.1) ∧ (missing 0).walk 0 0 = .leaf ⟨0, 0, 0, true, false, 0, 0⟩
    ∧ (missing 0x20000).walkRunning ⟨0, 0, 1⟩ = true ∧ (missing 0x20000).walk 0 131072 = .fault 0
    ∧ (missing 0).stop = none := by decide +kernel

/-- The fault that the walk of the second page records. -/
def faulted : State := after (.pageWalkComplete 0 0 1) (missing 0x20000)
def enabled (s : State) : State := { s with fb := { s.fb with enable := true, logsz := 4, base := 0x10000 } }

theorem test_faults_FaultsInvalidationsAndLinks :
    (faulted.faults.head?.map (fun f => (f.seq.isNone, f.kind))) = some (true, 0) ∧ faulted.fb.enable = false
    ∧ (enabled faulted).fb.enable = true ∧ ((enabled faulted).fb.wptr - (enabled faulted).fb.rptr).toNat < 2 ^ 4
    ∧ ((faulted.faults.head?.bind (fun f => (after (.faultPost f.id) (enabled faulted)).faults.find? (fun g => g.seq = some 0))).map
        (·.who)) = some (.threads 0)
    ∧ (let w : WEntry := { wr 0 (some (0, 2)) with held := true, agent := 99 };
       let s : State := { base with wpath := [w] };
       s.wpath.find? (fun o => o.id = 60 && o.held) = some w ∧ s.alive 99 = false ∧ s.replay = []) := by decide +kernel

theorem test_links_FaultsInvalidationsAndLinks : base.inval.busy = false
    ∧ ({ base with inval := ⟨0, 1, 0, true, []⟩ } : State).allOver [] = true ∧ base.walks = []
    ∧ memExists base.part (keyOf spDevice 8) = true ∧ base.linkUp 0 1 = true
    ∧ ({ base with chans := [msg .clock] } : State).chans ≠ []
    ∧ 9 ≤ kvGetD 0 ({ base with retries := [(1, 9)] } : State).retries 1
    ∧ base.portUp 0 = true ∧ base.choice = 0
    ∧ (∃ w ∈ ({ base with ports := [wr (keyOf spFabric 0) none] } : State).ports, spaceOf w.key = spFabric)
    ∧ 9 ≤ kvGetD 0 ({ base with retries := [(64, 9)] } : State).retries 64 := by decide +kernel

/-- A ballot group of two siblings in a state, whose page lists begin at 0x2000. -/
def grp (st : GState) (sibs : List Sibling) (walk : Nat × Option DWord × Nat) : Group :=
  ⟨1, st, 0, 0, 0x1000, 0x2000, 0x3000, 0, 2, 1, 0, 0, sibs, 0, 0, 0, 0, 0, 0, walk⟩
def sib (post : Option (DWord × Word)) (cancelled told : Bool) : Sibling := ⟨post, 0, 0, 0, 0, cancelled, told⟩
def ballot (g : Group) (p : List Post) (m : List (Nat × Nat)) : State :=
  { mapped with
    groups := [(0, g)], posts := p, mem := m.foldl (fun m e => memPut m e.1 (leBytes 8 e.2)) mapped.mem }
def post (h : Option (DWord × Word)) (a : Option Word) : Post := ⟨60, 0, 0, 65, 3, 256, 0, h, a⟩

theorem test_hyp_BallotUnit :
    (∀ b ∈ [sib none false false, sib (some (5, 1)) false false], let s := ballot (grp .voting [b, b] (0, none, 0)) [post (some (5, 1)) none] [];
      s.posts.find? (fun o => o.id = 60 && o.answer.isNone) = some (post (some (5, 1)) none)
        ∧ s.postLeft (post (some (5, 1)) none) = true ∧ s.postBefore (post (some (5, 1)) none) = false
        ∧ (s.liveGroup (256)).map (fun e => (e.1, e.2.sibs[0]?)) = some (0, some b))
    ∧ (ballot (grp .closed [] (0, none, 0)) [] []).liveGroup 256 = none
    ∧ (∀ b ∈ [sib none true true, sib none false false], let s := ballot (grp .decided [b, b] (0, none, 0)) [post (some (5, 1)) none] [];
      (s.liveGroup 256).map (fun e => (e.2.state, e.2.sibs[0]?)) = some (.decided, some b)) := by decide +kernel

theorem test_answers_BallotUnit :
    (let s := ballot (grp .decided [sib none true false, sib none false false] (0, none, 0)) [] [];
      (kvGet s.groups 0).map (fun g => ((List.range 2).filter (fun i => match g.sibs[i]? with
        | some b => b.cancelled && !b.told && s.exchangeDone g i
        | none => false))) = some [0] ∧ (s.launch? 0).isSome = true)
    ∧ (let p := post (some (5, 1)) (some 0);
      let s := ballot (grp .decided [sib none true true] (0, none, 0)) [p] [];
      s.fiveReaches (coreDie p.core) = true ∧ s.posts.find? (fun o => o.id = 60 && o.hash.isSome) = some p
        ∧ (s.liveGroup 256).map (fun e => e.2.sibs.all (fun b => !b.cancelled || b.told)) = some true)
    ∧ (let p := post none none;
      let s := ballot (grp .decided [sib none true true] (0, none, 0)) [p] [];
      s.posts.find? (fun o => o.id = 60 && o.hash.isNone) = some p ∧ (s.liveGroup 256).isSome = true
        ∧ ({ s with groups := [] } : State).liveGroup 256 = none) := by decide +kernel

/-- A releasing group whose list of pages is under way: its first node, at 0x5000, has one entry, whose count at 0x6000 is 1. -/
def releasing (walk : Nat × Option DWord × Nat) : State :=
  ballot (grp .releasing [sib none false false, sib none false false] walk) []
    [(0x2000, 0x5000), (0x5000, 0), (0x5008, 1), (0x5010, 0x7000), (0x5018, 0x6000), (0x6000, 1)]

theorem test_pages_BallotUnit :
    (releasing (0, none, 0)).ksPlace 0 0x2000 false ≠ none ∧ (releasing (0, none, 0)).ksReadNat 0 0x2000 8 = 0x5000
    ∧ ((releasing (1, none, 0)).ksReadNat 0 0x2008 8 = 0)
    ∧ ({ (releasing (0, none, 0)) with contexts := [] } : State).ksPlace 0 0x2000 false = none
    ∧ (let s := releasing (0, some 0x5000, 0);
      let node := s.ksRead 0 0x5000 64;
      (s.ksPlace 0 0x5000 false).isSome = true ∧ pkt node 8 8 = 1 ∧ pkt node 0 8 = 0 ∧ pkt node 0x18 8 % 4 = 0
        ∧ s.ksPlace 0 (BitVec.ofNat 64 (pkt node 0x18 8)) true = some 0x6000 ∧ isDevice 0x6000 = true
        ∧ s.remoteReady 5 (homeDie 0x6000) = true ∧ ∀ x ∈ s.was, x.nibble = false)
    ∧ (let s : State := ballot (grp .opened [] (0, none, 0)) [] [];
      (s.openGroup 256).map (fun e => e.2.ctx) = some 0 ∧ s.up = true ∧ (s.context? 0).map (·.reg.fn) = some 0)
    ∧ (∀ b ∈ (grp .releasing [sib none true true] (2, none, 0)).sibs, b.cancelled = true → b.told = true)
    ∧ (releasing (2, none, 0)).settlesCancelled (grp .releasing [sib none true true] (2, none, 0)) = false := by decide +kernel

/-! ### The hypotheses of the statements about the host, piers, scheduling and firmware are met -/

theorem test_hyp_HostRegisterWrites : base.up = true ∧ (base.iface 0).state = 0 ∧ (1023 : Nat) < 1024 ∧ (31 : Nat) < 32
    ∧ kvGet base.queues 1 = none ∧ (base.queue 1).enable = false
    ∧ ((base.setQueue 1 { base.queue 1 with enable := true }).queue 1).enable = true
    ∧ (∀ n ∈ [1, 2, 3], ((base.setIface 0 { base.iface 0 with state := n }).iface 0).state = n)
    ∧ (let s : State := { base with launches := base.launches.map (fun e => (e.1, { e.2 with state := .waiting, tag := 5, queue := 1 })) };
      (s.launches.find? (fun e => e.2.queue = 1 && e.2.tag = 5 && e.2.state = .waiting)).isSome = true)
    ∧ (∀ e ∈ base.launches, e.2.queue ≠ 1)
    ∧ (kvGet (qstate 0 []).hwqs 5).map (·.fn) = some 0
    ∧ (∀ b : Bool, let s : State := { base with recov := { base.recov with active := true, busy := b } };
      s.powered = true ∧ s.recov.active = true ∧ s.recov.busy = b) := by decide +kernel

/-- Queue 1 of the mapped context, whose next packet, at 0x2000, has a type; other words (offset, bytes, value) are placed from
0x2000 on. -/
def parsing (type : Nat) (v : List (Nat × Nat × Nat)) : State :=
  let s : State := mapped.setQueue 1 { mapped.queue 1 with base := 0x2000, logsz := 4, enable := true, wptr := 1 };
  { s with
    mem := ((0, 1, type) :: v).foldl (fun m e => memPut m (0x2000 + e.1) (leBytes e.2.1 e.2.2)) s.mem
    hwqs := [(0, ⟨0, 0, 0, 0, 0, 0, 4, false, true, 0, false, 0, 0, 0, 0, [], 0, 0⟩)] }
def packet (s : State) : List Byte := s.ksRead (s.queue 1).ctx (s.queue 1).headAddr 64

/-- What parsing asks of a queue and its packet. -/
def parsed (s : State) (type : Nat) : Bool :=
  s.up && (s.queue 1).enable && !(s.queue 1).error && decide ((s.queue 1).rptr ≠ (s.queue 1).wptr) && (s.queue 1).busy.isNone
    && (s.context? (s.queue 1).ctx).isSome && decide (pkt (packet s) 0 1 = type)
    && decide (pkt (packet s) 4 4 = 0 ∨ BitVec.ofNat 32 (pkt (packet s) 4 4) ∉ (s.queue 1).withdrawn)
    && decide (s.statusHeld 1 = false) && decide ((s.iface (s.queue 1).fn).resetting = 0)

theorem parsed_spec (s : State) (type : Nat) (h : parsed s type = true) : Parses s 1 type (packet s) := by
  simp only [parsed, Bool.and_eq_true, Bool.not_eq_true', decide_eq_true_eq, Option.isNone_iff_eq_none] at h
  obtain ⟨⟨⟨⟨⟨⟨⟨⟨⟨h1, h2⟩, h3⟩, h4⟩, h5⟩, h6⟩, h7⟩, h8⟩, h9⟩, h10⟩ := h
  exact ⟨h1, h2, h3, h4, h5, h6, rfl, h7, h8, h9, h10⟩

/-- A launch header at 0x4000: ENTRY, the widths, extents of 1, one team of 8 registers. -/
def header : List (Nat × Nat × Nat) :=
  [(0x2000, 8, 0x1000), (0x2020, 4, 6), (0x2028, 4, 1), (0x202C, 4, 1), (0x2030, 4, 1), (0x2034, 4, 1), (0x2038, 4, 0x101)]
def launching : State := parsing 1 ([(8, 8, 0x4000), (0x10, 4, 0x10001), (0x14, 4, 1)] ++ header)
def batching : State :=
  parsing 4 ([(8, 8, 0x4000), (0x10, 8, 0x5000), (0x18, 8, 0x6000), (0x20, 4, 0x4001), (0x24, 4, 0x10001), (0x28, 4, 1)] ++ header)

theorem test_hyp_PacketsAreParsed : parsed launching 1 = true ∧ pkt (packet launching) 1 1 < 2
    ∧ launching.headerDetail (launching.ksRead 0 0x4000 128) = none ∧ launching.coresDetail 1 1 1 = none
    ∧ (let s := parsing 1 [(8, 8, 0x4000)]; parsed s 1 = true ∧ s.headerDetail (s.ksRead 0 0x4000 128) ≠ none)
    ∧ launching.coresDetail 0 1 1 ≠ none
    ∧ (∀ t ∈ [1, 2, 3, 4, 5, 6, 7, 8], parsed (parsing t [(1, 1, 2)]) t = true ∧ 2 ≤ pkt (packet (parsing t [(1, 1, 2)])) 1 1) := by
  decide +kernel

theorem test_batch_PacketsAreParsed : parsed batching 4 = true ∧ batching.headerDetail (batching.ksRead 0 0x4000 128) = none
    ∧ (let p := packet batching; pkt p 0x20 4 % 8192 = 1 ∧ pkt p 0x20 4 / 8192 % 8 = 2 ∧ pkt p 0x26 2 = 1)
    ∧ (parseHeader (batching.ksRead 0 0x4000 128)).ext.getD 0 0 = 1 := by decide +kernel

theorem test_kinds_PacketsAreParsed :
    (let s := parsing 2 [(8, 8, 0x5000), (0x10, 4, 1)]; parsed s 2 = true ∧ pkt (packet s) 0x10 4 % 16 = 1
      ∧ zeroFrom (packet s) 0x14 = true)
    ∧ (∀ k ∈ [0, 1, 2], let s := parsing 3 [(8, 8, 0x5000), (0x18, 4, k)]; parsed s 3 = true ∧ pkt (packet s) 0x18 4 = k
      ∧ zeroFrom (packet s) 0x1C = true)
    ∧ (let s := parsing 5 [(8, 8, 0x5000), (0x28, 4, 64 + 128 * 64)]; parsed s 5 = true ∧ pkt (packet s) 0x28 4 < 16384
      ∧ zeroFrom (packet s) 0x30 = true ∧ s.freeqOk 0 0 = true ∧ s.freeGroup = some (0, 0)
      ∧ ({ s with groups := (List.range 256).map (fun k => (k, grp .voting [] (0, none, 0))) } : State).freeGroup = none)
    ∧ (let s := parsing 6 []; parsed s 6 = true ∧ pkt (packet s) 8 4 < 65536 ∧ zeroFrom (packet s) 0x18 = true
      ∧ (s.startClose 0 0 1 none 0).closes.getLast?.isSome = true) := by decide +kernel

/-- A SAVE or RESTORE of launch 0, of tag 5 and of queue 1, that stands in a state. -/
def saving (type : Nat) (st : LState) (nslot : Nat) : State :=
  let s := parsing type [(8, 4, 1), (0x0C, 4, 5), (0x10, 8, 0x8000), (0x18, 4, 0x100000), (0x1C, 4, nslot)];
  { s with launches := s.launches.map (fun e => (e.1, { e.2 with tag := 5, queue := 1, state := st })) }

theorem test_hyp_SaveRestoreAndFencePolls :
    (∀ st ∈ [LState.running, .waiting], let s := saving 7 st 8; parsed s 7 = true ∧ saveBodyOk (packet s) = true
      ∧ (s.namedLaunch 0 (packet s)).map (fun l => (l.state, s.moving l)) = some (st, false))
    ∧ (let s := parsing 7 [(0x0C, 4, 5)]; parsed s 7 = true ∧ saveBodyOk (packet s) = true ∧ s.namedLaunch 0 (packet s) = none)
    ∧ (let s := saving 7 .running 8; ((s.wg? 0).map (fun w => decide (w.imageSize (s.hdr 0) false ≤ 0x100000 ∧ w.num < 8))) = some true)
    ∧ (let s := saving 8 .suspended 8; parsed s 8 = true ∧ (s.namedLaunch 0 (packet s)).map (·.state) = some .suspended)
    ∧ (let s := (parsing 2 []).setQueue 1 { (parsing 2 []).queue 1 with busy := some (.fence [(0x5000, 0, false, 0)] false) };
      fenceCond 0 false (s.ksReadNat 0 0x5000 8) 0 = true
        ∧ fenceCond 1 false (s.ksReadNat 0 0x5000 8) 0 = false ∧ s.statusHeld 1 = false) := by decide +kernel

/-- A RESTORE of the suspended launch, whose one workgroup is saved at 0x8000 under a counter; its image's header as told. -/
def restoring (prot : Bool) (ctr : Nat) (v : List (Nat × Nat)) : State :=
  let s : State := saving 8 .suspended 8;
  { s with
    mem := ([(0, 0x51494D47), (4, 1), (0x18, 1), (0x1C, 5)] ++ v : List (Nat × Nat)).foldl (fun m e => memPut m (0x8000 + e.1) (leBytes 4 e.2)) s.mem
    contexts := s.contexts.map (fun e => (e.1, { e.2 with prot := prot }))
    launches := s.launches.map (fun e => (e.1, { e.2 with saved := s.wgs.map (fun w => ⟨0, 0x4000, 0x4000, none, ctr, w.2, [], [], 0, []⟩) })) }
def restores (s : State) : Option ImageCheck :=
  match s.launch? 0, s.context? 0 with
  | some l, some x => (l.saved.map (fun v => s.checkImage l x { v with addr := 0x8000, stride := 0x100000, slot := none })).head?
  | _, _ => none

theorem test_images_SaveRestoreAndFencePolls : parsed (restoring false 0 []) 8 = true ∧ saveBodyOk (packet (restoring false 0 [])) = true
    ∧ ((restoring false 0 []).namedLaunch 0 (packet (restoring false 0 []))).map (fun l => (l.state, l.saved.map (·.num))) = some (.suspended, [0])
    ∧ restores (restoring false 0 []) = some .ok ∧ restores (restoring false 0 [(0, 0)]) = some .mismatch
    ∧ restores (restoring false 0 [(0x20, 9)]) = some .capacity ∧ restores (restoring false 1 []) = some .stale := by decide +kernel

theorem test_waits_SaveRestoreAndFencePolls :
    (let s := (saving 7 .running 8).modWg 0 (fun w => { w with stopping := some (0x9000, some 0) });
      parsed s 7 = true ∧ (s.namedLaunch 0 (packet s)).map s.moving = some true)
    ∧ (let s := restoring true 0 []; (s.launch? 0).isSome = true ∧ (s.context? 0).map (·.prot) = some true
      ∧ ofBytes (((s.ksRead 0 0x8000 128).drop 6).take 2) ≠ 1) := by decide +kernel

/-- The mapped context's launch, with little to save, and a command of its pier. -/
def small : State :=
  { mapped with launches := mapped.launches.map (fun e => (e.1, { e.2 with hdr := { e.2.hdr with scratch := 0, accs := 0, regs8 := 1 } })) }
def piered (c : PierCmd) : State := { small with links := [c] }
def unplaced (handed : List Nat) : State :=
  let s := piered (.place 0 0 0);
  { s with wgs := [], launches := s.launches.map (fun e => (e.1, { e.2 with handed := handed, toPlace := [(0, 0)] })) }
def stopped : State := small.modWg 0 (fun w => { w with stopping := some (0x8000, none) })
/-- Its saved workgroup, whose image's header lies at 0x8000: a recorded counter, the magic number and version, and the tile fields. -/
def suspended (ctr magic fields : Nat) : State :=
  { (piered (.resume 0 0 0)) with
    wgs := [], mem := [(0, magic), (4, 1), (0x20, fields)].foldl (fun m e => memPut m (0x8000 + e.1) (leBytes 4 e.2)) small.mem
    launches := small.launches.map (fun e => (e.1, { e.2 with
      saved := small.wgs.map (fun w => ⟨0, 0x8000, 0x4000, none, ctr, w.2, [], [], 0, []⟩) })) }

theorem test_hyp_PiersExecuteCommands :
    (∀ h ∈ [[], [0]], (unplaced h).pierNext 0 = some (.place 0 0 0) ∧ ((unplaced h).cluster 0).clearing = none)
    ∧ ((unplaced []).launch? 0).map (fun l => (unplaced []).dispense l 0) = some (some 0)
    ∧ ((unplaced [0]).launch? 0).map (fun l => (unplaced [0]).dispense l 0) = some none
    ∧ (((small.modWg 0 (fun w => { w with unborn := true })).wg? 0).map (fun w => (w.unborn, w.frozen))) = some (true, false)
    ∧ (piered (.stop 0 0 0x8000 none)).pierNext 0 = some (.stop 0 0 0x8000 none)
    ∧ ((piered (.stop 0 0 0x8000 none)).wg? 0).map (·.cancelled) = some false
    ∧ (piered (.discard 0)).pierNext 0 = some (.discard 0)
    ∧ ((piered (.discard 0)).launch? 0).map (·.state) = some .running := by decide +kernel

theorem test_save_PiersExecuteCommands :
    ((stopped.wg? 0).map (fun w => (w.stopping, w.frozen, w.cancelled, stopped.stopReady 0 w))
      = some (some (0x8000, none), false, false, true))
    ∧ (∀ e ∈ stopped.launches, e.2.ctx = 0) ∧ stopped.queues = [] := by decide +kernel

/-- What a resume asks of the saved workgroup 0, and what the check of its image answers. -/
def resumes (s : State) (r : ImageCheck) : Bool :=
  match s.launch? 0, s.context? 0 with
  | some l, some x => match l.saved.find? (fun v => v.num = 0) with
    | some v => l.state = .running && !s.savedCancelled l v && s.resumeReady 0 l.ctx v && (s.pierTake (.resume 0 0 0)).checkImage l x v = r
    | none => false
  | _, _ => false

theorem test_resume_PiersExecuteCommands : (suspended 0 0x51494D47 0).pierNext 0 = some (.resume 0 0 0)
    ∧ resumes (suspended 0 0x51494D47 0) .ok = true ∧ resumes (suspended 1 0x51494D47 0) .stale = true
    ∧ resumes (suspended 0 0x51494D47 9) .capacity = true ∧ resumes (suspended 0 0 0) .mismatch = true := by decide +kernel

/-- A saved workgroup of the launch does not wait, while the one on core 0 does. -/
def exchanging : State :=
  let t := small.onLanes (List.range 64) (fun _ x => { x with wait := .barrier (.grid 0) 0 });
  { t with
    contexts := t.contexts.map (fun e => (e.1, { e.2 with reg := { e.2.reg with saStride := 0x10000, saSlots := 1 } }))
    launches := t.launches.map (fun e => (e.1, { e.2 with
      saved := (small.wgs.map (fun w => ⟨1, 0x9000, 0x4000, none, 1, w.2, [], [], 0, []⟩)) })) }

theorem test_exchange_PiersExecuteCommands :
    (match exchanging.wg? 0, exchanging.launch? 0, exchanging.context? 0 with
      | some w, some l, some c => exchanging.up && l.state = .running && !l.hdr.cluster && !exchanging.beingSaved 0
          && l.saved.any (fun v => !exchanging.savedWaits l v && exchanging.fitsCore l v 0) && exchanging.stoppable 0 w && exchanging.allWait l w exchanging.qops
          && w.tfTile.isNone && exchanging.permit 0 && c.saveSlot (w.imageSize l.hdr c.prot) = some 0
      | _, _, _ => false) = true := by decide +kernel

/-- A link whose next command stops a workgroup that has ended, or one with no room for its image. -/
theorem test_stops_PiersExecuteCommands :
    (let s := (piered (.stop 0 0 0x8000 none)).modWg 0 (fun w => { w with teams := [] });
      (s.wg? 0).map (fun w => (w.cancelled, w.ended)) = some (false, true))
    ∧ (let t := (piered (.stop 0 0 0x8000 (some 0))).pierTake (.stop 0 0 0x8000 (some 0));
      (t.wg? 0).map (fun w => decide (t.imageRoom w (some 0) < w.imageSize (t.hdr 0) (t.isProt 0))) = some true)
    ∧ ({ (piered (.stop 0 0 0x8000 none)) with wgs := [] } : State).wg? 0 = none
    ∧ (piered (.discard 0)).isProt 0 = false := by decide +kernel

theorem test_hyp_InterfacesKeysAndResets : base.up = true ∧ (31 : Nat) < 32 ∧ (base.iface 1).resetting = 0
    ∧ (∀ n ∈ [0, 1, 2], let s := base.setIface 1 { base.iface 1 with session := true, state := n, starting := true };
      (s.iface 1).session = true ∧ (s.iface 1).state = n ∧ (s.iface 1).starting = true ∧ (s.iface 1).resetting ≠ 1)
    ∧ (∀ e ∈ base.contexts, e.2.reg.fn ≠ 1) ∧ base.chans = [] ∧ base.writes = []
    ∧ (({ base with keys := [(3, ⟨2, 0x1FFF, 0⟩)] } : State).key 3).state = 2 ∧ base.ifaces = []
    ∧ 0x1FFF ||| BitVec.twoPow 14 13 = BitVec.allOnes 14 ∧ 0 ||| BitVec.twoPow 14 13 ≠ BitVec.allOnes 14 := by decide +kernel

/-- A context to be registered through function 1. -/
def newCtx : CtxReg := ⟨7, 1, 0, 0, 0, 0, 0, 0, none, [], [5], 3⟩
def request (fn : Nat) (data : Option (List Byte)) : HostReq := ⟨fn, none, 0, data, 4, false⟩

theorem test_hyp_ContextsQueuesAndHostRequests : base.up = true ∧ newCtx.fn < 32 ∧ base.context? 7 = none ∧ (base.key 3).state = 0
    ∧ (∀ n ∈ [0, 1, 2, 3], ((base.setIface 1 { base.iface 1 with state := n }).iface 1).state = n)
    ∧ (({ base with launches := [] } : State).context? 0).isSome = true
    ∧ (let s := parsing 0 [(0x3008, 4, 4)]; s.ksPlace 0 0x5000 false ≠ none ∧ descOk (s.ksRead 0 0x5000 64) = true
      ∧ kvGet ({ s with hwqs := [] } : State).hwqs 0 = none)
    ∧ (∀ d ∈ [none, some [1, 2, 3, 4]], base.requestOk (request 0 d) = true) ∧ memExists base.part (keyOf spDevice 0 + 3) = true
    ∧ (base.iface 1).resetting = 0 ∧ newCtx.keySlot < 64 ∧ (base.context? 0).map (·.reg.fn) = some 0
    ∧ base.ideDead (request 0 none) = false
    ∧ (let s : State := { base with contexts := base.contexts.map (fun e => (e.1, { e.2 with prot := true })) };
      s.ideDead { request 0 none with ide := some 0 } = true)
    ∧ (∀ fn ∈ [0, 40], ({ base with owners := [(granuleOf (keyOf spDevice 0), 9)] } : State).requestOk (request fn none) = false) := by
  decide +kernel

/-- A launch waits alone for one core; a protected context's slice has begun, or a clear sequence. -/
def waiting : State := { base with wgs := [], launches := base.launches.map (fun e => (e.1, { e.2 with state := .waiting, mask := [] })) }
def slicing (cyc : Nat) (start clear : Option Nat) (ms : List Nat) : State :=
  { base with
    wgs := [], clusters := [(0, ⟨1050, cyc, some 0, start, clear, 0⟩)], launches := base.launches.map (fun e => (e.1, { e.2 with mask := ms })) }

theorem test_hyp_SchedulingSteps :
    (waiting.launches.map (fun e => (e.1, e.2.id, e.2.state, e.2.saved.length, decide (e.2.cmin ≤ (waiting.eligible e.2).length))))
      = [(0, 0, .waiting, 0, true)] ∧ waiting.isProt 0 = false ∧ waiting.links = [] ∧ waiting.wgs = []
    ∧ (let s : State := { base with wgs := [] };
      (s.launch? s.choice).map (fun l => (s.launchOver l, s.sliceOf l.ctx)) = some (true, none))
    ∧ (∀ c ∈ [1799999, 1800000], let s := slicing c (some 0) none [];
      (s.cluster s.choice).active = some 0 ∧ (s.cluster 0).sliceStart = some 0 ∧ (s.cluster 0).cycles = c)
    ∧ (∀ c ∈ [10799, 10800], ∀ m ∈ [[], [0]], let s := slicing c none (some 0) m;
      (s.cluster 0).clearing = some 0 ∧ s.wgs = [] ∧ s.links = [] ∧ s.settles = [] ∧ s.launches.map (·.2.mask) = [m]) := by
  decide +kernel

/-- A device in recovery whose staged image is longer than a slot. -/
def recovering : State := { base with recov := { base.recov with active := true, busy := true, slen := 0xFFFFFFFF } }

theorem test_hyp_PowerAndFirmware : base.openCluster base.choice = true ∧ (base.cluster base.choice).mhz = 1050
    ∧ ((base.setClock 0 600).cluster 0).mhz = 600 ∧ base.powered = true ∧ base.choice = 0
    ∧ recovering.recov.active = true ∧ recovering.recov.busy = true
    ∧ (match recovering.commitPlan with | .error e => some e | .ok _ => none) = some 2 := by decide +kernel

theorem test_hyp_StepRunsTheDecodedInstruction :
    (let s := State.reset.withFetchWord 32 0x0381040C;
      s.agenda = [.issue 0 0 false] ∧ ({ s with agenda := [] } : State).pick 0 0 false = some (0, 0x1000)
      ∧ (let v := ({ s with agenda := [] } : State).beginIssue 0 0 0x1000 false;
        v.hasDeferred = false ∧ v.translate 0 (v.ctxOf 0) 0x1000 false false = .ok 0x1000 ∧ memExists v.part 0x1000 = true
        ∧ decode (v.readBytes 0x1000 4) = .unit (.iadd 7 1 2 3) []))
    ∧ ({ base with agenda := [] } : State).readySlot = some (0, 0, false) ∧ Instr.powerOn.isEvent = true
    ∧ (let v := (State.reset.withFetchWord 32 0x0381040C);
      v.firewallOk (v.ctxOf 0) 0x1000 = true
        ∧ ({ v with owners := [(granuleOf 0x1000, 9)] } : State).firewallOk (v.ctxOf 0) 0x1000 = false) := by decide +kernel

theorem test_hyp_DecodeAndEncodeAgree : (Instr.iadd 7 127 0 127).isEvent = false
    ∧ decodeWord 0x0381040C = some (.iadd 7 1 2 3) := by decide +kernel

theorem test_hyp_StepKeepsMemoryForm : memWf base.mem = true
    ∧ (match step State.reset with | .next _ => true | _ => false) = true := by decide +kernel

/-! ### Words of the encoding tables decode (R281 to R284)

Each word is its row's fixed bits with its fields, each of a value of its own, in their places. -/

/-- Words of groups 0x00 to 0x03. -/
theorem test_words_00 : decodeWord 0x01C8CA08 = some (.iadd 3 72 101 2)
    ∧ decodeWord 0x014FD825 = some (.isub 2 79 108 9)
    ∧ decodeWord 0x00D6E642 = some (.imul 1 86 115 16)
    ∧ decodeWord 0x005DF45F = some (.imulh 0 93 122 23)
    ∧ decodeWord 0x07E40278 = some (.imulhu 7 100 1 30)
    ∧ decodeWord 0x076B1095 = some (.imad 6 107 8 37)
    ∧ decodeWord 0x06F21EB2 = some (.imin 5 114 15 44)
    ∧ decodeWord 0x06792CCF = some (.imax 4 121 22 51)
    ∧ decodeWord 0x09803AE8 = some (.iminu 3 0 29 58)
    ∧ decodeWord 0x09074905 = some (.imaxu 2 7 36 65)
    ∧ decodeWord 0x088E5722 = some (.isel 1 14 43 72)
    ∧ decodeWord 0x0815653F = some (.iabsd 0 21 50 79)
    ∧ decodeWord 0x0F9C7358 = some (.and 7 28 57 86)
    ∧ decodeWord 0x0F238175 = some (.or 6 35 64 93)
    ∧ decodeWord 0x0EAA8F92 = some (.xor 5 42 71 100)
    ∧ decodeWord 0x0E319DAF = some (.andn 4 49 78 107) := by decide +kernel

/-- Words of groups 0x04 to 0x07. -/
theorem test_words_04 : decodeWord 0x11B8ABC8 = some (.shl 3 56 85 114)
    ∧ decodeWord 0x113FB9E5 = some (.shr 2 63 92 121)
    ∧ decodeWord 0x10C6C602 = some (.shra 1 70 99 0)
    ∧ decodeWord 0x104DD41F = some (.rotl 0 77 106 7)
    ∧ decodeWord 0x17D4E200 = some (.popc 7 84 113)
    ∧ decodeWord 0x175BF001 = some (.clz 6 91 120)
    ∧ decodeWord 0x16E2FE02 = some (.brev 5 98 127)
    ∧ decodeWord 0x16690C8F = some (.bfx 4 105 6 35)
    ∧ decodeWord 0x19F01AA8 = some (.bfi 3 112 13 42)
    ∧ decodeWord 0x193C6339 = some (.icmp 2 7 4 49 78)
    ∧ decodeWord 0x18F37156 = some (.fcmp 1 14 3 56 85)
    ∧ decodeWord 0x18054403 = some (.mov 0 5 34)
    ∧ decodeWord 0x1F8C5318 = some (.fadd 7 12 41 70)
    ∧ decodeWord 0x1F136135 = some (.fsub 6 19 48 77)
    ∧ decodeWord 0x1E9A6F52 = some (.fmul 5 26 55 84)
    ∧ decodeWord 0x1E217D6F = some (.ffma 4 33 62 91) := by decide +kernel

/-- Words of groups 0x08 to 0x0B. -/
theorem test_words_08 : decodeWord 0x21A88B88 = some (.fmin 3 40 69 98)
    ∧ decodeWord 0x212F99A5 = some (.fmax 2 47 76 105)
    ∧ decodeWord 0x20B6A7C2 = some (.frnd 1 54 83 112)
    ∧ decodeWord 0x203DB5DF = some (.fcvt 0 61 90 119)
    ∧ decodeWord 0x27C4C3F8 = some (.hadd2 7 68 97 126)
    ∧ decodeWord 0x274BD015 = some (.hmul2 6 75 104 5)
    ∧ decodeWord 0x26D2DE32 = some (.hfma2 5 82 111 12)
    ∧ decodeWord 0x2659EC4F = some (.hmax2 4 89 118 19)
    ∧ decodeWord 0x29E0FA68 = some (.badd2 3 96 125 26)
    ∧ decodeWord 0x29670885 = some (.bmul2 2 103 4 33)
    ∧ decodeWord 0x28EE16A2 = some (.bfma2 1 110 11 40)
    ∧ decodeWord 0x287524BF = some (.bmax2 0 117 18 47)
    ∧ decodeWord 0x2FFC32D8 = some (.dadd 7 124 25 54)
    ∧ decodeWord 0x2F0340F5 = some (.dmul 6 3 32 61)
    ∧ decodeWord 0x2E8A4F12 = some (.dfma 5 10 39 68)
    ∧ decodeWord 0x2E115D2F = some (.dcvt 4 17 46 75) := by decide +kernel

/-- Words of groups 0x0C to 0x0F. -/
theorem test_words_0C : decodeWord 0x31986B48 = some (.vnbr 3 24 53 82)
    ∧ decodeWord 0x311F7965 = some (.vscan 2 31 60 89)
    ∧ decodeWord 0x30A68782 = some (.vred 1 38 67 96)
    ∧ decodeWord 0x302D059F = some (.vvote 0 45 2 103)
    ∧ decodeWord 0x37B4A3B8 = some (.vqnsE2m1 7 52 81 110)
    ∧ decodeWord 0x373BB1D5 = some (.vqnsI4h 6 59 88 117)
    ∧ decodeWord 0x36C2BFF2 = some (.vqnsI8h 5 66 95 124)
    ∧ decodeWord 0x3649CC0F = some (.vdq 4 73 102 3)
    ∧ decodeWord 0x39D0DA28 = some (.sfq 3 80 109 10)
    ∧ decodeWord 0x3957E801 = some (.sread 2 87 116)
    ∧ decodeWord 0x3880BDEE = some (.will 1 94 123)
    ∧ decodeWord 0x3865000B = some (.heirq 0 101 2)
    ∧ decodeWord 0x3F840218 = some (.pand 7 4 1 6)
    ∧ decodeWord 0x3F030015 = some (.por 6 3 0 5)
    ∧ decodeWord 0x3E820E12 = some (.pxor 5 2 7 4)
    ∧ decodeWord 0x3E010C0F = some (.pnand 4 1 6 3) := by decide +kernel

/-- Words of groups 0x10 to 0x16. -/
theorem test_words_10 : decodeWord 0x4188A7CA = some (.movi 3 8 42954)
    ∧ decodeWord 0x450F5849 = some (.iaddi 2 15 44 73)
    ∧ decodeWord 0x48966740 = some (.ldB 1 22 51 80)
    ∧ decodeWord 0x481D755D = some (.ldSb 0 29 58 87)
    ∧ decodeWord 0x4BA4837A = some (.ldH 7 36 65 94)
    ∧ decodeWord 0x4B2B9197 = some (.ldSh 6 43 72 101)
    ∧ decodeWord 0x4EB29FB0 = some (.ldW 5 50 79 108)
    ∧ decodeWord 0x4E39ADCD = some (.ldD 4 57 86 115)
    ∧ decodeWord 0x4DC0BBEA = some (.ldQ 3 64 93 122)
    ∧ decodeWord 0x4D008F93 = some (.prf 2 71 100)
    ∧ decodeWord 0x50CED620 = some (.stB 1 78 107 8)
    ∧ decodeWord 0x5055E43D = some (.stH 0 85 114 15)
    ∧ decodeWord 0x53DCF25A = some (.stW 7 92 121 22)
    ∧ decodeWord 0x53630077 = some (.stD 6 99 0 29)
    ∧ decodeWord 0x56EA0E90 = some (.stQ 5 106 7 36)
    ∧ decodeWord 0x58711CAC = some (.atomAdd 0 113 14 43)
    ∧ decodeWord 0x5B782AC9 = some (.atomFadd 3 120 21 50)
    ∧ decodeWord 0x5A7F38E6 = some (.atomMin 2 127 28 57)
    ∧ decodeWord 0x59064703 = some (.atomMax 1 6 35 64) := by decide +kernel

/-- Words of groups 0x17 to 0x1E. -/
theorem test_words_17 : decodeWord 0x5C0D551C = some (.atomAnd 0 13 42 71)
    ∧ decodeWord 0x5F146339 = some (.atomOr 3 20 49 78)
    ∧ decodeWord 0x5E1B7156 = some (.atomXor 2 27 56 85)
    ∧ decodeWord 0x5D227F73 = some (.atomExch 1 34 63 92)
    ∧ decodeWord 0x60108D8C = some (.red 0 1 70 99)
    ∧ decodeWord 0x67309BA8 = some (.casW 3 48 77 106)
    ∧ decodeWord 0x6637A9C5 = some (.casD 2 55 84 113)
    ∧ decodeWord 0x7085A863 = some (.bra 1 370787)
    ∧ decodeWord 0x7405A86A = some (.call 0 370794)
    ∧ decodeWord 0x7B800000 = some (.ret 7)
    ∧ decodeWord 0x7B08A600 = some (.jmpr 6 83)
    ∧ decodeWord 0x7A900000 = some (.exit 5)
    ∧ decodeWord 0x7A180000 = some (.reform 4)
    ∧ decodeWord 0x79A00000 = some (.join 3 0)
    ∧ decodeWord 0x7928A894 = some (.sfwait 2 43156)
    ∧ decodeWord 0x78B00000 = some (.nop 1)
    ∧ decodeWord 0x783800FD = some (.trapl 0 253) := by decide +kernel

/-- Words of groups 0x20 to 0x23. -/
theorem test_words_20 : decodeWord 0x838442F8 = some (.sadd 7 4 33 62)
    ∧ decodeWord 0x830B5115 = some (.ssub 6 11 40 69)
    ∧ decodeWord 0x82925F32 = some (.smul 5 18 47 76)
    ∧ decodeWord 0x82196D4F = some (.smulh 4 25 54 83)
    ∧ decodeWord 0x85A07B68 = some (.sand 3 32 61 90)
    ∧ decodeWord 0x85278985 = some (.sor 2 39 68 97)
    ∧ decodeWord 0x84AE97A2 = some (.sxor 1 46 75 104)
    ∧ decodeWord 0x8435A5BF = some (.sshl 0 53 82 111)
    ∧ decodeWord 0x8BBCB3D8 = some (.sshr 7 60 89 118)
    ∧ decodeWord 0x8B43C1F5 = some (.sshra 6 67 96 125)
    ∧ decodeWord 0x8ACACE12 = some (.smin 5 74 103 4)
    ∧ decodeWord 0x8A51DC2F = some (.smax 4 81 110 11)
    ∧ decodeWord 0x8DC524BC = some (.scmp 3 8 5 18 47)
    ∧ decodeWord 0x8D5FF865 = some (.ssel 2 95 124 25)
    ∧ decodeWord 0x8CE60602 = some (.smov 1 102 3)
    ∧ decodeWord 0x8C6D1403 = some (.ssr 0 109 10) := by decide +kernel

/-- Words of groups 0x24 to 0x2A. -/
theorem test_words_24 : decodeWord 0x93F4A936 = some (.smovi 7 116 43318)
    ∧ decodeWord 0x977B31B5 = some (.saddi 6 123 24 437)
    ∧ decodeWord 0x9A823EF0 = some (.sldW 5 2 31 60)
    ∧ decodeWord 0x9A094D0D = some (.sldD 4 9 38 67)
    ∧ decodeWord 0x99905B2A = some (.sstW 3 16 45 74)
    ∧ decodeWord 0x99176947 = some (.sstD 2 23 52 81)
    ∧ decodeWord 0x9C860600 = some (.qand 1 6 3 0)
    ∧ decodeWord 0x9C05041D = some (.qor 0 5 2 7)
    ∧ decodeWord 0x9F84021A = some (.qxor 7 4 1 6)
    ∧ decodeWord 0x9F030017 = some (.qnand 6 3 0 5)
    ∧ decodeWord 0xA285A95F = some (.sbra 5 371039)
    ∧ decodeWord 0xA63E0000 = some (.barSync 4 1 30)
    ∧ decodeWord 0xA5850001 = some (.barArv 3 0 5)
    ∧ decodeWord 0xA56C0002 = some (.barWait 2 3 12)
    ∧ decodeWord 0xA4D32003 = some (.barQry 1 2 19 16)
    ∧ decodeWord 0xA8050000 = some (.kset 0 5)
    ∧ decodeWord 0xAB840219 = some (.kand 7 4 1 6)
    ∧ decodeWord 0xAB030016 = some (.kor 6 3 0 5)
    ∧ decodeWord 0xAA820E03 = some (.kmov 5 2 7) := by decide +kernel

/-- Words of groups 0x2B to 0x2F. -/
theorem test_words_2B : decodeWord 0xAE4B1800 = some (.waitc 4 9 6 3 0)
    ∧ decodeWord 0xAD880001 = some (.fence 3 0 1)
    ∧ decodeWord 0xAD000E02 = some (.smode 2 7)
    ∧ decodeWord 0xAC800003 = some (.yield 1)
    ∧ decodeWord 0xB0150008 = some (.mma 0 21 2)
    ∧ decodeWord 0xB39C0005 = some (.aswap 7 28 1)
    ∧ decodeWord 0xB3230002 = some (.azero 6 35 0)
    ∧ decodeWord 0xB6AA000C = some (.ald 5 42 3)
    ∧ decodeWord 0xB6310009 = some (.ast 4 49 2)
    ∧ decodeWord 0xB9B80000 = some (.tcopy 3 56)
    ∧ decodeWord 0xB93F0001 = some (.tqst 2 63)
    ∧ decodeWord 0xB8C60002 = some (.tchain 1 70)
    ∧ decodeWord 0xB84D0003 = some (.trot 0 77)
    ∧ decodeWord 0xBFD401C4 = some (.awinit 7 84 113)
    ∧ decodeWord 0xBF5B01E1 = some (.awwait 6 91 120)
    ∧ decodeWord 0xBEE2FE02 = some (.awqry 5 98 127)
    ∧ decodeWord 0xBE000007 = some (.tfetch 4 1) := by decide +kernel

/-- Words of groups 0x30 to 0x33. -/
theorem test_words_30 : decodeWord 0xC1F01AA8 = some (.bpost 3 112 13 42)
    ∧ decodeWord 0xC1770001 = some (.bqry 2 119)
    ∧ decodeWord 0xC0800002 = some (.sibchk 1)
    ∧ decodeWord 0xC42844FC = some (.waitm 0 5 34 63)
    ∧ decodeWord 0xC78018A5 = some (.seal 7 12 41)
    ∧ decodeWord 0xC70026C2 = some (.unseal 6 19 48)
    ∧ decodeWord 0xCA9A6E00 = some (.qpushD 5 26 55)
    ∧ decodeWord 0xCA217C04 = some (.qpushL 4 33 62)
    ∧ decodeWord 0xC9A88A01 = some (.qpopD 3 40 69)
    ∧ decodeWord 0xC92F9805 = some (.qpopL 2 47 76)
    ∧ decodeWord 0xC8B6A602 = some (.qtryD 1 54 83)
    ∧ decodeWord 0xC83DB406 = some (.qtryL 0 61 90)
    ∧ decodeWord 0xCF800310 = some (.trap 7 196)
    ∧ decodeWord 0xCF009601 = some (.rett 6 75)
    ∧ decodeWord 0xCE800002 = some (.brkpt 5) := by decide +kernel

/-- A prefix word stands before the word it governs: EXT, group 0x1F with bit 25 clear; PAT, with bit 25 set. -/
theorem test_words_prefix : decode ([0x34, 0x12, 0x00, 0x7C] ++ [0x78, 0x56, 0x85, 0x43] ++ [1]) = .unit (.ext 0x1234 0x43855678) [1]
    ∧ decode ([0x00, 0x42, 0x00, 0x7E] ++ [0x0C, 0x04, 0x81, 0x03]) = .unit (.pat 0 0x21 0x0381040C) []
    ∧ decode [0x0C, 0x04, 0x81, 0x03] = .unit (.iadd 7 1 2 3) [] ∧ decode [0x0C, 0x04, 0x81] = .short
    ∧ decode [0x34, 0x12, 0x00, 0x7C] = .short := by decide +kernel

/-- A reserved group, a reserved function and a reserved bit are no instruction. -/
theorem test_reserved : decodeWord 0x68000000 = none ∧ decodeWord 0x60000001 = none ∧ decodeWord 0x7B900001 = none
    ∧ decodeWord 0x38000005 = none ∧ decodeWord 0xFC000000 = none := by decide +kernel

/-! ### Ill-formed instructions are refused, one for each check -/

theorem test_ill_conditions : (Instr.icmp 7 10 0 0 0).wf = false ∧ (Instr.scmp 7 15 0 0 0).wf = false ∧ (Instr.waitm 7 10 0 0).wf = false
    ∧ (Instr.fcmp 7 13 0 0 0).wf = false := by decide +kernel

theorem test_ill_codes : (Instr.frnd 7 0 0 5).wf = false ∧ (Instr.fcvt 7 0 0 7).wf = false ∧ (Instr.fcvt 7 0 0 0x0F).wf = false
    ∧ (Instr.dcvt 7 0 0 0x0F).wf = false ∧ (Instr.dcvt 7 0 0 0x14).wf = false ∧ (Instr.vnbr 7 0 0 2).wf = false
    ∧ (Instr.vscan 7 0 0 6).wf = false ∧ (Instr.vred 7 0 0 6).wf = false ∧ (Instr.vvote 7 0 0 3).wf = false
    ∧ (Instr.sfq 7 0 0 8).wf = false ∧ (Instr.heirq 7 0 8).wf = false := by decide +kernel

theorem test_ill_selectors : (Instr.sread 7 0 0x19).wf = false ∧ (Instr.ssr 7 0 0x01).wf = false ∧ (Instr.ssr 7 0 0x17).wf = false := by
  decide +kernel

theorem test_ill_quantised : (Instr.vqnsE2m1 7 4 2 4).wf = false ∧ (Instr.vqnsI4h 7 4 2 4).wf = false ∧ (Instr.vqnsI8h 7 4 2 4).wf = false := by
  decide +kernel

theorem test_ill_barriers : (Instr.barSync 7 0 8).wf = false ∧ (Instr.barArv 7 1 16).wf = false ∧ (Instr.barWait 7 2 8).wf = false
    ∧ (Instr.barQry 7 3 4 0).wf = false ∧ (Instr.fence 7 0 3).wf = false := by decide +kernel

theorem test_ill_prefixes : (Instr.ext 0x10000 0x43855678).wf = false ∧ (Instr.ext 0 0x0381040C).wf = false
    ∧ (Instr.pat 0x20 0 0x43855678).wf = false ∧ (Instr.pat 0x01 0 0x0381040C).wf = false ∧ (Instr.pat 0x40 0 0x0381040C).wf = true
    ∧ (Instr.pat 0x41 0 0x0381040C).wf = false ∧ (Instr.pat 0xA8 0 0x0381040C).wf = false ∧ (Instr.pat 0xE0 0 0x0381040C).wf = false
    ∧ (Instr.pat 0 0x20 0x1781040F).wf = true := by decide +kernel

/-! ### One step on the small state -/

/-- v1 of lane 0 after an instruction, with v2 and v3 of every lane set before. -/
def v1After (i : Instr) (x y : Word) : Option Word :=
  let s := probe (fun t => (t.setV 2 x).setV 3 y) id id;
  ((after i s).thread? 0 0 0).map (fun t => t.v 1)

theorem test_iadd_wraps : v1After (.iadd 7 1 2 3) 0xFFFFFFFF 2 = some 1 := by decide +kernel
theorem test_imulh_sign : v1After (.imulh 7 1 2 3) 0xFFFFFFFF 2 = some 0xFFFFFFFF ∧ v1After (.imulhu 7 1 2 3) 0xFFFFFFFF 2 = some 1 := by
  decide +kernel
theorem test_fadd_rounds : v1After (.fadd 7 1 2 3) 0x3F800000 0x33800000 = some 0x3F800000
    ∧ v1After (.fadd 7 1 2 3) 0x7F7FFFFF 0x7F7FFFFF = some 0x7F800000 := by decide +kernel
theorem test_shra_sign : v1After (.shra 7 1 2 3) 0x80000000 4 = some 0xF8000000 := by decide +kernel
theorem test_trap_saves :
    ((after (.trapl 7 5) base).thread? 0 0 0).map (fun t => (t.inHandler, t.tpc, t.pc)) = some (true, 0x1004, 0x2000) := by decide +kernel

end Sys2Proof.Machine
end

namespace Sys2Proof.Machine

/-! ### SUPPORT: a memory with nothing listed -/

theorem memBytes_nil (k n : Nat) : memBytes [] k n = List.replicate n 0 := by
  induction n generalizing k with
  | zero => rfl
  | succ n ih => rw [memBytes, ih, List.replicate_succ]; rfl

/-- Settles O60: the state right after reset evaluates, part by part, to the Reset values. -/
theorem resetState : Obligations.ResetState := by
  unfold Obligations.ResetState
  intro s
  refine ⟨rfl, rfl, rfl, rfl, rfl, rfl, rfl, fun q => ⟨rfl, rfl, rfl, rfl, rfl, rfl, rfl, rfl, rfl, rfl, rfl⟩, ?_, ?_, ?_,
    fun fn => ⟨rfl, rfl, rfl, rfl⟩, fun k => rfl, fun cl => rfl, rfl, rfl, memBytes_nil⟩
  · decide
  · decide
  · decide

/-! ### SUPPORT: a host write of a register (R6) -/

theorem up_iff (s : State) : s.up = true ↔ s.powered = true ∧ s.recov.active = false := by
  unfold State.up
  rw [Bool.and_eq_true, Bool.not_eq_true']

theorem between_iff (lo hi off : Nat) : (decide (lo ≤ off) && decide (off < hi)) = true ↔ lo ≤ off ∧ off < hi := by
  rw [Bool.and_eq_true, decide_eq_true_eq, decide_eq_true_eq]

section
variable {s : State} {fn : Nat} (f : State → State)

theorem lockedWrite_unlocked (h : (s.iface fn).state = 0) : s.lockedWrite fn f = f s := by
  simp only [State.lockedWrite, h]

theorem lockedWrite_locked (h : (s.iface fn).state = 1 ∨ (s.iface fn).state = 2) :
    s.lockedWrite fn f = s.enterError fn true false false := by
  obtain h | h := h <;> simp only [State.lockedWrite, h]

theorem lockedWrite_error (h : (s.iface fn).state = 3) : s.lockedWrite fn f = s := by
  simp only [State.lockedWrite, h]

end

/-! ### Which part an offset reaches -/

/-- What a write of the physical function does at an offset outside the blocks of queues and hardware queues. -/
def physicalWrite (off : Nat) (val : Word) (s : State) : State :=
  match off with
  | 0x3004 => { s with faultLog := { s.faultLog with rptr := val } }
  | 0x300C => { s with faultLog := { s.faultLog with inten := val.getLsbD 0 } }
  | 0x3044 => { s with eventLog := { s.eventLog with rptr := val } }
  | 0x304C => { s with eventLog := { s.eventLog with inten := val.getLsbD 0 } }
  | 0x80000 => s.lockedWrite 0 (fun s => { s with fb := { s.fb with base := setHalf s.fb.base false val } })
  | 0x80004 => s.lockedWrite 0 (fun s => { s with fb := { s.fb with base := setHalf s.fb.base true val } })
  | 0x80008 => s.fbControl val
  | 0x80010 => { s with fb := { s.fb with rptr := val } }
  | 0x80040 => { s with inval := { s.inval with va := setHalf s.inval.va false val } }
  | 0x80044 => { s with inval := { s.inval with va := setHalf s.inval.va true val } }
  | 0x80048 => { s with inval := { s.inval with pages := val } }
  | 0x8004C => { s with inval := { s.inval with ctx := val } }
  | 0x100000000 => s.lockedWrite 0 (fun s => { s with cxlCoherent := val.getLsbD 0 })
  | _ => s

section
variable {s : State} (val : Word) (hup : s.up = true)
include hup

theorem registerWrite_physical {off : Nat} (h4 : off % 4 = 0) (ho : off < 0x90000 ∨ 0x110000 ≤ off) :
    exec (.registerWrite 0 off val) s = .next (physicalWrite off val s) := by
  obtain ⟨hp, ha⟩ := (up_iff s).1 hup
  have hq : ¬ (0x100000 ≤ off ∧ off < 0x110000) := by omega
  have hh : ¬ (0x90000 ≤ off ∧ off < 0x98000) := by omega
  rw [← between_iff] at hq hh
  dsimp only [exec]
  unfold execRegisterWrite
  rw [if_neg (by simp [hp, h4]), if_neg (by simp [ha]), if_neg hq, if_neg hh, if_neg (by decide)]
  rfl

/-- A word of a queue's block reaches the queue of its place (R154). -/
theorem registerWrite_queueWord {fn q off : Nat} (hf : fn < 32) (hq : q < 1024) (ho : off < 64) (h4 : off % 4 = 0) :
    exec (.registerWrite fn (0x100000 + 64 * q + off) val) s = .next (s.queueWord fn q off val) := by
  obtain ⟨hp, ha⟩ := (up_iff s).1 hup
  have hword : (0x100000 + 64 * q + off) % 4 = 0 := by omega
  have hin := (between_iff 0x100000 0x110000 (0x100000 + 64 * q + off)).2 (by omega)
  have hplace : (0x100000 + 64 * q + off - 0x100000) / 64 = q := by omega
  have hoff : (0x100000 + 64 * q + off) % 64 = off := by omega
  dsimp only [exec]
  unfold execRegisterWrite
  rw [if_neg (by simp [hp, hword, hf]), if_neg (by simp [ha]), if_pos hin, hplace, hoff]

/-- A word of a hardware queue's place counts its out-of-order values anew (R205). -/
theorem registerWrite_oovcnt {fn n : Nat} {y : HwQueue} (hf : fn < 32) (hn : n < 4096) (hy : kvGet s.hwqs n = some y)
    (ho : y.fn = fn) : exec (.registerWrite fn (0x90000 + 8 * n) val) s
      = .next { s with hwqs := kvMod s.hwqs n (fun x => { x with oovcnt := val }) } := by
  obtain ⟨hp, ha⟩ := (up_iff s).1 hup
  have hword : (0x90000 + 8 * n) % 4 = 0 := by omega
  have hout : ¬ (0x100000 ≤ 0x90000 + 8 * n ∧ 0x90000 + 8 * n < 0x110000) := by omega
  rw [← between_iff] at hout
  have hin := (between_iff 0x90000 0x98000 (0x90000 + 8 * n)).2 (by omega)
  have hplace : (0x90000 + 8 * n - 0x90000) / 8 = n := by omega
  have hfirst : (0x90000 + 8 * n) % 8 = 0 := by omega
  dsimp only [exec]
  unfold execRegisterWrite
  rw [if_neg (by simp [hp, hword, hf]), if_neg (by simp [ha]), if_neg hout, if_pos hin]
  dsimp only
  rw [hplace, hfirst, hy, if_neg (by simp [ho])]

end

/-- In recovery a write reaches SLEN and the staging area (R237). -/
theorem registerWrite_stage {s : State} {off : Nat} (val : Word) (hp : s.powered = true) (ha : s.recov.active = true)
    (h4 : off % 4 = 0) (hlo : 0x2000000 ≤ off) (hhi : off < 0x4000000) :
    exec (.registerWrite 0 off val) s = .next (s.writeBytes (keyOf spStage (off - 0x2000000)) (toBytes 4 val.toNat)) := by
  have hin := (between_iff 0x2000000 0x4000000 off).2 ⟨hlo, hhi⟩
  dsimp only [exec]
  unfold execRegisterWrite
  rw [if_neg (by simp [hp, h4]), if_pos ha, if_neg (by decide), if_neg (by omega), if_pos hin]

theorem registerWrite_slen {s : State} (val : Word) (hp : s.powered = true) (ha : s.recov.active = true) :
    exec (.registerWrite 0 0x2008 val) s = .next { s with recov := { s.recov with slen := val } } := by
  dsimp only [exec]
  unfold execRegisterWrite
  rw [if_neg (by simp [hp]), if_pos ha, if_neg (by decide), if_pos rfl]

/-! ### The fault buffer's words and the CXL mode (R197, R223) -/

theorem fbControl_sameSize {s : State} {val : Word} (h : val.toNat % 32 = s.fb.logsz) :
    s.fbControl val = { s with fb := { s.fb with enable := val.getLsbD 5, inten := val.getLsbD 6 } } := by
  unfold State.fbControl
  dsimp only
  rw [if_pos h, h]

/-- The fault buffer's control word, all of it. -/
def fbControlSet (val : Word) (s : State) : State :=
  { s with fb := { s.fb with logsz := val.toNat % 32, enable := val.getLsbD 5, inten := val.getLsbD 6 } }

theorem fbControl_otherSize {s : State} {val : Word} (h : val.toNat % 32 ≠ s.fb.logsz) :
    s.fbControl val = s.lockedWrite 0 (fbControlSet val) :=
  if_neg h

theorem fbControl_unlocked {s : State} {val : Word} (hs : (s.iface 0).state = 0) :
    s.fbControl val = fbControlSet val s := by
  by_cases h : val.toNat % 32 = s.fb.logsz
  · rw [fbControl_sameSize h, fbControlSet, h]
  · rw [fbControl_otherSize h, lockedWrite_unlocked _ hs]

/-- What a write of a locked field with a word of its own sets: the fault buffer's BASE and the CXL mode. -/
def lockedField (off : Nat) (val : Word) (s : State) : State :=
  match off with
  | 0x80000 => { s with fb := { s.fb with base := setHalf s.fb.base false val } }
  | 0x80004 => { s with fb := { s.fb with base := setHalf s.fb.base true val } }
  | _ => { s with cxlCoherent := val.getLsbD 0 }

theorem physicalWrite_lockedField {s : State} {off : Nat} (val : Word) (ho : off ∈ [0x80000, 0x80004, 0x100000000]) :
    physicalWrite off val s = s.lockedWrite 0 (lockedField off val) := by
  simp only [List.mem_cons, List.not_mem_nil, or_false] at ho
  obtain rfl | rfl | rfl := ho <;> rfl

theorem registerWrite_lockedField {s : State} {off : Nat} (val : Word) (hup : s.up = true)
    (ho : off ∈ [0x80000, 0x80004, 0x100000000]) :
    exec (.registerWrite 0 off val) s = .next (s.lockedWrite 0 (lockedField off val)) := by
  rw [← physicalWrite_lockedField val ho]
  simp only [List.mem_cons, List.not_mem_nil, or_false] at ho
  exact registerWrite_physical val hup (by omega) (by omega)

/-! ### The words of a queue (R154, R169) -/

section
variable {s : State} {q : Nat} (val : Word) (hup : s.up = true) (hq : q < 1024) (hs : (s.iface (s.queue q).fn).state = 0)
  (hr : (s.iface (s.queue q).fn).resetting = 0)
include hup hq hs hr

/-- Word 0x08 of a queue whose ENABLE is 1: LOGSZ is ignored. -/
theorem queueEnableWrite_enabled (he : (s.queue q).enable = true) :
    exec (.queueEnableWrite q val) s
      = .next (s.setQueue q { s.queue q with prio := val.toNat / 32 % 8, enable := val.getLsbD 8 }) := by
  dsimp only [exec]
  simp [execQueueEnableWrite, hup, Nat.not_le.2 hq, hr, he, lockedWrite_unlocked _ hs]

/-- Word 0x08 of a queue whose ENABLE is 0: ENABLE stays 0 with a LOGSZ outside 4 to 16. -/
theorem queueEnableWrite_disabled (he : (s.queue q).enable = false) :
    exec (.queueEnableWrite q val) s
      = .next (s.setQueue q { s.queue q with
          logsz := val.toNat % 32, prio := val.toNat / 32 % 8
          enable := val.getLsbD 8 && decide (4 ≤ val.toNat % 32 ∧ val.toNat % 32 ≤ 16) }) := by
  dsimp only [exec]
  simp [execQueueEnableWrite, hup, Nat.not_le.2 hq, hr, he, lockedWrite_unlocked _ hs, Bool.and_assoc]

end

theorem queueWord_enabled {s : State} {fn q off : Nat} (val : Word) (hs : (s.iface fn).state = 0)
    (he : (s.queue q).enable = true) : s.queueWord fn q off val = s := by
  simp [State.queueWord, lockedWrite_unlocked _ hs, he]

theorem queueWord_disabled {s : State} {fn q off : Nat} (val : Word) (hq : q < 1024) (ho : off = 0 ∨ off = 4 ∨ off = 12)
    (hm : kvGet s.queues q = none ∨ (s.queue q).fn = fn) (hs : (s.iface fn).state = 0)
    (he : (s.queue q).enable = false) :
    s.queueWord fn q off val = s.setQueue q (if off = 12 then { s.queue q with fn := fn, ctx := val.toNat }
      else { s.queue q with fn := fn, base := setHalf (s.queue q).base (off = 4) val }) := by
  have hmine : ((kvGet s.queues q).isNone || decide ((s.queue q).fn = fn)) = true := by simpa using hm
  simp only [State.queueWord, hmine, lockedWrite_unlocked _ hs, he]
  obtain rfl | rfl | rfl := ho <;> simp [hq]

/-- The withdraw set after a tag joins it: at most 16, the oldest leaving (R169). -/
def withdrawnWith (x : HostQueue) (tag : Word) : HostQueue :=
  { x with withdrawn := if tag ∈ x.withdrawn then x.withdrawn else (x.withdrawn ++ [tag]).drop (x.withdrawn.length + 1 - 16) }

section
variable {s : State} {q : Nat} {tag : Word} (hup : s.up = true) (hq : q < 1024) (ht : tag ≠ 0#32)
include hup hq ht

theorem withdraw_waiting {k : Nat} {l : Launch}
    (hl : s.launches.find? (fun e => e.2.queue = q && e.2.tag = tag && e.2.state = .waiting) = some (k, l)) :
    exec (.withdraw q tag) s = .next ((s.setQueue q (withdrawnWith (s.queue q) tag)).withdrawLaunch l) := by
  dsimp only [exec]
  simp [execWithdraw, withdrawnWith, hup, Nat.not_le.2 hq, ht, hl]

theorem withdraw_none (hn : ∀ e ∈ s.launches, e.2.queue ≠ q) :
    exec (.withdraw q tag) s = .next (s.setQueue q (withdrawnWith (s.queue q) tag)) := by
  have hfind : s.launches.find? (fun e => e.2.queue = q && e.2.tag = tag && e.2.state = .waiting) = none :=
    List.find?_eq_none.2 fun e he => by simp [hn e he]
  have hnone : s.launches.filter (fun e => e.2.queue = q) = [] :=
    List.filter_eq_nil_iff.2 fun e he => by simpa using hn e he
  dsimp only [exec]
  simp [execWithdraw, withdrawnWith, hup, Nat.not_le.2 hq, ht, hfind, hnone]

end

theorem queueReset_effect {s : State} {q : Nat} (hup : s.up = true) (hq : q < 1024) :
    exec (.queueReset q) s = .next (s.setQueue q (if (s.queue q).busy.isSome ∨ s.statusHeld q = true then
      { s.queue q with resetReq := true }
      else { s.queue q with rptr := (s.queue q).wptr, error := false, withdrawn := [] })) := by
  dsimp only [exec]
  by_cases hb : (s.queue q).busy.isSome = true ∨ s.statusHeld q = true <;>
    simp [execQueueReset, hup, Nat.not_le.2 hq, hb]

/-! ### O48 -/

/-- Settles O48, a clause at a time, by the part that the register's offset reaches. -/
theorem hostRegisterWrites : Obligations.HostRegisterWrites := by
  unfold Obligations.HostRegisterWrites
  refine ⟨fun s q fn val hup => ?_, fun s val hp ha => ?_⟩
  · intro x put reg
    have plain {off : Nat} (h4 : off % 4 = 0) (ho : off < 0x90000) : reg off (physicalWrite off val s) :=
      registerWrite_physical val hup h4 (.inl ho)
    have locked {off : Nat} {t : State} (ho : off ∈ [0x80000, 0x80004, 0x100000000])
        (e : s.lockedWrite 0 (lockedField off val) = t) : reg off t :=
      (registerWrite_lockedField val hup ho).trans (congrArg _ e)
    have control {t : State} (e : s.fbControl val = t) : reg 0x80008 t :=
      (registerWrite_physical val hup (by decide) (by decide)).trans (congrArg _ e)
    refine ⟨fun hq => ?queue, ?unlocked, fun h0 => ?freelyLocked, fun h12 off ho => locked ho (lockedWrite_locked _ h12),
      fun h3 off ho => locked ho (lockedWrite_error _ h3), fun he => control (fbControl_sameSize he),
      fun hn => ⟨fun h12 => ?_, fun h3 => ?_⟩, ?hwQueue⟩
    case queue =>
      refine ⟨?_, ?_, ?_, queueReset_effect hup hq, fun hs hr =>
        ⟨queueEnableWrite_enabled val hup hq hs hr, queueEnableWrite_disabled val hup hq hs hr⟩,
        fun hf hm hs => ⟨fun he off ho => ?_, fun he => ?_⟩,
        fun hv => ⟨fun k l hl => withdraw_waiting hup hq hv hl, fun hn => withdraw_none hup hq hv hn⟩⟩
      · dsimp only [put, x, exec]
        simp [execQueueDoorbell, hup, hq]
      · dsimp only [put, x, exec]
        simp [execWclear, hup, hq]
      · dsimp only [put, x, exec]
        simp [execQueueResume, hup, hq]
      · have ho' : off < 64 ∧ off % 4 = 0 := by
          simp only [List.mem_cons, List.not_mem_nil, or_false] at ho
          omega
        rw [registerWrite_queueWord val hup hf hq ho'.1 ho'.2, queueWord_enabled val hs he]
      · have word (off : Nat) (ho : off = 0 ∨ off = 4 ∨ off = 12) :=
          (registerWrite_queueWord (off := off) val hup hf hq (by omega) (by omega)).trans
            (congrArg _ (queueWord_disabled val hq ho hm hs he))
        exact ⟨word 0 (by decide), word 4 (by decide), word 12 (by decide)⟩
    case unlocked =>
      exact ⟨plain (by decide) (by decide), plain (by decide) (by decide), plain (by decide) (by decide),
        plain (by decide) (by decide), plain (by decide) (by decide), plain (by decide) (by decide),
        plain (by decide) (by decide), plain (by decide) (by decide), plain (by decide) (by decide)⟩
    case freelyLocked =>
      exact ⟨locked (by decide) (lockedWrite_unlocked _ h0), locked (by decide) (lockedWrite_unlocked _ h0),
        control (fbControl_unlocked h0), locked (by decide) (lockedWrite_unlocked _ h0)⟩
    · exact control ((fbControl_otherSize hn).trans (lockedWrite_locked _ h12))
    · exact control ((fbControl_otherSize hn).trans (lockedWrite_error _ h3))
    case hwQueue =>
      intro n y hlt hf hy ho
      refine ⟨_, registerWrite_oovcnt val hup hf hlt hy ho, ?_, fun k hk => kvGet_mod_ne _ _ _ _ hk, rfl⟩
      rw [kvGet_mod_same, hy]
      rfl
  · refine ⟨registerWrite_slen val hp ha, fun off h4 hlo hhi => registerWrite_stage val hp ha h4 hlo hhi,
      fun hb => ⟨?_, ?_⟩, fun hb => ?_⟩
    · dsimp only [exec]
      simp [execRecoveryCommit, hp, ha, hb]
    · dsimp only [exec]
      simp [execRecoveryReboot, hp, ha, hb]
    · dsimp only [exec]
      simp [execRecoveryReboot, hb]

/-! ### SUPPORT: the memory's canonical form

The model changes its memory in three ways only: `State.writeBytes`, `State.zeroRange` and the filter of `State.cold`,
and `memWf_writeBytes`, `memWf_zeroRange` and `kvWfD_filter` say that each keeps the form. Every other operation is made
of operations before it: the lemmas below say of each operation in turn, in the order of the model, that it keeps the
form (`MemForm`), and of each instruction and event that its next state has it (`OutForm`). -/

/-- The memory of a state is in its canonical form. -/
def MemForm (s : State) : Prop := memWf s.mem = true

/-- The next state, where an outcome has one, has its memory in canonical form. -/
def OutForm (o : Host.Outcome State Fault Refusal) : Prop := ∀ t, o = .next t → MemForm t

theorem OutForm.next {s : State} (h : MemForm s) : OutForm (.next s) := fun _ e => by cases e; exact h

theorem OutForm.fault (r : Fault) : OutForm (.fault r) := fun _ e => by cases e

/-- Operations that keep the form keep it when they are made one after another. -/
theorem memForm_foldl {α : Type} {f : State → α → State} {l : List α} {s : State} (h : MemForm s)
    (hf : ∀ s x, MemForm s → MemForm (f s x)) : MemForm (l.foldl f s) := by
  induction l generalizing s with
  | nil => exact h
  | cons x r ih => exact ih (hf s x h)

theorem memForm_ite {c : Prop} [Decidable c] {s t : State} (hs : MemForm s) (ht : MemForm t) :
    MemForm (if c then s else t) := by
  split
  · exact hs
  · exact ht

section
variable {s : State} (h : MemForm s)
include h

theorem memForm_takeBit : MemForm s.takeBit.2 := h

theorem outForm_finish : OutForm (finish s) := by
  unfold finish
  split
  · exact .fault _
  · exact .next h

omit h in
theorem outForm_accessing {key} {t : State} (h : MemForm t) : OutForm (accessing s key t) := by
  unfold accessing
  split
  · exact .next h
  · exact .fault _

theorem memForm_zeroRange {k n} : MemForm (s.zeroRange k n) := memWf_zeroRange _ _ _ h

theorem memForm_writeBytes {k n} : MemForm (s.writeBytes k n) := memWf_writeBytes _ _ _ h

theorem memForm_resetPhysical : MemForm s.resetPhysical := h

/-! ### State, lanes and units (Machine/Access) -/

theorem memForm_checkMem {key} : MemForm (s.checkMem key) := memForm_ite h h

theorem memForm_bump : MemForm s.bump := h

theorem memForm_modWg {c f} : MemForm (s.modWg c f) := h

theorem memForm_modTeam {c t f} : MemForm (s.modTeam c t f) := memForm_modWg h

theorem memForm_modThread {c t l f} : MemForm (s.modThread c t l f) := memForm_modTeam h

theorem memForm_modLanes {c t ls f} : MemForm (s.modLanes c t ls f) := memForm_modTeam h

theorem memForm_modTid {c tid f} : MemForm (s.modTid c tid f) := memForm_modWg h

theorem memForm_modUid {uid f} : MemForm (s.modUid uid f) := h

theorem memForm_modLaunch {l f} : MemForm (s.modLaunch l f) := h

theorem memForm_modContext {x f} : MemForm (s.modContext x f) := h

theorem memForm_setCluster {cl c} : MemForm (s.setCluster cl c) := h

theorem memForm_setIface {fn i} : MemForm (s.setIface fn i) := h

theorem memForm_setQueue {q x} : MemForm (s.setQueue q x) := h

/-! ### Spans, gates and fences (Machine/Span) -/

theorem memForm_send {src dst body} : MemForm (s.send src dst body) := h

theorem memForm_sendClock {d} : MemForm (s.sendClock d) := memForm_foldl h fun _ _ h => memForm_send h

theorem memForm_numberWrite {d id} : MemForm (s.numberWrite d id) := memForm_ite h h

theorem memForm_mergeOnly {d v} : MemForm (s.mergeOnly d v) := h

theorem memForm_mergeStamp {d v} : MemForm (s.mergeStamp d v) := memForm_ite h (memForm_sendClock (memForm_mergeOnly h))

theorem memForm_sendRead {die id line} : MemForm (s.sendRead die id line) := memForm_ite h (memForm_send h)

theorem memForm_cmdRetire {id} : MemForm (s.cmdRetire id) := h

theorem memForm_cmdCheck {id} : MemForm (s.cmdCheck id) := memForm_ite (memForm_cmdRetire h) h

theorem memForm_completeWrite {id} : MemForm (s.completeWrite id) := by
  unfold State.completeWrite
  dsimp only
  split
  · exact h
  · split
    · split
      · exact h
      · refine memForm_modUid ?_
        exact h
    · refine memForm_cmdCheck ?_
      exact h
    · exact h

theorem memForm_checkWrite {id} : MemForm (s.checkWrite id) := by
  unfold State.checkWrite
  split
  · split
    · exact memForm_completeWrite h
    · exact h
  · exact h

theorem memForm_dropL1 {core} : MemForm (s.dropL1 core) := h

theorem memForm_setWaits {core p w} : MemForm (s.setWaits core p w) := memForm_modWg h

theorem memForm_finishFence {f} : MemForm (s.finishFence f) := by
  unfold State.finishFence
  grind [MemForm, memForm_dropL1, memForm_mergeStamp, memForm_setWaits]

theorem memForm_startFence {core uid tids scope rel acq stamp} :
    MemForm (s.startFence core uid tids scope rel acq stamp) := by
  unfold State.startFence
  grind [MemForm, memForm_bump, memForm_setWaits]

theorem memForm_acquire {core uid tids scope stamp} : MemForm (s.acquire core uid tids scope stamp) :=
  memForm_ite (memForm_finishFence (memForm_startFence h)) (memForm_startFence h)

theorem memForm_waitmTestAt {key cores} : MemForm (s.waitmTestAt key cores) := by
  unfold State.waitmTestAt
  refine memForm_foldl h fun _ _ h => ?_
  split
  · exact h
  · exact memForm_foldl h fun _ _ h => memForm_acquire h

theorem memForm_waitmTouched {key n} : MemForm (s.waitmTouched key n) := memForm_foldl h fun _ _ h => memForm_waitmTestAt h

theorem memForm_arrivalAt {core off b} : MemForm (s.arrivalAt core off b) := by
  unfold State.arrivalAt
  dsimp only
  split
  · exact memForm_waitmTouched (memForm_writeBytes h)
  · refine memForm_foldl (memForm_waitmTouched (memForm_writeBytes h)) fun _ _ h => ?_
    split
    · exact h
    · exact memForm_acquire h

theorem memForm_arrivalFor {id b} : MemForm (s.arrivalFor id b) := by
  unfold State.arrivalFor
  split
  · exact h
  · split
    · exact h
    · exact memForm_arrivalAt h

theorem memForm_noteWas {key id owner nibble now} : MemForm (s.noteWas key id owner nibble now) := by
  unfold State.noteWas
  grind [MemForm, memForm_bump]

theorem memForm_noteOld {w now} : MemForm (s.noteOld w now) := memForm_noteWas h

theorem memForm_performAt {home w} : MemForm (s.performAt home w) := by
  unfold State.performAt
  grind [MemForm, memForm_noteOld, memForm_writeBytes, memForm_numberWrite, memForm_send, memForm_sendClock,
    memForm_waitmTouched, memForm_arrivalFor, memForm_checkWrite, memForm_foldl]

theorem memForm_track {w} : MemForm (s.track w) := h

theorem memForm_toPort {die w} : MemForm (s.toPort die w) := by
  unfold State.toPort
  grind [MemForm, memForm_noteOld, memForm_mergeOnly]

theorem memForm_dispatch {die w} : MemForm (s.dispatch die w) := by
  unfold State.dispatch
  grind [MemForm, memForm_performAt, memForm_toPort, memForm_numberWrite, memForm_send, memForm_sendClock]

theorem memForm_ksSend {red key bs} : MemForm (s.ksSend red key bs) := by
  unfold State.ksSend
  dsimp only
  split
  · split
    · exact memForm_toPort (memForm_track (memForm_bump h))
    · exact memForm_performAt (memForm_track (memForm_bump h))
  · exact memForm_sendClock (memForm_send (memForm_numberWrite (memForm_track (memForm_bump h))))

theorem memForm_ksWrite {key bs} : MemForm (s.ksWrite key bs) := memForm_foldl h fun _ _ h => memForm_ksSend h

theorem memForm_ksWriteNat {key n x} : MemForm (s.ksWriteNat key n x) := memForm_ksWrite h

theorem memForm_ksSync : MemForm s.ksSync := memForm_foldl h fun _ _ h => memForm_mergeStamp h

/-! ### Translation (Machine/Translate) -/

theorem memForm_tlbFill {core e} : MemForm (s.tlbFill core e) := h

theorem memForm_tlbEvict {core ctx va} : MemForm (s.tlbEvict core ctx va) := h

theorem memForm_ksStore {ctx a bs} : MemForm (s.ksStore ctx a bs) := by
  unfold State.ksStore
  refine memForm_foldl h fun _ _ h => ?_
  split
  · exact memForm_ksWrite h
  · exact h

theorem memForm_ksAdd {ctx a x} : MemForm (s.ksAdd ctx a x) := by
  unfold State.ksAdd
  split
  · split
    · exact memForm_ksStore h
    · exact memForm_ksSend h
  · exact h

theorem memForm_ksStoreNat {ctx a n x} : MemForm (s.ksStoreNat ctx a n x) := memForm_ksStore h

theorem memForm_newFault {who kind m core} : MemForm (s.newFault who kind m core) := by
  unfold State.newFault
  grind [MemForm, memForm_bump]

theorem memForm_needWalk {core ctx va} : MemForm (s.needWalk core ctx va) := memForm_ite h h

/-! ### The Keystone core (Machine/Keystone) -/

theorem memForm_logWrite {event type die cx cy a0 a1} : MemForm (s.logWrite event type die cx cy a0 a1) := by
  unfold State.logWrite
  grind [MemForm]

theorem memForm_writeStatus {q status detail sig} : MemForm (s.writeStatus q status detail sig) := by
  unfold State.writeStatus
  grind [MemForm, memForm_ksStore, memForm_ksStoreNat, memForm_ksSync, memForm_setQueue]

theorem memForm_putStatus {q status detail sig} : MemForm (s.putStatus q status detail sig) := by
  unfold State.putStatus
  split
  · exact h
  · exact memForm_writeStatus h

theorem memForm_pollFence {q} : MemForm (s.pollFence q) := by
  unfold State.pollFence
  dsimp only
  split
  · split
    · exact memForm_putStatus h
    · exact h
  · exact h

theorem memForm_pollFences : MemForm s.pollFences := memForm_foldl h fun _ _ h => memForm_pollFence h

theorem memForm_completeNow {q status detail sig} : MemForm (s.completeNow q status detail sig) :=
  memForm_ite (memForm_putStatus h) (memForm_pollFences (memForm_putStatus h))

theorem memForm_completePacket {q status detail} : MemForm (s.completePacket q status detail) := memForm_completeNow h

theorem memForm_completeLaunchPacket {l status detail} : MemForm (s.completeLaunchPacket l status detail) :=
  memForm_completeNow h

theorem memForm_modLineage {ctx lin f} : MemForm (s.modLineage ctx lin f) := memForm_ite h h

theorem memForm_freeSlot {ctx slot} : MemForm (s.freeSlot ctx slot) := by
  unfold State.freeSlot
  grind [MemForm, memForm_ksStore]

theorem memForm_dropEstates {ctx} : MemForm (s.dropEstates ctx) := by
  unfold State.dropEstates
  grind [MemForm, memForm_freeSlot, memForm_foldl]

theorem memForm_discardWg {core} : MemForm (s.discardWg core) := h

theorem memForm_sendDiscards : MemForm s.sendDiscards := memForm_foldl h fun _ _ h => memForm_ite h h

theorem memForm_dropWork {ctx} : MemForm (s.dropWork ctx) := by
  unfold State.dropWork
  refine memForm_sendDiscards (memForm_modContext ?_)
  exact h

theorem memForm_failQueues {ctx code} : MemForm (s.failQueues ctx code) :=
  memForm_foldl h fun _ _ h => memForm_setQueue (memForm_ite (memForm_completePacket h) h)

theorem memForm_raiseIrq {ctx i} : MemForm (s.raiseIrq ctx i) := by
  unfold State.raiseIrq
  split <;> exact h

theorem memForm_contextFault {ctx f} : MemForm (s.contextFault ctx f) := by
  unfold State.contextFault
  grind [MemForm, memForm_ksStore, memForm_logWrite, memForm_dropWork, memForm_dropEstates, memForm_failQueues,
    memForm_modContext, memForm_raiseIrq]

theorem memForm_coreFault {core code cause pc va seq engine} : MemForm (s.coreFault core code cause pc va seq engine) :=
  memForm_contextFault h

theorem memForm_freeze {core unit} : MemForm (s.freeze core unit) := memForm_modWg (memForm_logWrite h)

theorem memForm_firewallFault {core va unit} : MemForm (s.firewallFault core va unit) := memForm_coreFault (memForm_freeze h)

/-! ### Tiles, barriers and the end of a workgroup (Machine/Work) -/

theorem memForm_endItem {core l t} : MemForm (s.endItem core l t) := by
  unfold State.endItem
  grind [MemForm, memForm_bump]

theorem memForm_claimOne {l core team lane j x} : MemForm (s.claimOne l core team lane j x) := by
  unfold State.claimOne
  grind [MemForm, memForm_modLineage]

theorem memForm_claimTile {l core n who} : MemForm (s.claimTile l core n who) :=
  memForm_ite h (memForm_foldl h fun _ _ h => memForm_foldl h fun _ _ h => memForm_claimOne h)

theorem memForm_unpin {ctx f} : MemForm (s.unpin ctx f) := by
  unfold State.unpin
  grind [MemForm, memForm_freeSlot]

theorem memForm_claimsDone {core} : MemForm (s.claimsDone core) := by
  unfold State.claimsDone
  grind [MemForm, memForm_unpin, memForm_foldl]

theorem memForm_closeDispenser {l} : MemForm (s.closeDispenser l) := by
  unfold State.closeDispenser
  split
  · exact h
  · refine memForm_modLaunch ?_
    exact h

theorem memForm_siblingsQuiet {lid} : MemForm (s.siblingsQuiet lid) := by
  unfold State.siblingsQuiet
  grind [MemForm, memForm_closeDispenser]

theorem memForm_setBarrier {core team k b} : MemForm (s.setBarrier core team k b) := by
  unfold State.setBarrier
  split
  · exact memForm_modTeam h
  · exact memForm_modWg h
  · split
    · exact memForm_modLaunch h
    · exact h
  · split
    · exact memForm_modLaunch h
    · exact h

theorem memForm_releaseTeam {core team k done} : MemForm (s.releaseTeam core team k done) := by
  unfold State.releaseTeam
  dsimp only
  split
  · exact h
  · split
    · exact h
    · exact memForm_acquire h

theorem memForm_checkPhase {core team k} : MemForm (s.checkPhase core team k) := by
  unfold State.checkPhase
  dsimp only
  split
  · refine memForm_foldl ?_ fun _ _ h => memForm_foldl h fun _ _ h => memForm_releaseTeam h
    split
    · exact memForm_modWg (memForm_setBarrier h)
    · exact memForm_setBarrier h
  · exact h

theorem memForm_lessMember {core team k} : MemForm (s.lessMember core team k) := memForm_checkPhase (memForm_setBarrier h)

theorem memForm_leaveBarriers {core team} : MemForm (s.leaveBarriers core team) :=
  memForm_foldl h fun _ _ h => memForm_lessMember h

theorem memForm_joinTest {core team} : MemForm (s.joinTest core team) := by
  unfold State.joinTest
  dsimp only
  refine memForm_foldl h fun _ _ h => ?_
  split
  · exact h
  · split
    · exact memForm_acquire h
    · exact h

theorem memForm_startClose {ctx lin queue launch buf} : MemForm (s.startClose ctx lin queue launch buf) := by
  unfold State.startClose
  grind [MemForm, memForm_freeSlot, memForm_ksStore, memForm_bump, memForm_foldl]

theorem memForm_heirClose {lid} : MemForm (s.heirClose lid) := by
  unfold State.heirClose
  split
  · exact h
  · split
    · exact memForm_startClose (memForm_modLaunch h)
    · exact h

theorem memForm_checkBars {lid} : MemForm (s.checkBars lid) :=
  memForm_ite (memForm_modLaunch h) (memForm_foldl h fun _ _ h => memForm_foldl h fun _ _ h => memForm_checkPhase h)

theorem memForm_addInsns {l w} : MemForm (s.addInsns l w) := by
  unfold State.addInsns
  split
  · split <;> exact h
  · exact h

theorem memForm_forget {lid} : MemForm (s.forget lid) := by
  unfold State.forget
  split
  · split <;> exact h
  · exact h

theorem memForm_coreReturns {core w} : MemForm (s.coreReturns core w) := by
  unfold State.coreReturns
  refine memForm_forget (memForm_modLaunch ?_)
  split
  · refine memForm_modContext ?_
    exact h
  · exact h

theorem memForm_endWorkgroup {core} : MemForm (s.endWorkgroup core) := by
  unfold State.endWorkgroup
  split
  · exact h
  · split
    · refine memForm_heirClose (memForm_siblingsQuiet ?_)
      split
      · exact memForm_coreReturns h
      · exact h
    · exact h

theorem memForm_cancelStop {core} : MemForm (s.cancelStop core) := by
  unfold State.cancelStop
  grind [MemForm, memForm_addInsns, memForm_lessMember, memForm_modWg, memForm_endWorkgroup, memForm_foldl]

theorem memForm_tfetchCheck {core} : MemForm (s.tfetchCheck core) := by
  unfold State.tfetchCheck
  dsimp only
  split
  · split
    · split
      · exact memForm_cancelStop (memForm_modWg (memForm_foldl h fun _ _ h => memForm_endItem h))
      · split
        · exact memForm_siblingsQuiet (memForm_modWg (memForm_modWg (memForm_foldl h fun _ _ h => memForm_endItem h)))
        · exact memForm_siblingsQuiet (memForm_claimTile (memForm_modWg (memForm_modLaunch (memForm_modWg (memForm_modWg
            (memForm_foldl h fun _ _ h => memForm_endItem h))))))
    · exact h
  · exact h

theorem memForm_afterLeaving {core team} : MemForm (s.afterLeaving core team) :=
  memForm_endWorkgroup (memForm_tfetchCheck (memForm_joinTest h))

theorem memForm_freeTeams {core} : MemForm (s.freeTeams core) := memForm_modWg h

/-! ### The unit under way (Machine/Ops) -/

theorem memForm_onLanes {ls f} : MemForm (s.onLanes ls f) := memForm_modLanes h

theorem memForm_onTeam {f} : MemForm (s.onTeam f) := memForm_modTeam h

theorem memForm_advance : MemForm s.advance := memForm_onLanes h

theorem memForm_endIssue : MemForm s.endIssue := memForm_modWg (memForm_onTeam h)

theorem memForm_regroupCore {core} : MemForm (s.regroupCore core) := memForm_modWg h

theorem memForm_takeTrap {core team lane code tval cause tpc} : MemForm (s.takeTrap core team lane code tval cause tpc) := by
  unfold State.takeTrap
  dsimp only
  split
  · exact h
  · split
    · exact memForm_coreFault h
    · exact memForm_modThread h

theorem memForm_trapLanes {ls code tval unif write next} : MemForm (s.trapLanes ls code tval unif write next) :=
  memForm_foldl h fun _ _ h => memForm_takeTrap h

theorem memForm_trapEach {ls code unif write} : MemForm (s.trapEach ls code unif write) :=
  memForm_foldl h fun _ _ h => memForm_takeTrap h

theorem memForm_laneUnit {i gl absent bad priv body} (hbody : ∀ s, MemForm s → MemForm (body s)) :
    MemForm (s.laneUnit i gl absent bad priv body) := by
  unfold State.laneUnit
  grind [memForm_advance, memForm_trapLanes, memForm_endIssue]

theorem memForm_unifUnit {i guard bad priv body} (hbody : ∀ s, MemForm s → MemForm (body s)) :
    MemForm (s.unifUnit i guard bad priv body) := by
  unfold State.unifUnit
  grind [memForm_advance, memForm_trapLanes, memForm_endIssue]

theorem memForm_badPrefix {w} : MemForm (s.badPrefix w) := by
  unfold State.badPrefix
  refine memForm_endIssue (memForm_foldl ?_ fun _ _ h => memForm_takeTrap h)
  refine memForm_advance ?_
  exact h

theorem memForm_illegalWord {w} : MemForm (s.illegalWord w) := by
  unfold State.illegalWord
  dsimp only
  split
  · exact memForm_badPrefix h
  · split
    · refine memForm_endIssue ?_
      split
      · exact memForm_trapLanes (memForm_advance h)
      · exact memForm_advance h
    · exact memForm_endIssue (memForm_trapLanes (memForm_advance h))

theorem memForm_hold {ls w} : MemForm (s.hold ls w) := memForm_onLanes h

/-! ### Accesses of lanes (Machine/Operands) -/

theorem memForm_raise {f} : MemForm (s.raise f) := memForm_onTeam h

theorem memForm_laneSet {i gl absent bad f} : MemForm (s.laneSet i gl absent bad f) :=
  memForm_laneUnit h fun _ h => memForm_onLanes h

theorem memForm_laneOp {i g d a b f} : MemForm (s.laneOp i g d a b f) := memForm_laneSet h

theorem memForm_laneOp1 {i g d a f} : MemForm (s.laneOp1 i g d a f) := memForm_laneSet h

theorem memForm_laneFp {i gl absent bad f} : MemForm (s.laneFp i gl absent bad f) :=
  memForm_laneUnit h fun _ h => memForm_raise (memForm_onLanes h)

theorem memForm_laneFp3 {i g d a b f} : MemForm (s.laneFp3 i g d a b f) := memForm_laneFp h

theorem memForm_lanePair3 {i g d a b f} : MemForm (s.lanePair3 i g d a b f) := memForm_laneFp h

theorem memForm_laneFp64 {i g d a b f} : MemForm (s.laneFp64 i g d a b f) := memForm_laneFp h

theorem memForm_lanePred {i g bad n f} : MemForm (s.lanePred i g bad n f) := memForm_laneFp h

theorem memForm_unifSet {i guard bad f} : MemForm (s.unifSet i guard bad f) := memForm_unifUnit h fun _ h => memForm_onTeam h

theorem memForm_unifOp {i g d a b f} : MemForm (s.unifOp i g d a b f) := memForm_unifSet h

theorem memForm_unifPred {i g d a b f} : MemForm (s.unifPred i g d a b f) := memForm_unifSet h

theorem memForm_laneAccess {l addr n write red go} (hgo : ∀ s x0 x1, MemForm s → MemForm (go s x0 x1)) :
    MemForm (s.laneAccess l addr n write red go) := by
  unfold State.laneAccess
  grind [memForm_trapEach, memForm_firewallFault, memForm_hold, memForm_needWalk, memForm_newFault]

theorem memForm_addLoad {agent key n scope tok dst va} : MemForm (s.addLoad agent key n scope tok dst va) := by
  unfold State.addLoad
  grind [MemForm, memForm_bump]

theorem memForm_addStore {agent key data red tok va} : MemForm (s.addStore agent key data red tok va) := by
  unfold State.addStore
  grind [MemForm, memForm_track, memForm_bump]

theorem memForm_addHeldRed {agent data red tok va kind} : MemForm (s.addHeldRed agent data red tok va kind) := by
  unfold State.addHeldRed
  grind [MemForm, memForm_track, memForm_bump, memForm_newFault]

theorem memForm_ldIssued {n tok} : MemForm (s.ldIssued n tok) := memForm_ite (memForm_onTeam h) h

theorem memForm_stIssued {n tok} : MemForm (s.stIssued n tok) := memForm_ite (memForm_onTeam h) h

theorem memForm_laneLoads {ls addr n scope write dst} : MemForm (s.laneLoads ls addr n scope write dst) := by
  unfold State.laneLoads
  refine memForm_ldIssued (memForm_foldl (memForm_bump h) fun _ _ h => ?_)
  refine memForm_laneAccess h fun _ _ _ h => ?_
  split
  · exact memForm_addLoad h
  · exact h

theorem memForm_laneStores {ls addr data n red} : MemForm (s.laneStores ls addr data n red) := by
  unfold State.laneStores
  refine memForm_stIssued (memForm_foldl (memForm_bump h) fun _ _ h => ?_)
  refine memForm_laneAccess h fun _ _ _ h => ?_
  split
  · exact memForm_addStore h
  · exact memForm_addHeldRed h

theorem memForm_unifAccess {addr n write go} (hgo : ∀ s x0, MemForm s → MemForm (go s x0)) :
    MemForm (s.unifAccess addr n write go) := by
  unfold State.unifAccess
  grind [memForm_trapLanes, memForm_firewallFault, memForm_hold, memForm_needWalk, memForm_newFault]

theorem memForm_unifLoad {key n dst va} : MemForm (s.unifLoad key n dst va) :=
  memForm_ldIssued (memForm_addLoad (memForm_bump h))

theorem memForm_unifStore {key data va} : MemForm (s.unifStore key data va) :=
  memForm_stIssued (memForm_addStore (memForm_bump h))

theorem memForm_prefetch {addr} : MemForm (s.prefetch addr) := by
  unfold State.prefetch
  grind [memForm_takeBit, memForm_sendRead, memForm_bump]

/-! ### Fetch and issue (Machine/Fetch) -/

theorem memForm_holdFetch {core team pc} : MemForm (s.holdFetch core team pc) := by
  unfold State.holdFetch
  dsimp only
  split
  · exact h
  · split
    · exact h
    · split
      · exact memForm_modLanes (memForm_needWalk h)
      · exact memForm_modLanes (memForm_newFault h)
      · exact memForm_firewallFault h
      · exact h

theorem memForm_fetchAll {core part} : MemForm (s.fetchAll core part) := by
  unfold State.fetchAll
  split
  · exact h
  · exact memForm_foldl h fun _ _ h => memForm_foldl h fun _ _ h => memForm_holdFetch h

theorem memForm_tick {cl n} : MemForm (s.tick cl n) := h

theorem memForm_beginIssue {core team pc unif} : MemForm (s.beginIssue core team pc unif) := by
  unfold State.beginIssue
  refine memForm_onTeam ?_
  exact h

theorem memForm_takeDeferred : MemForm s.takeDeferred :=
  memForm_onTeam (memForm_foldl h fun _ _ h => memForm_takeTrap (memForm_onLanes h))

theorem memForm_badFetch : MemForm s.badFetch := by
  unfold State.badFetch
  refine memForm_endIssue (memForm_trapLanes ?_)
  exact h

/-! ### Ticks (Machine/Agenda) -/

theorem memForm_idle : MemForm s.idle := memForm_foldl h fun _ _ h => memForm_tick h

/-! ### Quantised values (Machine/Quant) -/

theorem memForm_vqns {gl ty d a b} : MemForm (s.vqns gl ty d a b) := by
  unfold State.vqns
  split
  · exact h
  · exact memForm_onLanes h

/-! ### Control flow of lanes (Machine/LaneFlow) -/

theorem memForm_transfer {ls x unif} : MemForm (s.transfer ls x unif) := by
  unfold State.transfer
  split
  · exact memForm_trapLanes h
  · exact memForm_onLanes h

theorem memForm_callLane {l x tok} : MemForm (s.callLane l x tok) := by
  unfold State.callLane
  dsimp only
  split
  · exact h
  · split
    · exact memForm_onLanes h
    · split
      · exact memForm_trapLanes h
      · refine memForm_laneAccess h fun _ _ _ h => ?_
        split
        · exact memForm_onLanes (memForm_addStore h)
        · exact h

theorem memForm_retLane {l tok} : MemForm (s.retLane l tok) := by
  unfold State.retLane
  dsimp only
  split
  · exact h
  · split
    · exact memForm_trapLanes h
    · split
      · exact memForm_trapLanes h
      · split
        · exact memForm_onLanes h
        · refine memForm_laneAccess h fun _ _ _ h => ?_
          split
          · exact memForm_hold (memForm_addLoad h)
          · exact h

theorem memForm_dropLoads {tid} : MemForm (s.dropLoads tid) := by
  unfold State.dropLoads
  refine memForm_foldl ?_ fun _ _ h => memForm_ite h (memForm_onTeam h)
  exact h

theorem memForm_exitThread {l} : MemForm (s.exitThread l) := by
  unfold State.exitThread
  split
  · exact h
  · refine memForm_dropLoads (memForm_onTeam ?_)
    refine memForm_leaveBarriers ?_
    split
    · exact memForm_endItem h
    · exact h

theorem memForm_draw {core key} : MemForm (s.draw core key) := by
  unfold State.draw
  dsimp only
  split
  · exact h
  · split
    · exact h
    · split
      · exact memForm_modWg (memForm_bump (memForm_modWg h))
      · refine memForm_foldl ?_ fun _ _ h => memForm_joinTest h
        refine memForm_regroupCore (memForm_foldl (memForm_modWg h) fun _ _ h => ?_)
        split
        · exact h
        · exact memForm_modTeam h

theorem memForm_enterBin {l} : MemForm (s.enterBin l) := by
  unfold State.enterBin
  dsimp only
  split
  · exact h
  · split
    · exact memForm_draw (memForm_freeTeams (memForm_joinTest (memForm_modWg (memForm_onTeam (memForm_foldl h
        fun _ _ h => memForm_lessMember h)))))
    · exact memForm_freeTeams (memForm_joinTest (memForm_modWg (memForm_onTeam (memForm_foldl h
        fun _ _ h => memForm_lessMember h))))

theorem memForm_arrive {ls bar join sync} : MemForm (s.arrive ls bar join sync) := by
  unfold State.arrive
  grind [MemForm, memForm_bump]

/-! ### Lane operations (Machine/LaneInt) -/

theorem memForm_predOp {i g d a b f} : MemForm (s.predOp i g d a b f) := memForm_laneSet h

/-! ### Uniform operations (Machine/Unif) -/

theorem memForm_sldForm {i g d a imm n} : MemForm (s.sldForm i g d a imm n) := by
  unfold State.sldForm
  exact memForm_unifUnit h (fun _ h => memForm_unifAccess h (fun _ _ h => memForm_unifLoad h))

theorem memForm_sstForm {i g d a imm n} : MemForm (s.sstForm i g d a imm n) := by
  unfold State.sstForm
  exact memForm_unifUnit h (fun _ h => memForm_unifAccess h (fun _ _ h => memForm_unifStore h))

theorem memForm_maskSet {i g f} : MemForm (s.maskSet i g f) :=
  memForm_unifUnit h fun _ h => memForm_joinTest (memForm_onTeam h)

/-! ### Barriers, arrival words and waits (Machine/UnifSync) -/

theorem memForm_cancelHere : MemForm s.cancelHere := memForm_cancelStop (memForm_modWg h)

theorem memForm_barUnit {i g lvl body} (hbody : ∀ s, MemForm s → MemForm (body s)) : MemForm (s.barUnit i g lvl body) := by
  unfold State.barUnit
  grind [memForm_unifUnit, memForm_trapLanes, memForm_cancelHere]

theorem memForm_waitmStart {addr key cond y} : MemForm (s.waitmStart addr key cond y) :=
  memForm_ite (memForm_acquire h) (memForm_onLanes h)

theorem memForm_sealForm {i g a b unsl} : MemForm (s.sealForm i g a b unsl) := by
  unfold State.sealForm
  refine memForm_unifUnit h fun s h => ?_
  split
  · exact memForm_trapLanes h
  · split
    · exact memForm_trapLanes h
    · split
      · exact h
      · dsimp only
        split
        · exact memForm_firewallFault h
        · exact memForm_hold (memForm_newFault h)
        · refine memForm_onLanes ?_
          exact memForm_bump h

theorem memForm_awUnit {i g a bad body} (hbody : ∀ s x0, MemForm s → MemForm (body s x0)) :
    MemForm (s.awUnit i g a bad body) := by
  unfold State.awUnit
  grind [memForm_unifUnit, memForm_trapLanes]

theorem memForm_sendPost {d hash} : MemForm (s.sendPost d hash) := by
  unfold State.sendPost
  grind [MemForm, memForm_bump]

theorem memForm_queueForm {i g d a op long} : MemForm (s.queueForm i g d a op long) := by
  unfold State.queueForm
  grind [MemForm, memForm_unifUnit, memForm_trapLanes, memForm_bump, memForm_onTeam, memForm_onLanes]

/-! ### Engine commands issued (Machine/EngIssue) -/

theorem memForm_countNull {g} : MemForm (s.countNull g) := by
  unfold State.countNull
  dsimp only
  split
  · split
    · split <;> exact h
    · exact h
  · exact h

theorem memForm_accept {k acc off n} : MemForm (s.accept k acc off n) := by
  unfold State.accept
  split
  · refine memForm_cmdRetire (memForm_modWg ?_)
    refine memForm_onTeam (memForm_bump ?_)
    exact h
  · refine memForm_modWg (memForm_onTeam ?_)
    refine memForm_bump ?_
    exact h

theorem memForm_command {i g a acc k} : MemForm (s.command i g a acc k) := by
  unfold State.command
  refine memForm_unifUnit h fun s h => ?_
  split
  · exact memForm_trapLanes h
  · dsimp only
    split
    · exact memForm_accept h
    · split
      · exact memForm_accept (memForm_ite (memForm_countNull h) h)
      · exact memForm_hold (memForm_bump (memForm_sendRead h))
      · exact memForm_hold (memForm_needWalk h)
      · exact memForm_hold (memForm_newFault h)
      · exact memForm_firewallFault h

/-! ### Engine commands under way (Machine/Engine) -/

theorem memForm_modCmd {core id f} : MemForm (s.modCmd core id f) := memForm_modWg h

theorem memForm_engStop {core id a write r} : MemForm (s.engStop core id a write r) := by
  unfold State.engStop
  split
  · exact h
  · exact memForm_newFault h
  · exact memForm_firewallFault h
  · exact h

theorem memForm_engRead {core c unit rs t} (e : s.engRead core c unit rs = .error t) : MemForm t := by
  unfold State.engRead at e
  dsimp only at e
  split at e
  · obtain ⟨⟩ := e
    exact memForm_engStop h
  · split at e
    · cases e
    · obtain ⟨⟩ := e
      exact memForm_foldl h fun _ _ h => memForm_sendRead h

theorem memForm_engPut {core launch id key va w} : MemForm (s.engPut core launch id key va w) := by
  unfold State.engPut
  grind [MemForm, memForm_track, memForm_bump, memForm_dispatch]

theorem memForm_engWrites {core launch id copy ws t}
    (e : s.engWrites core launch id copy ws = .error t ∨ s.engWrites core launch id copy ws = .ok t) : MemForm t := by
  unfold State.engWrites at e
  dsimp only at e
  split at e
  · obtain ⟨⟨⟩⟩ | ⟨⟨⟩⟩ := e
    exact memForm_engStop h
  · split at e
    · obtain ⟨⟨⟩⟩ | ⟨⟨⟩⟩ := e
      exact h
    · obtain ⟨⟨⟩⟩ | ⟨⟨⟩⟩ := e
      refine memForm_foldl h fun s p h => ?_
      split
      · exact memForm_engPut h
      · exact h

theorem memForm_engCommit {core launch c ws f} : MemForm (s.engCommit core launch c ws f) := by
  unfold State.engCommit
  split
  next e => exact memForm_engWrites h (.inl e)
  next e => exact memForm_cmdCheck (memForm_modCmd (memForm_engWrites h (.inr e)))

theorem memForm_modAcc {core c f} : MemForm (s.modAcc core c f) := memForm_modTeam h

theorem memForm_doMma {core c} : MemForm (s.doMma core c) := memForm_cmdRetire (memForm_modAcc h)

theorem memForm_doAzero {core c} : MemForm (s.doAzero core c) := memForm_cmdRetire (memForm_modAcc h)

theorem memForm_doAswap {core c} : MemForm (s.doAswap core c) := memForm_cmdRetire (memForm_modAcc h)

theorem memForm_doAld {core c} : MemForm (s.doAld core c) := by
  unfold State.doAld
  dsimp only
  split
  next e => exact memForm_engRead h e
  · exact memForm_cmdRetire (memForm_modAcc h)

theorem memForm_doAst {core launch c} : MemForm (s.doAst core launch c) := memForm_engCommit h

theorem memForm_copyChunk {core launch c len} : MemForm (s.copyChunk core launch c len) := by
  unfold State.copyChunk
  extract_lets -lift b t y r blocked k tok entry
  have hentry : ∀ t, entry = .error t → MemForm t := by
    intro t e
    by_cases hl : b.layout = 2
    · exact memForm_engRead h (by simpa only [entry, if_pos hl] using e)
    · simp only [entry, if_neg hl, reduceCtorEq] at e
  clear_value entry
  cases entry with
  | error t => exact hentry t rfl
  | ok e =>
    dsimp only
    split
    · split
      next e => exact memForm_engRead h e
      · exact memForm_engCommit h
    · exact memForm_engCommit h

theorem memForm_qstLine {core launch c} : MemForm (s.qstLine core launch c) := memForm_engCommit h

theorem memForm_chainChunk {core launch c len} : MemForm (s.chainChunk core launch c len) := by
  unfold State.chainChunk
  dsimp only
  split
  next e => exact memForm_engRead h e
  · exact memForm_engCommit h

theorem memForm_rotChunk {core launch c len} : MemForm (s.rotChunk core launch c len) := by
  unfold State.rotChunk
  extract_lets -lift b size total y src dst k plist
  split
  next e => exact memForm_engRead h e
  · extract_lets -lift from' row
    have hrow : ∀ t, row = .error t → MemForm t := by
      intro t e
      by_cases hr : c.rowBytes.isEmpty
      · simp only [row, if_pos hr] at e
        exact memForm_engRead h e
      · simp only [row, if_neg hr, reduceCtorEq] at e
    clear_value row
    cases row with
    | error t => exact hrow t rfl
    | ok bs => exact memForm_engCommit h

theorem outForm_execEngineCommandBegin {id} : OutForm (execEngineCommandBegin id s) := by
  unfold execEngineCommandBegin
  refine outForm_finish ?_
  split
  · exact h
  · split
    · exact memForm_modCmd (memForm_bump h)
    · exact h

theorem outForm_execMulticastFetch {id} : OutForm (execMulticastFetch id s) := by
  unfold execMulticastFetch
  dsimp only
  refine outForm_finish ?_
  split
  · exact h
  · split
    · exact h
    · split
      · exact memForm_foldl (memForm_bump h) fun _ _ h => memForm_modCmd h
      · exact h

theorem memForm_afterCmd {core} : MemForm (s.afterCmd core) := memForm_endWorkgroup h

theorem outForm_execCopyChunkWrite {id len} : OutForm (execCopyChunkWrite id len s) := by
  unfold execCopyChunkWrite
  refine outForm_finish ?_
  split
  · exact h
  · split
    · refine memForm_afterCmd ?_
      split
      · exact memForm_copyChunk h
      · exact memForm_qstLine h
      · exact memForm_chainChunk h
      · exact memForm_rotChunk h
      · exact h
    · exact h

theorem outForm_execTensorCommandComplete {id} : OutForm (execTensorCommandComplete id s) := by
  unfold execTensorCommandComplete
  grind [OutForm.next, OutForm.fault, outForm_finish, memForm_afterCmd, memForm_doMma, memForm_doAzero, memForm_doAswap,
    memForm_doAld, memForm_doAst]

/-! ### The ordering machine (Machine/Ordering) -/

theorem memForm_pastTries {agent id} : MemForm (s.pastTries agent id) := memForm_ite h h

theorem memForm_sweep : MemForm s.sweep := memForm_foldl h fun _ _ h => memForm_endWorkgroup h

theorem memForm_setPointView {core cl line bs} : MemForm (s.setPointView core cl line bs) := memForm_ite h h

theorem memForm_dropPointView {core cl line} : MemForm (s.dropPointView core cl line) := memForm_ite h h

theorem memForm_pointPut {cl w view} : MemForm (s.pointPut cl w view) := by
  unfold State.pointPut
  grind [MemForm, memForm_setPointView]

theorem memForm_leaveView {cl w} : MemForm (s.leaveView cl w) := by
  unfold State.leaveView
  split
  · exact h
  · split
    · split
      · exact memForm_dropPointView h
      · exact h
    · exact h

theorem memForm_loadDone {l x} : MemForm (s.loadDone l x) := by
  unfold State.loadDone
  grind [MemForm, memForm_modTid, memForm_modUid, memForm_regroupCore]

theorem memForm_loadPlain {l} : MemForm (s.loadPlain l) := by
  unfold State.loadPlain
  dsimp only
  split
  · exact memForm_loadDone h
  · split
    · exact memForm_sendRead h
    · exact h

theorem memForm_atomAct {l old put} (hput : ∀ s x0, MemForm s → MemForm (put s x0)) : MemForm (s.atomAct l old put) := by
  unfold State.atomAct
  grind [memForm_loadDone, memForm_track]

theorem memForm_loadAtomic {l} : MemForm (s.loadAtomic l) := by
  unfold State.loadAtomic
  grind [MemForm, memForm_atomAct, memForm_performAt, memForm_pointPut, memForm_sendRead, memForm_toPort]

theorem outForm_execLoadSatisfy {id} : OutForm (execLoadSatisfy id s) := by
  unfold execLoadSatisfy
  dsimp only
  split
  · exact .next h
  · split
    · exact .next h
    · split
      · exact .next (memForm_firewallFault h)
      · refine outForm_accessing (memForm_sweep ?_)
        split
        · exact memForm_loadAtomic (memForm_pastTries h)
        · exact memForm_loadPlain (memForm_pastTries h)

theorem memForm_redAtPoint {w op cl} : MemForm (s.redAtPoint w op cl) := by
  unfold State.redAtPoint
  dsimp only
  split
  · exact h
  · split
    · exact memForm_sendRead h
    · refine memForm_pointPut ?_
      exact h

theorem memForm_drain {w} : MemForm (s.drain w) := by
  unfold State.drain
  grind [MemForm, memForm_dispatch, memForm_setPointView, memForm_redAtPoint]

theorem outForm_execStoreBufferDrain {id} : OutForm (execStoreBufferDrain id s) := by
  unfold execStoreBufferDrain
  dsimp only
  refine .next ?_
  split
  · exact h
  · split
    · exact h
    · exact memForm_sweep (memForm_drain (memForm_pastTries h))

theorem memForm_refuseWrite {w} : MemForm (s.refuseWrite w) := by
  unfold State.refuseWrite
  dsimp only
  split
  · exact memForm_completeWrite h
  · split
    · exact memForm_firewallFault (memForm_completeWrite h)
    · exact memForm_contextFault (memForm_logWrite (memForm_completeWrite h))

theorem outForm_execWritePathLeave {id} : OutForm (execWritePathLeave id s) := by
  unfold execWritePathLeave
  split
  · exact .next h
  · split
    · exact .next h
    · split
      · refine outForm_accessing (memForm_sweep ?_)
        refine memForm_dispatch (memForm_leaveView ?_)
        exact h
      · refine .next (memForm_sweep ?_)
        refine memForm_refuseWrite (memForm_leaveView ?_)
        exact h

theorem outForm_execClusterAtomicPathLeave {id} : OutForm (execClusterAtomicPathLeave id s) := by
  unfold execClusterAtomicPathLeave
  split
  · exact .next h
  · split
    · exact .next h
    · split
      · refine outForm_accessing (memForm_sweep ?_)
        refine memForm_dispatch (memForm_leaveView ?_)
        exact h
      · refine .next (memForm_sweep ?_)
        refine memForm_refuseWrite (memForm_leaveView ?_)
        exact h

theorem outForm_execL1ViewDrop {core line} : OutForm (execL1ViewDrop core line s) := .next (memForm_dropPointView h)

theorem outForm_execL1ViewFill {core line} : OutForm (execL1ViewFill core line s) :=
  .next (memForm_ite (memForm_setPointView h) h)

theorem outForm_execDieCopyDrop {die line} : OutForm (execDieCopyDrop die line s) := .next h

theorem memForm_installLine {home load line data} : MemForm (s.installLine home load line data) := by
  unfold State.installLine
  grind [MemForm, memForm_setPointView]

theorem memForm_applyMsg {m} : MemForm (s.applyMsg m) := by
  unfold State.applyMsg
  grind [MemForm, memForm_performAt, memForm_noteWas, memForm_checkWrite, memForm_send, memForm_installLine]

theorem memForm_acceptMsg {m} : MemForm (s.acceptMsg m) :=
  memForm_ite (memForm_applyMsg h) (memForm_sendClock (memForm_applyMsg (memForm_mergeOnly h)))

theorem outForm_execGateApply {src dst} : OutForm (execGateApply src dst s) := by
  unfold execGateApply
  split
  · exact .next h
  · split
    · split
      · refine outForm_accessing (memForm_sweep ?_)
        refine memForm_acceptMsg ?_
        exact h
      · refine .next (memForm_sweep ?_)
        refine memForm_acceptMsg ?_
        exact h
    · exact .next h

theorem outForm_execPortAcknowledge {id} : OutForm (execPortAcknowledge id s) := by
  unfold execPortAcknowledge
  grind [MemForm, OutForm.next, OutForm.fault, memForm_sweep, memForm_completeWrite, memForm_performAt]

theorem outForm_execFenceComplete {id} : OutForm (execFenceComplete id s) := by
  unfold execFenceComplete
  refine .next ?_
  split
  · exact h
  · split
    · exact memForm_finishFence h
    · exact h

theorem memForm_waitmPollAt {core team uid ws va key} : MemForm (s.waitmPollAt core team uid ws va key) := by
  unfold State.waitmPollAt
  grind [MemForm, memForm_modLanes, memForm_acquire, memForm_firewallFault, memForm_checkMem, memForm_needWalk,
    memForm_regroupCore, memForm_newFault]

theorem outForm_execWaitmPoll {core team} : OutForm (execWaitmPoll core team s) := by
  unfold execWaitmPoll
  refine outForm_finish ?_
  split
  · exact h
  · exact memForm_foldl h fun _ _ h => memForm_waitmPollAt h

/-! ### Waits and arrivals (Machine/Waits) -/

theorem memForm_orderArrival {core team k} : MemForm (s.orderArrival core team k) := memForm_modWg h

theorem memForm_countBarrier {a k} : MemForm (s.countBarrier a k) := by
  unfold State.countBarrier
  dsimp only
  split
  · exact h
  · refine memForm_checkPhase ?_
    split
    · refine memForm_orderArrival (memForm_foldl ?_ fun _ _ h => memForm_modTid h)
      refine memForm_setBarrier ?_
      exact h
    · refine memForm_foldl ?_ fun _ _ h => memForm_modTid h
      refine memForm_setBarrier ?_
      exact h

theorem memForm_countLate {a} : MemForm (s.countLate a) := by
  unfold State.countLate
  split
  · refine memForm_checkBars (memForm_modLaunch ?_)
    exact h
  · refine memForm_checkBars (memForm_modLaunch ?_)
    exact h
  · exact h

theorem outForm_execBarrierArrivalCounted {id} : OutForm (execBarrierArrivalCounted id s) := by
  unfold execBarrierArrivalCounted
  grind [MemForm, OutForm.next, OutForm.fault, memForm_sweep, memForm_countLate, memForm_countBarrier, memForm_joinTest,
    memForm_setWaits, memForm_tfetchCheck, memForm_orderArrival, memForm_modWg]

theorem outForm_execTfetchComplete {core} : OutForm (execTfetchComplete core s) := by
  unfold execTfetchComplete
  dsimp only
  refine .next ?_
  split
  · split
    · exact h
    · split
      · exact h
      · refine memForm_foldl (memForm_modWg (memForm_claimsDone (memForm_modWg h))) fun _ _ h => ?_
        split
        · exact h
        · exact memForm_acquire h
  · exact h

theorem outForm_execReformBinTimeout {core key} : OutForm (execReformBinTimeout core key s) := by
  unfold execReformBinTimeout
  refine .next ?_
  split
  · exact h
  · split
    · split
      · exact memForm_draw h
      · exact h
    · exact h

theorem outForm_execStarvationPriority {core part unif} : OutForm (execStarvationPriority core part unif s) := by
  unfold execStarvationPriority
  grind [MemForm, OutForm.next, OutForm.fault]

theorem outForm_execSfqResult {id lane} : OutForm (execSfqResult id lane s) := by
  unfold execSfqResult
  grind [MemForm, OutForm.next, OutForm.fault, memForm_modTid, memForm_modUid]

theorem memForm_homeWrite {key bs} : MemForm (s.homeWrite key bs) := memForm_performAt (memForm_track (memForm_bump h))

theorem memForm_ringPut {q bs} : MemForm (s.ringPut q bs) := by
  unfold State.ringPut
  split
  · exact memForm_foldl h fun _ _ h => memForm_homeWrite h
  · exact h

theorem outForm_execQpushEnterRing {id} : OutForm (execQpushEnterRing id s) := by
  unfold execQpushEnterRing
  grind [MemForm, OutForm.next, OutForm.fault, memForm_ringPut, memForm_modUid, memForm_sweep, memForm_setWaits]

theorem memForm_qopDone {x} : MemForm (s.qopDone x) := by
  unfold State.qopDone
  refine memForm_modUid ?_
  exact h

theorem memForm_qtryStatus {x empty} : MemForm (s.qtryStatus x empty) := memForm_ite (memForm_modUid h) h

theorem memForm_qopWrite {x long bs} : MemForm (s.qopWrite x long bs) :=
  memForm_ite (memForm_waitmTouched (memForm_writeBytes h)) (memForm_modUid h)

theorem memForm_qopAcquire {x scope stamp} : MemForm (s.qopAcquire x scope stamp) := by
  unfold State.qopAcquire
  dsimp only
  split
  · exact memForm_acquire h
  · split
    · refine memForm_finishFence ?_
      exact h
    · exact h

theorem outForm_execQpopDeliver {id} : OutForm (execQpopDeliver id s) := by
  unfold execQpopDeliver
  grind [MemForm, OutForm.next, OutForm.fault, memForm_qopDone, memForm_qtryStatus, memForm_qopWrite, memForm_qopAcquire]

theorem memForm_dropTlb {ctx lo hi} : MemForm (s.dropTlb ctx lo hi) := h

theorem memForm_sealDone {r} : MemForm (s.sealDone r) := by
  unfold State.sealDone
  refine memForm_setWaits ?_
  exact h

theorem outForm_execSealComplete {id} : OutForm (execSealComplete id s) := by
  unfold execSealComplete
  grind [MemForm, OutForm.next, OutForm.fault, memForm_sealDone, memForm_dropTlb, memForm_homeWrite, memForm_foldl]

theorem memForm_dropLines {key n} : MemForm (s.dropLines key n) := memForm_ite h h

theorem outForm_execUnsealComplete {id} : OutForm (execUnsealComplete id s) := by
  unfold execUnsealComplete
  grind [MemForm, OutForm.next, OutForm.fault, memForm_dropLines, memForm_dropTlb, memForm_homeWrite, memForm_sealDone,
    memForm_foldl]

/-! ### Resets, interfaces and contexts (Machine/Secure) -/

theorem memForm_killKey {k} : MemForm (s.killKey k) := memForm_ite h h

theorem memForm_scrubCore {core} : MemForm (s.scrubCore core) := by
  unfold State.scrubCore
  grind [MemForm, memForm_dropL1, memForm_zeroRange]

theorem memForm_closeMemory {ctx} : MemForm (s.closeMemory ctx) := by
  unfold State.closeMemory
  grind [MemForm, memForm_dropTlb, memForm_foldl]

theorem memForm_stopContext {ctx} : MemForm (s.stopContext ctx) := by
  unfold State.stopContext
  grind [MemForm, memForm_dropWork, memForm_discardWg, memForm_closeMemory, memForm_foldl]

theorem memForm_scrubContext {ctx} : MemForm (s.scrubContext ctx) := by
  unfold State.scrubContext
  grind [MemForm, memForm_scrubCore, memForm_dropLines, memForm_zeroRange, memForm_dropEstates, memForm_foldl]

theorem memForm_beginReset {fn kind} : MemForm (s.beginReset fn kind) := by
  unfold State.beginReset
  grind [MemForm, memForm_setQueue, memForm_stopContext, memForm_killKey, memForm_setIface, memForm_foldl]

theorem memForm_zeroClocks : MemForm s.zeroClocks := h

theorem memForm_finishReset {fn} : MemForm (s.finishReset fn) := by
  unfold State.finishReset
  grind [MemForm, memForm_scrubContext, memForm_setIface, memForm_zeroClocks, memForm_resetPhysical, memForm_foldl]

theorem memForm_finishResets : MemForm s.finishResets := memForm_foldl h fun _ _ h => memForm_finishReset h

theorem outForm_execFunctionLevelReset {fn} : OutForm (execFunctionLevelReset fn s) :=
  .next (memForm_ite h (memForm_ite h (memForm_finishReset (memForm_ite h (memForm_beginReset h)))))

theorem memForm_enterError {fn lockwr fwall ide} : MemForm (s.enterError fn lockwr fwall ide) :=
  memForm_finishReset (memForm_beginReset (memForm_setIface h))

theorem memForm_lockedWrite {fn f} (hf : ∀ s, MemForm s → MemForm (f s)) : MemForm (s.lockedWrite fn f) := by
  unfold State.lockedWrite
  grind [memForm_enterError]

theorem outForm_execKeyExchange {fn} : OutForm (execKeyExchange fn s) := .next (memForm_ite (memForm_setIface h) h)

theorem outForm_execLockInterfaceRequest {fn} : OutForm (execLockInterfaceRequest fn s) :=
  .next (memForm_ite (memForm_setIface h) h)

theorem outForm_execStartInterfaceRequest {fn respond} : OutForm (execStartInterfaceRequest fn respond s) :=
  .next (memForm_ite h (memForm_ite (memForm_ite (memForm_setIface h) h) (memForm_setIface h)))

theorem outForm_execStopInterfaceRequest {fn} : OutForm (execStopInterfaceRequest fn s) :=
  .next (memForm_ite (memForm_finishReset (memForm_beginReset h)) h)

theorem outForm_execIdeStreamFailure {fn} : OutForm (execIdeStreamFailure fn s) :=
  .next (memForm_ite (memForm_enterError h) h)

theorem outForm_execKeyKillAck {slot engine} : OutForm (execKeyKillAck slot engine s) := by
  unfold execKeyKillAck
  dsimp only
  refine .next ?_
  split
  · exact h
  · refine memForm_finishResets ?_
    exact h

theorem outForm_execContextRegistration {r} : OutForm (execContextRegistration r s) := by
  unfold execContextRegistration
  grind [MemForm, OutForm.next, OutForm.fault, memForm_enterError, memForm_foldl]

theorem outForm_execContextEnd {ctx} : OutForm (execContextEnd ctx s) := by
  unfold execContextEnd
  grind [MemForm, OutForm.next, OutForm.fault, memForm_dropEstates, memForm_killKey, memForm_foldl]

theorem memForm_refuseRequest {r} : MemForm (s.refuseRequest r) := by
  unfold State.refuseRequest
  grind [MemForm, memForm_logWrite, memForm_contextFault, memForm_enterError, memForm_setIface]

theorem outForm_execHostRequest {r} : OutForm (execHostRequest r s) := by
  unfold execHostRequest
  grind [OutForm.next, OutForm.fault, memForm_waitmTouched, memForm_writeBytes, memForm_enterError, outForm_accessing,
    memForm_ksWrite, memForm_refuseRequest]

/-! ### Host queues and packets (Machine/Queue) -/

theorem memForm_queueWord {fn q off val} : MemForm (s.queueWord fn q off val) :=
  memForm_ite h (memForm_lockedWrite h (fun _ h => memForm_ite h (memForm_setQueue h)))

theorem memForm_fbControl {val} : MemForm (s.fbControl val) := memForm_ite h (memForm_lockedWrite h (fun _ h => h))

theorem outForm_execRegisterWrite {fn off val} : OutForm (execRegisterWrite fn off val s) := by
  unfold execRegisterWrite
  grind [MemForm, OutForm.next, OutForm.fault, memForm_writeBytes, memForm_queueWord, memForm_lockedWrite, memForm_fbControl]

theorem outForm_execQueueDoorbell {q wptr} : OutForm (execQueueDoorbell q wptr s) :=
  .next (memForm_ite (memForm_setQueue h) h)

theorem outForm_execQueueEnableWrite {q val} : OutForm (execQueueEnableWrite q val s) := by
  unfold execQueueEnableWrite
  dsimp only
  refine .next ?_
  split
  · exact h
  · split
    · split <;> exact memForm_setQueue h
    · refine memForm_lockedWrite h fun _ h => ?_
      split <;> exact memForm_setQueue h

theorem memForm_releaseUnrun {l} : MemForm (s.releaseUnrun l) := by
  unfold State.releaseUnrun
  split <;> exact h

theorem memForm_withdrawLaunch {l} : MemForm (s.withdrawLaunch l) := by
  unfold State.withdrawLaunch
  grind [MemForm, memForm_releaseUnrun, memForm_completePacket]

theorem outForm_execWithdraw {q tag} : OutForm (execWithdraw q tag s) := by
  unfold execWithdraw
  dsimp only
  refine .next ?_
  split
  · exact h
  · split
    · exact memForm_withdrawLaunch (memForm_setQueue h)
    · exact memForm_foldl (memForm_setQueue h) fun _ _ h => memForm_siblingsQuiet h

theorem outForm_execWclear {q} : OutForm (execWclear q s) := .next (memForm_ite (memForm_setQueue h) h)

theorem outForm_execQueueReset {q} : OutForm (execQueueReset q s) :=
  .next (memForm_ite h (memForm_ite (memForm_setQueue h) (memForm_setQueue h)))

theorem outForm_execQueueResume {q} : OutForm (execQueueResume q s) := .next (memForm_ite (memForm_setQueue h) h)

theorem memForm_parse {q type body} (hbody : ∀ s x0, MemForm s → MemForm (body s x0)) : MemForm (s.parse q type body) := by
  unfold State.parse
  grind [MemForm, memForm_setQueue, memForm_completeNow, memForm_completePacket]

theorem memForm_waitPacket {q} : MemForm (s.waitPacket q) := memForm_setQueue h

theorem memForm_queueLaunch {q p hdr cmin cmax dies cpl batch} :
    MemForm (s.queueLaunch q p hdr cmin cmax dies cpl batch) := by
  unfold State.queueLaunch
  grind [MemForm, memForm_bump, memForm_setQueue]

theorem outForm_execLaunch {q} : OutForm (execLaunch q s) := by
  unfold execLaunch
  dsimp only
  refine .next (memForm_parse h fun _ _ h => ?_)
  split
  · exact memForm_completePacket h
  · split
    · exact memForm_completePacket h
    · exact memForm_completePacket h
    · exact memForm_queueLaunch h

theorem memForm_snapEntry {ctx wset table snap i} : MemForm (s.snapEntry ctx wset table snap i) :=
  memForm_ite h (memForm_ksStore h)

theorem outForm_execBatch {q} : OutForm (execBatch q s) := by
  unfold execBatch
  dsimp only
  refine .next (memForm_parse h fun _ _ h => ?_)
  split
  · exact memForm_completePacket h
  · split
    · exact memForm_completePacket h
    · exact memForm_completePacket h
    · split
      · exact memForm_completePacket h
      · exact memForm_queueLaunch (memForm_foldl h fun _ _ h => memForm_snapEntry h)

theorem outForm_execFencePacketPoll {q} : OutForm (execFencePacketPoll q s) := .next (memForm_pollFence h)

theorem outForm_execFencePacket {q} : OutForm (execFencePacket q s) := by
  unfold execFencePacket
  dsimp only
  refine .next (memForm_parse h fun _ _ h => ?_)
  split
  · exact memForm_completePacket h
  · split
    · exact memForm_completePacket h
    · exact memForm_pollFence (memForm_setQueue h)

theorem memForm_writesDone {q} : MemForm (s.writesDone q) := by
  unfold State.writesDone
  split
  · split
    · exact memForm_pollFences (memForm_completePacket h)
    · exact h
  · exact h

theorem memForm_awaitWrites {q since} : MemForm (s.awaitWrites q since) := memForm_writesDone (memForm_setQueue h)

theorem outForm_execSignal {q} : OutForm (execSignal q s) := by
  unfold execSignal
  grind [OutForm.next, OutForm.fault, memForm_writesDone, memForm_parse, memForm_completePacket, memForm_ksStoreNat,
    memForm_ksAdd, memForm_pollFences, memForm_awaitWrites]

theorem outForm_execSibopen {q} : OutForm (execSibopen q s) := by
  unfold execSibopen
  dsimp only
  refine .next (memForm_parse (memForm_writesDone h) fun _ _ h => ?_)
  split
  · exact memForm_completePacket h
  · split
    · exact memForm_completePacket h
    · split
      · exact memForm_waitPacket h
      · refine memForm_awaitWrites (memForm_ksStoreNat ?_)
        refine memForm_foldl ?_ fun _ _ h => memForm_ksStoreNat h
        exact h

theorem outForm_execLineageClose {q} : OutForm (execLineageClose q s) := by
  unfold execLineageClose
  dsimp only
  refine .next (memForm_parse h fun _ _ h => ?_)
  split
  · exact memForm_completePacket h
  · split
    · exact memForm_setQueue (memForm_startClose h)
    · exact memForm_startClose h

theorem memForm_saveDone {q atEnd} : MemForm (s.saveDone q atEnd) := by
  unfold State.saveDone
  grind [MemForm, memForm_completePacket, memForm_modLaunch, memForm_foldl]

theorem memForm_moveImage {l img stride v} : MemForm (s.moveImage l img stride v) := by
  unfold State.moveImage
  refine memForm_modLaunch ?_
  split
  · exact memForm_modContext (memForm_ksStore h)
  · exact memForm_ksStore h

theorem outForm_execSave {q} : OutForm (execSave q s) := by
  refine .next (memForm_parse (memForm_saveDone h) fun s x h => ?_)
  dsimp only
  split
  · exact memForm_completePacket h
  · split
    · exact memForm_completePacket h
    · split
      · exact memForm_waitPacket h
      · split
        · exact memForm_completePacket h
        · exact memForm_ite (memForm_completePacket h)
            (memForm_saveDone (memForm_setQueue (memForm_foldl h fun _ _ h => memForm_moveImage h)))

theorem outForm_execRestore {q} : OutForm (execRestore q s) := by
  unfold execRestore
  grind [MemForm, OutForm.next, OutForm.fault, memForm_parse, memForm_completePacket, memForm_modLaunch, memForm_contextFault,
    memForm_waitPacket]

/-! ### The piers (Machine/Pier) -/

theorem memForm_pierTake {c} : MemForm (s.pierTake c) := h

theorem memForm_spillOut {core e} : MemForm (s.spillOut core e) := by
  unfold State.spillOut
  grind [MemForm, memForm_ksStore, memForm_modLineage, memForm_logWrite]

theorem memForm_spillAll {core p} : MemForm (s.spillAll core p) := memForm_foldl h fun _ _ h => memForm_spillOut h

theorem memForm_reclaimFor {core ctx} : MemForm (s.reclaimFor core ctx) := memForm_spillAll h

theorem memForm_unstarted {core l} : MemForm (s.unstarted core l) := memForm_checkBars (memForm_modLaunch h)

theorem memForm_sliceBegins {core ctx} : MemForm (s.sliceBegins core ctx) := memForm_ite (memForm_setCluster h) h

theorem outForm_execPierPlace {core} : OutForm (execPierPlace core s) := by
  unfold execPierPlace
  grind [MemForm, OutForm.next, OutForm.fault, memForm_pierTake, memForm_modLaunch, memForm_reclaimFor, memForm_heirClose,
    memForm_siblingsQuiet, memForm_unstarted, memForm_sliceBegins, memForm_claimTile]

theorem memForm_freshViews {core} : MemForm (s.freshViews core) := by
  unfold State.freshViews
  grind [MemForm, memForm_dropL1]

theorem outForm_execWorkgroupBirth {core} : OutForm (execWorkgroupBirth core s) := by
  unfold execWorkgroupBirth
  refine .next ?_
  split
  · split
    · exact h
    · refine memForm_freshViews (memForm_claimsDone ?_)
      refine memForm_zeroRange (memForm_modWg ?_)
      exact h
  · exact h

theorem memForm_freeSave {ctx slot} : MemForm (s.freeSave ctx slot) := by
  unfold State.freeSave
  split
  · exact memForm_modContext h
  · exact h

theorem memForm_unstop {core w} : MemForm (s.unstop core w) := memForm_modLaunch h

theorem outForm_execPierStop {core} : OutForm (execPierStop core s) := by
  unfold execPierStop
  dsimp only
  refine .next ?_
  split
  · split
    · exact h
    · split
      · exact memForm_freeSave (memForm_pierTake h)
      · split
        · exact memForm_freeSave (memForm_pierTake h)
        · split
          · exact memForm_unstop (memForm_freeSave (memForm_pierTake h))
          · exact memForm_modWg (memForm_pierTake h)
  · exact h

theorem outForm_execSaveImageWritten {core} : OutForm (execSaveImageWritten core s) := by
  unfold execSaveImageWritten
  grind [MemForm, OutForm.next, OutForm.fault, memForm_modContext, memForm_ksStore, memForm_modLaunch, memForm_saveDone,
    memForm_foldl]

theorem memForm_dropSaved {l v} : MemForm (s.dropSaved l v) :=
  memForm_heirClose (memForm_siblingsQuiet (memForm_checkBars (memForm_modLaunch (memForm_freeSave (memForm_addInsns h)))))

theorem memForm_catchUp {core} : MemForm (s.catchUp core) := by
  unfold State.catchUp
  split
  · exact h
  · exact memForm_tfetchCheck (memForm_foldl (memForm_foldl h fun _ _ h => memForm_foldl h fun _ _ h => memForm_releaseTeam h)
      fun _ _ h => memForm_waitmTestAt h)

theorem memForm_waitmMoved {core} : MemForm (s.waitmMoved core) := memForm_modWg h

theorem memForm_loadSaved {l c v core} : MemForm (s.loadSaved l c v core) := by
  unfold State.loadSaved
  grind [MemForm, memForm_reclaimFor, memForm_writeBytes, memForm_zeroRange, memForm_modLaunch, memForm_freeSave,
    memForm_catchUp, memForm_sliceBegins, memForm_freshViews, memForm_waitmMoved]

theorem memForm_imageFault {l core code} : MemForm (s.imageFault l core code) := memForm_contextFault h

theorem memForm_giveBack {lid core} : MemForm (s.giveBack lid core) := memForm_modLaunch h

theorem outForm_execPierResume {core} : OutForm (execPierResume core s) := by
  unfold execPierResume
  grind [OutForm.next, OutForm.fault, memForm_pierTake, memForm_giveBack, memForm_dropSaved, memForm_loadSaved,
    memForm_imageFault]

theorem outForm_execPierDiscard {core} : OutForm (execPierDiscard core s) := by
  unfold execPierDiscard
  dsimp only
  refine .next ?_
  split
  · split
    · exact h
    · split
      · exact memForm_pierTake h
      · exact memForm_siblingsQuiet (memForm_forget (memForm_discardWg (memForm_pierTake h)))
  · exact h

theorem memForm_stopCore {l core w t} (e : s.stopCore l core w = some t) : MemForm t := by
  unfold State.stopCore at e
  split at e
  · cases e
  · split at e
    · cases e
    · split at e
      · cases e
      · obtain ⟨⟩ := e
        exact h

omit h in
theorem memForm_stopCores {l ws} {s t : State} (h : MemForm s) (e : State.stopCores l ws s = some t) : MemForm t := by
  induction ws generalizing s with
  | nil => cases e; exact h
  | cons w rest ih =>
    obtain ⟨u, eu, et⟩ := Option.bind_eq_some_iff.1 e
    exact ih (memForm_stopCore h eu) et

theorem outForm_execSavedWorkgroupExchange {core} : OutForm (execSavedWorkgroupExchange core s) := by
  refine .next ?_
  split
  · extract_lets here other
    split
    · exact h
    · cases e : State.stopCores _ here s with
      | none => exact h
      | some t => exact memForm_stopCores h e
  · exact h

/-! ### Core assignment and slices (Machine/Sched) -/

theorem memForm_setClock {cl mhz} : MemForm (s.setClock cl mhz) := memForm_ite h (memForm_logWrite (memForm_setCluster h))

theorem memForm_protectClusters {ctx cores} : MemForm (s.protectClusters ctx cores) :=
  memForm_ite h (memForm_foldl h fun _ _ h => memForm_ite h (memForm_setCluster (memForm_setClock h)))

theorem memForm_giveCores {l cores} : MemForm (s.giveCores l cores) :=
  memForm_protectClusters (memForm_bump (memForm_modLaunch h))

theorem memForm_sendPlaces : MemForm s.sendPlaces := memForm_foldl h fun _ _ h => memForm_foldl h fun _ _ h => memForm_ite h h

theorem memForm_sendResumes {l ps} : MemForm (s.sendResumes l ps) := by
  unfold State.sendResumes
  split
  · exact h
  · split
    · refine memForm_protectClusters (memForm_modLaunch ?_)
      exact h
    · exact h

theorem memForm_resumeOn {lid cores} : MemForm (s.resumeOn lid cores) := by
  unfold State.resumeOn
  grind [memForm_sendResumes, memForm_foldl]

theorem memForm_resumeIdle {lid} : MemForm (s.resumeIdle lid) := by
  unfold State.resumeIdle
  grind [MemForm, memForm_resumeOn, memForm_modLaunch]

theorem memForm_dropCancelled {lid} : MemForm (s.dropCancelled lid) := by
  unfold State.dropCancelled
  split
  · exact h
  · refine memForm_foldl h fun _ _ h => ?_
    split
    · exact memForm_dropSaved h
    · exact h

theorem memForm_preempt {l atEnd} : MemForm (s.preempt l atEnd) := by
  unfold State.preempt
  split
  · exact h
  · refine memForm_foldl h fun s x h => ?_
    split
    · exact h
    · split
      next e => exact memForm_giveBack (memForm_stopCore h e)
      · exact h

omit h in
theorem memForm_serve {a lid atEnd} (h : MemForm a.1) : MemForm (State.serve a lid atEnd).1 := by
  unfold State.serve
  grind [memForm_giveCores, memForm_preempt, memForm_resumeOn]

theorem memForm_serveAll {ls : List Nat} {bs atEnd} : MemForm (ls.foldl (fun a l => State.serve a l atEnd) (s, bs)).1 := by
  suffices ∀ a : State × List Blocked, MemForm a.1 → MemForm (ls.foldl (fun a l => State.serve a l atEnd) a).1 from this _ h
  induction ls with
  | nil => exact fun _ h => h
  | cons l r ih => exact fun a h => ih _ (memForm_serve h)

theorem memForm_assign {atEnd} : MemForm (s.assign atEnd) := by
  unfold State.assign
  exact memForm_sendDiscards (memForm_sendPlaces (memForm_serveAll
    (memForm_foldl (memForm_foldl h fun _ _ h => memForm_dropCancelled h) fun _ _ h => memForm_resumeIdle h)))

theorem outForm_execCoreAssign : OutForm (execCoreAssign s) := .next (memForm_ite (memForm_assign h) h)

theorem memForm_flushSlice {cl} : MemForm (s.flushSlice cl) := by
  unfold State.flushSlice
  grind [MemForm, memForm_pollFences, memForm_writeStatus, memForm_forget, memForm_foldl]

theorem memForm_savesAtEnd {cl} : MemForm (s.savesAtEnd cl) := memForm_foldl h fun _ _ h => memForm_saveDone h

theorem outForm_execTimeSliceEnd : OutForm (execTimeSliceEnd s) := by
  unfold execTimeSliceEnd
  grind [MemForm, OutForm.next, OutForm.fault, memForm_setCluster, memForm_flushSlice, memForm_assign, memForm_savesAtEnd]

theorem memForm_scrubCluster {cl leaves} : MemForm (s.scrubCluster cl leaves) := by
  unfold State.scrubCluster
  grind [MemForm, memForm_scrubCore, memForm_spillAll, memForm_foldl]

theorem outForm_execClearSequenceComplete : OutForm (execClearSequenceComplete s) := by
  unfold execClearSequenceComplete
  dsimp only
  refine .next ?_
  split
  · split
    · exact memForm_setCluster h
    · split
      · exact h
      · split
        · exact memForm_setCluster (memForm_scrubCluster h)
        · exact memForm_finishResets (memForm_setClock (memForm_setCluster (memForm_scrubCluster h)))
  · exact h

theorem outForm_execLaunchComplete : OutForm (execLaunchComplete s) := by
  unfold execLaunchComplete
  dsimp only
  refine .next ?_
  split
  · exact h
  · split
    · exact h
    · split
      · exact memForm_completeLaunchPacket (memForm_modLaunch h)
      · exact memForm_forget (memForm_completeLaunchPacket (memForm_modLaunch h))

theorem outForm_execEstateSettle {id} : OutForm (execEstateSettle id s) := by
  unfold execEstateSettle
  grind [MemForm, OutForm.next, OutForm.fault, memForm_modLineage, memForm_bump, memForm_spillOut]

theorem outForm_execLineageCloseFinish {id} : OutForm (execLineageCloseFinish id s) := by
  unfold execLineageCloseFinish
  grind [MemForm, OutForm.next, OutForm.fault, memForm_ksStoreNat, memForm_ksStore, memForm_completePacket]

/-! ### The ballot (Machine/Ballot) -/

theorem memForm_decideGroup {k g hash seq} : MemForm (s.decideGroup k g hash seq) := by
  unfold State.decideGroup
  refine memForm_foldl ?_ fun _ _ h => memForm_ksStoreNat h
  exact h

theorem outForm_execBallotPostAccept {id} : OutForm (execBallotPostAccept id s) := by
  unfold execBallotPostAccept
  grind [MemForm, OutForm.next, OutForm.fault, memForm_mergeStamp, memForm_siblingsQuiet, memForm_decideGroup]

theorem memForm_dropSibling {l i} : MemForm (s.dropSibling l i) := by
  unfold State.dropSibling
  dsimp only
  split
  · exact h
  · split
    · exact h
    · refine memForm_modLineage (memForm_foldl ?_ fun _ _ h => memForm_freeSlot h)
      exact h

theorem memForm_tellSibling {k l i} : MemForm (s.tellSibling k l i) := by
  unfold State.tellSibling
  grind [MemForm, memForm_modWg, memForm_dropCancelled, memForm_dropSibling, memForm_cancelStop, memForm_foldl]

theorem outForm_execSiblingCancelNotify {slot} : OutForm (execSiblingCancelNotify slot s) := by
  unfold execSiblingCancelNotify
  dsimp only
  refine .next ?_
  split
  · exact h
  · split
    · exact h
    · refine memForm_siblingsQuiet ?_
      split
      · exact memForm_foldl h fun _ _ h => memForm_tellSibling h
      · exact memForm_foldl h fun _ _ h => h

theorem memForm_deliver {p x} : MemForm (s.deliver p x) := by
  unfold State.deliver
  grind [MemForm, memForm_mergeStamp, memForm_modUid]

theorem outForm_execBpostStatusDeliver {id} : OutForm (execBpostStatusDeliver id s) := by
  unfold execBpostStatusDeliver
  grind [OutForm.next, OutForm.fault, memForm_deliver]

theorem outForm_execBqryResultDeliver {id} : OutForm (execBqryResultDeliver id s) := by
  unfold execBqryResultDeliver
  refine .next ?_
  split
  · exact h
  · split
    · exact memForm_deliver h
    · exact h

theorem memForm_pushPage {slot g page} : MemForm (s.pushPage slot g page) := by
  unfold State.pushPage
  grind [MemForm, memForm_ringPut]

theorem memForm_releaseEntry {slot g ref} : MemForm (s.releaseEntry slot g ref) := by
  unfold State.releaseEntry
  grind [MemForm, memForm_homeWrite]

theorem outForm_execPageReleaseWalk {slot} : OutForm (execPageReleaseWalk slot s) := by
  unfold execPageReleaseWalk
  grind [MemForm, OutForm.next, OutForm.fault, memForm_pushPage, memForm_releaseEntry]

theorem outForm_execAccountingRecordWrite {slot} : OutForm (execAccountingRecordWrite slot s) := by
  unfold execAccountingRecordWrite
  grind [MemForm, OutForm.next, OutForm.fault, memForm_ksStore]

theorem outForm_execSibclose {fn handle} : OutForm (execSibclose fn handle s) := by
  unfold execSibclose
  grind [MemForm, OutForm.next, OutForm.fault]

/-! ### Faults and invalidation (Machine/Faults) -/

theorem memForm_setAccess {who w} : MemForm (s.setAccess who w) := memForm_foldl h fun _ _ h => memForm_modLanes h

theorem memForm_faultAccesses {who kind} : MemForm (s.faultAccesses who kind) :=
  memForm_foldl h fun _ _ h => memForm_setAccess (memForm_newFault h)

theorem outForm_execPageWalkComplete {die ctx vpage} : OutForm (execPageWalkComplete die ctx vpage s) := by
  unfold execPageWalkComplete
  grind [MemForm, OutForm.next, OutForm.fault, outForm_finish, memForm_tlbFill, memForm_faultAccesses, memForm_setAccess,
    memForm_firewallFault, memForm_contextFault, memForm_freeze, memForm_checkMem, memForm_foldl]

theorem memForm_deferTrap {tid code tval} : MemForm (s.deferTrap tid code tval) := h

theorem memForm_dropRed {id} : MemForm (s.dropRed id) := by
  unfold State.dropRed
  refine memForm_completeWrite ?_
  exact h

theorem memForm_unresolved {f w seq} : MemForm (s.unresolved f w seq) := memForm_contextFault h

theorem memForm_failFault {f seq} : MemForm (s.failFault f seq) := by
  unfold State.failFault
  grind [MemForm, memForm_coreFault, memForm_regroupCore, memForm_takeTrap, memForm_dropRed, memForm_deferTrap, memForm_sweep,
    memForm_unresolved, memForm_foldl]

theorem outForm_execFaultPost {id} : OutForm (execFaultPost id s) := by
  unfold execFaultPost
  grind [MemForm, OutForm.next, OutForm.fault, memForm_failFault, memForm_ksWriteNat, memForm_ksWrite, memForm_coreFault]

theorem memForm_replayRed {f id} : MemForm (s.replayRed f id) := by
  unfold State.replayRed
  grind [MemForm, memForm_dispatch, memForm_checkMem, memForm_refuseWrite, memForm_newFault, memForm_dropRed,
    memForm_deferTrap, memForm_unresolved]

theorem outForm_execFaultRespReplay {seq} : OutForm (execFaultRespReplay seq s) := by
  unfold execFaultRespReplay
  grind [MemForm, OutForm.next, OutForm.fault, outForm_finish, memForm_setWaits, memForm_tlbEvict, memForm_sweep,
    memForm_replayRed]

theorem outForm_execFaultRespFail {seq} : OutForm (execFaultRespFail seq s) := by
  unfold execFaultRespFail
  refine .next ?_
  split
  · exact h
  · exact memForm_failFault h

theorem outForm_execRedReplayBufferMove {id} : OutForm (execRedReplayBufferMove id s) := by
  unfold execRedReplayBufferMove
  dsimp only
  refine .next ?_
  split
  · exact h
  · split
    · exact h
    · refine memForm_sweep ?_
      exact h

theorem outForm_execInvalidateGo : OutForm (execInvalidateGo s) := by
  unfold execInvalidateGo
  grind [MemForm, OutForm.next, OutForm.fault, memForm_dropTlb]

theorem outForm_execTlbInvalidationDone : OutForm (execTlbInvalidationDone s) := .next (memForm_ite h h)

theorem outForm_execSoftErrorUncorrectable {pa} : OutForm (execSoftErrorUncorrectable pa s) := by
  unfold execSoftErrorUncorrectable
  dsimp only
  refine .next ?_
  split
  · exact h
  · refine memForm_logWrite ?_
    exact h

/-! ### Memory instructions of lanes (Machine/LaneMem) -/

theorem memForm_ldForm {i g d a sb n signed} : MemForm (s.ldForm i g d a sb n signed) := by
  unfold State.ldForm
  exact memForm_laneUnit h fun _ h => memForm_laneLoads h

theorem memForm_stForm {i g d a sb n} : MemForm (s.stForm i g d a sb n) := memForm_laneUnit h fun _ h => memForm_laneStores h

theorem memForm_atomForm {i sc d a b op} : MemForm (s.atomForm i sc d a b op) :=
  memForm_laneUnit h fun _ h => memForm_laneLoads h

theorem memForm_casForm {i sc d a b n} : MemForm (s.casForm i sc d a b n) := memForm_laneUnit h fun _ h => memForm_laneLoads h

/-! ### Power, links and recovery (Machine/Platform) -/

theorem outForm_execHardwareQueueRegistration {ctx desc} : OutForm (execHardwareQueueRegistration ctx desc s) := by
  unfold execHardwareQueueRegistration
  dsimp only
  refine .next ?_
  split
  · split
    · exact h
    · split <;> exact h
  · exact h

theorem memForm_flitFails {k} : MemForm (s.flitFails k) := h

theorem outForm_execSpanFlitCrcFail {src dst} : OutForm (execSpanFlitCrcFail src dst s) :=
  .next (memForm_ite (memForm_ite (memForm_flitFails h) h) (memForm_ite (memForm_flitFails h) h))

theorem outForm_execSpanLinkDown {src dst} : OutForm (execSpanLinkDown src dst s) := by
  unfold execSpanLinkDown
  refine .next ?_
  split
  · split
    · refine memForm_logWrite ?_
      exact h
    · refine memForm_logWrite (memForm_logWrite ?_)
      exact h
  · exact h

theorem outForm_execViaductLinkDown : OutForm (execViaductLinkDown s) := by
  unfold execViaductLinkDown
  refine .next ?_
  split
  · refine memForm_logWrite ?_
    exact h
  · exact h

theorem outForm_execPowerLimitExceeded : OutForm (execPowerLimitExceeded s) := .next (memForm_ite (memForm_setClock h) h)

theorem outForm_execClockStepUp : OutForm (execClockStepUp s) := .next (memForm_ite (memForm_setClock h) h)

theorem memForm_cold : MemForm s.cold := kvWfD_filter _ _ _ h

theorem memForm_boot : MemForm s.boot := by
  unfold State.boot
  grind [MemForm]

theorem outForm_execPowerOn : OutForm (execPowerOn s) := .next (memForm_ite h (memForm_boot (memForm_cold h)))

theorem outForm_execRecoveryCommit : OutForm (execRecoveryCommit s) := by
  unfold execRecoveryCommit
  grind [MemForm, OutForm.next, OutForm.fault, memForm_writeBytes]

theorem outForm_execRecoveryReboot : OutForm (execRecoveryReboot s) := .next (memForm_ite (memForm_boot (memForm_cold h)) h)

theorem memForm_tornWrite {key k bs} : MemForm (s.tornWrite key k bs) := by
  unfold State.tornWrite
  split
  · exact memForm_writeBytes h
  · refine memForm_writeBytes ?_
    exact h

theorem outForm_execPowerLoss : OutForm (execPowerLoss s) := by
  unfold execPowerLoss
  grind [MemForm, OutForm.next, OutForm.fault, memForm_tornWrite, memForm_writeBytes, memForm_cold]

theorem outForm_execGetMeasurements : OutForm (execGetMeasurements s) := .next (memForm_ite h h)

/-! ### Instructions with a shape of their own -/

theorem outForm_execSfq {g d a code} : OutForm (execSfq g d a code s) := by
  unfold execSfq
  grind [MemForm, OutForm.next, OutForm.fault, memForm_laneUnit, memForm_onTeam, memForm_bump]

theorem outForm_execWill {g a b} : OutForm (execWill g a b s) := by
  unfold execWill
  refine .next (memForm_laneUnit h fun _ h => ?_)
  split
  · exact memForm_trapLanes h
  · split
    · exact memForm_trapLanes h
    · split
      · exact h
      · exact memForm_onLanes h

theorem outForm_execCall {g off} : OutForm (execCall g off s) := by
  unfold execCall
  dsimp only
  refine .next (memForm_laneUnit h fun _ h => ?_)
  split
  · exact memForm_trapLanes h
  · exact memForm_stIssued (memForm_foldl (memForm_bump h) fun _ _ h => memForm_callLane h)

theorem outForm_execExit {g} : OutForm (execExit g s) := by
  unfold execExit
  refine .next (memForm_laneUnit h fun _ h => ?_)
  split
  · exact h
  · exact memForm_freeTeams (memForm_afterLeaving (memForm_foldl h fun _ _ h => memForm_exitThread h))

theorem outForm_execBarQry {g lvl n d} : OutForm (execBarQry g lvl n d s) := by
  unfold execBarQry
  refine .next (memForm_unifUnit h fun _ h => ?_)
  split
  · exact memForm_trapLanes h
  · split
    · exact memForm_trapLanes h
    · exact memForm_onTeam h

theorem outForm_execBpost {g d a b} : OutForm (execBpost g d a b s) := by
  unfold execBpost
  refine .next (memForm_unifUnit h fun _ h => ?_)
  split
  · exact memForm_onTeam h
  · refine memForm_sendPost ?_
    exact h

theorem outForm_execWaitm {g cond a b} : OutForm (execWaitm g cond a b s) := by
  unfold execWaitm
  refine outForm_finish (memForm_unifUnit h fun s h => ?_)
  split
  · exact memForm_trapLanes h
  · split
    · exact memForm_trapLanes h
    · split
      · exact h
      · exact memForm_ite (memForm_waitmStart h) (memForm_firewallFault h)
      · dsimp only
        split
        · exact memForm_ite (memForm_waitmStart (memForm_checkMem h)) (memForm_firewallFault h)
        · exact h
        · exact memForm_firewallFault h
        · exact memForm_hold (memForm_needWalk h)
        · exact memForm_hold (memForm_newFault h)

theorem outForm_execRett {g a} : OutForm (execRett g a s) := by
  unfold execRett
  dsimp only
  refine .next (memForm_unifUnit h fun _ h => ?_)
  split
  · exact memForm_trapLanes h
  · exact memForm_onLanes h

theorem outForm_execExt {imm w} : OutForm (execExt imm w s) := by
  unfold execExt
  grind [MemForm, OutForm.next, memForm_badPrefix, memForm_illegalWord, memForm_laneSet, memForm_ldForm, memForm_stForm,
    memForm_laneUnit, memForm_foldl, memForm_prefetch, execMovi, execLdB, execLdSb, execLdH, execLdSh, execLdW, execLdD,
    execLdQ, execPrf, execStB, execStH, execStW, execStD, execStQ]

theorem outForm_execPat {a b w} : OutForm (execPat a b w s) := by
  unfold execPat
  grind [MemForm, OutForm.next, memForm_badPrefix, memForm_illegalWord, memForm_laneOp, memForm_laneOp1, memForm_laneSet,
    memForm_lanePred, memForm_laneFp, memForm_laneFp3, memForm_lanePair3, memForm_laneFp64, execIadd, execIsub, execImul,
    execImulh, execImulhu, execImad, execImin, execImax, execIminu, execImaxu, execIsel, execIabsd, execAnd, execOr, execXor,
    execAndn, execShl, execShr, execShra, execRotl, execPopc, execClz, execBrev, execBfx, execBfi, execIcmp, execFcmp,
    execMov, execFadd, execFsub, execFmul, execFfma, execFmin, execFmax, execFrnd, execFcvt, execHadd2, execHmul2, execHfma2,
    execHmax2, execBadd2, execBmul2, execBfma2, execBmax2, execDadd, execDmul, execDfma, execDcvt]

/-! ### Every instruction and every event -/

theorem outForm_exec {i : Instr} : OutForm (exec i s) := by
  cases i with
  | iadd | isub | imul | imulh | imulhu | imad | imin | imax | iminu | imaxu | iabsd | and | or | xor | andn | shl
  | shr | shra | rotl | bfx | bfi => exact .next (memForm_laneOp h)
  | isel | vnbr | vvote | vdq | heirq | movi => exact .next (memForm_laneSet h)
  | popc | clz | brev | mov | iaddi => exact .next (memForm_laneOp1 h)
  | icmp | fcmp => exact .next (memForm_lanePred h)
  | fadd | fsub | fmul | ffma | fmin | fmax => exact .next (memForm_laneFp3 h)
  | frnd | fcvt | dcvt => exact .next (memForm_laneFp h)
  | hadd2 | hmul2 | hfma2 | hmax2 | badd2 | bmul2 | bfma2 | bmax2 => exact .next (memForm_lanePair3 h)
  | dadd | dmul | dfma => exact .next (memForm_laneFp64 h)
  | vscan | vred => exact .next (memForm_laneUnit h (fun _ h => memForm_raise (memForm_onLanes h)))
  | vqnsE2m1 | vqnsI4h | vqnsI8h => exact .next (memForm_laneUnit h (fun _ h => memForm_vqns h))
  | sfq => exact outForm_execSfq h
  | sread => exact .next (memForm_laneUnit h (fun _ h => memForm_onLanes h))
  | will => exact outForm_execWill h
  | pand | por | pxor | pnand => exact .next (memForm_predOp h)
  | ldB | ldSb | ldH | ldSh | ldW | ldD | ldQ => exact .next (memForm_ldForm h)
  | prf => exact .next (memForm_laneUnit h (fun _ h => memForm_foldl h fun _ _ h => memForm_prefetch h))
  | stB | stH | stW | stD | stQ => exact .next (memForm_stForm h)
  | atomAdd | atomFadd | atomMin | atomMax | atomAnd | atomOr | atomXor | atomExch => exact .next (memForm_atomForm h)
  | red => exact .next (memForm_laneUnit h (fun _ h => memForm_laneStores h))
  | casW | casD => exact .next (memForm_casForm h)
  | bra => exact .next (memForm_laneUnit h (fun _ h => memForm_transfer h))
  | call => exact outForm_execCall h
  | ret =>
    exact .next (memForm_laneUnit h (fun _ h => memForm_ldIssued (memForm_foldl (memForm_bump h)
      fun _ _ h => memForm_retLane h)))
  | jmpr => exact .next (memForm_laneUnit h (fun _ h => memForm_foldl h fun _ _ h => memForm_transfer h))
  | exit => exact outForm_execExit h
  | reform =>
    exact .next (memForm_laneUnit h (fun _ h => memForm_ite (memForm_trapLanes h) (memForm_foldl h
      fun _ _ h => memForm_enterBin h)))
  | join => exact .next (memForm_laneUnit h (fun _ h => memForm_ite h (memForm_onLanes (memForm_arrive h))))
  | sfwait => exact .next (memForm_laneUnit h (fun _ h => memForm_ite h (memForm_onLanes h)))
  | nop => exact .next (memForm_laneUnit h (fun _ h => h))
  | trapl => exact .next (memForm_laneUnit h (fun _ h => memForm_trapLanes h))
  | ext => exact outForm_execExt h
  | pat => exact outForm_execPat h
  | sadd | ssub | smul | smulh | sand | sor | sxor | sshl | sshr | sshra | smin | smax => exact .next (memForm_unifOp h)
  | scmp | ssel | smov | smovi | saddi | smode => exact .next (memForm_unifSet h)
  | ssr => exact .next (memForm_unifUnit h (fun _ h => memForm_onTeam h))
  | sldW | sldD => exact .next (memForm_sldForm h)
  | sstW | sstD => exact .next (memForm_sstForm h)
  | qand | qor | qxor | qnand => exact .next (memForm_unifPred h)
  | sbra => exact .next (memForm_unifUnit h (fun _ h => memForm_transfer h))
  | barSync | barArv => exact .next (memForm_barUnit h (fun _ h => memForm_onLanes (memForm_arrive h)))
  | barWait => exact .next (memForm_barUnit h (fun _ h => memForm_ite (memForm_onLanes h) (memForm_acquire
    (memForm_onLanes h))))
  | barQry => exact outForm_execBarQry h
  | kset | kand | kor | kmov => exact .next (memForm_maskSet h)
  | waitc => exact .next (memForm_unifUnit h (fun _ h => memForm_onLanes h))
  | fence => exact .next (memForm_unifUnit h (fun _ h => memForm_startFence h))
  | yield => exact .next (memForm_unifUnit h (fun _ h => memForm_ite (memForm_cancelStop (memForm_modWg h))
    (memForm_onTeam h)))
  | mma | aswap | azero | ald | ast | tcopy | tqst | tchain | trot => exact .next (memForm_command h)
  | awinit => exact .next (memForm_awUnit h (fun _ _ h => memForm_unifStore h))
  | awwait => exact .next (memForm_awUnit h (fun _ _ h => memForm_ite (memForm_acquire h) (memForm_onLanes h)))
  | awqry => exact .next (memForm_awUnit h (fun _ _ h => memForm_unifLoad h))
  | tfetch => exact .next (memForm_unifUnit h (fun _ h => memForm_modWg (memForm_onLanes (memForm_arrive h))))
  | bpost => exact outForm_execBpost h
  | bqry => exact .next (memForm_unifUnit h (fun _ h => memForm_ite (memForm_onTeam h) (memForm_sendPost h)))
  | sibchk => exact .next (memForm_unifUnit h (fun _ h => memForm_ite (memForm_cancelHere h) h))
  | waitm => exact outForm_execWaitm h
  | qpushD | qpushL | qpopD | qpopL | qtryD | qtryL => exact .next (memForm_queueForm h)
  | trap | brkpt => exact .next (memForm_unifUnit h (fun _ h => memForm_trapLanes h))
  | rett => exact outForm_execRett h
  | queueDoorbell => exact outForm_execQueueDoorbell h
  | queueEnableWrite => exact outForm_execQueueEnableWrite h
  | withdraw => exact outForm_execWithdraw h
  | wclear => exact outForm_execWclear h
  | queueReset => exact outForm_execQueueReset h
  | queueResume => exact outForm_execQueueResume h
  | registerWrite => exact outForm_execRegisterWrite h
  | launch => exact outForm_execLaunch h
  | fencePacket => exact outForm_execFencePacket h
  | fencePacketPoll => exact outForm_execFencePacketPoll h
  | signal => exact outForm_execSignal h
  | batch => exact outForm_execBatch h
  | sibopen => exact outForm_execSibopen h
  | lineageClose => exact outForm_execLineageClose h
  | save => exact outForm_execSave h
  | restore => exact outForm_execRestore h
  | pierPlace => exact outForm_execPierPlace h
  | workgroupBirth => exact outForm_execWorkgroupBirth h
  | pierStop => exact outForm_execPierStop h
  | saveImageWritten => exact outForm_execSaveImageWritten h
  | pierResume => exact outForm_execPierResume h
  | pierDiscard => exact outForm_execPierDiscard h
  | savedWorkgroupExchange => exact outForm_execSavedWorkgroupExchange h
  | barrierArrivalCounted => exact outForm_execBarrierArrivalCounted h
  | tfetchComplete => exact outForm_execTfetchComplete h
  | reformBinTimeout => exact outForm_execReformBinTimeout h
  | starvationPriority => exact outForm_execStarvationPriority h
  | sfqResult => exact outForm_execSfqResult h
  | estateSettle => exact outForm_execEstateSettle h
  | lineageCloseFinish => exact outForm_execLineageCloseFinish h
  | engineCommandBegin => exact outForm_execEngineCommandBegin h
  | multicastFetch => exact outForm_execMulticastFetch h
  | copyChunkWrite => exact outForm_execCopyChunkWrite h
  | tensorCommandComplete => exact outForm_execTensorCommandComplete h
  | loadSatisfy => exact outForm_execLoadSatisfy h
  | storeBufferDrain => exact outForm_execStoreBufferDrain h
  | writePathLeave => exact outForm_execWritePathLeave h
  | clusterAtomicPathLeave => exact outForm_execClusterAtomicPathLeave h
  | waitmPoll => exact outForm_execWaitmPoll h
  | l1ViewDrop => exact outForm_execL1ViewDrop h
  | l1ViewFill => exact outForm_execL1ViewFill h
  | dieCopyDrop => exact outForm_execDieCopyDrop h
  | gateApply => exact outForm_execGateApply h
  | portAcknowledge => exact outForm_execPortAcknowledge h
  | fenceComplete => exact outForm_execFenceComplete h
  | qpushEnterRing => exact outForm_execQpushEnterRing h
  | qpopDeliver => exact outForm_execQpopDeliver h
  | sealComplete => exact outForm_execSealComplete h
  | unsealComplete => exact outForm_execUnsealComplete h
  | pageWalkComplete => exact outForm_execPageWalkComplete h
  | faultPost => exact outForm_execFaultPost h
  | faultRespReplay => exact outForm_execFaultRespReplay h
  | faultRespFail => exact outForm_execFaultRespFail h
  | redReplayBufferMove => exact outForm_execRedReplayBufferMove h
  | softErrorUncorrectable => exact outForm_execSoftErrorUncorrectable h
  | spanFlitCrcFail => exact outForm_execSpanFlitCrcFail h
  | spanLinkDown => exact outForm_execSpanLinkDown h
  | ballotPostAccept => exact outForm_execBallotPostAccept h
  | siblingCancelNotify => exact outForm_execSiblingCancelNotify h
  | bpostStatusDeliver => exact outForm_execBpostStatusDeliver h
  | bqryResultDeliver => exact outForm_execBqryResultDeliver h
  | pageReleaseWalk => exact outForm_execPageReleaseWalk h
  | accountingRecordWrite => exact outForm_execAccountingRecordWrite h
  | sibclose => exact outForm_execSibclose h
  | lockInterfaceRequest => exact outForm_execLockInterfaceRequest h
  | startInterfaceRequest => exact outForm_execStartInterfaceRequest h
  | stopInterfaceRequest => exact outForm_execStopInterfaceRequest h
  | ideStreamFailure => exact outForm_execIdeStreamFailure h
  | functionLevelReset => exact outForm_execFunctionLevelReset h
  | keyKillAck => exact outForm_execKeyKillAck h
  | keyExchange => exact outForm_execKeyExchange h
  | contextRegistration => exact outForm_execContextRegistration h
  | contextEnd => exact outForm_execContextEnd h
  | hardwareQueueRegistration ctx desc => exact outForm_execHardwareQueueRegistration (ctx := ctx) (desc := desc) h
  | hostRequest => exact outForm_execHostRequest h
  | coreAssign => exact outForm_execCoreAssign h
  | invalidateGo => exact outForm_execInvalidateGo h
  | tlbInvalidationDone => exact outForm_execTlbInvalidationDone h
  | powerOn => exact outForm_execPowerOn h
  | recoveryCommit => exact outForm_execRecoveryCommit h
  | recoveryReboot => exact outForm_execRecoveryReboot h
  | powerLimitExceeded => exact outForm_execPowerLimitExceeded h
  | powerLoss => exact outForm_execPowerLoss h
  | getMeasurements => exact outForm_execGetMeasurements h
  | clockStepUp => exact outForm_execClockStepUp h
  | clearSequenceComplete => exact outForm_execClearSequenceComplete h
  | timeSliceEnd => exact outForm_execTimeSliceEnd h
  | viaductLinkDown => exact outForm_execViaductLinkDown h
  | launchComplete => exact outForm_execLaunchComplete h
  -- SEAL and UNSEAL, whose names are words of Lean's own
  | _ => exact .next (memForm_sealForm h)

/-! ### Steps -/

theorem outForm_runUnit : OutForm (runUnit s) := by
  unfold runUnit
  split
  · exact .next (memForm_takeDeferred h)
  · split
    · split
      · exact outForm_exec h
      · exact .next (memForm_illegalWord h)
    · exact .next (memForm_badFetch h)
    · exact .fault _
    · exact .next h
    · exact .next h
    · exact .next (memForm_firewallFault h)

theorem outForm_runSlot {core part unif} : OutForm (runSlot core part unif s) := by
  unfold runSlot
  split
  · exact outForm_runUnit (memForm_beginIssue h)
  · exact .next (memForm_fetchAll h)

theorem outForm_runTurn {t} : OutForm (runTurn t s) := by
  cases t with
  | issue core part unif => exact outForm_runSlot h
  | event i n =>
    dsimp only [runTurn]
    split
    · refine outForm_exec ?_
      exact h
    · exact .next h
  | tick cl n => exact .next (memForm_tick h)

theorem outForm_firstEnabled {l} : OutForm (firstEnabled s l) := by
  induction l with
  | nil => exact .next (memForm_foldl (memForm_idle h) fun _ _ h => memForm_fetchAll h)
  | cons c rest ih =>
    have hc : OutForm (exec c.1 { s with choice := c.2 }) := by
      refine outForm_exec ?_
      exact h
    unfold firstEnabled
    split
    next t e =>
      split
      · exact ih
      · exact .next (hc t e)
    · exact hc

theorem outForm_step : OutForm (step s) := by
  unfold step
  split
  · refine outForm_runTurn ?_
    exact h
  · split
    · exact outForm_runSlot h
    · exact outForm_firstEnabled h

end

/-- Settles O59: every operation of a step is made of writes, clears and changes that leave memory alone, and each of
them keeps the canonical form. -/
theorem stepKeepsMemoryForm : Obligations.StepKeepsMemoryForm := fun _ t h e => outForm_step h t e

end Sys2Proof.Machine

/-! ### SUPPORT: words that trap before their operands are looked at (R22, R280) -/

namespace Sys2Proof.Machine

/-- No uniform word has a lane guard: each constructor stands in one of the two tables. -/
theorem laneGuard_of_uniform {i : Instr} (hu : isUniform i = true) : laneGuard i = none := by
  revert hu
  cases i <;> simp [isUniform, unifGuard, laneGuard]

theorem executing_of_uniform (s : State) {i : Instr} (hu : isUniform i = true) : executing s i = s.subset := by
  unfold executing
  rw [laneGuard_of_uniform hu]

/-- The FP64 unit, which alone may be absent, serves lane words. -/
theorem unitPresent_of_uniform (s : State) {i : Instr} (hu : isUniform i = true) : unitPresent s i = true := by
  cases i with
  | dadd | dmul | dfma | dcvt => cases hu
  | _ => rfl

theorem laneUnit_unitAbsent (s : State) (i : Instr) (gl : List Nat) (bad : Option Word) (pr : Bool) (body : State → State)
    (hw : i.wf = true) : s.laneUnit i gl true bad pr body = (s.advance.trapLanes gl 0x07 i.word false false false).endIssue := by
  simp [State.laneUnit, hw]

theorem stop_of_effect {s t : State} {F : Nat → Thread → Thread} {M : Team → Team} (h : UnitEffect s t s F M) :
    t.stop = s.stop := (congrArg State.stop h.rest :)

section
variable {s : State} {i : Instr}

/-- A lane word with a code that is not defined traps the threads that execute it. -/
theorem laneWord_illegal (hu : isUniform i = false) (he : i.isEvent = false) (hext : ∀ imm w, i ≠ .ext imm w)
    (hpat : ∀ a b w, i ≠ .pat a b w) (hw : i.wf = false) : TrapsLanes s i (executing s i) 0x01 i.word false false := by
  obtain ⟨bad, pr, body, hx, -⟩ := exec_lane s i hu he hext hpat
  rw [laneUnit_illegal _ _ _ _ _ _ _ hw] at hx
  exact laneUnit_traps s i _ (executing_nodup s i) (executing_subset s i) _ _ false hx

/-- A lane word whose unit the core does not have traps the threads that execute it. -/
theorem laneWord_absent (hu : isUniform i = false) (he : i.isEvent = false) (hext : ∀ imm w, i ≠ .ext imm w)
    (hpat : ∀ a b w, i ≠ .pat a b w) (hw : i.wf = true) (hp : unitPresent s i = false) :
    TrapsLanes s i (executing s i) 0x07 i.word false false := by
  obtain ⟨bad, pr, body, hx, -⟩ := exec_lane s i hu he hext hpat
  rw [hp, Bool.not_false, laneUnit_unitAbsent _ _ _ _ _ _ hw] at hx
  exact laneUnit_traps s i _ (executing_nodup s i) (executing_subset s i) _ _ false hx

/-- A uniform word with a code that is not defined, whose guard holds, traps its subset. -/
theorem unifWord_illegal (hu : isUniform i = true) (hs : s.stop = none) (hx : executes s i = true) (hw : i.wf = false) :
    TrapsLanes s i (executing s i) 0x01 i.word true false := by
  rw [executing_of_uniform s hu]
  intro ho
  obtain ⟨bad, pr, body, hexec, -⟩ := exec_unif s i hu
  rw [hx, unifUnit_illegal _ _ _ _ _ hw] at hexec
  have effect := trapUnif_effect s 0x01 i.word ho
  refine ⟨_, ?_, effect⟩
  obtain h | h := hexec
  · exact h
  · exact h hs ((stop_of_effect effect).trans hs)

end

/-! ### Words that are no instruction (R271, R280) -/

theorem illegalWord_lane (s : State) {w : Word} (h : setGroup w < 0x1F) :
    s.illegalWord w = (s.advance.trapLanes (if 0x16 ≤ setGroup w ∧ setGroup w ≤ 0x19 then s.subset
      else s.guarded (BitVec.ofNat 3 (w.toNat / 2 ^ 23))) 0x01 w false false false).endIssue := by
  unfold State.illegalWord
  dsimp only
  rw [if_neg (by omega), if_neg (by omega)]
  simp only [Bool.and_eq_true, decide_eq_true_eq, Nat.reducePow]

theorem illegalWord_unif (s : State) {w : Word} (h : 32 ≤ setGroup w) :
    s.illegalWord w = (if s.guardU (BitVec.ofNat 3 (w.toNat / 2 ^ 23)) then s.advance.trapLanes s.subset 0x01 w true false false
      else s.advance).endIssue := by
  unfold State.illegalWord
  dsimp only
  rw [if_neg (by omega), if_pos h]
  simp only [Nat.reducePow]

/-- Settles O20: the lane and the uniform words have the two shapes of `exec_lane` and `exec_unif`, whose first checks are
those of the code and of the unit; a word that is no instruction traps by the set group that it stands in. -/
theorem illegalWordsAndAbsentUnits : Obligations.IllegalWordsAndAbsentUnits := by
  unfold Obligations.IllegalWordsAndAbsentUnits
  refine ⟨fun s i he hext hpat hs hx => ?_, fun s w => ⟨fun h ho => ?_, fun h => ⟨fun hg ho => ?_, fun hg => ?_⟩⟩⟩
  · cases hu : isUniform i with
    | false => exact ⟨laneWord_illegal hu he hext hpat, laneWord_absent hu he hext hpat⟩
    | true =>
      refine ⟨unifWord_illegal hu hs hx, fun _ hp => ?_⟩
      rw [unitPresent_of_uniform s hu] at hp
      cases hp
  · rw [illegalWord_lane s h]
    refine Effect.ends (trapLanes_effect s _ ?_ ?_ ho _ _ _ _)
    · split
      · exact subset_nodup s
      · exact guarded_nodup s _
    · split
      · exact fun _ hl => hl
      · exact mem_guarded s _
  · rw [illegalWord_unif s h, if_pos hg]
    exact trapUnif_effect s 0x01 w ho
  · rw [illegalWord_unif s h, if_neg (ne_true_of_eq_false hg)]
    exact idle_effect s

end Sys2Proof.Machine

/-! ### SUPPORT: cores, permits and PLACE (R15, R17, R171) -/

namespace Sys2Proof.Machine

/-- A core is known by its cluster and its index there. -/
theorem core_of_cluster_index {c d : Nat} (hc : c < 608) (hd : d < 608) (h : clusterOf c = clusterOf d)
    (hi : clusterIndex c = clusterIndex d) : c = d := by
  simp only [clusterOf, clusterIndex, coreDie, coreX, coreY] at h hi
  by_cases hc' : c < 576 <;> by_cases hd' : d < 576 <;> simp only [hc', hd', if_true, if_false] at h hi <;> omega

theorem clusterIndex_lt (c : Nat) : clusterIndex c < 8 := by
  unfold clusterIndex
  omega

/-- A cluster has at most eight cores. -/
theorem length_le_of_cluster {cores : List Nat} {cl : Nat} (hn : cores.Nodup) (hlt : ∀ c ∈ cores, c < 608)
    (hcl : ∀ c ∈ cores, clusterOf c = cl) : cores.length ≤ 8 := by
  have hinj : (cores.map clusterIndex).Nodup := hn.map_on fun c hc d hd hi =>
    core_of_cluster_index (hlt c hc) (hlt d hd) ((hcl c hc).trans (hcl d hd).symm) hi
  have hsub : cores.map clusterIndex ⊆ List.range 8 := fun i hi => by
    obtain ⟨c, -, rfl⟩ := List.mem_map.1 hi
    exact List.mem_range.2 (clusterIndex_lt c)
  have := (hinj.subperm hsub).length_le
  simpa using this

/-! #### What changes the commands on their way, and nothing else -/

theorem ite_links (p : Prop) [Decidable p] (s : State) (L : List PierCmd) :
    ∃ L', (if p then { s with links := L } else s) = { s with links := L' } := by
  split
  · exact ⟨L, rfl⟩
  · exact ⟨s.links, rfl⟩

theorem foldl_links {α : Type} (f : State → α → State) (hf : ∀ s x, ∃ L, f s x = { s with links := L }) (xs : List α) (s : State) :
    ∃ L, xs.foldl f s = { s with links := L } := by
  induction xs generalizing s with
  | nil => exact ⟨s.links, rfl⟩
  | cons x xs ih =>
    obtain ⟨L, hL⟩ := hf s x
    obtain ⟨L', hL'⟩ := ih (f s x)
    exact ⟨L', by rw [List.foldl_cons, hL', hL]⟩

/-- One PLACE, where the pier has a permit, the core is under no command, and its cluster in no clear sequence. -/
def State.sendPlace (lid : Nat) (s : State) (p : Nat × Nat) : State :=
  if s.permit p.1 && !s.commanded p.1 && (s.cluster (clusterOf p.1)).clearing.isNone then
    { s with links := s.links ++ [.place lid p.1 p.2] } else s

theorem sendPlaces_eq (s : State) :
    s.sendPlaces = s.launches.foldl (fun s e => e.2.toPlace.foldl (State.sendPlace e.1) s) s := rfl

theorem sendPlaces_links (s : State) : ∃ L, s.sendPlaces = { s with links := L } :=
  foldl_links _ (fun s _ => foldl_links _ (fun s _ => ite_links _ s _) _ s) _ s

theorem sendDiscards_links (s : State) : ∃ L, s.sendDiscards = { s with links := L } :=
  foldl_links _ (fun s _ => ite_links _ s _) _ s

theorem sendDiscards_noWgs {s : State} (h : s.wgs = []) : s.sendDiscards = s := by
  unfold State.sendDiscards
  rw [h, List.foldl_nil]

/-- The PLACE commands of a launch, as cores and numbers. -/
def placesOf (lid : Nat) (ps : List (Nat × Nat)) : List PierCmd := ps.map (fun p => .place lid p.1 p.2)

theorem placesOf_filter_length (lid cl : Nat) (ps : List (Nat × Nat)) :
    ((placesOf lid ps).filter (fun c => decide (clusterOf c.core = cl))).length
      = ((ps.map (·.1)).filter (fun c => decide (clusterOf c = cl))).length := by
  rw [placesOf, List.filter_map, List.filter_map, List.length_map, List.length_map]
  rfl

/-- Where only some cores of a pier have been sent PLACE, another one of its cores has a permit. -/
theorem permit_of_places {t : State} {lid core : Nat} {done : List (Nat × Nat)} (hl : t.links = placesOf lid done)
    (hn : (core :: done.map (·.1)).Nodup) (hlt : ∀ c ∈ core :: done.map (·.1), c < 608) : t.permit core = true := by
  have hsub : (core :: (done.map (·.1)).filter (fun c => decide (clusterOf c = clusterOf core))).Sublist (core :: done.map (·.1)) :=
    List.filter_sublist.cons_cons core
  have h8 := length_le_of_cluster (cl := clusterOf core) (hn.sublist hsub) (fun c hc => hlt c (hsub.subset hc)) fun c hc => by
    obtain rfl | hc := List.mem_cons.1 hc
    · rfl
    · simpa using (List.mem_filter.1 hc).2
  rw [State.permit, hl, placesOf_filter_length, decide_eq_true_eq]
  simpa [Nat.succ_le_iff] using h8

theorem commanded_of_places {t : State} {lid core : Nat} {done : List (Nat × Nat)} (hl : t.links = placesOf lid done)
    (hn : core ∉ done.map (·.1)) : t.commanded core = false := by
  rw [State.commanded, hl, placesOf, List.any_map, List.any_eq_false]
  intro p hp h
  exact hn (List.mem_map.2 ⟨p, hp, of_decide_eq_true h⟩)

/-- PLACE goes to every one of some distinct cores, with no command on its way but those before it. -/
theorem foldl_sendPlace (s : State) (lid : Nat) (ps done : List (Nat × Nat)) (hn : ((done ++ ps).map (·.1)).Nodup)
    (hlt : ∀ c ∈ (done ++ ps).map (·.1), c < 608) (hcl : ∀ p ∈ ps, (s.cluster (clusterOf p.1)).clearing = none) :
    ps.foldl (State.sendPlace lid) { s with links := placesOf lid done } = { s with links := placesOf lid (done ++ ps) } := by
  induction ps generalizing done with
  | nil => rw [List.append_nil, List.foldl_nil]
  | cons p ps ih =>
    have hn' : (p.1 :: done.map (·.1)).Nodup := by
      rw [List.map_append, List.map_cons, List.nodup_middle] at hn
      exact hn.sublist ((List.sublist_append_left _ _).cons_cons _)
    have hlt' : ∀ c ∈ p.1 :: done.map (·.1), c < 608 := fun c hc => hlt c (by
      rw [List.map_append, List.map_cons]
      simp only [List.mem_cons, List.mem_append] at hc ⊢
      tauto)
    have hstep : State.sendPlace lid { s with links := placesOf lid done } p = { s with links := placesOf lid (done ++ [p]) } := by
      have hp := permit_of_places (t := { s with links := placesOf lid done }) rfl hn' hlt'
      have hc := commanded_of_places (t := { s with links := placesOf lid done }) rfl (List.nodup_cons.1 hn').1
      have hcl' := hcl p List.mem_cons_self
      rw [State.sendPlace, hp, hc, if_pos (by simpa [State.cluster] using hcl')]
      simp [placesOf]
    rw [List.foldl_cons, hstep, ih (done ++ [p]) (by simpa using hn) (by simpa using hlt)
      (fun q hq => hcl q (List.mem_cons_of_mem _ hq)), List.append_assoc, List.singleton_append]

/-! #### The cores that a launch is given (R172) -/

theorem chooseCores_sublist (s : State) (l : Launch) (cs : List Nat) (n : Nat) : (s.chooseCores l cs n).Sublist cs := by
  unfold State.chooseCores
  dsimp only
  split
  · exact List.filter_sublist
  · exact List.filter_sublist

theorem whole_sublist (l : Launch) (cs : List Nat) : (l.whole cs).Sublist cs := by
  unfold Launch.whole
  split
  · exact List.filter_sublist
  · exact List.Sublist.refl cs

theorem eligible_sublist_range (s : State) (l : Launch) : (s.eligible l).Sublist (List.range 608) :=
  (whole_sublist l _).trans (List.filter_sublist.trans List.filter_sublist)

/-- No clear sequence runs on the cluster of an eligible core. -/
theorem clearing_of_eligible {s : State} {l : Launch} {c : Nat} (h : c ∈ s.eligible l) : (s.cluster (clusterOf c)).clearing = none := by
  have hok := (List.mem_filter.1 ((whole_sublist l _).subset h)).2
  simp only [State.clusterOk, Bool.and_eq_true, Option.isNone_iff_eq_none] at hok
  exact hok.2.1

theorem sendPlaces_single {s : State} {k : Nat} {l : Launch} (hl : s.launches = [(k, l)]) :
    s.sendPlaces = l.toPlace.foldl (State.sendPlace k) s := by
  rw [sendPlaces_eq, hl]
  rfl

/-- PLACE goes to each core of a launch that stands alone, where no command is on its way. -/
theorem sendPlaces_alone {s : State} {l : Launch} (hl : s.launches = [(l.id, l)]) (hk : s.links = []) {cores : List Nat}
    (hp : l.toPlace = cores.zip (List.range cores.length)) (hsub : cores.Sublist (List.range 608))
    (hcl : ∀ c ∈ cores, (s.cluster (clusterOf c)).clearing = none) :
    s.sendPlaces = { s with links := placesOf l.id (cores.zip (List.range cores.length)) } := by
  have hfst : (cores.zip (List.range cores.length)).map (·.1) = cores := List.map_fst_zip (by simp)
  have hfold := foldl_sendPlace s l.id (cores.zip (List.range cores.length)) []
    (by rw [List.nil_append, hfst]; exact List.nodup_range.sublist hsub)
    (fun c hc => by rw [List.nil_append, hfst] at hc; exact List.mem_range.1 (hsub.subset hc))
    (fun p hp => hcl p.1 (hfst ▸ List.mem_map_of_mem hp))
  have hs : ({ s with links := placesOf l.id [] } : State) = s := by rw [placesOf, List.map_nil, ← hk]
  rw [hs, List.nil_append] at hfold
  rw [sendPlaces_single hl, hp, hfold]

/-! ### A launch that waits alone (R160, R172) -/

/-- A launch that has been given cores, at a place in the order of assignment. -/
def Launch.givenCores (l : Launch) (cores : List Nat) (seq : Nat) : Launch :=
  { l with
    state := .running, mask := cores, toPlace := cores.zip (List.range cores.length), started := seq
    gbars := barsOf (64 * l.hdr.teams * cores.length) 4
    cbars := (if l.hdr.cluster then (cores.map clusterOf).dedup else []).foldl (fun b cl =>
      (List.range 8).foldl (fun b n => kvPut b (8 * cl + n) ⟨8 * (64 * l.hdr.teams), 0, 0, []⟩) b) [] }

/-- A state whose only launch has been given cores. -/
def State.withGiven (s : State) (l : Launch) (cores : List Nat) : State :=
  { s with launches := [(l.id, l.givenCores cores s.nextSeq)], nextSeq := s.nextSeq + 1 }

theorem isProt_congr {s t : State} (ctx : Nat) (h : t.contexts = s.contexts) : t.isProt ctx = s.isProt ctx := by
  rw [State.isProt, State.isProt, State.context?, State.context?, h]

theorem protectClusters_open {s : State} {ctx : Nat} (cores : List Nat) (h : s.isProt ctx = false) :
    s.protectClusters ctx cores = s := by
  rw [State.protectClusters, h, Bool.not_false, if_pos rfl]

section
variable {s : State} {l : Launch} (hl : s.launches = [(l.id, l)])
include hl

theorem launch?_alone : s.launch? l.id = some l := by
  rw [State.launch?, hl, kvGet, if_pos rfl]

/-- An open context's launch is given cores: nothing else changes but the count of assignments. -/
theorem giveCores_alone (hp : s.isProt l.ctx = false) (cores : List Nat) :
    s.giveCores l cores = s.withGiven l cores := by
  have hmod : ∀ f : Launch → Launch, s.modLaunch l.id f = { s with launches := [(l.id, f l)] } := fun f => by
    rw [State.modLaunch, hl]
    simp [kvMod, kvGet, kvPut]
  unfold State.giveCores
  dsimp only
  rw [hmod]
  exact protectClusters_open cores ((isProt_congr (s := s) l.ctx rfl).trans hp)

theorem dropCancelled_alone (hs : l.saved = []) : s.dropCancelled l.id = s := by
  rw [State.dropCancelled, launch?_alone hl]
  dsimp only
  rw [hs, List.filter_nil, List.foldl_nil]

section
variable (hw : l.state = .waiting)
include hw

theorem resumeIdle_alone : s.resumeIdle l.id = s := by
  rw [State.resumeIdle, launch?_alone hl]
  dsimp only
  rw [if_pos (by simp [hw])]

theorem toServe_alone : s.toServe = [l.id] := by
  simp [State.toServe, hl, hw, sortBy, insertBy]

/-- It is served with the cores that it prefers, and PLACE goes out. -/
theorem assign_alone (hs : l.saved = []) (hmin : l.cmin ≤ (s.eligible l).length) (atEnd : Option Nat) :
    s.assign atEnd
      = (s.giveCores l (s.chooseCores l (s.eligible l) (min l.cmax (s.eligible l).length))).sendPlaces.sendDiscards := by
  have hids : s.launches.map (·.1) = [l.id] := by rw [hl]; rfl
  have hserve : State.serve (s, []) l.id atEnd
      = (s.giveCores l (s.chooseCores l (s.eligible l) (min l.cmax (s.eligible l).length)), []) := by
    rw [State.serve]
    dsimp only
    rw [launch?_alone hl]
    dsimp only
    rw [if_neg (by simp [barred]), if_pos hw, if_pos hmin]
  unfold State.assign
  dsimp only
  rw [hids, List.foldl_cons, List.foldl_nil, dropCancelled_alone hl hs, hids, List.foldl_cons, List.foldl_nil,
    resumeIdle_alone hl hw, toServe_alone hl hw, List.foldl_cons, List.foldl_nil, hserve]

/-- CORE_ASSIGN changes the launch, the commands on their way, and the count of assignments; where there were no commands and
no workgroups, PLACE goes to each of the launch's cores. -/
theorem exec_coreAssign_alone (hup : s.up = true) (hs : l.saved = []) (hp : s.isProt l.ctx = false)
    (hmin : l.cmin ≤ (s.eligible l).length) :
    let cores := s.chooseCores l (s.eligible l) (min l.cmax (s.eligible l).length)
    ∃ L, exec .coreAssign s = .next { s.withGiven l cores with links := L }
      ∧ (s.links = [] → s.wgs = [] → L = placesOf l.id (cores.zip (List.range cores.length))) := by
  intro cores
  have hexec : exec .coreAssign s = .next (s.withGiven l cores).sendPlaces.sendDiscards := by
    rw [← giveCores_alone hl hp cores, ← assign_alone hl hw hs hmin none]
    show execCoreAssign s = _
    rw [execCoreAssign, if_pos hup]
  rw [hexec]
  by_cases hk : s.links = [] ∧ s.wgs = []
  · obtain ⟨hlinks, hwgs⟩ := hk
    have hcores : cores.Sublist (s.eligible l) := chooseCores_sublist s l _ _
    have hplaces := sendPlaces_alone (s := s.withGiven l cores) (l := l.givenCores cores s.nextSeq) rfl hlinks rfl
      (hcores.trans (eligible_sublist_range s l)) (fun c hc => clearing_of_eligible (s := s) (hcores.subset hc))
    have hsent := (congrArg State.sendDiscards hplaces).trans (sendDiscards_noWgs hwgs)
    exact ⟨_, congrArg Host.Outcome.next hsent, fun _ _ => rfl⟩
  · obtain ⟨L, hL⟩ := sendPlaces_links (s.withGiven l cores)
    obtain ⟨L', hL'⟩ := sendDiscards_links (s.withGiven l cores).sendPlaces
    exact ⟨L', by rw [hL', hL], fun h1 h2 => absurd ⟨h1, h2⟩ hk⟩

end
end

/-! ### The end of a launch, of a slice and of a clear sequence (R127, R228, R229) -/

theorem exec_launchComplete_over {s : State} {l : Launch} (hl : s.launch? s.choice = some l) (ho : s.launchOver l = true) :
    let t := (s.modLaunch l.id (fun l => { l with state := .done, mask := [] })).completeLaunchPacket l 1 0
    exec .launchComplete s = .next (if t.statusHeld l.queue then t else t.forget l.id) := by
  intro t
  show execLaunchComplete s = _
  rw [execLaunchComplete, hl]
  dsimp only
  rw [if_neg (by simp [ho])]

/-- Is it a STOP or a DISCARD? -/
def PierCmd.takesAway : PierCmd → Bool
  | .stop _ _ _ _ | .discard _ => true
  | _ => false

theorem takesAway_iff (k : PierCmd) : k.takesAway = true ↔ (∃ a b c d, k = .stop a b c d) ∨ ∃ a, k = .discard a := by
  cases k <;> simp [PierCmd.takesAway]

theorem clearWaits_eq (s : State) (cl : Nat) : s.clearWaits cl = (s.wgs.any (fun e => clusterOf e.1 = cl)
    || s.links.any (fun k => clusterOf k.core = cl && k.takesAway) || s.settles.any (fun e => clusterOf e.core = cl)
    || s.stores.any (fun e => clusterOf e.1 = cl && e.2.any (·.pinned))) := rfl

/-- What keeps a clear sequence of a cluster from beginning (R229). -/
theorem clearWaits_iff (s : State) (cl : Nat) : s.clearWaits cl = true ↔
    (∃ e ∈ s.wgs, clusterOf e.1 = cl) ∨ (∃ e ∈ s.settles, clusterOf e.core = cl)
      ∨ (∃ k ∈ s.links, clusterOf k.core = cl ∧ ((∃ a b c d, k = .stop a b c d) ∨ ∃ a, k = .discard a))
      ∨ (∃ e ∈ s.stores, clusterOf e.1 = cl ∧ ∃ x ∈ e.2, x.pinned = true) := by
  simp only [clearWaits_eq, Bool.or_eq_true, List.any_eq_true, Bool.and_eq_true, decide_eq_true_eq, takesAway_iff]
  rw [or_assoc, or_or_or_comm, or_assoc]

section
variable {s : State} {x t0 : Nat} (hx : (s.cluster s.choice).active = some x)
include hx

theorem exec_timeSliceEnd_early (h0 : (s.cluster s.choice).sliceStart = some t0) (hc : (s.cluster s.choice).clearing = none)
    (h : (s.cluster s.choice).cycles < t0 + 1800000) : exec .timeSliceEnd s = .next s := by
  show execTimeSliceEnd s = _
  simp only [execTimeSliceEnd, hx, h0, hc]
  rw [if_pos h]

/-- A slice that has ended: what was held is written, the cores are assigned anew, and the cluster may pass on. -/
theorem exec_timeSliceEnd_due (h0 : (s.cluster s.choice).sliceStart = some t0) (hc : (s.cluster s.choice).clearing = none)
    (h : t0 + 1800000 ≤ (s.cluster s.choice).cycles) : ∃ u, exec .timeSliceEnd s = .next u
      ∧ let v := (s.flushSlice s.choice).setCluster s.choice { s.cluster s.choice with sliceStart := some (t0 + 1800000) }
        let t := ({ ({ v with choice := 0 } : State).assign (some s.choice) with choice := s.choice } : State).savesAtEnd s.choice
        u = t ∨ u = t.setCluster s.choice { t.cluster s.choice with clearing := some (s.cluster s.choice).cycles } := by
  refine ⟨_, (show execTimeSliceEnd s = _ from rfl), ?_⟩
  simp only [hx, h0, hc]
  rw [if_neg (by omega)]
  split
  · exact .inr rfl
  · exact .inl rfl

/-! #### Clear sequences -/

section
variable (h0 : (s.cluster s.choice).clearing = some t0)
include h0

theorem exec_clearSequenceComplete_waits (hb : s.clearWaits s.choice = true) : exec .clearSequenceComplete s
    = .next (s.setCluster s.choice { s.cluster s.choice with clearing := some (s.cluster s.choice).cycles }) := by
  show execClearSequenceComplete s = _
  simp only [execClearSequenceComplete, hx, h0]
  rw [if_pos hb]

theorem exec_clearSequenceComplete_early (hb : s.clearWaits s.choice = false) (h : (s.cluster s.choice).cycles < t0 + 10800) :
    exec .clearSequenceComplete s = .next s := by
  show execClearSequenceComplete s = _
  simp only [execClearSequenceComplete, hx, h0]
  rw [if_neg (ne_true_of_eq_false hb), if_pos h]

theorem exec_clearSequenceComplete_due (hb : s.clearWaits s.choice = false) (h : t0 + 10800 ≤ (s.cluster s.choice).cycles) :
    let coming := ∃ e ∈ s.launches, e.2.ctx = x ∧ ∃ k ∈ e.2.mask, clusterOf k = s.choice
    (coming → exec .clearSequenceComplete s = .next ((s.scrubCluster s.choice (fun e => e.ctx ≠ x)).setCluster s.choice
        { s.cluster s.choice with clearing := none }))
    ∧ (¬ coming → exec .clearSequenceComplete s = .next ((((s.scrubCluster s.choice (fun e => e.ctx = x)).setCluster s.choice
        { s.cluster s.choice with active := none, sliceStart := none, clearing := none }).setClock s.choice 1050).finishResets)) := by
  intro coming
  have hcoming : s.launches.any (fun e => e.2.ctx = x && e.2.mask.any (fun k => clusterOf k = s.choice)) = true ↔ coming := by
    simp only [List.any_eq_true, Bool.and_eq_true, decide_eq_true_eq, coming]
  have hexec : exec .clearSequenceComplete s = execClearSequenceComplete s := rfl
  simp only [execClearSequenceComplete, hx, h0] at hexec
  rw [if_neg (ne_true_of_eq_false hb), if_neg (by omega)] at hexec
  refine ⟨fun hc => ?_, fun hc => ?_⟩
  · simpa only [hcoming.2 hc, if_true, hx] using hexec
  · have hstays := Bool.eq_false_iff.2 (mt hcoming.1 hc)
    simpa only [hstays, Bool.false_eq_true, if_false] using hexec

end
end

/-- Settles O54: a launch that stands alone goes through CORE_ASSIGN by itself, and the other events are read off by what their
cluster or launch has come to. -/
theorem schedulingSteps : Obligations.SchedulingSteps := by
  unfold Obligations.SchedulingSteps
  refine ⟨fun s l hup hl hw hs hp hmin => ?_, fun s l hl ho => exec_launchComplete_over hl ho, fun s x t0 hx => ⟨fun h0 hc =>
    ⟨exec_timeSliceEnd_early hx h0 hc, exec_timeSliceEnd_due hx h0 hc⟩, fun h0 => ?_⟩⟩
  · obtain ⟨L, hexec, hL⟩ := exec_coreAssign_alone hl hw hup hs hp hmin
    refine ⟨_, hexec, ?_, hL, rfl⟩
    exact if_pos rfl
  · dsimp only
    rw [← clearWaits_iff]
    refine ⟨exec_clearSequenceComplete_waits hx h0, fun hb => ?_, fun hb => ?_⟩
    · exact exec_clearSequenceComplete_early hx h0 (Bool.eq_false_iff.2 hb)
    · exact exec_clearSequenceComplete_due hx h0 (Bool.eq_false_iff.2 hb)

end Sys2Proof.Machine

/-! ### SUPPORT: clocks, power and firmware (R24, R233 to R239) -/

namespace Sys2Proof.Machine

section
variable {s : State}

/-! #### Clocks -/

theorem exec_powerLimitExceeded_open (ho : s.openCluster s.choice = true) : exec .powerLimitExceeded s
    = .next (if 650 ≤ (s.cluster s.choice).mhz then s.setClock s.choice ((s.cluster s.choice).mhz - 50) else s) := by
  show execPowerLimitExceeded s = _
  simp only [execPowerLimitExceeded, ho, Bool.true_and, decide_eq_true_eq]

theorem exec_clockStepUp_open (ho : s.openCluster s.choice = true) : exec .clockStepUp s
    = .next (if (s.cluster s.choice).mhz ≤ 1000 then s.setClock s.choice ((s.cluster s.choice).mhz + 50) else s) := by
  show execClockStepUp s = _
  simp only [execClockStepUp, ho, Bool.true_and, decide_eq_true_eq]

/-! #### Power -/

theorem exec_powerOn_off (hp : s.powered = false) : exec .powerOn s = .next s.cold.boot := by
  show execPowerOn s = _
  rw [execPowerOn, if_neg (ne_true_of_eq_false hp)]

/-- Power that fails outside the flash writes of a commit loses all that is volatile, and writes nothing. -/
theorem exec_powerLoss_outsideCommit (hp : s.powered = true) (hc : s.choice = 0 ∨ s.recov.busy = false) :
    exec .powerLoss s = .next { s.cold with powered := false } := by
  show execPowerLoss s = _
  rw [execPowerLoss, if_neg (by simp [hp])]
  dsimp only
  split
  · next n _ _ _ _ hchoice hbusy _ =>
    rw [hchoice, hbusy] at hc
    simp at hc
  · rfl

/-! #### Recovery -/

theorem exec_recoveryReboot_idle (hp : s.powered = true) (ha : s.recov.active = true) (hb : s.recov.busy = false) :
    exec .recoveryReboot s = .next s.cold.boot := by
  show execRecoveryReboot s = _
  rw [execRecoveryReboot, if_pos (by simp [hp, ha, hb])]

theorem exec_recoveryReboot_busy (hb : s.recov.busy = true) : exec .recoveryReboot s = .next s := by
  show execRecoveryReboot s = _
  rw [execRecoveryReboot, if_neg (by simp [hb])]

theorem exec_recoveryCommit_command (hp : s.powered = true) (ha : s.recov.active = true) (hb : s.recov.busy = false) :
    exec .recoveryCommit s = .next { s with recov := { s.recov with busy := true } } := by
  show execRecoveryCommit s = _
  rw [execRecoveryCommit, if_neg (by simp [hp, ha]), if_pos (by simp [hb])]

section
variable (hp : s.powered = true) (ha : s.recov.active = true) (hb : s.recov.busy = true)
include hp ha hb

theorem exec_recoveryCommit_error {e : Nat} (h : s.commitPlan = .error e) :
    exec .recoveryCommit s = .next { s with recov := { s.recov with stage := e, busy := false } } := by
  show execRecoveryCommit s = _
  rw [execRecoveryCommit, if_neg (by simp [hp, ha]), if_neg (by simp [hb]), h]

theorem exec_recoveryCommit_ok {b r : Nat} {img m : List Byte} (h : s.commitPlan = .ok (b, img, r, m)) :
    exec .recoveryCommit s = .next (if s.choice = 1 then { s with recov := { s.recov with stage := 4, busy := false } }
      else { s with mem := memPut (memPut s.mem (slotKey b) img) (markerKey r) m
                    recov := { s.recov with stage := 1, busy := false } }) := by
  show execRecoveryCommit s = _
  rw [execRecoveryCommit, if_neg (by simp [hp, ha]), if_neg (by simp [hb]), h]
  rfl

end

/-! #### Booting -/

/-- The slot that the winning marker record names, or slot A where no record is valid (R235). -/
def State.namedSlot (s : State) : Nat := match s.winner with | some (_, m) => m.slot | none => 0

/-- What keeps the named slot from booting, its digest compared with the record's, and what keeps the other one. -/
def State.namedError (s : State) : Nat := s.slotError s.namedSlot (s.winner.map (fun p => p.2.digest))
def State.otherError (s : State) : Nat := s.slotError (1 - s.namedSlot) none

theorem boot_part : s.boot.part = if s.variantOk then variantPart (s.readBytes variantAt variantBytes) else s.part := by
  unfold State.boot
  extract_lets w named e1 e2 var t
  have ht : t.part = if s.variantOk then variantPart (s.readBytes variantAt variantBytes) else s.part := apply_ite State.part _ _ _
  split
  · exact ht
  · exact ht

/-- A slot that may boot runs, the named one first. -/
theorem boot_runs (hv : s.variantOk = true) (he : s.namedError = 0 ∨ s.otherError = 0) :
    s.boot.recov.active = false
      ∧ s.boot.recov.running = some (if s.namedError = 0 then s.namedSlot else 1 - s.namedSlot) := by
  have hgood : (s.variantOk && (decide (s.namedError = 0) || decide (s.otherError = 0))) = true := by simpa [hv] using he
  have hboot : s.boot = if s.variantOk && (decide (s.namedError = 0) || decide (s.otherError = 0)) then _ else _ := rfl
  rw [hboot, if_pos hgood, hv]
  exact ⟨rfl, rfl⟩

/-- Without one, or with a variant record that fails, the device enters recovery. -/
theorem boot_recovers (h : s.variantOk = false ∨ (s.namedError ≠ 0 ∧ s.otherError ≠ 0)) :
    s.boot.recov.active = true ∧ s.boot.recov.running = none := by
  have hbad : ¬ (s.variantOk && (decide (s.namedError = 0) || decide (s.otherError = 0))) = true := by
    obtain h | ⟨h1, h2⟩ := h
    · simp [h]
    · simp [h1, h2]
  have hboot : s.boot = if s.variantOk && (decide (s.namedError = 0) || decide (s.otherError = 0)) then _ else _ := rfl
  rw [hboot, if_neg hbad]
  exact ⟨rfl, rfl⟩

/-! #### Measurements -/

/-- The digest of the running image, or nothing where none runs (R239). -/
def State.runningDigest (s : State) : List Byte :=
  match s.recov.running.bind (fun b => imageParts (s.readBytes (slotKey b) slotBytes)) with
  | some p => p.1
  | none => []

/-- The device with its four measurements taken and signed, the image's digest given (R239). -/
def State.attested (s : State) (digest : List Byte) : State :=
  let blocks := [toBytes 4 Config.romVersion.toNat, digest, sha3 (s.readBytes variantAt variantBytes), toBytes 4 (s.iface s.choice).state]
  { s with recov := { s.recov with measured := blocks, signature := Config.mldsaSign blocks.flatten } }

theorem exec_getMeasurements_on (hp : s.powered = true) :
    exec .getMeasurements s = .next (s.attested s.runningDigest) := by
  have hdigest : s.runningDigest = match s.recov.running with
      | some b => (match imageParts (s.readBytes (slotKey b) slotBytes) with | some (d, _) => d | none => [])
      | none => [] := by
    unfold State.runningDigest
    cases s.recov.running with
    | none => rfl
    | some b => dsimp only [Option.bind_some]; cases imageParts (s.readBytes (slotKey b) slotBytes) <;> rfl
  show execGetMeasurements s = _
  rw [execGetMeasurements, if_neg (by simp [hp])]
  exact congrArg (fun d => Host.Outcome.next (s.attested d)) hdigest.symm

end

/-- Settles O55, an event at a time. -/
theorem powerAndFirmware : Obligations.PowerAndFirmware := by
  unfold Obligations.PowerAndFirmware
  intro s
  refine ⟨fun ho => ?_, exec_powerOn_off, fun hp ha hb => ⟨exec_recoveryReboot_idle hp ha hb, exec_recoveryCommit_command hp ha hb⟩,
    fun hp ha hb => ⟨exec_recoveryReboot_busy hb, fun e h => exec_recoveryCommit_error hp ha hb h, fun b img r m h hc => ?_,
      fun b img r m h hc => ?_⟩, fun hp hc => ⟨_, exec_powerLoss_outsideCommit hp hc, rfl⟩, exec_getMeasurements_on,
    boot_part, fun hv he => ?_, fun hv he he' => ?_, boot_recovers⟩
  · dsimp only
    rw [exec_powerLimitExceeded_open ho, exec_clockStepUp_open ho]
    exact ⟨fun h => by rw [if_pos h], fun h => by rw [if_neg (by omega)], fun h => by rw [if_pos h],
      fun h => by rw [if_neg (by omega)]⟩
  · rw [exec_recoveryCommit_ok hp ha hb h, if_pos hc]
  · rw [exec_recoveryCommit_ok hp ha hb h, if_neg hc]
  · have h := boot_runs hv (.inl he)
    rwa [if_pos (show s.namedError = 0 from he)] at h
  · have h := boot_runs hv (.inr he')
    rwa [if_neg (show s.namedError ≠ 0 from he)] at h

end Sys2Proof.Machine

/-! ### SUPPORT: what TFETCH, BPOST and BQRY send (R33, R321, R323, R410) -/

namespace Sys2Proof.Machine

/-- The arrival of a subset that has moved on is the one that it would have made before (R43). -/
theorem arrive_advance (s : State) (ls : List Nat) (bar : Option BarKey) (join : Option Nat) (sync : Bool) :
    s.advance.arrive ls bar join sync = { s.advance with
      arrivals := s.arrivals ++ [arrivalOf s (ls.map (fun l => (s.lane l).tid)) bar join sync]
      nextSeq := s.nextSeq + 1 } := by
  have hw := wg?_advance_map s s.cur.core (fun w => (w.launch, w.num, w.grp)) (fun _ => rfl)
  unfold State.arrive arrivalOf
  simp only [cur_advance, hw, uid_team_advance, tid_lane_advance]
  cases s.wg? s.cur.core <;> rfl

theorem sibling_advance (s : State) : s.advance.sibling = s.sibling := by
  simp only [State.sibling, cur_advance, tile_advance, hdr_advance]

theorem subsetTids_advance (s : State) : s.advance.subsetTids = s.subsetTids := by
  simp only [State.subsetTids, subset_advance, tid_lane_advance]

/-- The post or query that the unit under way sends (R260, R321, R323). -/
def postOf (s : State) (d : Nat) (hash : Option (DWord × Word)) : Post :=
  ⟨s.nextSeq, s.cur.core, s.cur.team, s.team.uid, d, (s.hdr s.cur.core).sibgrp, s.sibling, hash, none⟩

/-- The state with one post or query more. -/
def State.withPost (s : State) (p : Post) : State := { s with posts := s.posts ++ [p], nextSeq := s.nextSeq + 1 }

/-- A post that a subset sends once it has moved on. -/
theorem sendPost_advance (s : State) (d : Nat) (hash : Option (DWord × Word)) :
    s.advance.sendPost d hash = s.advance.withPost (postOf s d hash) := by
  simp only [State.sendPost, cur_advance, uid_team_advance, hdr_advance, sibling_advance]
  rfl

/-- The fence that a post leaves behind: a release at DEVICE scope of its threads and their team, under the post's number
(R321). -/
def postFence (s : State) : FenceReq := ⟨s.nextSeq, s.cur.core, s.team.uid, s.subsetTids ++ [s.team.uid], 2, true, false, []⟩

/-- The state with one fence more. -/
def State.withFence (s : State) (f : FenceReq) : State := { s with fences := s.fences ++ [f] }

theorem sendPost_withFence (s : State) (f : FenceReq) (d : Nat) (hash : Option (DWord × Word)) :
    (s.withFence f).sendPost d hash = (s.sendPost d hash).withFence f := rfl

/-- A workgroup in which TFETCH has named a Q register of a team (R410). -/
def Workgroup.naming (w : Workgroup) (team q : Nat) : Workgroup :=
  { w with tfPreds := if w.tfPreds.contains (team, q) then w.tfPreds else w.tfPreds ++ [(team, q)] }

/-- A subset that has moved on and arrived at TFETCH's barrier, its Q register named, before its issue ends (R33, R410). -/
def State.atTfetch (s : State) (q : Nat) : State :=
  ((s.advance.arrive s.subset none none true).onLanes s.subset (fun _ x => { x with wait := .arrive s.nextSeq })).modWg s.cur.core
    (fun w => w.naming s.cur.team q)

theorem atTfetch_effect (s : State) (q : Nat) : GroupEffect s (s.atTfetch q).endIssue
    { s with arrivals := s.arrivals ++ [arrivalOf s (s.subset.map (fun l => (s.lane l).tid)) none none true]
             nextSeq := s.nextSeq + 1 }
    (lanesWith s.subset (fun _ x => { x with wait := .arrive s.nextSeq })) id (fun w => w.naming s.cur.team q) := by
  unfold State.atTfetch
  rw [arrive_advance]
  have harrived := Effect.map (Effect.advance s) (fun x => { x with
    arrivals := s.arrivals ++ [arrivalOf s (s.subset.map (fun l => (s.lane l).tid)) none none true]
    nextSeq := s.nextSeq + 1 }) (fun _ => rfl) (fun _ _ => rfl)
  have hwaits := Effect.lanes harrived rfl s.subset (fun _ h => h) (fun _ x => { x with wait := .arrive s.nextSeq })
  refine Effect.groupEnds (Effect.group hwaits rfl _ (fun _ => rfl) fun x y h => ?_)
  have hshell : ∀ w : Workgroup, groupShell (w.naming s.cur.team q) = (groupShell w).naming s.cur.team q := fun _ => rfl
  rw [hshell, hshell, h]

theorem exec_tfetch (s : State) (g q : BitVec 3) (hg : s.guardU g = true) (ho : ∀ l ∈ s.subset, (s.lane l).inHandler = false) :
    exec (.tfetch g q) s = .next (s.atTfetch q.toNat).endIssue := by
  have hpriv : s.subset.any (fun l => (s.lane l).inHandler) = false :=
    List.any_eq_false.2 fun l hl => by rw [ho l hl]; exact Bool.false_ne_true
  show execTfetch g q s = _
  unfold State.atTfetch
  rw [execTfetch, hpriv, hg, unifUnit_ok _ _ _ rfl]
  dsimp only
  rw [subset_advance, arrive_advance]
  rfl

section
variable {s : State} {g : BitVec 3} {d : BitVec 7} (hg : s.guardU g = true) (hd : sOk d = true)
include hg hd

/-- A query of threads that do not vote gets a status in its register; one of threads that vote is sent (R323). -/
theorem bqry_completes :
    (s.votes = false → WritesTeam s (.bqry g d) (fun m => m.setSr d.toNat 8))
    ∧ (s.votes = true → Completes (.bqry g d) s (s.withPost (postOf s d.toNat none)) (fun _ x => x) id) := by
  have hexec : exec (.bqry g d) s = .next (s.unifUnit (.bqry g d) true none false (fun s =>
      if !s.votes then s.onTeam (fun t => t.setSr d.toNat 8) else s.sendPost d.toNat none)) := by
    show execBqry g d s = _
    rw [execBqry, hg, badS1, firstBad, hd]
    rfl
  refine ⟨fun hv => unifUnit_completes _ _ _ _ _ _ hexec rfl ?_, fun hv => unifUnit_completes _ _ _ _ _ _ hexec rfl ?_⟩
  · rw [votes_advance, hv]
    exact Effect.teamWith (Effect.advance s) rfl _ (fun _ => rfl) (setSr_shared _ _)
  · rw [votes_advance, hv, Bool.not_true, if_neg Bool.false_ne_true, sendPost_advance]
    exact Effect.map (Effect.advance s) (fun x => x.withPost (postOf s d.toNat none)) (fun _ => rfl) (fun _ _ => rfl)

/-- The same of a post, which goes behind a release at DEVICE scope (R321). -/
theorem bpost_completes {a b : BitVec 7} (ha : s2Ok a = true) (hb : sOk b = true) :
    (s.votes = false → WritesTeam s (.bpost g d a b) (fun m => m.setSr d.toNat 4))
    ∧ (s.votes = true → Completes (.bpost g d a b) s
        ((s.withPost (postOf s d.toNat (some (s.team.sr2 a.toNat, s.team.sr b.toNat)))).withFence (postFence s))
        (fun _ x => x) id) := by
  have hexec : exec (.bpost g d a b) s = .next (s.unifUnit (.bpost g d a b) true none false (fun t =>
      if !t.votes then t.onTeam (fun m => m.setSr d.toNat 4)
      else (t.withFence (postFence t)).sendPost d.toNat (some (s.team.sr2 a.toNat, s.team.sr b.toNat)))) := by
    show execBpost g d a b s = _
    simp only [execBpost, hg, firstBad, hd, ha, hb, if_true]
    rfl
  have hfence : postFence s.advance = postFence s := by
    simp only [postFence, cur_advance, uid_team_advance, subsetTids_advance]
    rfl
  refine ⟨fun hv => unifUnit_completes _ _ _ _ _ _ hexec rfl ?_, fun hv => unifUnit_completes _ _ _ _ _ _ hexec rfl ?_⟩
  · rw [votes_advance, hv]
    exact Effect.teamWith (Effect.advance s) rfl _ (fun _ => rfl) (setSr_shared _ _)
  · rw [votes_advance, hv, Bool.not_true, if_neg Bool.false_ne_true, sendPost_withFence, sendPost_advance, hfence]
    exact Effect.map (Effect.advance s) (fun x => (x.withPost (postOf s d.toNat _)).withFence (postFence s)) (fun _ => rfl)
      (fun _ _ => rfl)

end

/-- Settles O32, a word at a time. -/
theorem tokenFetchAndBallotIssue : Obligations.TokenFetchAndBallotIssue := by
  unfold Obligations.TokenFetchAndBallotIssue
  intro s g q d a b hg
  exact ⟨fun ho => ⟨_, exec_tfetch s g q hg ho, atTfetch_effect s q.toNat⟩, fun hd => bqry_completes hg hd,
    fun hd ha hb => bpost_completes hg hd ha hb⟩

end Sys2Proof.Machine

/-! ### SUPPORT: what a barrier reads, and what leaves it alone (R43, R124) -/

namespace Sys2Proof.Machine

/-- A fold none of whose steps changes what `P` reads leaves it. -/
theorem foldl_keeps {α β γ : Type} (P : α → γ) (f : α → β → α) (l : List β) (h : ∀ a x, P (f a x) = P a) (a : α) :
    P (l.foldl f a) = P a := by
  induction l generalizing a with
  | nil => rfl
  | cons x r ih => rw [List.foldl_cons, ih, h]

/-- A change of each value that `P` does not read. -/
theorem kvGet_map_keeps {α β : Type} (P : α → β) (m : KV α) (k : Nat) (f : Nat → α → α) (h : ∀ i x, P (f i x) = P x) :
    (kvGet (m.map (fun e => (e.1, f e.1 e.2))) k).map P = (kvGet m k).map P := by
  rw [kvGet_map, Option.map_map]
  exact congrArg (fun g => (kvGet m k).map g) (funext (h k))

theorem shared_modTid (s : State) (c i : Nat) (f : Thread → Thread) (c' n : Nat) :
    ((s.modTid c i f).team? c' n).map teamShared = (s.team? c' n).map teamShared := by
  simp only [State.team?, State.modTid, wg?_modWg]
  split
  · cases s.wg? c' with
    | none => rfl
    | some w =>
      exact kvGet_map_keeps teamShared w.teams n (fun _ (m : Team) =>
        { m with lanes := m.lanes.map (fun l => if l.2.tid = i then (l.1, f l.2) else l) }) (fun _ _ => rfl)
  · rfl

theorem shell_modTid (s : State) (c i : Nat) (f : Thread → Thread) (c' : Nat) :
    ((s.modTid c i f).wg? c').map groupShell = (s.wg? c').map groupShell := by
  rw [State.modTid, wg?_modWg]
  split
  · cases s.wg? c' <;> rfl
  · rfl

theorem mergeStamp_wgs (s : State) (d : Nat) (v : List Word) : (s.mergeStamp d v).wgs = s.wgs := by
  unfold State.mergeStamp
  split
  · rfl
  · exact foldl_wgs (fun s j => s.send d j .clock) _ (fun _ _ => rfl) _

theorem wgLaunch?_eq (s : State) (c : Nat) : s.wgLaunch? c = ((s.wg? c).map (·.launch)).bind s.launch? := by
  rw [Option.bind_map]
  rfl

theorem barrier_cluster (s : State) (c n i : Nat) : s.barrier c n (.cluster i) = ((s.wg? c).map (·.grp)).elim barZero (fun g =>
    (s.wgLaunch? c).elim barZero (fun l => kvGetD barZero l.cbars (8 * g + i))) := by
  simp only [State.barrier]
  cases s.wg? c with
  | none => rfl
  | some w => cases s.wgLaunch? c <;> rfl

/-- What a barrier of a workgroup reads in it: its launch, the cluster of its first placement, and its own barriers. -/
def groupBars (w : Workgroup) : Nat × Nat × List (Nat × Barrier) := (w.launch, w.grp, w.bars)

/-- From `s` to `t` no barrier has changed, no arrival, and no launch; and no workgroup or team has come or gone. -/
structure KeepsBarriers (s t : State) : Prop where
  teams : ∀ c n, (t.team? c n).map (·.bars) = (s.team? c n).map (·.bars)
  groups : ∀ c, (t.wg? c).map groupBars = (s.wg? c).map groupBars
  launches : t.launches = s.launches
  arrivals : t.arrivals = s.arrivals

namespace KeepsBarriers

theorem refl (s : State) : KeepsBarriers s s := ⟨fun _ _ => rfl, fun _ => rfl, rfl, rfl⟩

theorem trans {s t u : State} (h : KeepsBarriers s t) (k : KeepsBarriers t u) : KeepsBarriers s u :=
  ⟨fun c n => (k.teams c n).trans (h.teams c n), fun c => (k.groups c).trans (h.groups c), k.launches.trans h.launches,
    k.arrivals.trans h.arrivals⟩

theorem fold {α : Type} (f : State → α → State) (l : List α) (h : ∀ s x, KeepsBarriers s (f s x)) (s : State) :
    KeepsBarriers s (l.foldl f s) := by
  induction l generalizing s with
  | nil => exact refl s
  | cons x r ih => exact (h s x).trans (ih (f s x))

theorem launches_arrivals {s t : State} (h : beside t = beside s) : t.launches = s.launches ∧ t.arrivals = s.arrivals := by
  show (beside t).launches = (beside s).launches ∧ (beside t).arrivals = (beside s).arrivals
  rw [h]
  exact ⟨rfl, rfl⟩

/-- Whatever leaves teams and workgroups as they were but for threads and the order of entries keeps the barriers. -/
theorem of_shared {s t : State} (hT : ∀ c n, (t.team? c n).map teamShared = (s.team? c n).map teamShared)
    (hG : ∀ c, (t.wg? c).map groupShell = (s.wg? c).map groupShell) (hB : beside t = beside s) : KeepsBarriers s t := by
  refine ⟨fun c n => ?_, fun c => ?_, (launches_arrivals hB).1, (launches_arrivals hB).2⟩
  · have h := congrArg (Option.map Team.bars) (hT c n)
    rwa [Option.map_map, Option.map_map] at h
  · have h := congrArg (Option.map groupBars) (hG c)
    rwa [Option.map_map, Option.map_map] at h

theorem outside {s t : State} (hw : t.wgs = s.wgs) (hB : beside t = beside s) : KeepsBarriers s t := by
  have hwg : ∀ c, t.wg? c = s.wg? c := fun c => by rw [State.wg?, State.wg?, hw]
  exact of_shared (fun c n => by rw [State.team?, State.team?, hwg]) (fun c => by rw [hwg]) hB

theorem setWaits (s : State) (c : Nat) (p : Thread → Bool) (w : Wait) : KeepsBarriers s (s.setWaits c p w) :=
  of_shared (setWaits_team s c p w) (setWaits_groups s c p w) rfl

theorem modTid (s : State) (c i : Nat) (f : Thread → Thread) : KeepsBarriers s (s.modTid c i f) :=
  of_shared (shared_modTid s c i f) (shell_modTid s c i f) rfl

/-- A change of what a workgroup holds beside its teams and what its barriers read. -/
theorem modWg (s : State) (c : Nat) (f : Workgroup → Workgroup) (ht : ∀ w, (f w).teams = w.teams)
    (hg : ∀ w, groupBars (f w) = groupBars w) : KeepsBarriers s (s.modWg c f) := by
  refine ⟨fun c' n => by rw [team?_modWg_of _ _ _ _ _ ht], fun c' => ?_, rfl, rfl⟩
  rw [wg?_modWg]
  split
  · cases s.wg? c' <;> simp [hg]
  · rfl

theorem orderArrival (s : State) (c n : Nat) (k : Option BarKey) : KeepsBarriers s (s.orderArrival c n k) :=
  modWg s c _ (fun _ => rfl) (fun _ => rfl)

theorem renew (s : State) (c : Nat) (k : Option BarKey) : KeepsBarriers s (s.modWg c (fun w => w.renew k)) := by
  refine ⟨fun c' n => ?_, fun c' => ?_, rfl, rfl⟩
  · simp only [State.team?, wg?_modWg]
    split
    · cases s.wg? c' with
      | none => rfl
      | some w =>
        let order := (w.arriveOrder.filter (fun p => p.1 = k)).map (·.2)
        exact kvGet_map_keeps (fun m => m.bars) w.teams n (fun i (m : Team) =>
          { m with rank := if order.contains i then order.idxOf i + 1 else 0 }) (fun _ _ => rfl)
    · rfl
  · rw [wg?_modWg]
    split
    · cases s.wg? c' <;> rfl
    · rfl

theorem finishFence (s : State) (f : FenceReq) : KeepsBarriers s (s.finishFence f) := by
  unfold State.finishFence
  extract_lets s1 v1 s2 s3
  refine trans ?_ (setWaits s3 _ _ _)
  have hviews : KeepsBarriers s s2 := by
    show KeepsBarriers s (if _ then _ else _ : State)
    split
    · exact outside rfl rfl
    · exact outside rfl rfl
  refine hviews.trans ?_
  show KeepsBarriers s2 (if _ then _ else _ : State)
  split
  · exact refl _
  · exact outside (mergeStamp_wgs _ _ _) (beside_mergeStamp _ _ _)

theorem acquire (s : State) (c u : Nat) (ts : List Nat) (k : Nat) (v : List Word) : KeepsBarriers s (s.acquire c u ts k v) := by
  have hstart : KeepsBarriers s (s.startFence c u ts k false true v) := by
    have hfence : KeepsBarriers s { s.bump with fences := s.fences ++ [⟨s.nextSeq, c, u, ts ++ [u], k, false, true, v⟩] } :=
      outside rfl rfl
    exact hfence.trans (setWaits _ c (fun t => ts.contains t.tid) (.fence s.nextSeq))
  show KeepsBarriers s (if _ then _ else _ : State)
  split
  · exact hstart.trans (finishFence _ _)
  · exact hstart

theorem releaseTeam (s : State) (c n : Nat) (k : BarKey) (d : Nat) : KeepsBarriers s (s.releaseTeam c n k d) := by
  unfold State.releaseTeam
  split
  · exact refl s
  · show KeepsBarriers s (if _ then _ else _ : State)
    split
    · exact refl s
    · exact acquire _ _ _ _ _ _

theorem joinTest (s : State) (c n : Nat) : KeepsBarriers s (s.joinTest c n) := by
  refine fold _ _ (fun s k => ?_) s
  dsimp only
  split
  · exact refl s
  · split
    · exact acquire _ _ _ _ _ _
    · exact refl s

variable {s t : State} (h : KeepsBarriers s t)
include h

theorem wgLaunch? (c : Nat) : t.wgLaunch? c = s.wgLaunch? c := by
  have hg := congrArg (Option.map (fun p => p.1)) (h.groups c)
  rw [Option.map_map, Option.map_map] at hg
  have hl : t.launch? = s.launch? := funext fun l => by rw [State.launch?, State.launch?, h.launches]
  rw [wgLaunch?_eq, wgLaunch?_eq, hl]
  exact congrArg (·.bind s.launch?) hg

theorem hdr (c : Nat) : t.hdr c = s.hdr c := by rw [State.hdr, State.hdr, h.wgLaunch?]

theorem barrier (c n : Nat) (k : BarKey) : t.barrier c n k = s.barrier c n k := by
  cases k with
  | team i =>
    have ht := congrArg (Option.map (fun b => kvGetD barZero b i)) (h.teams c n)
    rw [Option.map_map, Option.map_map] at ht
    exact congrArg (·.getD barZero) ht
  | wg i =>
    have hg := congrArg (Option.map (fun p => kvGetD barZero p.2.2 i)) (h.groups c)
    rw [Option.map_map, Option.map_map] at hg
    exact congrArg (·.getD barZero) hg
  | cluster i =>
    have hg := congrArg (Option.map (fun p => p.2.1)) (h.groups c)
    rw [Option.map_map, Option.map_map] at hg
    rw [barrier_cluster, barrier_cluster, h.wgLaunch?]
    exact congrArg (fun g => g.elim barZero (fun g => (s.wgLaunch? c).elim barZero (fun l => kvGetD barZero l.cbars (8 * g + i)))) hg
  | grid i => simp only [State.barrier, h.wgLaunch?]

end KeepsBarriers

/-- A core hosts a workgroup of a launch, with a team in a slot: each of the team's barriers stands somewhere. -/
structure BarriersStand (s : State) (c n : Nat) : Prop where
  team : (s.team? c n).isSome = true
  launch : (s.wgLaunch? c).isSome = true

theorem BarriersStand.kept {s t : State} {c n : Nat} (h : BarriersStand s c n) (k : KeepsBarriers s t) : BarriersStand t c n := by
  refine ⟨?_, by rw [k.wgLaunch?]; exact h.launch⟩
  have ht := congrArg Option.isSome (k.teams c n)
  rw [Option.isSome_map, Option.isSome_map] at ht
  rw [ht]
  exact h.team

theorem BarriersStand.withArrivals {s : State} {c n : Nat} (h : BarriersStand s c n) (l : List Arrival) :
    BarriersStand { s with arrivals := l } c n := ⟨h.team, h.launch⟩

/-- The workgroup and the launch of a core whose barriers stand. -/
theorem BarriersStand.hosts {s : State} {c n : Nat} (h : BarriersStand s c n) :
    ∃ w l, s.wg? c = some w ∧ s.launch? w.launch = some l := by
  obtain ⟨l, hl⟩ := Option.isSome_iff_exists.1 h.launch
  obtain ⟨w, hw, hl'⟩ := Option.bind_eq_some_iff.1 hl
  exact ⟨w, l, hw, hl'⟩

theorem launch?_modLaunch_same (s : State) (k : Nat) (f : Launch → Launch) : (s.modLaunch k f).launch? k = (s.launch? k).map f :=
  kvGet_mod_same _ _ _

/-- The launch of a core after a change of it. -/
theorem wgLaunch?_modLaunch {s : State} {c : Nat} {w : Workgroup} {l : Launch} (hw : s.wg? c = some w)
    (hl : s.launch? w.launch = some l) (f : Launch → Launch) : (s.modLaunch w.launch f).wgLaunch? c = some (f l) := by
  have hw' : (s.modLaunch w.launch f).wg? c = some w := hw
  rw [State.wgLaunch?, hw', Option.bind_some, launch?_modLaunch_same, hl, Option.map_some]

theorem kvGetD_put_same {α : Type} (d : α) (m : KV α) (k : Nat) (v : α) : kvGetD d (kvPut m k v) k = v := by
  rw [kvGetD, kvGet_put_same, Option.getD_some]

theorem setBarrier_arrivals (s : State) (c n : Nat) (k : BarKey) (b : Barrier) : (s.setBarrier c n k b).arrivals = s.arrivals := by
  cases k with
  | team i => rfl
  | wg i => rfl
  | cluster i => simp only [State.setBarrier]; split <;> rfl
  | grid i => simp only [State.setBarrier]; split <;> rfl

/-- A barrier that is set reads as it was set, and the core's barriers stand on. -/
theorem barrier_setBarrier {s : State} {c n : Nat} (h : BarriersStand s c n) (k : BarKey) (b : Barrier) :
    (s.setBarrier c n k b).barrier c n k = b ∧ BarriersStand (s.setBarrier c n k b) c n := by
  obtain ⟨m, hm⟩ := Option.isSome_iff_exists.1 h.team
  obtain ⟨w, l, hw, hl⟩ := h.hosts
  have hwl : s.wgLaunch? c = some l := by rw [State.wgLaunch?, hw, Option.bind_some, hl]
  cases k with
  | team i =>
    have ht : (s.setBarrier c n (.team i) b).team? c n = some { m with bars := kvPut m.bars i b } := by
      rw [State.setBarrier, team?_modTeam, if_pos ⟨rfl, rfl⟩, hm, Option.map_some]
    have hg : (s.setBarrier c n (.team i) b).wgLaunch? c = some l := by
      have hw' : (s.setBarrier c n (.team i) b).wg? c
          = some { w with teams := kvMod w.teams n (fun t => { t with bars := kvPut t.bars i b }) } := by
        rw [State.setBarrier, State.modTeam, wg?_modWg_same, hw, Option.map_some]
      rw [State.wgLaunch?, hw', Option.bind_some]
      exact hl
    refine ⟨?_, by rw [ht]; rfl, by rw [hg]; rfl⟩
    rw [State.barrier, ht]
    exact kvGetD_put_same _ _ _ _
  | wg i =>
    have hw' : (s.setBarrier c n (.wg i) b).wg? c = some { w with bars := kvPut w.bars i b } := by
      rw [State.setBarrier, wg?_modWg_same, hw, Option.map_some]
    refine ⟨?_, ?_, ?_⟩
    · rw [State.barrier, hw']
      exact kvGetD_put_same _ _ _ _
    · rw [State.setBarrier, team?_modWg_of _ _ _ _ (fun w => { w with bars := kvPut w.bars i b }) (fun _ => rfl)]
      exact h.team
    · rw [State.wgLaunch?, hw', Option.bind_some]
      exact (congrArg Option.isSome hl).trans rfl
  | cluster i =>
    have hset : s.setBarrier c n (.cluster i) b
        = s.modLaunch w.launch (fun l => { l with cbars := kvPut l.cbars (8 * w.grp + i) b }) := by
      simp only [State.setBarrier, hw]
    have hwl' := wgLaunch?_modLaunch hw hl (fun l => { l with cbars := kvPut l.cbars (8 * w.grp + i) b })
    rw [hset]
    have hw' : (s.modLaunch w.launch (fun l => { l with cbars := kvPut l.cbars (8 * w.grp + i) b })).wg? c = some w := hw
    refine ⟨?_, h.team, by rw [hwl']; rfl⟩
    simp only [State.barrier, hw', hwl']
    exact kvGetD_put_same _ _ _ _
  | grid i =>
    have hset : s.setBarrier c n (.grid i) b = s.modLaunch w.launch (fun l => { l with gbars := kvPut l.gbars i b }) := by
      simp only [State.setBarrier, hw]
    have hwl' := wgLaunch?_modLaunch hw hl (fun l => { l with gbars := kvPut l.gbars i b })
    rw [hset]
    refine ⟨?_, h.team, by rw [hwl']; rfl⟩
    simp only [State.barrier, hwl']
    exact kvGetD_put_same _ _ _ _

/-- What follows the completion of a phase, new ranks and releases, keeps the barriers (R43, R44). -/
theorem checkPhase_cases (s : State) (c n : Nat) (k : BarKey) :
    (s.checkPhase c n k = s ∧ (s.barrier c n k).settle = s.barrier c n k)
      ∨ KeepsBarriers (s.setBarrier c n k (s.barrier c n k).settle) (s.checkPhase c n k) := by
  unfold State.checkPhase Barrier.settle
  dsimp only
  by_cases hfull : (decide ((s.barrier c n k).m ≤ (s.barrier c n k).a) && decide (0 < (s.barrier c n k).a)) = true
  · right
    rw [if_pos hfull, if_pos hfull]
    refine KeepsBarriers.trans ?_ (KeepsBarriers.fold _ _ (fun s x => KeepsBarriers.fold _ _ (fun s y =>
      KeepsBarriers.releaseTeam _ _ _ _ _) s) _)
    cases k with
    | wg i => exact KeepsBarriers.renew _ _ _
    | _ => exact KeepsBarriers.refl _
  · left
    exact ⟨if_neg hfull, if_neg hfull⟩

/-- A barrier whose arrivals are tested has completed its phase where they have reached its membership (R43). -/
theorem barrier_checkPhase {s : State} {c n : Nat} (h : BarriersStand s c n) (k : BarKey) :
    (s.checkPhase c n k).barrier c n k = (s.barrier c n k).settle ∧ (s.checkPhase c n k).arrivals = s.arrivals := by
  rcases checkPhase_cases s c n k with ⟨hstays, hsettled⟩ | hkeeps
  · rw [hstays, hsettled]
    exact ⟨rfl, rfl⟩
  · rw [hkeeps.barrier, hkeeps.arrivals, setBarrier_arrivals]
    exact ⟨(barrier_setBarrier h k _).1, rfl⟩

end Sys2Proof.Machine

/-! ### SUPPORT: arrivals that are counted (R33, R42, R43, R314) -/

namespace Sys2Proof.Machine

/-- What a counted arrival does, by what it arrives at: a numbered barrier, a join mask, or TFETCH's barrier (R33, R42, R43). -/
def State.countArrival (s : State) (a : Arrival) : State :=
  let done : State := { s with arrivals := s.arrivals.filter (fun o => o.id ≠ a.id) }
  match a.bar, a.join with
  | some k, _ => s.countBarrier a k
  | none, some k => (done.setWaits a.core (fun t => t.wait = .arrive a.id) (.join k)).joinTest a.core a.team
  | none, none => (((done.setWaits a.core (fun t => t.wait = .arrive a.id) .tfetch).modWg a.core
      (fun w => { w with tfArrived := w.tfArrived ++ a.agents })).orderArrival a.core a.team none).tfetchCheck a.core

/-- An arrival of a workgroup on its core is counted once its release is complete. -/
theorem exec_arrivalCounted {s : State} {a : Arrival} (hf : s.arrivals.find? (fun o => o.id = a.id) = some a)
    (he : s.fenceEnabled a.release = true) (hs : s.arrivalSaved a = false) (hh : s.arrivalHere a = true) :
    exec (.barrierArrivalCounted a.id) s = .next (s.countArrival a).sweep := by
  show execBarrierArrivalCounted a.id s = _
  rw [execBarrierArrivalCounted, hf]
  dsimp only
  rw [he, hs, hh]
  rfl

/-- Has a thread of an arrival not arrived in the phase under way of a barrier (R43)? -/
def State.newAt (s : State) (a : Arrival) (k : BarKey) (tid : Nat) : Bool :=
  match s.findTid a.core tid with
  | some (_, _, t) => (match t.lastArrival k with | some (p, _) => p ≠ (s.barrier a.core a.team k).phase | none => true)
  | none => true

theorem newAt_of {s : State} {a : Arrival} {k : BarKey} {tid : Nat}
    (h : ∀ n l x p, s.findTid a.core tid = some (n, l, x) → x.lastArrival k = some p → p.1 ≠ (s.barrier a.core a.team k).phase) :
    s.newAt a k tid = true := by
  unfold State.newAt
  split
  · next n l x hx =>
    split
    · next p w hp => exact decide_eq_true (h n l x (p, w) hx hp)
    · rfl
  · rfl

/-- A barrier with some arrivals more (R43, R124). -/
def State.moreArrivals (s : State) (a : Arrival) (k : BarKey) : Barrier :=
  let b := s.barrier a.core a.team k
  { b with a := b.a + a.agents.length, stamp := b.joined k (s.vcOf (coreDie a.core)) }

/-- An arrival of threads none of which has arrived in the phase under way is counted whole: as what follows, its barrier is
set, and the rest leaves the barriers alone until the phase is tested. -/
theorem countBarrier_new {s : State} {a : Arrival} {k : BarKey} (hne : a.agents ≠ []) (hnew : ∀ tid ∈ a.agents, s.newAt a k tid = true) :
    ∃ v, s.countBarrier a k = v.checkPhase a.core a.team k
      ∧ KeepsBarriers (({ s with arrivals := s.arrivals.filter (fun o => o.id ≠ a.id) } : State).setBarrier a.core a.team k
          (s.moreArrivals a k)) v := by
  unfold State.countBarrier
  extract_lets b now rest s1 s2 s3 s4
  have hnow : now = a.agents := List.filter_eq_self.2 hnew
  have hrest : rest = [] := by
    rw [List.filter_eq_nil_iff]
    intro tid htid
    simpa [hnow] using htid
  clear_value rest now
  subst hnow hrest
  rw [if_neg (by simpa using hne)]
  have hcounted : KeepsBarriers s2 s3 := KeepsBarriers.fold _ _ (fun s tid => KeepsBarriers.modTid s _ tid _) s2
  have hordered : KeepsBarriers s3 s4 := by
    cases k with
    | wg i => exact KeepsBarriers.orderArrival _ _ _ _
    | _ => exact KeepsBarriers.refl _
  exact ⟨s4, rfl, hcounted.trans hordered⟩

/-- What an arrival that is counted leaves of its barrier and of the arrivals on their way (R43). -/
theorem countBarrier_counts {s : State} {a : Arrival} {k : BarKey} (h : BarriersStand s a.core a.team) (hne : a.agents ≠ [])
    (hnew : ∀ tid ∈ a.agents, s.newAt a k tid = true) :
    (s.countBarrier a k).arrivals = s.arrivals.filter (fun o => o.id ≠ a.id)
      ∧ (s.countBarrier a k).barrier a.core a.team k = (s.moreArrivals a k).settle := by
  obtain ⟨v, hv, hkeeps⟩ := countBarrier_new hne hnew
  obtain ⟨hset, hstand⟩ := barrier_setBarrier (h.withArrivals (s.arrivals.filter (fun o => o.id ≠ a.id))) k (s.moreArrivals a k)
  obtain ⟨hbar, harr⟩ := barrier_checkPhase (hstand.kept hkeeps) k
  rw [hv, hbar, harr, hkeeps.barrier, hset, hkeeps.arrivals, setBarrier_arrivals]
  exact ⟨rfl, rfl⟩

/-- With arrivals among its members, only M decides whether a barrier's phase completes (R43). -/
theorem settle_of_arrivals {b : Barrier} (h : 0 < b.a) :
    b.settle = if b.m ≤ b.a then { b with a := 0, phase := b.phase + 1 } else b := by
  simp [Barrier.settle, h]

end Sys2Proof.Machine

/-! ### SUPPORT: births at TFETCH, bins that are drawn, special functions (R33, R40, R45, R390, R391) -/

namespace Sys2Proof.Machine

theorem OnlyWaits.unpin (s : State) (ctx : Nat) (f : Found) : OnlyWaits s (s.unpin ctx f) := by
  unfold State.unpin
  cases f with
  | store c o => exact OnlyWaits.outside rfl rfl
  | slot k =>
    have hfreed := OnlyWaits.freeSlot s ctx k
    revert hfreed
    dsimp only
    generalize s.freeSlot ctx k = u
    exact fun hfreed => hfreed.trans (OnlyWaits.outside rfl rfl)

theorem OnlyWaits.claimsDone (s : State) (core : Nat) : OnlyWaits s (s.claimsDone core) :=
  (OnlyWaits.fold (fun s (p : Nat × Found) => s.unpin p.1 p.2) _ (fun s p _ => OnlyWaits.unpin s p.1 p.2) s).trans
    (OnlyWaits.outside rfl rfl)

/-! #### TFETCH's end -/

/-- A team as TFETCH's end leaves it: its predicates written, its threads born into the tile's work items or without one. -/
def State.tfTeam (s : State) (core : Nat) (h : Header) (tile : Option Nat) (w : Workgroup) (n : Nat) (m : Team) : Team :=
  let t := (w.tfPreds.filter (fun p => p.1 = n)).foldl (fun t p => t.setQ p.2 tile.isNone) m
  { t with lanes := t.lanes.map (fun x => (x.1, s.tfThread core n x.1 h tile x.2)) }

theorem tfTeam_lanes (s : State) (core : Nat) (h : Header) (tile : Option Nat) (w : Workgroup) (n : Nat) (m : Team) :
    (s.tfTeam core h tile w n m).lanes = m.lanes.map (fun x => (x.1, s.tfThread core n x.1 h tile x.2)) := by
  have hq : ∀ (l : List (Nat × Nat)), (l.foldl (fun t p => t.setQ p.2 tile.isNone) m).lanes = m.lanes := fun l =>
    foldl_keeps Team.lanes _ l (fun t p => setQ_lanes t p.2 tile.isNone) m
  exact congrArg (fun l => l.map (fun x => (x.1, s.tfThread core n x.1 h tile x.2))) (hq _)

/-- A workgroup as TFETCH's end leaves it, but for ranks and releases. -/
def State.tfGroup (s : State) (core : Nat) (h : Header) (tile : Option Nat) (w : Workgroup) : Workgroup :=
  { w with tile := tile, tfTile := none, tfArrived := [], tfPreds := []
           teams := w.teams.map (fun e => (e.1, s.tfTeam core h tile w e.1 e.2)) }

theorem thread?_tfGroup (s : State) (core : Nat) (h : Header) (tile : Option Nat) (n k : Nat) :
    (s.modWg core (s.tfGroup core h tile)).thread? core n k = (s.thread? core n k).map (s.tfThread core n k h tile) := by
  simp only [State.thread?, State.team?, wg?_modWg_same]
  cases s.wg? core with
  | none => rfl
  | some w =>
    simp only [Option.map_some, Option.bind_some, State.tfGroup]
    rw [kvGet_map w.teams n (s.tfTeam core h tile w)]
    cases kvGet w.teams n with
    | none => rfl
    | some m =>
      simp only [Option.map_some, Option.bind_some, tfTeam_lanes]
      exact kvGet_map m.lanes k (fun l => s.tfThread core n l h tile)

/-- Every thread is born as the tile that its workgroup received says, and waits at most for its acquire (R33). -/
theorem tfetchComplete_births {s : State} {core : Nat} {w : Workgroup} {l : Launch} {tile : Option Nat} (hw : s.wg? core = some w)
    (hl : s.wgLaunch? core = some l) (ht : w.tfTile = some tile) (hz : w.frozen = false) :
    ∃ u, exec (.tfetchComplete core) s = .next u
      ∧ OnlyWaits (s.modWg core (s.tfGroup core l.hdr tile)) u := by
  have hexec : exec (.tfetchComplete core) s = execTfetchComplete core s := rfl
  rw [execTfetchComplete, hw, hl] at hexec
  dsimp only at hexec
  rw [ht] at hexec
  dsimp only at hexec
  rw [hz, if_neg Bool.false_ne_true] at hexec
  refine ⟨_, hexec, OnlyWaits.trans ((OnlyWaits.claimsDone _ core).trans (OnlyWaits.renew _ core none))
    (OnlyWaits.fold _ _ (fun s e _ => ?_) _)⟩
  split
  · exact OnlyWaits.refl s
  · exact OnlyWaits.acquire _ _ _ _ _ _

/-! #### A bin that is drawn into a free slot -/

/-- The team that a bin's threads make in a free slot (R40). -/
def Bin.team (b : Bin) (uid : Nat) : Team :=
  { Team.empty with
    uid := uid, sregs := b.sregs, qpreds := b.qpreds, mode := b.mode, rank := b.rank, order := [b.key]
    bars := barsOf b.threads.length 8
    lanes := (List.range b.threads.length).zip (b.threads.map (fun e => e.2.2.newTeam)) }

theorem wgLaunch?_modWg {s : State} {c : Nat} {f : Workgroup → Workgroup} (hf : ∀ w, (f w).launch = w.launch) :
    (s.modWg c f).wgLaunch? c = s.wgLaunch? c := by
  rw [wgLaunch?_eq, wgLaunch?_eq, wg?_modWg_same, Option.map_map]
  exact congrArg (fun g => ((s.wg? c).map g).bind s.launch?) (funext hf)

theorem freeTeamSlot_eq (s : State) (c : Nat) : s.freeTeamSlot c
    = (s.wg? c).bind (fun w => (List.range (s.hdr c).teams).find? (fun t => (kvGet w.teams t).isNone)) := by
  unfold State.freeTeamSlot
  cases s.wg? c <;> rfl

theorem freeTeamSlot_modWg {s : State} {c : Nat} {f : Workgroup → Workgroup} (hf : ∀ w, (f w).launch = w.launch)
    (ht : ∀ w, (f w).teams = w.teams) : (s.modWg c f).freeTeamSlot c = s.freeTeamSlot c := by
  have hh : (s.modWg c f).hdr c = s.hdr c := by rw [State.hdr, State.hdr, wgLaunch?_modWg hf]
  rw [freeTeamSlot_eq, freeTeamSlot_eq, wg?_modWg_same, hh, Option.bind_map]
  exact congrArg (s.wg? c).bind (funext fun w => by rw [Function.comp_apply, ht])

/-- A bin that is drawn while a team's slot is free goes there whole, and leaves the bins (R40). -/
theorem draw_intoSlot {s : State} {core slot : Nat} {w : Workgroup} {b : Bin} (hw : s.wg? core = some w)
    (hb : w.bins.find? (fun x => x.key = b.key) = some b) (hs : s.freeTeamSlot core = some slot) :
    (s.draw core b.key).wg? core
      = some { w with bins := w.bins.filter (fun x => x.key ≠ b.key), teams := kvPut w.teams slot (b.team s.nextSeq) } := by
  unfold State.draw
  rw [hw]
  dsimp only
  rw [hb]
  dsimp only
  have hslot := freeTeamSlot_modWg (s := s) (c := core) (f := fun w => { w with bins := w.bins.filter (fun x => x.key ≠ b.key) })
    (fun _ => rfl) (fun _ => rfl)
  rw [hslot, hs]
  have hdrop : ((s.modWg core (fun w => { w with bins := w.bins.filter (fun x => x.key ≠ b.key) })).bump).wg? core
      = some { w with bins := w.bins.filter (fun x => x.key ≠ b.key) } := by
    show (s.modWg core (fun w => { w with bins := w.bins.filter (fun x => x.key ≠ b.key) })).wg? core = _
    rw [wg?_modWg_same, hw, Option.map_some]
  dsimp only
  rw [wg?_modWg_same, hdrop]
  rfl

/-- Of the bins that are due the first is drawn (R40, R378). -/
theorem exec_reformBinTimeout_due {s : State} {core : Nat} {w : Workgroup} {b : Bin} (hw : s.wg? core = some w) (hr : w.runs = true)
    (hd : w.bins.find? (fun b => b.since + 256 ≤ ((s.cluster (clusterOf core)).cycles : Int)) = some b) :
    exec (.reformBinTimeout core b.key) s = .next (s.draw core b.key) := by
  have hd' : w.bins.find? (fun b => b.due (s.cluster (clusterOf core)).cycles) = some b := hd
  show execReformBinTimeout core b.key s = _
  rw [execReformBinTimeout, hw]
  dsimp only
  rw [hd']
  dsimp only
  rw [if_pos (by simp [hr])]

theorem exec_starvationPriority_due {s : State} {core part team : Nat} {unif : Bool} {pc : PC} {t : Team}
    (hp : s.pick core part unif = some (team, pc)) (ht : s.team? core team = some t)
    (h80 : 80 ≤ (if unif then t.starveU else t.starveL)) :
    exec (.starvationPriority core part unif) s = .next { s with agenda := .issue core part unif :: s.agenda } := by
  show execStarvationPriority core part unif s = _
  rw [execStarvationPriority, hp]
  dsimp only
  rw [ht]
  dsimp only
  rw [if_pos h80]

/-! #### A special function's result -/

/-- The special functions outstanding, less one lane of one (R391). -/
def State.sfqLess (s : State) (x : Sfq) (lane : Nat) : List Sfq :=
  let todo := x.todo.filter (fun p => p.1 ≠ lane)
  if todo.isEmpty then s.sfqs.filter (fun y => y.id ≠ x.id)
  else s.sfqs.map (fun (y : Sfq) => if y.id = x.id then { y with todo := todo } else y)

theorem exec_sfqResult_lane {s : State} {x : Sfq} {lane tid : Nat} {a : Word} (hx : s.sfqs.find? (fun o => o.id = x.id) = some x)
    (ht : x.todo.find? (fun p => p.1 = lane) = some (lane, tid, a)) :
    let r := sfqVal x.fn (Config.ulpBit x.fn a.toNat) a.toNat
    exec (.sfqResult x.id lane) s = .next
      { (s.modTid x.core tid (fun y => y.setV x.d (BitVec.ofNat 32 r.1))).modUid x.uid (withFlags r.2) with
        sfqs := s.sfqLess x lane } := by
  intro r
  show execSfqResult x.id lane s = _
  rw [execSfqResult, hx]
  dsimp only
  rw [ht]
  rfl

/-- What a team holds beside its threads, once the flags of a special function have gone to the MODE of its team. -/
theorem shared_flags (s : State) (u : Nat) (f : FlagSet) (c n : Nat) : ((s.modUid u (withFlags f)).team? c n).map teamShared
    = ((s.team? c n).map teamShared).map (fun m => teamShared (if m.uid = u then withFlags f m else m)) := by
  rw [team?_modUid, Option.map_map, Option.map_map]
  refine congrArg (fun g => (s.team? c n).map g) (funext fun m => ?_)
  simp only [Function.comp_apply, show (teamShared m).uid = m.uid from rfl]
  split <;> rfl

end Sys2Proof.Machine

/-! ### O43 -/

namespace Sys2Proof.Machine

/-- Settles O43: an arrival by the barrier that it leaves, the other events by what they do to threads and teams. -/
theorem arrivalsAndCoreUnits : Obligations.ArrivalsAndCoreUnits := by
  unfold Obligations.ArrivalsAndCoreUnits
  refine ⟨fun s a hf he hs hh => ⟨?_, fun k hb hj => ?_, fun hb hj => ?_⟩, fun s => ⟨fun core w l tile hw hl ht hz => ?_,
    fun core key w b hw hr hb hd slot hs => ?_, fun core part unif team pc t hp ht h80 => exec_starvationPriority_due hp ht h80,
    fun x lane tid a hx ht => ?_⟩⟩
  · intro k hk ht hl hne b hnew
    obtain ⟨harr, hbar⟩ := countBarrier_counts (k := k) ⟨ht, hl⟩ hne (fun tid htid => newAt_of (hnew tid htid))
    have ha : 0 < (s.moreArrivals a k).a := Nat.add_pos_right _ (List.length_pos_of_ne_nil hne)
    exact ⟨s.countBarrier a k, by rw [exec_arrivalCounted hf he hs hh, State.countArrival, hk], harr,
      hbar.trans (settle_of_arrivals ha)⟩
  · rw [exec_arrivalCounted hf he hs hh, State.countArrival, hb, hj]
  · rw [exec_arrivalCounted hf he hs hh, State.countArrival, hb, hj]
  · obtain ⟨u, hu, hwaits⟩ := tfetchComplete_births hw hl ht hz
    refine ⟨u, hu, fun n k => ?_⟩
    rw [hwaits.threads, thread?_tfGroup, Option.map_map]
    rfl
  · obtain rfl : b.key = key := by simpa using List.find?_some hb
    have hdrawn := draw_intoSlot hw hb hs
    have hteam : ∀ n, (s.draw core b.key).team? core n = kvGet (kvPut w.teams slot (b.team s.nextSeq)) n := fun n => by
      rw [State.team?, hdrawn, Option.bind_some]
    refine ⟨_, exec_reformBinTimeout_due hw hr hd, ?_, fun n hn => ?_, by rw [hdrawn]; rfl⟩
    · rw [hteam, kvGet_put_same]
      rfl
    · rw [hteam, kvGet_put_ne _ _ _ _ hn, State.team?, hw, Option.bind_some]
  · refine ⟨_, exec_sfqResult_lane hx ht, rfl, fun c n l => ?_, fun c n => ?_⟩
    · exact (thread?_modUid (s.modTid x.core tid _) x.uid (withFlags _) (fun _ => rfl) c n l).trans (thread?_modTid s x.core tid _ c n l)
    · refine (shared_flags _ _ _ _ _).trans ?_
      rw [shared_modTid, Option.map_map]
      refine congrArg (fun g => (s.team? c n).map g) (funext fun m => ?_)
      simp only [Function.comp_apply, show (teamShared m).uid = m.uid from rfl]
      split <;> rfl

end Sys2Proof.Machine

/-! ### SUPPORT: threads that leave their lanes by EXIT and REFORM (R39, R40, R337, R338, R378) -/

namespace Sys2Proof.Machine

theorem wg?_advance (s : State) : s.advance.wg? s.cur.core = (s.wg? s.cur.core).map (fun w => { w with
    teams := kvMod w.teams s.cur.team (fun m => { m with lanes := m.lanes.map (fun e =>
      if s.subset.contains e.1 then (e.1, movedOn s e.2) else e) }) }) := wg?_modWg_same _ _ _

theorem thread?_advance {s : State} {l : Nat} {x : Thread} (hl : l ∈ s.subset) (hx : s.thread? s.cur.core s.cur.team l = some x) :
    s.advance.thread? s.cur.core s.cur.team l = some (movedOn s x) := by
  rw [(Effect.advance s).threads l hl, hx, Option.map_some]

/-- Once a subset has moved on, the teams of its core are listed in order as before. -/
theorem absent_advance {s : State} (hw : ∀ w, s.wg? s.cur.core = some w → kvWf w.teams = true) :
    Absent s.cur.core s.cur.team [] s.advance := by
  refine ⟨fun v hv => ?_, fun l hl => absurd hl List.not_mem_nil⟩
  rw [wg?_advance] at hv
  obtain ⟨w, hw', rfl⟩ := Option.map_eq_some_iff.1 hv
  exact kvWf_mod _ _ _ (hw w hw')

/-! #### EXIT -/

theorem exec_exit (s : State) (g : BitVec 3) : exec (.exit g) s = .next (if (s.guarded g).isEmpty then s.advance
    else let t := (s.guarded g).foldl (fun s l => s.exitThread l) s.advance
      (t.afterLeaving t.cur.core t.cur.team).freeTeams t.cur.core).endIssue := by
  show execExit g s = _
  rw [execExit, laneUnit_ok _ _ _ _ rfl]

/-- The threads that exit stand in no lane of their team (R337, R338). -/
theorem exit_leavesLanes {s : State} (g : BitVec 3) (hw : ∀ w, s.wg? s.cur.core = some w → kvWf w.teams = true) :
    ∃ t, exec (.exit g) s = .next t ∧ ∀ l ∈ s.guarded g, t.thread? s.cur.core s.cur.team l = none := by
  refine ⟨_, exec_exit s g, fun l hl => ?_⟩
  rw [thread?_endIssue, if_neg (by simpa using List.ne_nil_of_mem hl)]
  obtain ⟨hgone, -⟩ := exits_absent s.advance (s.guarded g) [] (absent_advance hw)
  refine (Absent.freeTeams _ (Absent.endWorkgroup _ (Absent.tfetchCheck _ (Absent.waits (OnlyWaits.joinTest _ _ _) hgone)))).2 l ?_
  rw [List.append_nil]
  exact hl

/-! #### REFORM into a bin with room -/

theorem exec_reform (s : State) (g : BitVec 3) : exec (.reform g) s = .next (if (s.hdr s.cur.core).accs ≠ 0
    then s.advance.trapLanes (s.guarded g) 0x0A 0 false false false
    else (s.guarded g).foldl (fun s l => s.enterBin l) s.advance).endIssue := by
  show execReform g s = _
  rw [execReform, laneUnit_ok _ _ _ _ rfl, cur_advance, hdr_advance]

/-- The threads of a list enter the bin one after another. -/
theorem enterBins_binned {s0 : State} {orig : Nat → Thread} (gl done : List Nat) (hn : gl.Nodup) (s : State)
    (h : Binned s0 orig done gl s) : Binned s0 orig (gl.reverse ++ done) [] (gl.foldl (fun s l => s.enterBin l) s) := by
  induction gl generalizing s done with
  | nil => exact h
  | cons l r ih =>
    obtain ⟨hl, hr⟩ := List.nodup_cons.1 hn
    have hrest := ih (l :: done) hr (s.enterBin l) (enterBin_binned s0 s orig done r l hl h)
    rwa [List.reverse_cons, List.append_assoc, List.singleton_append]

/-- Threads that have moved on, before the first of them enters the bin. -/
theorem binned_advance {s : State} (gl : List Nat) (hsub : ∀ l ∈ gl, l ∈ s.subset) (hlen : gl.length < 64)
    (hw : ∀ w, s.wg? s.cur.core = some w → kvWf w.teams = true)
    (hthreads : ∀ l ∈ gl, ∃ x, s.thread? s.cur.core s.cur.team l = some x)
    (hroom : ∀ w b, s.wg? s.cur.core = some w → b ∈ w.bins → b.key = s.cur.next → b.threads.length + gl.length < 64) :
    Binned s (fun l => movedOn s (s.lane l)) [] gl s.advance := by
  refine ⟨rfl, hlen, absent_advance hw, fun l hl => ?_, fun w b hw' hb hk => ?_, fun l hl => absurd hl List.not_mem_nil⟩
  · obtain ⟨x, hx⟩ := hthreads l hl
    refine ⟨_, thread?_advance (hsub l hl) hx, ?_⟩
    rw [lane_of_thread s l x hx]
  · rw [wg?_advance] at hw'
    obtain ⟨w0, hw0, rfl⟩ := Option.map_eq_some_iff.1 hw'
    exact hroom w0 b hw0 hb hk

theorem eq_of_noWait {x y : Thread} (h : noWait x = noWait y) : x = { y with wait := x.wait } := by
  have hx : x = { noWait x with wait := x.wait } := rfl
  rw [h] at hx
  exact hx

theorem bins_endIssue (s : State) (c : Nat) : (s.endIssue.wg? c).map (·.bins) = (s.wg? c).map (·.bins) := by
  have h := congrArg (Option.map Workgroup.bins) (shell_endIssue s c)
  rwa [Option.map_map, Option.map_map] at h

/-- After a REFORM its threads stand in the bin, where that has room for them all (R39). -/
theorem reform_bins {s : State} {g : BitVec 3} (ha : (s.hdr s.cur.core).accs = 0) (hlen : (s.guarded g).length < 64)
    (hw : ∀ w, s.wg? s.cur.core = some w → kvWf w.teams = true)
    (hthreads : ∀ l ∈ s.guarded g, ∃ x, s.thread? s.cur.core s.cur.team l = some x)
    (hroom : ∀ w b, s.wg? s.cur.core = some w → b ∈ w.bins → b.key = s.cur.next → b.threads.length + (s.guarded g).length < 64) :
    ∃ t, exec (.reform g) s = .next t ∧ ∀ l ∈ s.guarded g, t.thread? s.cur.core s.cur.team l = none
      ∧ ∃ w b x y, t.wg? s.cur.core = some w ∧ b ∈ w.bins ∧ b.key = s.cur.next ∧ (s.cur.team, l, x) ∈ b.threads
        ∧ s.thread? s.cur.core s.cur.team l = some y ∧ x = { movedOn s y with wait := x.wait } := by
  refine ⟨_, exec_reform s g, fun l hl => ?_⟩
  rw [if_neg (by simpa using ha)]
  have hbinned := enterBins_binned _ [] (guarded_nodup s g) _ (binned_advance _ (mem_guarded s g) hlen hw hthreads hroom)
  have hdone : l ∈ (s.guarded g).reverse ++ [] := by simpa using hl
  refine ⟨(thread?_endIssue _ _ _ _).trans (hbinned.gone.2 l hdone), ?_⟩
  obtain ⟨w, b, x, hw', hb, hk, hx, hsame⟩ := hbinned.bin l hdone
  obtain ⟨y, hy⟩ := hthreads l hl
  have hbins := bins_endIssue ((s.guarded g).foldl (fun s l => s.enterBin l) s.advance) s.cur.core
  rw [hw', Option.map_some] at hbins
  obtain ⟨v, hv, hvb⟩ := Option.map_eq_some_iff.1 hbins
  rw [lane_of_thread s l y hy] at hsame
  exact ⟨v, b, x, y, hv, hvb ▸ hb, hk, hx, hy, eq_of_noWait hsame⟩

/-! #### REFORM that fills a bin -/

/-- A core's workgroup, its launch's header and its free slots stand, while threads of it wait, move and leave. -/
structure SlotsStay (c : Nat) (s t : State) : Prop where
  cur : t.cur = s.cur
  hosts : (t.wg? c).isSome = (s.wg? c).isSome
  hdr : t.hdr c = s.hdr c
  free : ∀ n, s.team? c n = none → t.team? c n = none

namespace SlotsStay

variable {c : Nat} {s t u : State}

theorem refl (c : Nat) (s : State) : SlotsStay c s s := ⟨rfl, rfl, rfl, fun _ h => h⟩

theorem trans (h : SlotsStay c s t) (k : SlotsStay c t u) : SlotsStay c s u :=
  ⟨k.cur.trans h.cur, k.hosts.trans h.hosts, k.hdr.trans h.hdr, fun n hn => k.free n (h.free n hn)⟩

theorem of_keeps (h : KeepsBarriers s t) (hc : t.cur = s.cur) : SlotsStay c s t := by
  refine ⟨hc, ?_, h.hdr c, fun n hn => ?_⟩
  · have hg := congrArg Option.isSome (h.groups c)
    rwa [Option.isSome_map, Option.isSome_map] at hg
  · have ht := h.teams c n
    rw [hn] at ht
    exact Option.map_eq_none_iff.1 ht

/-- A change of a workgroup that brings it no team. -/
theorem modWg (c' : Nat) (f : Workgroup → Workgroup) (hl : ∀ w, (f w).launch = w.launch)
    (ht : ∀ w n, kvGet w.teams n = none → kvGet (f w).teams n = none) : SlotsStay c s (s.modWg c' f) := by
  refine ⟨rfl, ?_, ?_, fun n hn => ?_⟩
  · rw [wg?_modWg]
    split <;> simp
  · by_cases hc : c = c'
    · subst hc
      rw [State.hdr, State.hdr, wgLaunch?_modWg hl]
    · rw [State.hdr, State.hdr, wgLaunch?_eq, wgLaunch?_eq, wg?_modWg_ne _ _ _ _ hc]
      rfl
  · rw [State.team?, wg?_modWg]
    split
    · cases hw : s.wg? c with
      | none => rfl
      | some w =>
        rw [State.team?, hw, Option.bind_some] at hn
        exact ht w n hn
    · exact hn

theorem kvGet_mod_none {α : Type} {m : KV α} {n : Nat} (k : Nat) (f : α → α) (h : kvGet m n = none) :
    kvGet (kvMod m k f) n = none := by
  by_cases hk : n = k
  · rw [hk, kvGet_mod_same, ← hk, h, Option.map_none]
  · rw [kvGet_mod_ne _ _ _ _ hk, h]

theorem kvGet_filter_none {α : Type} {m : KV α} {n : Nat} (p : Nat × α → Bool) (h : kvGet m n = none) :
    kvGet (m.filter p) n = none := by
  induction m with
  | nil => rfl
  | cons e r ih =>
    obtain ⟨k, x⟩ := e
    rw [kvGet] at h
    split at h
    · cases h
    · next hk =>
      rw [List.filter_cons]
      split
      · rw [kvGet, if_neg hk]
        exact ih h
      · exact ih h

theorem modTeam (c' n : Nat) (f : Team → Team) : SlotsStay c s (s.modTeam c' n f) :=
  modWg c' _ (fun _ => rfl) (fun _ _ h => kvGet_mod_none n f h)

theorem freeTeams (c' : Nat) : SlotsStay c s (s.freeTeams c') :=
  modWg c' _ (fun _ => rfl) (fun _ _ h => kvGet_filter_none _ h)

theorem checkPhase (c' n i : Nat) : SlotsStay c s (s.checkPhase c' n (.team i)) := by
  rcases checkPhase_cases s c' n (.team i) with ⟨hstays, -⟩ | hkeeps
  · rw [hstays]
    exact refl _ _
  · exact (modTeam _ _ _).trans (of_keeps hkeeps (OnlyWaits.checkPhase _ _ _ _).cur)

theorem lessMember (c' n i : Nat) : SlotsStay c s (s.lessMember c' n (.team i)) :=
  trans (modTeam c' n (fun t => { t with bars := kvPut t.bars i { s.barrier c' n (.team i) with m := (s.barrier c' n (.team i)).m - 1 } }))
    (checkPhase c' n i)

/-- Leaving the barriers of a team. -/
theorem lessMembers (c' n : Nat) (is : List Nat) : SlotsStay c s ((is.map BarKey.team).foldl (fun s k => s.lessMember c' n k) s) := by
  induction is generalizing s with
  | nil => exact refl _ _
  | cons i r ih => exact (lessMember c' n i).trans ih

/-- Where a team's slot was free, one is. -/
theorem freeSlot (h : SlotsStay c s t) (hs : (s.freeTeamSlot c).isSome = true) : (t.freeTeamSlot c).isSome = true := by
  rw [freeTeamSlot_eq] at hs ⊢
  obtain ⟨w, hw⟩ : ∃ w, s.wg? c = some w := by
    cases hw : s.wg? c with
    | none => rw [hw] at hs; cases hs
    | some w => exact ⟨w, rfl⟩
  obtain ⟨v, hv⟩ := Option.isSome_iff_exists.1 (h.hosts.trans (by rw [hw]; rfl))
  rw [hw, Option.bind_some, List.find?_isSome] at hs
  obtain ⟨n, hn, hfree⟩ := hs
  rw [hv, Option.bind_some, List.find?_isSome, h.hdr]
  have hgone := h.free n (by rw [State.team?, hw, Option.bind_some]; exact Option.isNone_iff_eq_none.1 hfree)
  rw [State.team?, hv, Option.bind_some] at hgone
  exact ⟨n, hn, by rw [hgone]; rfl⟩

end SlotsStay

/-- A core with one thread taken from its lane into the bin of the next unit's PC, before the bin may be drawn (R39). -/
def State.intoBin (s : State) (l : Nat) (th : Thread) : State :=
  let left := (teamBars.foldl (fun u k => u.lessMember s.cur.core s.cur.team k) s).onTeam
    (fun m => { m with lanes := kvDel m.lanes l })
  ((left.modWg s.cur.core (fun w =>
    let fresh := !w.bins.any (fun b => b.key = s.cur.next)
    let bins := if fresh then
        w.bins ++ [⟨s.cur.next, (left.cluster (clusterOf s.cur.core)).cycles, [], s.team.sregs, s.team.qpreds, s.team.mode, s.team.rank⟩]
      else w.bins
    { w with bins := bins.map (fun b => if b.key = s.cur.next then { b with threads := b.threads ++ [(s.cur.team, l, th)] }
                                        else b) })).joinTest s.cur.core s.cur.team).freeTeams s.cur.core

theorem enterBin_eq {s : State} {l : Nat} {th : Thread} (h : s.thread? s.cur.core s.cur.team l = some th) :
    s.enterBin l = if ((((s.intoBin l th).wg? s.cur.core).map (fun w =>
        w.bins.any (fun b => b.key = s.cur.next && teamWidth ≤ b.threads.length))).getD false) = true
      then (s.intoBin l th).draw s.cur.core s.cur.next else s.intoBin l th := by
  unfold State.enterBin
  dsimp only
  rw [h]
  rfl

theorem intoBin_slots (s : State) (l : Nat) (th : Thread) : SlotsStay s.cur.core s (s.intoBin l th) := by
  unfold State.intoBin
  refine SlotsStay.trans (SlotsStay.trans ?_ (SlotsStay.of_keeps (KeepsBarriers.joinTest _ _ _) (OnlyWaits.joinTest _ _ _).cur))
    (SlotsStay.freeTeams _)
  exact ((SlotsStay.lessMembers _ _ (List.range 8)).trans (SlotsStay.modTeam _ _ _)).trans
    (SlotsStay.modWg _ _ (fun _ => rfl) (fun _ _ h => h))

/-- A bin with one thread more. -/
def Bin.plus (b : Bin) (e : Nat × Nat × Thread) : Bin := { b with threads := b.threads ++ [e] }

/-- Bins of which one alone has a key. -/
structure OneBin (bins pre : List Bin) (b : Bin) (post : List Bin) (key : PC) : Prop where
  split : bins = pre ++ b :: post
  named : b.key = key
  others : ∀ e ∈ pre ++ post, e.key ≠ key

namespace OneBin

variable {bins pre post : List Bin} {b : Bin} {key : PC} (h : OneBin bins pre b post key)
include h

theorem any : bins.any (fun b => b.key = key) = true :=
  List.any_eq_true.2 ⟨b, by rw [h.split]; simp, decide_eq_true h.named⟩

theorem map (f : Bin → Bin) (hf : (f b).key = key) :
    OneBin (bins.map (fun b => if b.key = key then f b else b)) pre (f b) post key := by
  have hid : ∀ l : List Bin, (∀ e ∈ l, e ∈ pre ++ post) → l.map (fun b => if b.key = key then f b else b) = l := fun l hl =>
    (List.map_congr_left (fun e he => if_neg (h.others e (hl e he)))).trans (List.map_id' l)
  refine ⟨?_, hf, h.others⟩
  rw [h.split, List.map_append, List.map_cons, if_pos h.named, hid pre (fun e he => List.mem_append_left _ he),
    hid post (fun e he => List.mem_append_right _ he)]

theorem find : bins.find? (fun x => x.key = key) = some b := by
  rw [h.split, List.find?_append, List.find?_eq_none.2 (fun e he => by simpa using h.others e (List.mem_append_left _ he)),
    List.find?_cons_of_pos (by simpa using h.named)]
  rfl

theorem filter : bins.filter (fun x => x.key ≠ key) = pre ++ post := by
  rw [h.split, List.filter_append, List.filter_cons_of_neg (by simpa using h.named), ← List.filter_append]
  exact List.filter_eq_self.2 (fun e he => decide_eq_true (h.others e he))

end OneBin

theorem bins_freeTeams (s : State) (c : Nat) : ((s.freeTeams c).wg? c).map (·.bins) = (s.wg? c).map (·.bins) := by
  rw [State.freeTeams, wg?_modWg_same, Option.map_map]
  rfl

/-- The bin that a thread enters has that thread more, and no other bin has changed (R39). -/
theorem intoBin_bins {s : State} {w : Workgroup} {pre post : List Bin} {b : Bin} (hw : s.wg? s.cur.core = some w)
    (hb : OneBin w.bins pre b post s.cur.next) (l : Nat) (th : Thread) :
    ∃ v, (s.intoBin l th).wg? s.cur.core = some v ∧ OneBin v.bins pre (b.plus (s.cur.team, l, th)) post s.cur.next := by
  have hleft : OnlyWaits s (teamBars.foldl (fun u k => u.lessMember s.cur.core s.cur.team k) s) :=
    OnlyWaits.fold _ _ (fun s k _ => OnlyWaits.lessMember _ _ _ _) s
  have hbins : ((s.intoBin l th).wg? s.cur.core).map (·.bins)
      = some (w.bins.map (fun b => if b.key = s.cur.next then b.plus (s.cur.team, l, th) else b)) := by
    unfold State.intoBin
    rw [bins_freeTeams, (OnlyWaits.joinTest _ _ _).bins, wg?_modWg_same, State.onTeam, State.modTeam, wg?_modWg, hleft.cur, if_pos rfl,
      Option.map_map, Option.map_map]
    have hsame := hleft.bins s.cur.core
    rw [hw] at hsame
    obtain ⟨v, hv, hvb⟩ := Option.map_eq_some_iff.1 hsame
    rw [hv, Option.map_some]
    simp only [Function.comp_apply, hvb, hb.any, Bool.not_true, Bool.false_eq_true, if_false, Bin.plus]
  obtain ⟨v, hv, hvb⟩ := Option.map_eq_some_iff.1 hbins
  exact ⟨v, hv, hvb ▸ hb.map (fun b => b.plus (s.cur.team, l, th)) hb.named⟩

theorem team?_endIssue (s : State) (c n : Nat) {m : Team} (hm : s.team? c n = some m) :
    ∃ o, s.endIssue.team? c n = some { m with order := o } := by
  unfold State.endIssue
  simp only [State.onTeam]
  rw [team?_modWg_of _ _ _ _ _ (by intro w; split <;> rfl), team?_modTeam, hm]
  split
  · exact ⟨_, rfl⟩
  · exact ⟨_, rfl⟩

/-- A thread that makes its bin full has it drawn into a free slot (R40, R378). -/
theorem enterBin_draws {s : State} {l : Nat} {th : Thread} {w : Workgroup} {pre post : List Bin} {b : Bin}
    (hx : s.thread? s.cur.core s.cur.team l = some th) (hw : s.wg? s.cur.core = some w)
    (hb : OneBin w.bins pre b post s.cur.next) (h63 : b.threads.length = 63) (hs : (s.freeTeamSlot s.cur.core).isSome = true) :
    ∃ v slot uid, (s.enterBin l).wg? s.cur.core = some v ∧ v.bins = pre ++ post
      ∧ kvGet v.teams slot = some ((b.plus (s.cur.team, l, th)).team uid) := by
  obtain ⟨v, hv, hvb⟩ := intoBin_bins hw hb l th
  obtain ⟨slot, hslot⟩ := Option.isSome_iff_exists.1 ((intoBin_slots s l th).freeSlot hs)
  have hfull : (((s.intoBin l th).wg? s.cur.core).map (fun w =>
      w.bins.any (fun b => b.key = s.cur.next && teamWidth ≤ b.threads.length))).getD false = true := by
    rw [hv, Option.map_some, Option.getD_some, List.any_eq_true]
    exact ⟨b.plus (s.cur.team, l, th), by rw [hvb.split]; simp, by rw [hvb.named]; simp [Bin.plus, h63]⟩
  have hdrawn := draw_intoSlot hv (by rw [hvb.named]; exact hvb.find) hslot
  rw [hvb.named, hvb.filter] at hdrawn
  rw [enterBin_eq hx, if_pos hfull]
  exact ⟨_, slot, _, hdrawn, rfl, kvGet_put_same _ _ _⟩

/-- A REFORM of one thread that makes its bin full has the bin drawn. -/
theorem reform_draws {s : State} {g : BitVec 3} {l : Nat} {x : Thread} {w : Workgroup} {pre post : List Bin} {b : Bin}
    (ha : (s.hdr s.cur.core).accs = 0) (hg : s.guarded g = [l]) (hx : s.thread? s.cur.core s.cur.team l = some x)
    (hw : s.wg? s.cur.core = some w) (hb : OneBin w.bins pre b post s.cur.next) (h63 : b.threads.length = 63)
    (hs : (s.freeTeamSlot s.cur.core).isSome = true) :
    ∃ t slot v uid o, exec (.reform g) s = .next t
      ∧ t.team? s.cur.core slot = some { (b.plus (s.cur.team, l, movedOn s x)).team uid with order := o }
      ∧ t.wg? s.cur.core = some v ∧ v.bins = pre ++ post := by
  have hsub : l ∈ s.subset := mem_guarded s g l (by rw [hg]; exact List.mem_singleton_self l)
  have hstay : SlotsStay s.cur.core s s.advance := SlotsStay.modTeam _ _ _
  have hadvanced : s.advance.wg? s.cur.core = some _ := (wg?_advance s).trans (by rw [hw, Option.map_some])
  have hentered : ∃ v slot uid, (s.advance.enterBin l).wg? s.cur.core = some v ∧ v.bins = pre ++ post
      ∧ kvGet v.teams slot = some ((b.plus (s.cur.team, l, movedOn s x)).team uid) :=
    enterBin_draws (s := s.advance) (thread?_advance hsub hx) hadvanced hb h63 (hstay.freeSlot hs)
  obtain ⟨v, slot, uid, hv, hvb, hteam⟩ := hentered
  have hexec : exec (.reform g) s = .next (s.advance.enterBin l).endIssue := by
    rw [exec_reform, if_neg (by simpa using ha), hg, List.foldl_cons, List.foldl_nil]
  obtain ⟨o, ho⟩ := team?_endIssue (s.advance.enterBin l) s.cur.core slot (by rw [State.team?, hv, Option.bind_some, hteam])
  have hbins := bins_endIssue (s.advance.enterBin l) s.cur.core
  rw [hv] at hbins
  obtain ⟨z, hz, hzb⟩ := Option.map_eq_some_iff.1 hbins
  exact ⟨_, slot, z, uid, o, hexec, ho, hz, hzb.trans hvb⟩

end Sys2Proof.Machine

/-! ### O35 -/

namespace Sys2Proof.Machine

/-- Settles O35: what stands in no lane is an invariant of EXIT's rest, what stands in the bin one of REFORM's. -/
theorem exitAndReform : Obligations.ExitAndReform := by
  unfold Obligations.ExitAndReform
  intro s g gl core team hw
  refine ⟨fun hg => ⟨?_, ?_⟩, exit_leavesLanes g hw, fun ha => ?_, fun ha hlen hthreads hroom => reform_bins ha hlen hw hthreads hroom,
    fun l x w pre b post ha hg hx hw' hsplit hk h63 hothers hs => ?_⟩
  · refine ⟨_, exec_exit s g, ?_⟩
    rw [if_pos (by simpa using hg)]
    exact idle_effect s
  · refine ⟨_, exec_reform s g, ?_⟩
    rw [show s.guarded g = [] from hg]
    split
    · exact idle_effect s
    · exact idle_effect s
  · refine laneUnit_traps s _ _ (guarded_nodup s g) (mem_guarded s g) _ _ _ ?_
    rw [exec_reform, if_pos ha]
  · obtain ⟨t, slot, v, uid, o, hexec, hteam, hv, hbins⟩ := reform_draws ha hg hx hw' ⟨hsplit, hk, hothers⟩ h63 hs
    refine ⟨t, slot, _, v, hexec, hteam, ?_, rfl, rfl, rfl, rfl, hv, hbins⟩
    simp [Bin.team, Bin.plus, h63]

end Sys2Proof.Machine

/-! ### SUPPORT: piers and workgroups (R31, R32, R171, R175 to R179) -/

namespace Sys2Proof.Machine

theorem wgLaunch?_of {s : State} {core : Nat} {w : Workgroup} {l : Launch} (hw : s.wg? core = some w)
    (hl : s.launch? w.launch = some l) : s.wgLaunch? core = some l := by
  rw [State.wgLaunch?, hw, Option.bind_some, hl]

/-! #### PLACE -/

/-- The state in which a core asks the dispenser for its first tile: the command taken, the store free of other contexts'
estates, and the core no longer one to be placed (R31, R149, R171). -/
def State.asksTile (s : State) (core lid num : Nat) (l : Launch) : State :=
  ((s.pierTake (.place lid core num)).reclaimFor core l.ctx).modLaunch lid
    (fun l => { l with toPlace := l.toPlace.filter (fun p => p.1 ≠ core) })

section
variable {s : State} {core lid num : Nat} {l : Launch} (hp : s.pierNext core = some (.place lid core num))
  (hc : (s.cluster (clusterOf core)).clearing = none) (hl : s.launch? lid = some l) (hf : s.pinnedOther core l.ctx = false)
include hp hc hl hf

/-- With no tile left for it, the workgroup never starts (R31). -/
theorem exec_pierPlace_none (hd : (s.asksTile core lid num l).dispense l core = none) : exec (.pierPlace core) s
    = .next ((((s.asksTile core lid num l).unstarted core l).siblingsQuiet lid).heirClose lid) := by
  have hl' : (s.pierTake (.place lid core num)).launch? lid = some l := hl
  show execPierPlace core s = _
  unfold State.asksTile at hd ⊢
  rw [execPierPlace, hp]
  dsimp only
  rw [if_neg (by simp [hc, hl, hf]), hl']
  dsimp only
  rw [hd]

/-- One that receives a tile waits for its claims to be born (R31, R144). -/
theorem exec_pierPlace_some {n : Nat} (hd : (s.asksTile core lid num l).dispense l core = some n) : exec (.pierPlace core) s
    = .next ((((({ (s.asksTile core lid num l).modLaunch lid (fun l => { l with handed := l.handed ++ [n] }) with
        wgs := kvPut (s.asksTile core lid num l).wgs core ⟨lid, num, clusterOf core, some n, [], [], [], [], none, [], [], [], true,
          false, false, none, false, [], [], 0, []⟩ } : State).claimTile l core n
        ((List.range l.hdr.teams).flatMap (fun t => (List.range 64).map (fun i => (t, i))))).sliceBegins core l.ctx)).siblingsQuiet
          lid) := by
  have hl' : (s.pierTake (.place lid core num)).launch? lid = some l := hl
  show execPierPlace core s = _
  unfold State.asksTile at hd ⊢
  rw [execPierPlace, hp]
  dsimp only
  rw [if_neg (by simp [hc, hl, hf]), hl']
  dsimp only
  rw [hd]
  rfl

end

/-! #### Birth -/

theorem kvGet_range_map {α : Type} (f : Nat → α) {ns : List Nat} {n : Nat} (h : n ∈ ns) :
    kvGet (ns.map (fun i => (i, f i))) n = some (f n) := by
  induction ns with
  | nil => cases h
  | cons i r ih =>
    rw [List.map_cons, kvGet]
    split
    · next e => rw [e]
    · next e => exact ih ((List.mem_cons.1 h).resolve_left e)

/-- What a birth leaves of a thread beside its claims' registers (R33, R143). -/
def birthMark (t : Thread) : PC × DWord × Bool × Bool × Wait := (t.pc, t.workid, t.hasItem, t.inHandler, t.wait)

theorem birthMark_born (t : Thread) (h : Header) (x : DWord) (cs : List Claim) :
    birthMark (t.born h x cs) = (t.pc, x, true, t.inHandler, t.wait) := by
  unfold Thread.born
  dsimp only
  split
  · rfl
  · refine foldl_keeps birthMark _ _ (fun t j => ?_) _
    exact foldl_keeps birthMark (fun t i => t.setV _ _) _ (fun _ _ => rfl) t

/-- A workgroup with its threads born into its first tile, where `w` is its number and its tile (R32, R143). -/
def State.bornGroup (s : State) (core : Nat) (l : Launch) (w v : Workgroup) : Workgroup :=
  { v with
    teams := (List.range l.hdr.teams).map (fun t => (t, s.bornTeam l core w.num (w.tile.getD 0) s.nextSeq (s.argBytes l) t))
    bars := barsOf (64 * l.hdr.teams) 16, unborn := false }

/-- A state with a workgroup born, before its claims are settled and its views are dropped. -/
def State.withBorn (s : State) (core : Nat) (l : Launch) (w : Workgroup) : State :=
  (({ s with nextSeq := s.nextSeq + 65 * l.hdr.teams } : State).modWg core (s.bornGroup core l w)).zeroRange
    (scratchKey core 0) (1024 * l.hdr.scratch)

theorem exec_workgroupBirth {s : State} {core : Nat} {w : Workgroup} {l : Launch} (hw : s.wg? core = some w)
    (hl : s.launch? w.launch = some l) (hu : w.unborn = true) (hz : w.frozen = false) (hp : l.toPlace = []) :
    exec (.workgroupBirth core) s = .next (((s.withBorn core l w).claimsDone core).freshViews core) := by
  show execWorkgroupBirth core s = _
  rw [execWorkgroupBirth, hw, wgLaunch?_of hw hl]
  dsimp only
  rw [hu, hz, hp, if_neg (by decide)]
  rfl

section
variable {s : State} {core : Nat} {w : Workgroup} (hw : s.wg? core = some w) (l : Launch)

theorem wg?_withBorn (s : State) (core : Nat) (l : Launch) (w : Workgroup) (c : Nat) :
    (s.withBorn core l w).wg? c = if c = core then (s.wg? c).map (s.bornGroup core l w) else s.wg? c :=
  wg?_modWg _ core c (s.bornGroup core l w)

include hw

theorem team?_withBorn {n : Nat} (hn : n < l.hdr.teams) : (s.withBorn core l w).team? core n
    = some (s.bornTeam l core w.num (w.tile.getD 0) s.nextSeq (s.argBytes l) n) := by
  rw [State.team?, wg?_withBorn, if_pos rfl, hw, Option.map_some, Option.bind_some]
  exact kvGet_range_map _ (List.mem_range.2 hn)

theorem thread?_withBorn {n i : Nat} (hn : n < l.hdr.teams) (hi : i < 64) : (s.withBorn core l w).thread? core n i
    = some (s.bornThread l core w.num (w.tile.getD 0) s.nextSeq n i) := by
  rw [State.thread?, team?_withBorn hw l hn, Option.bind_some]
  exact kvGet_range_map _ (List.mem_range.2 hi)

end

theorem thread?_withBorn_ne (s : State) (l : Launch) (w : Workgroup) {core c : Nat} (hc : c ≠ core) (n i : Nat) :
    (s.withBorn core l w).thread? c n i = s.thread? c n i := by
  simp only [State.thread?, State.team?, wg?_withBorn, if_neg hc]

/-- What follows a birth, the settling of claims and the acquire, leaves threads waiting at most (R124, R143). -/
theorem birth_onlyWaits (s : State) (core : Nat) : OnlyWaits s ((s.claimsDone core).freshViews core) :=
  (OnlyWaits.claimsDone s core).trans (OnlyWaits.outside rfl rfl)

theorem noWait_of_ready {x : Thread} (h : x.wait = .ready) : noWait x = x := by
  rw [noWait, ← h]

/-- A thread begins outside its handler at the launch's entry, with the work item of its place in the tile (R32, R33). -/
theorem birthMark_bornThread (s : State) (l : Launch) (core num n base t i : Nat) : birthMark (s.bornThread l core num n base t i)
    = (BitVec.ofNat 57 l.hdr.entry.toNat, l.hdr.workId n t i, true, false, .ready) := birthMark_born _ _ _ _

/-- The threads of a workgroup that is born, but for what they wait for (R32). -/
theorem workgroupBirth_thread {s u : State} {core : Nat} {w : Workgroup} {l : Launch} (hw : s.wg? core = some w)
    (h : OnlyWaits (s.withBorn core l w) u) {n i : Nat} (hn : n < l.hdr.teams) (hi : i < 64) :
    ∃ x, u.thread? core n i = some x ∧ noWait x = s.bornThread l core w.num (w.tile.getD 0) s.nextSeq n i
      ∧ x.pc = BitVec.ofNat 57 l.hdr.entry.toNat ∧ x.workid = l.hdr.workId (w.tile.getD 0) n i ∧ x.hasItem = true
      ∧ x.inHandler = false := by
  have hborn := birthMark_bornThread s l core w.num (w.tile.getD 0) s.nextSeq n i
  simp only [birthMark, Prod.mk.injEq] at hborn
  obtain ⟨hpc, hid, hitem, hout, hready⟩ := hborn
  have hthread := h.threads core n i
  rw [thread?_withBorn hw l hn hi, Option.map_some, noWait_of_ready hready] at hthread
  obtain ⟨x, hx, hxb⟩ := Option.map_eq_some_iff.1 hthread
  rw [← hxb] at hpc hid hitem hout
  exact ⟨x, hx, hxb, hpc, hid, hitem, hout⟩

/-- The teams of a workgroup that is born have the launch's arguments in their uniform registers (R27, R32). -/
theorem workgroupBirth_team {s u : State} {core : Nat} {w : Workgroup} {l : Launch} (hw : s.wg? core = some w)
    (h : OnlyWaits (s.withBorn core l w) u) {n : Nat} (hn : n < l.hdr.teams) :
    ∃ t, u.team? core n = some t ∧ t.sregs = sparseWords (s.argBytes l) 16 := by
  have hteam := h.teams core n
  rw [team?_withBorn hw l hn, Option.map_some] at hteam
  obtain ⟨t, ht, htb⟩ := Option.map_eq_some_iff.1 hteam
  exact ⟨t, ht, (Prod.mk.inj htb).2⟩

/-! #### STOP -/

section
variable {s : State} {core ctx : Nat} {addr : DWord} {slot : Option Nat} (hp : s.pierNext core = some (.stop core ctx addr slot))
include hp

theorem exec_pierStop_gone (hw : s.wg? core = none) :
    exec (.pierStop core) s = .next ((s.pierTake (.stop core ctx addr slot)).freeSave ctx slot) := by
  have hw' : (s.pierTake (.stop core ctx addr slot)).wg? core = none := hw
  show execPierStop core s = _
  rw [execPierStop, hp]
  dsimp only
  rw [if_neg (by simp), hw']

/-- STOP reaches a workgroup (R175). -/
theorem exec_pierStop {w : Workgroup} (hw : s.wg? core = some w) :
    let t := s.pierTake (.stop core ctx addr slot)
    exec (.pierStop core) s = .next (if w.cancelled || w.ended then t.freeSave ctx slot
      else if t.imageRoom w slot < w.imageSize (t.hdr core) (t.isProt ctx) then (t.freeSave ctx slot).unstop core w
      else { t with wgs := kvMod s.wgs core (fun w => { w with stopping := some (addr, slot) }) }) := by
  intro t
  have hw' : t.wg? core = some w := hw
  show execPierStop core s = _
  rw [execPierStop, hp]
  dsimp only
  rw [if_neg (by simp), hw']
  rfl

end

/-! #### Images -/

theorem queues_ksStore (s : State) (c : Nat) (a : DWord) (bs : List Byte) : (s.ksStore c a bs).queues = s.queues := by
  show (ksAside (s.ksStore c a bs)).queues = (ksAside s).queues
  rw [ksAside_ksStore]

/-- A queue that no SAVE packet keeps busy waits for no image. -/
theorem saving_filter_nil {qs : List (Nat × HostQueue)} (h : ∀ e ∈ qs, ∀ k a b n, e.2.busy ≠ some (.saving k a b n)) (id : Nat) :
    qs.filter (fun e => match e.2.busy with | some (.saving k _ _ _) => k = id | _ => false) = [] := by
  rw [List.filter_eq_nil_iff]
  intro e he
  split
  · next k a b n hbusy => exact absurd hbusy (h e he k a b n)
  · exact Bool.false_ne_true

/-- No SAVE packet that waits for images is completed where there is none. -/
theorem finishSaves_none {u : State} (h : ∀ e ∈ u.queues, ∀ k a b n, e.2.busy ≠ some (.saving k a b n)) (id : Nat) :
    ((u.queues.filter (fun e => match e.2.busy with | some (.saving k _ _ _) => k = id | _ => false)).map (·.1)).foldl
      (fun s q => s.saveDone q none) u = u := by
  rw [saving_filter_nil h id]
  rfl

/-- The image of a stopped workgroup is written once all it has begun is over, and it leaves its core (R175). -/
theorem exec_saveImageWritten {s : State} {core : Nat} {w : Workgroup} {l : Launch} {c : Context} {addr : DWord} {slot : Option Nat}
    (hw : s.wg? core = some w) (hl : s.launch? w.launch = some l) (hc : s.context? l.ctx = some c)
    (hs : w.stopping = some (addr, slot)) (hz : w.frozen = false) (hn : w.cancelled = false) (hd : l.state ≠ .done)
    (hr : s.stopReady core w = true) (hq : ∀ e ∈ s.queues, ∀ k a b n, e.2.busy ≠ some (.saving k a b n)) :
    let uids := w.teams.map (fun (e : Nat × Team) => e.2.uid)
    let v := w.saved (s.cluster (clusterOf core)).cycles (s.setsLeft core w)
    let scratch := s.readBytes (scratchKey core 0) (1024 * l.hdr.scratch)
    let t := (s.modContext l.ctx (fun x => { x with savectr := c.savectr + 1 })).ksStore l.ctx addr
      (v.image l c scratch (c.savectr + 1))
    let g : SavedWg := ⟨w.num, addr, t.imageRoom w slot, slot, c.savectr + 1, v, scratch,
      s.qops.filter (fun x => uids.contains x.uid), core, t.vcOf (coreDie core)⟩
    exec (.saveImageWritten core) s = .next { t with
      launches := kvMod t.launches l.id (fun l => { l with saved := l.saved ++ [g] })
      wgs := kvDel t.wgs core, qops := t.qops.filter (fun x => !uids.contains x.uid) } := by
  intro uids v scratch t g
  have hqueues : t.queues = s.queues := queues_ksStore _ _ _ _
  have hexec : exec (.saveImageWritten core) s = execSaveImageWritten core s := rfl
  rw [execSaveImageWritten, hw, wgLaunch?_of hw hl] at hexec
  dsimp only at hexec
  rw [hs, hc] at hexec
  dsimp only at hexec
  rw [if_neg (by simp [hz, hn, hd, hr])] at hexec
  rw [hexec]
  exact congrArg Host.Outcome.next (finishSaves_none (u := { t with
    launches := kvMod t.launches l.id (fun l => { l with saved := l.saved ++ [g] })
    wgs := kvDel t.wgs core, qops := t.qops.filter (fun x => !uids.contains x.uid) }) (hqueues ▸ hq) l.id)

/-- What a resume comes to, by what the check of its image finds (R177, R178, R201). -/
def State.resumed (t : State) (l : Launch) (x : Context) (v : SavedWg) (core lid : Nat) : ImageCheck → State
  | .ok => t.loadSaved l x v core
  | .capacity => t.giveBack lid core
  | .tag => t.imageFault l core 0x23
  | .stale => t.imageFault l core 0x26
  | .mismatch => t.imageFault l core 0x26

theorem exec_pierResume {s : State} {core lid num : Nat} {l : Launch} {x : Context} {v : SavedWg}
    (hp : s.pierNext core = some (.resume lid core num)) (hl : s.launch? lid = some l) (hx : s.context? l.ctx = some x)
    (hv : l.saved.find? (fun v => v.num = num) = some v) (hrun : l.state = .running) (hn : s.savedCancelled l v = false)
    (hr : s.resumeReady core l.ctx v = true) :
    let t := s.pierTake (.resume lid core num)
    exec (.pierResume core) s = .next (t.resumed l x v core lid (t.checkImage l x v)) := by
  intro t
  show execPierResume core s = _
  rw [execPierResume, hp]
  dsimp only
  rw [if_neg (by simp), hl]
  dsimp only
  rw [hx, hv]
  dsimp only
  rw [if_neg (by simp [hrun]), hn, if_neg Bool.false_ne_true, hr, if_neg (by decide)]
  cases t.checkImage l x v <;> rfl

/-! #### DISCARD -/

theorem forget_done {s : State} {lid : Nat} {l : Launch} (hl : s.launch? lid = some l) (hd : l.state = .done)
    (hw : ∀ e ∈ s.wgs, e.2.launch ≠ lid) : s.forget lid = { s with launches := kvDel s.launches lid } := by
  rw [State.forget, hl]
  dsimp only
  rw [if_pos]
  simpa [hd] using fun a b hab => hw (a, b) hab

theorem forget_notDone {s : State} {lid : Nat} (h : ∀ l, s.launch? lid = some l → l.state ≠ .done) : s.forget lid = s := by
  unfold State.forget
  split
  · next l hl => rw [if_neg (by simp [h l hl])]
  · rfl

/-- A launch that is gone has no sibling group to be quiet in. -/
theorem siblingsQuiet_gone {s : State} {lid : Nat} (h : s.launch? lid = none) : s.siblingsQuiet lid = s := by
  rw [State.siblingsQuiet, h]

section
variable {s : State} {core : Nat} (hp : s.pierNext core = some (.discard core))
include hp

theorem exec_pierDiscard_none (hw : s.wg? core = none) : exec (.pierDiscard core) s = .next (s.pierTake (.discard core)) := by
  have hw' : (s.pierTake (.discard core)).wg? core = none := hw
  show execPierDiscard core s = _
  rw [execPierDiscard, hp]
  dsimp only
  rw [if_neg (by simp), hw']

theorem exec_pierDiscard_some {w : Workgroup} (hw : s.wg? core = some w) : exec (.pierDiscard core) s
    = .next ((((s.pierTake (.discard core)).discardWg core).forget w.launch).siblingsQuiet w.launch) := by
  have hw' : (s.pierTake (.discard core)).wg? core = some w := hw
  show execPierDiscard core s = _
  rw [execPierDiscard, hp]
  dsimp only
  rw [if_neg (by simp), hw']

end

/-! #### Exchanges -/

/-- A workgroup that can be stopped gets a save-area slot, and STOP is on its way to its core (R171, R175). -/
theorem stopCore_slot {s : State} {l : Launch} {core k : Nat} {w : Workgroup} {c : Context} (hc : s.context? l.ctx = some c)
    (hk : c.saveSlot (w.imageSize l.hdr c.prot) = some k) (hp : s.permit core = true) : s.stopCore l core w = some { s with
      contexts := kvMod s.contexts l.ctx (fun c => { c with slots := c.slots ++ [k] })
      links := s.links ++ [.stop core l.ctx (c.saveAddr k) (some k)] } := by
  rw [State.stopCore, hc]
  dsimp only
  rw [hk]
  dsimp only
  rw [hp, if_neg (by decide)]
  rfl

theorem exec_savedWorkgroupExchange_alone {s u : State} {core : Nat} {w : Workgroup} {l : Launch} (hw : s.wg? core = some w)
    (hl : s.launch? w.launch = some l) (hup : s.up = true) (hrun : l.state = .running) (hcl : l.hdr.cluster = false)
    (hb : s.beingSaved l.id = false) (hv : ∃ v ∈ l.saved, s.savedWaits l v = false ∧ s.fitsCore l v core = true)
    (hs : s.stoppable core w = true) (ha : s.allWait l w s.qops = true) (ht : w.tfTile = none) (hu : s.stopCore l core w = some u) :
    exec (.savedWorkgroupExchange core) s = .next u := by
  obtain ⟨v, hmem, hwaits, hfits⟩ := hv
  have hother : l.saved.any (fun v => !s.savedWaits l v && s.fitsCore l v core) = true :=
    List.any_eq_true.2 ⟨v, hmem, by rw [hwaits, hfits]; rfl⟩
  have hstop : State.stopCores l [(core, w)] s = some u := by
    rw [State.stopCores, hu]
    rfl
  show execSavedWorkgroupExchange core s = _
  rw [execSavedWorkgroupExchange, hw, wgLaunch?_of hw hl]
  dsimp only
  rw [hcl, if_neg Bool.false_ne_true, if_neg (by simp [hup, hrun, hb, hother, hs, ha, ht]), hstop]
  rfl

end Sys2Proof.Machine

/-! ### O51 -/

namespace Sys2Proof.Machine

/-- Settles O51, a command at a time. -/
theorem piersExecuteCommands : Obligations.PiersExecuteCommands := by
  unfold Obligations.PiersExecuteCommands
  intro s core
  refine ⟨fun lid num l hp hc hl hf => ⟨fun hd => exec_pierPlace_none hp hc hl hf hd, fun n hd => exec_pierPlace_some hp hc hl hf hd⟩,
    fun w l hw hl hu hz hp => ?_, fun ctx addr slot hp => ⟨exec_pierStop_gone hp, fun w hw => ?_⟩,
    fun w l c addr slot hw hl hc hs hz hn hd hr => exec_saveImageWritten hw hl hc hs hz hn hd hr,
    fun lid num l x v hp hl hx hv hrun hn hr => ?_, fun hp => ⟨exec_pierDiscard_none hp, fun w hw => ?_⟩,
    fun w l c k hw hl hc hup hrun hcl hb hv hs ha ht hpm hk =>
      exec_savedWorkgroupExchange_alone hw hl hup hrun hcl hb hv hs ha ht (stopCore_slot hc hk hpm)⟩
  · have hwaits := birth_onlyWaits (s.withBorn core l w) core
    refine ⟨_, exec_workgroupBirth hw hl hu hz hp, fun n hn => ⟨workgroupBirth_team hw hwaits hn, fun i hi =>
      workgroupBirth_thread hw hwaits hn hi⟩, fun c n i hc => ?_, fun e he => ?_, fun e he => ?_⟩
    · rw [hwaits.threads, thread?_withBorn_ne s l w hc]
    · exact of_decide_eq_true (List.mem_filter.1 he).2
    · exact of_decide_eq_true (List.mem_filter.1 he).2
  · have hexec := exec_pierStop hp hw
    refine ⟨fun hover => ?_, fun hn he hsmall => ?_, fun hn he hfits => ?_⟩
    · rw [hexec, if_pos (by simpa using hover)]
    · rw [hexec, if_neg (by simp [hn, he]), if_pos hsmall]
    · rw [hexec, if_neg (by simp [hn, he]), if_neg (Nat.not_lt.2 hfits)]
  · have hexec := fun r h => (exec_pierResume hp hl hx hv hrun hn hr).trans (congrArg (fun r =>
      Host.Outcome.next ((s.pierTake (.resume lid core num)).resumed l x v core lid r)) (h : _ = r))
    exact ⟨hexec .ok, hexec .capacity, hexec .tag, fun h => h.elim (hexec .stale) (hexec .mismatch)⟩
  · rw [exec_pierDiscard_some hp hw]
    refine ⟨fun ⟨l, hl, hd⟩ hgone => ?_, fun hnot => ?_⟩
    · rw [forget_done (s := (s.pierTake (.discard core)).discardWg core) hl hd hgone, siblingsQuiet_gone (by exact kvGet_del_same _ _)]
    · rw [forget_notDone (s := (s.pierTake (.discard core)).discardWg core) hnot]

end Sys2Proof.Machine

namespace Sys2Proof.Machine

/-! ### O9: special functions, marks and heirs -/

/-- The request that an SFQ leaves to the special function unit, read from the state that issues it (R91, R389). -/
def sfqOf (s : State) (g : BitVec 3) (d a k : BitVec 7) : Sfq :=
  ⟨s.nextSeq, s.cur.core, s.cur.team, s.team.uid, s.team.sfNo, k.toNat, d.toNat,
    (s.guarded g).map (fun l => (l, (s.lane l).tid, (s.lane l).v a.toNat))⟩

/-- The team's token count goes up, whoever executes. -/
def sfTaken (m : Team) : Team := { m with sfNo := m.sfNo + 1 }

theorem sfTaken_effect (s : State) : UnitEffect s (s.advance.onTeam sfTaken) s (fun _ x => x) sfTaken :=
  Effect.teamWith (Effect.advance s) rfl sfTaken (fun _ => rfl) fun x y e => by
    simp only [teamShared, Team.mk.injEq] at e
    simp only [sfTaken, teamShared, Team.mk.injEq]
    simp_all

theorem sfqOf_advance (s : State) (g : BitVec 3) (d a k : BitVec 7) :
    (⟨s.nextSeq, s.cur.core, s.cur.team, s.advance.team.uid, s.advance.team.sfNo, k.toNat, d.toNat,
      (s.guarded g).map (fun l => (l, (s.advance.lane l).tid, (s.advance.lane l).v a.toNat))⟩ : Sfq) = sfqOf s g d a k := by
  simp only [sfqOf, uid_team_advance, sfNo_team_advance, tid_lane_advance, v_lane_advance]

/-- The token goes up first; then, where some guard is true, the request joins those of the unit. -/
theorem exec_sfq {s : State} {g : BitVec 3} {d a k : BitVec 7} (hr : bad2 s.curAlloc d a = none) (hk : k.toNat ≤ 7) :
    exec (.sfq g d a k) s = .next (if s.guarded g = [] then s.advance.onTeam sfTaken
      else { (s.advance.onTeam sfTaken).bump with sfqs := s.sfqs ++ [sfqOf s g d a k] } : State).endIssue := by
  show Host.Outcome.next (s.laneUnit (.sfq g d a k) (s.guarded g) false (bad2 s.curAlloc d a) false _) = _
  rw [hr, laneUnit_ok s (.sfq g d a k) _ _ (decide_eq_true hk), ← sfqOf_advance]
  by_cases hg : s.guarded g = []
  · rw [if_pos hg]
    exact congrArg (fun u => Host.Outcome.next (State.endIssue u)) (if_pos (List.isEmpty_iff.2 hg))
  · rw [if_neg hg]
    exact congrArg (fun u => Host.Outcome.next (State.endIssue u)) (if_neg (mt List.isEmpty_iff.1 hg))

theorem sfq_completes {s : State} {g : BitVec 3} {d a k : BitVec 7} (hr : bad2 s.curAlloc d a = none) (hk : k.toNat ≤ 7) :
    Completes (.sfq g d a k) s
      (if s.guarded g = [] then s else { s with sfqs := s.sfqs ++ [sfqOf s g d a k], nextSeq := s.nextSeq + 1 })
      (fun _ x => x) sfTaken := by
  refine ⟨_, exec_sfq hr hk, Effect.ends ?_⟩
  split
  · exact sfTaken_effect s
  · exact Effect.map (sfTaken_effect s)
      (fun x => { x with sfqs := x.sfqs ++ [sfqOf s g d a k], nextSeq := x.nextSeq + 1 }) (fun _ => rfl) (fun _ _ => rfl)

/-- WILL with a count and a register range that pass (R137, R138). -/
theorem exec_will {s : State} {g : BitVec 3} {a b : BitVec 7} (hb : b.toNat ≤ 8) (ha : a.toNat < s.curAlloc)
    (hab : a.toNat + b.toNat ≤ s.curAlloc) :
    exec (.will g a b) s = .next (if (s.hdr s.cur.core).test then
        s.advance.onLanes (s.guarded g) (fun _ t => { t with mark := (a.toNat, b.toNat) })
      else s.advance).endIssue := by
  show execWill g a b s = _
  simp only [execWill]
  rw [laneUnit_ok _ _ _ _ rfl, if_neg (by omega), if_neg (by simp; omega), cur_advance, hdr_advance]
  cases (s.hdr s.cur.core).test <;> rfl

theorem will_completes {s : State} {g : BitVec 3} {a b : BitVec 7} (hb : b.toNat ≤ 8) (ha : a.toNat < s.curAlloc)
    (hab : a.toNat + b.toNat ≤ s.curAlloc) :
    Completes (.will g a b) s s (if (s.hdr s.cur.core).test then
      lanesWith (s.guarded g) (fun _ x => { x with mark := (a.toNat, b.toNat) }) else fun _ x => x) id := by
  refine ⟨_, exec_will hb ha hab, Effect.ends ?_⟩
  split
  · exact Effect.lanes (Effect.advance s) rfl _ (mem_guarded s g) _
  · exact Effect.advance s

theorem heirq_completes {s : State} {g : BitVec 3} {d b : BitVec 7} (hb : b.toNat < 8) (hd : d.toNat + 2 < s.curAlloc) :
    Completes (.heirq g d b) s s (lanesWith (s.guarded g) (fun _ x =>
      let r := x.heirq (s.hdr s.cur.core) b.toNat
      ((x.setV d.toNat (loWord r.1)).setV (d.toNat + 1) (hiWord r.1)).setV (d.toNat + 2) r.2)) id := by
  have hbad : firstBad [(decide (d.toNat + 2 < s.curAlloc), 0, d.toNat)] = none := by simp [firstBad, hd]
  have h := laneSet_effect s (.heirq g d b) (s.guarded g) (fun s _ t =>
    let r := t.heirq (s.hdr s.cur.core) b.toNat
    ((t.setV d.toNat (loWord r.1)).setV (d.toNat + 1) (hiWord r.1)).setV (d.toNat + 2) r.2)
    (decide_eq_true hb) (mem_guarded s g)
  simp only [cur_advance, hdr_advance] at h
  refine ⟨_, ?_, h⟩
  show execHeirq g d b s = _
  simp only [execHeirq, hbad]

/-- Settles O9, an instruction at a time. -/
theorem specialFunctionIssueAndEstates : Obligations.SpecialFunctionIssueAndEstates := by
  unfold Obligations.SpecialFunctionIssueAndEstates
  intro s g d a b k
  exact ⟨sfq_completes, will_completes, heirq_completes⟩

/-! ### O57 -/

/-- Settles O57, a word at a time: the decoder runs on each. -/
theorem sampleWords : Obligations.SampleWords := by
  unfold Obligations.SampleWords
  refine ⟨?_, ?_, ?_, ?_, ?_, ?_, ?_, ?_, ?_, ?_, ?_, ?_, ?_, ?_, ?_, ?_, ?_, ?_, ?_⟩ <;> decide

/-! ### O37: what a plain load takes -/

/-- The writes that a load of a core's agent sees before they reach their homes, oldest first (R113, R114). -/
def newerThan (s : State) (l : LoadReq) : List WEntry :=
  s.wpath.filter (fun w => w.core = l.core) ++ s.stbuf.filter (fun w => w.agent = l.agent && w.id < l.id)

/-- The line of the core's L1 view that a load reads, where its place is viewed and the line is there. -/
def viewedLine (s : State) (l : LoadReq) : Option (List Byte) :=
  if isDevice l.key then kvGet s.l1 (viewKey l.core (lineOf l.key)) else none

/-- The bytes under the newer writes: those of the view's line; none are needed where newer writes cover the load; else those
that the die reads (R114). -/
def LoadsUnder (s : State) (l : LoadReq) (bs : List Byte) : Prop :=
  let covered := ∀ i < l.n, ∃ w ∈ newerThan s l, w.meets (l.key + i) 1 = true
  (∃ b, viewedLine s l = some b ∧ bs = (b.drop (l.key % 128)).take l.n) ∨ (viewedLine s l = none ∧ covered ∧ bs = [])
    ∨ (viewedLine s l = none ∧ ¬ covered ∧ s.dieReadable (coreDie l.core) l.key = true
      ∧ bs = s.dieBytes (s.ctxOf l.core) (coreDie l.core) l.key l.n)

theorem loadPlain_done {s : State} {l : LoadReq} {bs : List Byte} (h : LoadsUnder s l bs) :
    s.loadPlain l = s.loadDone l (ofBytes ((newerThan s l).foldl (WEntry.over l.key l.n) bs)) := by
  have hcov : ((List.range l.n).all (fun i => (newerThan s l).any (fun w => w.meets (l.key + i) 1))) = true
      ↔ ∀ i < l.n, ∃ w ∈ newerThan s l, w.meets (l.key + i) 1 = true := by
    simp only [List.all_eq_true, List.mem_range, List.any_eq_true]
  have hview : (if isDevice l.key then s.pointView l.core false (lineOf l.key) else none) = viewedLine s l := rfl
  have hnew : s.pointPath l.core false ++ s.stbuf.filter (fun w => w.agent = l.agent && w.id < l.id) = newerThan s l := rfl
  unfold State.loadPlain
  simp only [hview, hnew]
  obtain ⟨b, hline, rfl⟩ | ⟨hline, hc, rfl⟩ | ⟨hline, hc, hd, rfl⟩ := h
  · rw [hline]
  · rw [hline, if_pos (hcov.2 hc)]
  · rw [hline, if_neg (fun h => hc (hcov.1 h)), if_pos hd]

theorem exec_loadSatisfy_plain {s : State} {l : LoadReq} (hl : s.loads.find? (fun o => o.id = l.id) = some l)
    (hb : s.loadBlocked l = false) (hf : s.firewallOk (s.ctxOf l.core) l.key = true) (hm : memExists s.part l.key = true)
    (hd : l.dst.atomic = false) : exec (.loadSatisfy l.id) s = .next (s.loadPlain l).sweep := by
  show execLoadSatisfy l.id s = _
  simp [execLoadSatisfy, hl, pastTries_of_ordered s l.agent l.id (ordered_of_unblocked s l hb), hb, hf, hd, accessing, hm]

/-- Settles O37, by the kind of the load's destination. -/
theorem loadsAreSatisfied : Obligations.LoadsAreSatisfied := by
  unfold Obligations.LoadsAreSatisfied
  intro s l bs hl hb hf hm newer line covered hbase x ends
  have run {F : Thread → Thread} {M : Team → Team} (hd : l.dst.atomic = false) (h : Satisfied s (s.loadDone l x) l s.mem F M) :
      ends F M :=
    ⟨_, (exec_loadSatisfy_plain hl hb hf hm hd).trans (by rw [loadPlain_done hbase]; rfl), h⟩
  refine ⟨fun d sg h => ?_, fun h => ?_, fun d h => ?_, fun d h => ?_⟩
  · exact run (by rw [h]; rfl) (loadDone_lane s l x _ (.inl ⟨d, sg, h, rfl⟩))
  · exact run (by rw [h]; rfl) (loadDone_refill s l x h)
  · exact run (by rw [h]; rfl) (loadDone_unif s l x _ (.inl ⟨d, h, rfl⟩))
  · exact run (by rw [h]; rfl) (loadDone_unif s l x _ (.inr ⟨d, _, h, rfl, rfl⟩))

end Sys2Proof.Machine

namespace Sys2Proof.Machine

/-! ### SUPPORT: what a command's checks and copies read

A subset that has moved on has changed none of it. -/

section
variable (s : State)

theorem sameLaunch_advance (a b : Nat) : s.advance.sameLaunch a b = s.sameLaunch a b := by
  have ha := wg?_advance_launch s a
  have hb := wg?_advance_launch s b
  unfold State.sameLaunch
  revert ha hb
  generalize s.advance.wg? a = x
  generalize s.wg? a = y
  generalize s.advance.wg? b = u
  generalize s.wg? b = v
  intro ha hb
  cases x <;> cases y <;> cases u <;> cases v <;> simp_all

theorem readBytes_advance (k n : Nat) : s.advance.readBytes k n = s.readBytes k n := rfl

theorem remOk_advance (c r : Nat) : s.advance.remOk c r = s.remOk c r := by
  simp only [State.remOk, hdr_advance, sameLaunch_advance]

theorem mmaHdr_advance (c r o : Nat) : s.advance.mmaHdr c r o = s.mmaHdr c r o := rfl

theorem mmaBounds_advance (c r o r0 gs k0 kgc : Nat) : s.advance.mmaBounds c r o r0 gs k0 kgc = s.mmaBounds c r o r0 gs k0 kgc := by
  simp only [State.mmaBounds, remOk_advance, mmaHdr_advance, scratchBytes_advance]
  rfl

theorem engPlace_advance (a n : Nat) : s.advance.engPlace a n = s.engPlace a n := by
  simp only [State.engPlace, cur_advance, place_advance]

theorem guardChecks_advance (o : Nat) (b : List Byte) : guardChecks s.advance o b = guardChecks s o b := by
  simp only [guardChecks, engPlace_advance]

theorem mmaCheck_advance (o : Nat) (b : List Byte) : s.advance.mmaCheck o b = s.mmaCheck o b := by
  simp only [State.mmaCheck, cur_advance, mmaHdr_advance, mmaBounds_advance, engPlace_advance, remOk_advance]
  rfl

theorem bankCheck_advance (o : Nat) (b : List Byte) (one : Bool) : s.advance.bankCheck o b one = s.bankCheck o b one := by
  simp only [State.bankCheck, guardChecks_advance]

theorem aldCheck_advance (o : Nat) (b : List Byte) : s.advance.aldCheck o b = s.aldCheck o b := by
  simp only [State.aldCheck, engPlace_advance, guardChecks_advance]

theorem copyCheck_advance (o : Nat) (b : List Byte) : s.advance.copyCheck o b = s.copyCheck o b := by
  simp only [State.copyCheck, cur_advance, scratchBytes_advance, readBytes_advance, engPlace_advance, guardChecks_advance]
  rfl

theorem qstCheck_advance (o : Nat) (b : List Byte) : s.advance.qstCheck o b = s.qstCheck o b := by
  simp only [State.qstCheck, cur_advance, scratchBytes_advance, readBytes_advance, engPlace_advance, guardChecks_advance]
  rfl

theorem chainCheck_advance (o : Nat) (b : List Byte) : s.advance.chainCheck o b = s.chainCheck o b := by
  simp only [State.chainCheck, cur_advance, scratchBytes_advance, readBytes_advance, engPlace_advance, guardChecks_advance]

theorem rotCheck_advance (o : Nat) (b : List Byte) : s.advance.rotCheck o b = s.rotCheck o b := by
  simp only [State.rotCheck, cur_advance, scratchBytes_advance, engPlace_advance, guardChecks_advance]

theorem cmdCheck5_advance (k : CmdKind) (o : Nat) : s.advance.cmdCheck5 k o = s.cmdCheck5 k o := by
  simp only [State.cmdCheck5, cur_advance, scratchBytes_advance, readBytes_advance, mmaCheck_advance, bankCheck_advance,
    aldCheck_advance, copyCheck_advance, qstCheck_advance, chainCheck_advance, rotCheck_advance]

theorem guardRead_advance (g : Nat) : s.advance.guardRead g = s.guardRead g := by
  have hread : ∀ d k, s.advance.dieReadable d k = s.dieReadable d k := fun _ _ => rfl
  have hcopies : s.advance.copies = s.copies := rfl
  simp only [State.guardRead, cur_advance, place_advance, ctxOf_advance, firewallOk_advance, homeNat_advance,
    translate_advance, hread, hcopies]
  rfl

theorem cmdHdrs_advance (k : CmdKind) (b : List Byte) : s.advance.cmdHdrs k b = s.cmdHdrs k b := rfl

theorem cmdOps_advance (k : CmdKind) (b : List Byte) : s.advance.cmdOps k b = s.cmdOps k b := rfl

end

theorem mem_of_kvGet {α : Type} {m : KV α} {k : Nat} {v : α} (h : kvGet m k = some v) : (k, v) ∈ m := by
  induction m with
  | nil => cases h
  | cons e r ih =>
    obtain ⟨a, b⟩ := e
    simp only [kvGet] at h
    split at h
    · next hk => cases h; subst hk; exact List.mem_cons_self
    · exact List.mem_cons_of_mem _ (ih h)

/-- A workgroup in the place of one with as many commands leaves whether any command is in flight. -/
theorem cmdsIn_kvPut {m : KV Workgroup} {k : Nat} {v w : Workgroup} (hv : kvGet m k = some v) (hw : w.cmds = v.cmds) :
    cmdsIn (kvPut m k w) = cmdsIn m := by
  induction m with
  | nil => cases hv
  | cons e r ih =>
    obtain ⟨a, b⟩ := e
    have hin : (!v.cmds.isEmpty) = true → cmdsIn ((a, b) :: r) = true := fun h =>
      List.any_eq_true.2 ⟨_, mem_of_kvGet hv, h⟩
    simp only [kvPut, kvGet] at hv ⊢
    by_cases hka : k = a
    · rw [if_pos hka] at hv ⊢
      cases hv
      show ((!w.cmds.isEmpty) || cmdsIn r) = ((!v.cmds.isEmpty) || cmdsIn r)
      rw [hw]
    · rw [if_neg hka] at hv ⊢
      split
      · show ((!w.cmds.isEmpty) || cmdsIn ((a, b) :: r)) = _
        rw [hw]
        cases h : !v.cmds.isEmpty
        · rfl
        · rw [hin h]; rfl
      · show ((!b.cmds.isEmpty) || cmdsIn (kvPut r k w)) = _
        rw [ih hv]; rfl

theorem cmdsIn_advance (s : State) : cmdsIn s.advance.wgs = cmdsIn s.wgs := by
  show cmdsIn (kvMod s.wgs s.cur.core _) = _
  unfold kvMod
  split
  · next v hv => exact cmdsIn_kvPut hv rfl
  · rfl

/-! ### SUPPORT: a command at its issue (R73, R74)

One equation for each outcome that a statement speaks of, once the guard holds and the register fields pass. -/

section
variable {s : State} {i : Instr} {g : BitVec 3} {a : BitVec 7} {acc : BitVec 2} {k : CmdKind} (hw : i.wf = true)
  (hg : s.guardU g = true) (ha : sOk a = true) (hacc : k.matrix = true → acc.toNat < (s.hdr s.cur.core).accs)
include ha hacc

theorem commandFields_ok : firstBad [(sOk a, 1, a.toNat),
    (!k.matrix || decide (acc.toNat < (s.hdr s.cur.core).accs), 4, acc.toNat)] = none := by
  cases hk : k.matrix <;> simp [firstBad, ha, hk] at hacc ⊢
  exact hacc

include hw hg

theorem command_fails {c : Nat} {v : Word} (h : s.cmdCheck5 k (s.team.sr a.toNat).toNat = some (c, v)) :
    s.command i g a acc k = (s.advance.trapLanes s.subset c v true false false).endIssue := by
  simp only [State.command, commandFields_ok ha hacc, hg]
  rw [unifUnit_ok _ _ _ hw]
  simp only [cmdCheck5_advance, h, subset_advance]

variable (hpass : s.cmdCheck5 k (s.team.sr a.toNat).toNat = none)
include hpass

theorem command_unguarded (hgw : s.readNat (scratchKey s.cur.core (s.team.sr a.toNat).toNat) 8 = 0) :
    s.command i g a acc k = (s.advance.accept k acc.toNat (s.team.sr a.toNat).toNat
      (s.readNat (scratchKey s.cur.core ((s.team.sr a.toNat).toNat + 8)) 4)).endIssue := by
  have hread : ∀ x n, s.advance.readNat x n = s.readNat x n := fun _ _ => rfl
  simp only [State.command, commandFields_ok ha hacc, hg]
  rw [unifUnit_ok _ _ _ hw]
  simp only [cmdCheck5_advance, hpass, cur_advance, hread, hgw, if_true]

variable (hgw : s.readNat (scratchKey s.cur.core (s.team.sr a.toNat).toNat) 8 ≠ 0)
include hgw

theorem command_guarded {x : Nat}
    (hr : s.guardRead (s.readNat (scratchKey s.cur.core (s.team.sr a.toNat).toNat) 8) = .word x) :
    s.command i g a acc k = ((if x = 0 then
        s.advance.countNull (s.readNat (scratchKey s.cur.core (s.team.sr a.toNat).toNat) 8) else s.advance).accept k acc.toNat
      (s.team.sr a.toNat).toNat (min (s.readNat (scratchKey s.cur.core ((s.team.sr a.toNat).toNat + 8)) 4) x)).endIssue := by
  have hread : ∀ x n, s.advance.readNat x n = s.readNat x n := fun _ _ => rfl
  simp only [State.command, commandFields_ok ha hacc, hg]
  rw [unifUnit_ok _ _ _ hw]
  simp only [cmdCheck5_advance, hpass, cur_advance, hread, if_neg hgw, guardRead_advance, hr]

theorem command_misses (hr : s.guardRead (s.readNat (scratchKey s.cur.core (s.team.sr a.toNat).toNat) 8) = .miss) :
    s.command i g a acc k = ((s.advance.needWalk s.cur.core (s.ctxOf s.cur.core)
        (s.readNat (scratchKey s.cur.core (s.team.sr a.toNat).toNat) 8)).hold s.subset
      (.walk ⟨s.ctxOf s.cur.core, BitVec.ofNat 64 (s.readNat (scratchKey s.cur.core (s.team.sr a.toNat).toNat) 8),
        false, false, true, true, false⟩)).endIssue := by
  have hread : ∀ x n, s.advance.readNat x n = s.readNat x n := fun _ _ => rfl
  simp only [State.command, commandFields_ok ha hacc, hg]
  rw [unifUnit_ok _ _ _ hw]
  simp only [cmdCheck5_advance, hpass, cur_advance, hread, if_neg hgw, guardRead_advance, hr, ctxOf_advance, subset_advance]

end

/-! ### SUPPORT: a command that is accepted (R74) -/

/-- The record of an accepted command with an effective count that is not 0. -/
def acceptedCmd (s : State) (k : CmdKind) (acc off n : Nat) : Cmd :=
  let b := s.readBytes (scratchKey s.cur.core off) 64
  { id := s.nextSeq, team := s.cur.team, uid := s.team.uid, kind := k, acc := acc, blk := b, hdrs := s.cmdHdrs k b
    ops := s.cmdOps k b, n := n, begun := false, mc := if n = 0 then [] else s.cmdMcast k b, row := 0, pos := 0
    rowBytes := [], issued := false, bands := [], resumed := false, free := s.freeCtr, rowsDone := [], fetched := [], start := 0 }

/-- What accepting a command changes beside the workgroups. -/
def acceptBeside (n : Nat) (s : State) : State :=
  { s with nextSeq := s.nextSeq + 1, freeCtr := s.freeCtr + 262144 * (n + 1), was := if cmdsIn s.wgs then s.was else [] }

/-- The team counts the command in MX or CP (R72, R88). -/
def countsCmd (k : CmdKind) (id : Nat) (m : Team) : Team :=
  if k.matrix then { m with mx := m.mx ++ [⟨id, false⟩] } else { m with cp := m.cp ++ [⟨id, false⟩] }

/-- The command stands as the youngest of its workgroup, which has issued for the multicast sets `used` (R78). -/
def takesCmd (c : Cmd) (used : List (Nat × Nat × Nat × Nat)) (w : Workgroup) : Workgroup :=
  { w with cmds := w.cmds ++ [c], leftSets := w.leftSets.filter (fun x => !used.contains x), mcIssued := w.mcIssued ++ used }

/-- The command stands accepted, whatever its count. -/
def State.standing (s : State) (k : CmdKind) (acc off n : Nat) : State :=
  ((acceptBeside n s).onTeam (countsCmd k s.nextSeq)).modWg s.cur.core (takesCmd (acceptedCmd s k acc off n)
    ((mmaSets s.cur.core k (s.readBytes (scratchKey s.cur.core off) 64)).map (·.2)).dedup)

theorem accept_eq (s : State) (k : CmdKind) (acc off n : Nat) : s.accept k acc off n
    = if n = 0 then (s.standing k acc off n).cmdRetire s.nextSeq else s.standing k acc off n := rfl

theorem countsCmd_lanes (k : CmdKind) (id : Nat) (m : Team) : (countsCmd k id m).lanes = m.lanes := by
  unfold countsCmd; split <;> rfl

theorem countsCmd_shared (k : CmdKind) (id : Nat) (x y : Team) (e : teamShared x = teamShared y) :
    teamShared (countsCmd k id x) = teamShared (countsCmd k id y) := by
  simp only [teamShared, Team.mk.injEq] at e
  unfold countsCmd
  split <;> simp only [teamShared, Team.mk.injEq] <;> simp_all

theorem takesCmd_shell (c : Cmd) (used : List (Nat × Nat × Nat × Nat)) (x y : Workgroup) (e : groupShell x = groupShell y) :
    groupShell (takesCmd c used x) = groupShell (takesCmd c used y) := by
  simp only [groupShell, Workgroup.mk.injEq] at e
  simp only [takesCmd, groupShell, Workgroup.mk.injEq]
  simp_all

theorem accept_effect {s : State} {k : CmdKind} {acc off n : Nat} (hn : n ≠ 0) :
    GroupEffect s (s.advance.accept k acc off n).endIssue (acceptBeside n s) (fun _ x => x) (countsCmd k s.nextSeq)
      (takesCmd (acceptedCmd s.advance k acc off n)
        ((mmaSets s.cur.core k (s.readBytes (scratchKey s.cur.core off) 64)).map (·.2)).dedup) := by
  have hbeside : { acceptBeside n s.advance with wgs := s.wgs } = acceptBeside n s := by
    simp only [acceptBeside, cmdsIn_advance]; rfl
  have hmoved := Effect.outside (Effect.advance s) (acceptBeside n s.advance) rfl
  rw [hbeside] at hmoved
  rw [accept_eq, if_neg hn]
  exact Effect.groupEnds (Effect.group (Effect.teamWith hmoved rfl (countsCmd k s.nextSeq) (countsCmd_lanes k s.nextSeq)
    (countsCmd_shared k s.nextSeq)) rfl _ (fun _ => rfl) (takesCmd_shell _ _))

/-- An accepted command, whichever of the nine it is. -/
theorem commandAccepted {s : State} {i : Instr} {g : BitVec 3} {a : BitVec 7} {acc : BitVec 2} {k : CmdKind}
    (he : exec i s = .next (s.command i g a acc k)) (hw : i.wf = true) (hg : s.guardU g = true) (ha : sOk a = true)
    (hacc : k.matrix = true → acc.toNat < (s.hdr s.cur.core).accs) :
    CommandAccepted s i k acc.toNat (s.team.sr a.toNat).toNat := by
  unfold CommandAccepted
  intro b guard count used n hn hpass hcount
  have hrun : s.command i g a acc k = (s.advance.accept k acc.toNat (s.team.sr a.toNat).toNat n).endIssue := by
    obtain ⟨hgw, rfl⟩ | ⟨hgw, x, hr, rfl⟩ := hcount
    · exact command_unguarded hw hg ha hacc hpass hgw
    · have hx : x ≠ 0 := fun h => hn (by rw [h, Nat.min_zero])
      rw [command_guarded hw hg ha hacc hpass hgw hr, if_neg hx]
  refine ⟨_, acceptedCmd s.advance k acc.toNat (s.team.sr a.toNat).toNat n, he.trans (congrArg _ hrun), ?_, accept_effect hn⟩
  exact ⟨rfl, rfl, uid_team_advance s, rfl, rfl, rfl, rfl, rfl, rfl, rfl, rfl, rfl⟩

/-! ### O30 -/

/-- Settles O30: the nine commands are one issue, `State.command`. -/
theorem engineCommandsAccepted : Obligations.EngineCommandsAccepted := by
  unfold Obligations.EngineCommandsAccepted
  intro s g a acc hg ha off
  have matrix {i : Instr} {k : CmdKind} (hacc : acc.toNat < (s.hdr s.cur.core).accs) (hw : i.wf = true)
      (he : exec i s = .next (s.command i g a acc k)) : CommandAccepted s i k acc.toNat off :=
    commandAccepted he hw hg ha fun _ => hacc
  have copy {i : Instr} {k : CmdKind} (hk : k.matrix = false) (hw : i.wf = true)
      (he : exec i s = .next (s.command i g a 0 k)) : CommandAccepted s i k 0 off :=
    commandAccepted he hw hg ha fun h => absurd h (by rw [hk]; decide)
  exact ⟨fun hacc => ⟨matrix hacc rfl rfl, matrix hacc rfl rfl, matrix hacc rfl rfl, matrix hacc rfl rfl, matrix hacc rfl rfl⟩,
    copy rfl rfl rfl, copy rfl rfl rfl, copy rfl rfl rfl, copy rfl rfl rfl⟩

/-! ### SUPPORT: a command that retires -/

theorem wg?_cmdRetire (s : State) (id c : Nat) : (s.cmdRetire id).wg? c = (s.wg? c).map (fun w =>
    if w.cmds.any (fun c => c.id = id) then
      { w with cmds := w.cmds.filter (fun c => c.id ≠ id), teams := w.teams.map (fun t => (t.1, t.2.tokDone id)) }
    else w) :=
  kvGet_map s.wgs c (fun _ (w : Workgroup) => (if w.cmds.any (fun c => c.id = id) then
    { w with cmds := w.cmds.filter (fun c => c.id ≠ id), teams := w.teams.map (fun t => (t.1, t.2.tokDone id)) }
    else w : Workgroup))

/-- A retired command stands in no workgroup. -/
theorem cmdRetire_gone {s : State} {id c : Nat} {w : Workgroup} (h : (s.cmdRetire id).wg? c = some w) :
    ∀ o ∈ w.cmds, o.id ≠ id := by
  rw [wg?_cmdRetire, Option.map_eq_some_iff] at h
  obtain ⟨v, -, rfl⟩ := h
  intro o ho
  split at ho
  · simpa using (List.mem_filter.1 ho).2
  · next hnone => exact fun e => hnone (List.any_eq_true.2 ⟨o, ho, decide_eq_true e⟩)

/-- A team gives up at most a token where a command retires. -/
theorem noTokens_cmdRetire (s : State) (id c n : Nat) :
    ((s.cmdRetire id).team? c n).map noTokens = (s.team? c n).map noTokens := by
  simp only [State.team?, wg?_cmdRetire]
  cases s.wg? c with
  | none => rfl
  | some w =>
    simp only [Option.map_some, Option.bind_some]
    split
    · rw [kvGet_map w.teams n fun _ t => t.tokDone id]
      cases kvGet w.teams n <;> rfl
    · rfl

theorem thread?_of_noTokens {s t : State} {c n : Nat} (h : (t.team? c n).map noTokens = (s.team? c n).map noTokens) (l : Nat) :
    t.thread? c n l = s.thread? c n l := by
  have hread (u : State) : u.thread? c n l = ((u.team? c n).map noTokens).bind (fun m => kvGet m.lanes l) := by
    unfold State.thread?; cases u.team? c n <;> rfl
  rw [hread, hread, h]

theorem thread?_cmdRetire (s : State) (id c n l : Nat) : (s.cmdRetire id).thread? c n l = s.thread? c n l :=
  thread?_of_noTokens (noTokens_cmdRetire s id c n) l

theorem cmds_endIssue (s : State) (c : Nat) : (s.endIssue.wg? c).map (·.cmds) = (s.wg? c).map (·.cmds) := by
  have h := congrArg (Option.map (·.cmds)) (shell_endIssue s c)
  simp only [Option.map_map] at h
  exact h

/-! ### SUPPORT: a command that fails, waits or is null (R73, R74) -/

theorem thread?_advance_all (s : State) (c n l : Nat) : s.advance.thread? c n l = (s.thread? c n l).map (fun x =>
    if c = s.cur.core ∧ n = s.cur.team ∧ l ∈ s.subset then movedOn s x else x) := by
  simp only [State.advance, State.onLanes, thread?_modLanes]
  by_cases h : c = s.cur.core ∧ n = s.cur.team
  · rw [if_pos h]; simp [h, movedOn]
  · rw [if_neg h]
    have : ¬ (c = s.cur.core ∧ n = s.cur.team ∧ l ∈ s.subset) := fun e => h ⟨e.1, e.2.1⟩
    simp [this]

/-- What the issue of a null command starts from: the subset has moved on, and its sibling's record may have counted it (R216). -/
def MovedOnBut (s z : State) : Prop := z.wgs = s.advance.wgs ∧ z.nextSeq = s.nextSeq ∧ z.mem = s.mem

theorem movedOnBut_advance (s : State) : MovedOnBut s s.advance := ⟨rfl, rfl, rfl⟩

theorem movedOnBut_countNull (s : State) (gw : Nat) : MovedOnBut s (s.advance.countNull gw) := by
  unfold State.countNull
  split
  · dsimp only
    split
    · split <;> exact ⟨rfl, rfl, rfl⟩
    · exact movedOnBut_advance s
  · exact movedOnBut_advance s

theorem mem_accept (s : State) (k : CmdKind) (acc off n : Nat) : (s.accept k acc off n).mem = s.mem := by
  have hstanding : (s.standing k acc off n).mem = s.mem := by
    simp only [State.standing, State.onTeam, State.modWg_mem, State.modTeam_mem]; rfl
  rw [accept_eq]
  split
  · exact hstanding
  · exact hstanding

theorem thread?_accept_zero (s : State) (k : CmdKind) (acc off c n l : Nat) :
    (s.accept k acc off 0).thread? c n l = s.thread? c n l := by
  rw [accept_eq, if_pos rfl, thread?_cmdRetire, State.standing, thread?_modWg_of _ _ _ _ _ (takesCmd _ _) (fun _ => rfl),
    State.onTeam, thread?_modTeam_of _ _ _ _ (countsCmd_lanes k s.nextSeq)]
  rfl

/-- A command with an effective count of 0 has left its workgroup with its issue (R74). -/
theorem accept_zero_gone {s : State} {k : CmdKind} {acc off c : Nat} {w : Workgroup}
    (h : (s.accept k acc off 0).endIssue.wg? c = some w) : ∀ o ∈ w.cmds, o.id ≠ s.nextSeq := by
  have hcmds := cmds_endIssue (s.accept k acc off 0) c
  rw [h, accept_eq, if_pos rfl, Option.map_some, eq_comm, Option.map_eq_some_iff] at hcmds
  obtain ⟨v, hv, he⟩ := hcmds
  exact he ▸ cmdRetire_gone hv

/-- What a null command leaves: nothing of its name, memory as it was, and its subset moved on. -/
theorem nullCommand_leaves {s z : State} (k : CmdKind) (acc off : Nat) (hz : MovedOnBut s z) :
    (∀ w, (z.accept k acc off 0).endIssue.wg? s.cur.core = some w → ∀ c ∈ w.cmds, c.id ≠ s.nextSeq)
      ∧ (z.accept k acc off 0).endIssue.mem = s.mem
      ∧ ∀ c n l, (z.accept k acc off 0).endIssue.thread? c n l = (s.thread? c n l).map (fun x =>
          if c = s.cur.core ∧ n = s.cur.team ∧ l ∈ s.subset then movedOn s x else x) := by
  obtain ⟨hwgs, hseq, hmem⟩ := hz
  refine ⟨fun w h => hseq ▸ accept_zero_gone h, (mem_accept z k acc off 0).trans hmem, fun c n l => ?_⟩
  rw [thread?_endIssue, thread?_accept_zero, ← thread?_advance_all]
  simp only [State.thread?, State.team?, State.wg?, hwgs]

/-- A subset that stays at its command for a walk (R195). -/
theorem holdForWalk_effect (s : State) (va : Nat) (w : Wait) :
    UnitEffect s ((s.advance.needWalk s.cur.core (s.ctxOf s.cur.core) va).hold s.subset w).endIssue
      (s.needWalk s.cur.core (s.ctxOf s.cur.core) va) (lanesWith s.subset (fun _ => heldAt s w)) id := by
  have hwalk : UnitEffect s (s.advance.needWalk s.cur.core (s.ctxOf s.cur.core) va)
      (s.needWalk s.cur.core (s.ctxOf s.cur.core) va) (fun _ x => x) id := by
    refine Effect.map (Effect.advance s) (fun x => x.needWalk s.cur.core (s.ctxOf s.cur.core) va) (fun x => ?_) (fun x w => ?_)
    all_goals (simp only [State.needWalk]; split <;> rfl)
  have hcur : (s.needWalk s.cur.core (s.ctxOf s.cur.core) va).cur = s.cur := by
    unfold State.needWalk; dsimp only; split <;> rfl
  have hcur' : (s.advance.needWalk s.cur.core (s.ctxOf s.cur.core) va).cur = s.cur := Effect.cur_eq hwalk hcur
  unfold State.hold
  rw [hcur']
  exact Effect.ends (Effect.lanes hwalk hcur s.subset (fun _ h => h) _)

/-! ### O31 -/

/-- What the checks of a command decide, whichever of the nine it is. -/
theorem commandChecked {s : State} {i : Instr} {g : BitVec 3} {a : BitVec 7} {acc : BitVec 2} {k : CmdKind}
    (he : exec i s = .next (s.command i g a acc k)) (hw : i.wf = true) (hg : s.guardU g = true) (ha : sOk a = true)
    (hacc : k.matrix = true → acc.toNat < (s.hdr s.cur.core).accs) :
    let off := (s.team.sr a.toNat).toNat
    let guard := s.readNat (scratchKey s.cur.core off) 8
    let count := s.readNat (scratchKey s.cur.core (off + 8)) 4
    (∀ c v, s.cmdCheck5 k off = some (c, v) → TrapsLanes s i s.subset c v true false)
    ∧ (s.cmdCheck5 k off = none →
      (guard ≠ 0 → s.guardRead guard = .miss →
        Completes i s (s.needWalk s.cur.core (s.ctxOf s.cur.core) guard) (lanesWith s.subset (fun _ => heldAt s
          (.walk ⟨s.ctxOf s.cur.core, BitVec.ofNat 64 guard, false, false, true, true, false⟩))) id)
      ∧ ((guard = 0 ∧ count = 0) ∨ (guard ≠ 0 ∧ ∃ x, s.guardRead guard = .word x ∧ min count x = 0) →
        ∃ t, exec i s = .next t ∧ (∀ w, t.wg? s.cur.core = some w → ∀ c ∈ w.cmds, c.id ≠ s.nextSeq) ∧ t.mem = s.mem
          ∧ ∀ c n l, t.thread? c n l = (s.thread? c n l).map (fun x =>
              if c = s.cur.core ∧ n = s.cur.team ∧ l ∈ s.subset then movedOn s x else x))) := by
  intro off guard count
  refine ⟨fun c v hc ho => ⟨_, ?_, trapUnif_effect s c v ho⟩, fun hpass => ⟨fun hgw hr => ⟨_, ?_, holdForWalk_effect s guard _⟩,
    fun hnull => ?_⟩⟩
  · rw [he, command_fails hw hg ha hacc hc]
  · rw [he, command_misses hw hg ha hacc hpass hgw hr]
  · obtain ⟨hgw, hcount⟩ | ⟨hgw, x, hr, hmin⟩ := hnull
    · refine ⟨_, ?_, nullCommand_leaves k acc.toNat off (movedOnBut_advance s)⟩
      rw [he, command_unguarded hw hg ha hacc hpass hgw]; rw [show s.readNat _ 4 = 0 from hcount]
    · refine ⟨_, ?_, nullCommand_leaves k acc.toNat off (z := if x = 0 then s.advance.countNull guard else s.advance) ?_⟩
      · rw [he, command_guarded hw hg ha hacc hpass hgw hr]; rw [show min (s.readNat _ 4) x = 0 from hmin]
      · split
        · exact movedOnBut_countNull s guard
        · exact movedOnBut_advance s

/-- Settles O31: the nine commands are one issue, and the block's place is checked first. -/
theorem engineCommandsChecked : Obligations.EngineCommandsChecked := by
  unfold Obligations.EngineCommandsChecked
  intro s g a acc hg ha off guard count checked
  have matrix {i : Instr} {k : CmdKind} (hacc : acc.toNat < (s.hdr s.cur.core).accs) (hw : i.wf = true)
      (he : exec i s = .next (s.command i g a acc k)) : checked i k :=
    commandChecked he hw hg ha fun _ => hacc
  have copy {i : Instr} {k : CmdKind} (hk : k.matrix = false) (hw : i.wf = true)
      (he : exec i s = .next (s.command i g a 0 k)) : checked i k :=
    commandChecked he hw hg ha fun h => absurd h (by rw [hk]; decide)
  have hreg : BitVec.ofNat 32 off = s.team.sr a.toNat := (BitVec.ofNat_toNat _ _).trans (BitVec.setWidth_eq _)
  refine ⟨fun k => ⟨fun halign => ?_, fun halign hplace => ?_⟩,
    fun hacc => ⟨matrix hacc rfl rfl, matrix hacc rfl rfl, matrix hacc rfl rfl, matrix hacc rfl rfl, matrix hacc rfl rfl⟩,
    copy rfl rfl rfl, copy rfl rfl rfl, copy rfl rfl rfl, copy rfl rfl rfl⟩
  · rw [State.cmdCheck5, if_pos halign, hreg]
  · rw [State.cmdCheck5, if_neg (not_not.2 halign), if_pos hplace, hreg]

end Sys2Proof.Machine

namespace Sys2Proof.Machine

/-! ### SUPPORT: an engine's step (R78, R81, R92) -/

section
variable {s : State} {id core : Nat} {w : Workgroup} {c : Cmd} (hc : s.cmd? id = some (core, w, c))
include hc

theorem exec_engineCommandBegin (hs : s.stop = none) (hfree : s.engineFree core w id = true) (hb : w.canBegin c = true) :
    exec (.engineCommandBegin id) s
      = .next (s.bump.modCmd core id (fun c => { c with begun := true, start := s.nextSeq })) := by
  refine finish_next _ _ ?_ hs
  show execEngineCommandBegin id s = _
  simp only [execEngineCommandBegin, hc, hfree, hb, Bool.and_self, if_true]

/-- The fetch of a set, where each member that still stands has issued for it (R78). -/
theorem exec_multicastFetch {m : Mcast} (hs : s.stop = none) (hm : c.mc.head? = some m)
    (hall : ∀ p ∈ s.mcMembers m, m.round < p.2.mcIssued.count m.key) :
    let cmds := ((core, w) :: s.mcMembers m).filterMap (fun p =>
      (p.2.cmds.find? (fun c => c.mc.any (fun x => x.key = m.key))).map (fun o => (p.1, o.id)))
    exec (.multicastFetch id) s = .next (cmds.foldl (fun t p =>
      t.modCmd p.1 p.2 (fun o => o.deliver m.key ((cmds.map (·.2)).foldl max 0) s.nextSeq)) s.bump) := by
  intro cmds
  refine finish_next _ _ ?_ ?stop
  case stop => exact (stop_foldl _ (by intros; rfl) cmds s.bump).trans hs
  show execMulticastFetch id s = _
  simp only [execMulticastFetch, hc, hm]
  rw [if_pos (List.all_eq_true.2 fun p hp => decide_eq_true (hall p hp))]

end

/-- What an engine does for a command that it runs, whichever of the nine it is. -/
def State.engineStep (s : State) (core launch len : Nat) (c : Cmd) : State :=
  match c.kind with
  | .mma => s.doMma core c
  | .aswap => s.doAswap core c
  | .azero => s.doAzero core c
  | .ald => s.doAld core c
  | .ast => s.doAst core launch c
  | .tcopy => s.copyChunk core launch c len
  | .tqst => s.qstLine core launch c
  | .tchain => s.chainChunk core launch c len
  | .trot => s.rotChunk core launch c len

section
variable {s : State} {id core : Nat} {w : Workgroup} {c : Cmd} (hc : s.cmd? id = some (core, w, c)) (hb : c.begun = true)
  (hi : c.issued = false) (hfree : s.engineFree core w id = true)
include hc hb hi hfree

theorem exec_copyChunkWrite {len : Nat} (hk : c.kind.matrix = false) (hlen : 0 < len) (hw : w.stopping = none)
    (hs : ((s.engineStep core w.launch len c).endWorkgroup core).stop = none) :
    exec (.copyChunkWrite id len) s = .next ((s.engineStep core w.launch len c).endWorkgroup core) := by
  refine finish_next _ _ ?_ hs
  show execCopyChunkWrite id len s = _
  simp only [execCopyChunkWrite, hc]
  rw [if_pos (by simp [hb, hi, hk, hlen, hw, hfree])]
  unfold State.engineStep State.afterCmd
  cases hkind : c.kind with
  | tcopy | tqst | tchain | trot => rfl
  | mma | aswap | azero | ald | ast => rw [hkind] at hk; cases hk

theorem exec_tensorCommandComplete {u : State} (hk : c.kind.matrix = true) (hu : s.engineStep core w.launch 0 c = u)
    (hs : (u.endWorkgroup core).stop = none) : exec (.tensorCommandComplete id) s = .next (u.endWorkgroup core) := by
  subst hu
  refine finish_next _ _ ?_ hs
  show execTensorCommandComplete id s = _
  simp only [execTensorCommandComplete, hc]
  rw [if_pos (by simp [hb, hi, hk, hfree])]
  unfold State.engineStep State.afterCmd
  cases hkind : c.kind with
  | mma | aswap | azero | ald | ast => rfl
  | tcopy | tqst | tchain | trot => rw [hkind] at hk; cases hk

end

/-- A matrix command that changes its accumulator by `f` and retires leaves everything else as it was but for its token. -/
theorem modAcc_retires {s : State} {core : Nat} {c : Cmd} {t : Team} (f : AccTile → AccTile) (ht : s.team? core c.team = some t) :
    let u := (s.modAcc core c f).cmdRetire c.id
    { u with wgs := s.wgs, was := s.was } = s
    ∧ (u.team? core c.team).map (·.accs) = some (kvSetD ⟨[], []⟩ t.accs c.acc (f (kvGetD ⟨[], []⟩ t.accs c.acc)))
    ∧ (∀ k n l, u.thread? k n l = s.thread? k n l)
    ∧ (∀ k n, (k = core → n ≠ c.team) → (u.team? k n).map noTokens = (s.team? k n).map noTokens)
    ∧ ∀ w, u.wg? core = some w → ∀ o ∈ w.cmds, o.id ≠ c.id := by
  intro u
  have hteam (k n : Nat) : (u.team? k n).map noTokens = ((s.modAcc core c f).team? k n).map noTokens :=
    noTokens_cmdRetire _ _ _ _
  refine ⟨rfl, ?_, fun k n l => ?_, fun k n hkn => ?_, fun w h => cmdRetire_gone h⟩
  · have h := congrArg (Option.map (·.accs)) (hteam core c.team)
    simp only [Option.map_map] at h
    refine h.trans ?_
    simp only [State.modAcc, team?_modTeam, and_self, if_true, ht]
    rfl
  · rw [thread?_cmdRetire]
    refine thread?_modTeam_of s core c.team _ ?_ k n l
    intro; rfl
  · rw [hteam, State.modAcc, team?_modTeam, if_neg fun h => hkn h.1 h.2]

/-- A command whose writes all find memory is changed by `f`, and checked for its end. -/
theorem engCommit_ok {s v : State} {core launch : Nat} {c : Cmd} {ws : List EngWrite} (f : Cmd → Cmd)
    (h : s.engWrites core launch c.id (!c.kind.matrix) ws = .ok v) :
    s.engCommit core launch c ws f = (v.modCmd core c.id f).cmdCheck c.id := by
  rw [State.engCommit, h]

/-! ### O45 -/

/-- Settles O45: commands begin, copy and act as `State.engineStep` says, and the five that change an accumulator retire alike. -/
theorem engineCommandsProceed : Obligations.EngineCommandsProceed := by
  unfold Obligations.EngineCommandsProceed
  refine ⟨fun s id len core w c hc hs => ⟨exec_engineCommandBegin hc hs, fun m hm => exec_multicastFetch hc hs hm,
    fun hb hi hlen hw hfree => ?_⟩, fun s id core w c t hc hb hi hfree ht => ?_⟩
  · intro ends
    have runs {u : State} (hk : c.kind.matrix = false) (hu : s.engineStep core w.launch len c = u) : ends u := fun hs =>
      (exec_copyChunkWrite hc hb hi hfree hk hlen hw (hu ▸ hs)).trans (by rw [hu])
    exact ⟨fun h => runs (by rw [h]; rfl) (by rw [State.engineStep, h]), fun h => runs (by rw [h]; rfl) (by rw [State.engineStep, h]),
      fun h => runs (by rw [h]; rfl) (by rw [State.engineStep, h]), fun h => runs (by rw [h]; rfl) (by rw [State.engineStep, h])⟩
  · intro a m b leaves
    have hacc : s.accTile core c = a := by simp only [State.accTile, ht]; rfl
    have retires {f : AccTile → AccTile} (hk : c.kind.matrix = true)
        (hu : s.engineStep core w.launch 0 c = (s.modAcc core c f).cmdRetire c.id) : leaves f :=
      ⟨exec_tensorCommandComplete hc hb hi hfree hk hu, modAcc_retires f ht⟩
    refine ⟨fun h => retires (by rw [h]; rfl) ?_, fun h => retires (by rw [h]; rfl) ?_, fun h => retires (by rw [h]; rfl) ?_,
      fun bs h hread => retires (by rw [h]; rfl) ?_, fun v h hwrite => ?_⟩
    · rw [State.engineStep, h]; simp only [State.doMma, hacc]; rfl
    · rw [State.engineStep, h]; rfl
    · rw [State.engineStep, h]; rfl
    · rw [State.engineStep, h]; simp only [State.doAld]; rw [hread]
    · refine exec_tensorCommandComplete hc hb hi hfree (by rw [h]; rfl) ?_
      rw [State.engineStep, h]
      refine engCommit_ok _ ?_
      rw [hacc, h]
      exact hwrite

end Sys2Proof.Machine

namespace Sys2Proof.Machine

/-! ### SUPPORT: a line that is shaped in place (R96, R103) -/

/-- The scale byte that VQNS writes beside an element: an 8-bit type keeps no block scale, and marks its invalid
elements there (R103). -/
def vqnsScaleByte (ty : Nat) (e : Shaped) : Nat := if ty = 4 then (if e.bad then 0xFF else 0) else e.scale

/-- The line that VQNS makes of the participants' elements, begun with the lowest lane's residue, and the residue after it. -/
def shapedLine (s : State) (gl : List Nat) (ty : Nat) (d a b : BitVec 7) : List Shaped × Nat :=
  shapeLine ty ((s.lane (gl.headD 0)).v b.toNat).toNat (s.vqnsBlocks gl d a)

/-- What VQNS writes into each participant: its element's word into d, the residue after the line into b. -/
def vqnsWrites (r : List Shaped × Nat) (gl : List Nat) (ty : Nat) (d b : BitVec 7) (l : Nat) (x : Thread) : Thread :=
  let e := r.1.getD (gl.idxOf l) ⟨0, 0, false⟩
  (x.setV d.toNat (BitVec.ofNat 32 (e.code + vqnsScaleByte ty e * 256 + ty * 65536))).setV b.toNat (BitVec.ofNat 32 r.2)

/-- VQNS is one write of its participants, from a line that is read before it. -/
theorem vqns_eq (s : State) (gl : List Nat) (ty : Nat) (d a b : BitVec 7) (hgl : gl ≠ []) :
    s.vqns gl ty d a b = s.onLanes gl (vqnsWrites (shapedLine s gl ty d a b) gl ty d b) := by
  cases gl with
  | nil => exact absurd rfl hgl
  | cons l ls => rfl

/-- Where no lane takes part, nothing changes (R103). -/
theorem vqns_nil (s : State) (ty : Nat) (d a b : BitVec 7) : s.vqns [] ty d a b = s := rfl

theorem shapedLine_advance (s : State) (gl : List Nat) (ty : Nat) (d a b : BitVec 7) :
    shapedLine s.advance gl ty d a b = shapedLine s gl ty d a b := by
  simp only [shapedLine, State.vqnsBlocks, v_lane_advance]

/-- Moved on, the participants read what they held at the issue, so the line is that of the issue. -/
theorem vqns_effect (s : State) (g : BitVec 3) (ty : Nat) (d a b : BitVec 7) :
    UnitEffect s (s.advance.vqns (s.guarded g) ty d a b) s
      (lanesWith (s.guarded g) (vqnsWrites (shapedLine s (s.guarded g) ty d a b) (s.guarded g) ty d b)) id := by
  by_cases hgl : s.guarded g = []
  · rw [hgl, vqns_nil, lanesWith_nil]
    exact Effect.advance s
  · rw [vqns_eq _ _ _ _ _ _ hgl, shapedLine_advance]
    exact Effect.lanes (Effect.advance s) rfl _ (mem_guarded s g) _

/-- An instruction that runs VQNS for type `ty` completes where its checks pass; d and b differ where it is well formed
(R105). -/
theorem vqns_completes {s : State} {i : Instr} {g : BitVec 3} {d a b : BitVec 7} (ty : Nat)
    (e : exec i s = .next (s.laneUnit i (s.guarded g) false (bad3 s.curAlloc d a b) false
      (fun s' => s'.vqns (s.guarded g) ty d a b)))
    (hw : i.wf = true) (hr : bad3 s.curAlloc d a b = none) :
    Completes i s s
      (lanesWith (s.guarded g) (vqnsWrites (shapedLine s (s.guarded g) ty d a b) (s.guarded g) ty d b)) id := by
  rw [hr] at e
  exact laneUnit_completes s s i _ _ _ _ e hw (vqns_effect s g ty d a b)

/-- VDQ's words, a and b, are registers of the thread itself. -/
theorem vdq_completes {s : State} {g : BitVec 3} {d a b : BitVec 7} (hr : bad3 s.curAlloc d a b = none) :
    WritesLanes s (.vdq g d a b) g d (fun l _ => vdqVal ((s.lane l).v a.toNat) ((s.lane l).v b.toNat)) := by
  have h := laneSet_effect s (.vdq g d a b) (s.guarded g)
    (fun s l t => t.setV d.toNat (vdqVal ((s.lane l).v a.toNat) ((s.lane l).v b.toNat))) rfl (mem_guarded s g)
  simp only [v_lane_advance] at h
  refine ⟨_, ?_, h⟩
  rw [← hr]
  rfl

/-! ### O7 -/

/-- Settles O7: the three shaping words are one, and VDQ writes each thread by itself. -/
theorem laneQuantisation : Obligations.LaneQuantisation := by
  unfold Obligations.LaneQuantisation
  intro s g d a b hr gl Q
  refine ⟨fun hdb => ?_, vdq_completes hr⟩
  have hw : decide (d ≠ b) = true := decide_eq_true hdb
  exact ⟨vqns_completes 5 rfl hw hr, vqns_completes 6 rfl hw hr, vqns_completes 4 rfl hw hr⟩

end Sys2Proof.Machine

/-! ## Memory and ordering -/

/-! ### Accesses that trap or miss -/

namespace Sys2Proof.Machine

/-- The body of a lane unit that makes an access of each of its lanes: loads and returning atomics, or stores, of which a RED
alone carries an operation. -/
def AccessBody (i : Instr) (gl : List Nat) (addr : Nat → DWord) (n : Nat) (write : Bool) (body : State → State) : Prop :=
  (∃ sc dst, body = fun t => t.laneLoads gl addr n sc write dst)
  ∨ (write = true ∧ ∃ data red, (red = none ∨ ∃ sc op a b, i = .red sc op a b)
      ∧ body = fun t => t.laneStores gl addr data n red)

/-- A state that is a lane unit, its checks passed, with such a body. -/
def AccessUnit (s : State) (i : Instr) (gl : List Nat) (addr : Nat → DWord) (n : Nat) (write : Bool) (u : State) : Prop :=
  ∃ body, AccessBody i gl addr n write body ∧ u = s.laneUnit i gl false none false body

theorem ldForm_unit (s : State) (i : Instr) (g : BitVec 3) (d a sb : BitVec 7) (n : Nat) (signed : Bool)
    (hb : badLm s.curAlloc (if n = 16 then v4Ok s.curAlloc d else if n = 8 then v2Ok s.curAlloc d else vOk s.curAlloc d) d a sb = none) :
    AccessUnit s i (s.guarded g) (fun l => s.lmAddr l a sb) n false (s.ldForm i g d a sb n signed) :=
  ⟨_, .inl ⟨0, fun _ => .lane d.toNat signed, rfl⟩, by simp only [State.ldForm, hb]⟩

theorem stForm_unit (s : State) (i : Instr) (g : BitVec 3) (d a sb : BitVec 7) (n : Nat)
    (hb : badLm s.curAlloc (if n = 16 then v4Ok s.curAlloc d else if n = 8 then v2Ok s.curAlloc d else vOk s.curAlloc d) d a sb = none) :
    AccessUnit s i (s.guarded g) (fun l => s.lmAddr l a sb) n true (s.stForm i g d a sb n) :=
  ⟨_, .inr ⟨rfl, fun l => (s.lane l).dataBytes d.toNat n, none, .inl rfl, rfl⟩, by simp only [State.stForm, hb]⟩

theorem atomForm_unit (s : State) (i : Instr) (sc : BitVec 2) (d a b : BitVec 7) (op : Nat)
    (hb : firstBad [(vOk s.curAlloc d, 0, d.toNat), (v2Ok s.curAlloc a, 1, a.toNat), (vOk s.curAlloc b, 2, b.toNat)] = none) :
    AccessUnit s i s.subset (fun l => (s.lane l).v2 a.toNat) 4 true (s.atomForm i sc d a b op) :=
  ⟨_, .inl ⟨sc.toNat, fun l => .atom d.toNat op ((s.lane l).v b.toNat), rfl⟩, by simp only [State.atomForm, hb]⟩

theorem casForm_unit (s : State) (i : Instr) (sc : BitVec 2) (d a b : BitVec 7) (n : Nat)
    (hb : firstBad [(if n = 8 then v2Ok s.curAlloc d else vOk s.curAlloc d, 0, d.toNat), (v2Ok s.curAlloc a, 1, a.toNat),
      (if n = 8 then v2Ok s.curAlloc b else vOk s.curAlloc b, 2, b.toNat)] = none) :
    AccessUnit s i s.subset (fun l => (s.lane l).v2 a.toNat) n true (s.casForm i sc d a b n) := by
  let val := fun (l : Nat) (x : BitVec 7) => if n = 8 then (s.lane l).v2 x.toNat else ((s.lane l).v x.toNat).zeroExtend 64
  exact ⟨_, .inl ⟨sc.toNat, fun l => .cas d.toNat (val l d) (val l b), rfl⟩, by simp only [State.casForm, hb]; rfl⟩

/-- A lane word that makes accesses, with legal registers, is a unit with such a body. -/
theorem exec_accessUnit (s : State) (i : Instr) (hb : firstBad (regFields s.curAlloc (s.hdr s.cur.core).accs i) = none)
    {addr : Nat → DWord} {n : Nat} {write : Bool} (ha : laneAccessOf s i = some (addr, n, write)) :
    i.wf = true ∧ ∃ u, AccessUnit s i (executing s i) addr n write u ∧ exec i s = .next u := by
  cases i with
  | ldB g d a sb => cases ha; exact ⟨rfl, _, ldForm_unit s _ g d a sb 1 false hb, rfl⟩
  | ldSb g d a sb => cases ha; exact ⟨rfl, _, ldForm_unit s _ g d a sb 1 true hb, rfl⟩
  | ldH g d a sb => cases ha; exact ⟨rfl, _, ldForm_unit s _ g d a sb 2 false hb, rfl⟩
  | ldSh g d a sb => cases ha; exact ⟨rfl, _, ldForm_unit s _ g d a sb 2 true hb, rfl⟩
  | ldW g d a sb => cases ha; exact ⟨rfl, _, ldForm_unit s _ g d a sb 4 false hb, rfl⟩
  | ldD g d a sb => cases ha; exact ⟨rfl, _, ldForm_unit s _ g d a sb 8 false hb, rfl⟩
  | ldQ g d a sb => cases ha; exact ⟨rfl, _, ldForm_unit s _ g d a sb 16 false hb, rfl⟩
  | stB g d a sb => cases ha; exact ⟨rfl, _, stForm_unit s _ g d a sb 1 hb, rfl⟩
  | stH g d a sb => cases ha; exact ⟨rfl, _, stForm_unit s _ g d a sb 2 hb, rfl⟩
  | stW g d a sb => cases ha; exact ⟨rfl, _, stForm_unit s _ g d a sb 4 hb, rfl⟩
  | stD g d a sb => cases ha; exact ⟨rfl, _, stForm_unit s _ g d a sb 8 hb, rfl⟩
  | stQ g d a sb => cases ha; exact ⟨rfl, _, stForm_unit s _ g d a sb 16 hb, rfl⟩
  | atomAdd sc d a b => cases ha; exact ⟨rfl, _, atomForm_unit s _ sc d a b 0 hb, rfl⟩
  | atomFadd sc d a b => cases ha; exact ⟨rfl, _, atomForm_unit s _ sc d a b 1 hb, rfl⟩
  | atomMin sc d a b => cases ha; exact ⟨rfl, _, atomForm_unit s _ sc d a b 2 hb, rfl⟩
  | atomMax sc d a b => cases ha; exact ⟨rfl, _, atomForm_unit s _ sc d a b 3 hb, rfl⟩
  | atomAnd sc d a b => cases ha; exact ⟨rfl, _, atomForm_unit s _ sc d a b 4 hb, rfl⟩
  | atomOr sc d a b => cases ha; exact ⟨rfl, _, atomForm_unit s _ sc d a b 5 hb, rfl⟩
  | atomXor sc d a b => cases ha; exact ⟨rfl, _, atomForm_unit s _ sc d a b 6 hb, rfl⟩
  | atomExch sc d a b => cases ha; exact ⟨rfl, _, atomForm_unit s _ sc d a b 7 hb, rfl⟩
  | casW sc d a b => cases ha; exact ⟨rfl, _, casForm_unit s _ sc d a b 4 hb, rfl⟩
  | casD sc d a b => cases ha; exact ⟨rfl, _, casForm_unit s _ sc d a b 8 hb, rfl⟩
  | red sc op a b =>
    cases ha
    refine ⟨rfl, _, ⟨_, .inr ⟨rfl, fun l => toBytes 4 ((s.lane l).v b.toNat).toNat, some (op.toNat, sc.toNat),
      .inr ⟨sc, op, a, b, rfl⟩, rfl⟩, rfl⟩, ?_⟩
    show execRed sc op a b s = _
    simp only [execRed, show firstBad [(v2Ok s.curAlloc a, 1, a.toNat), (vOk s.curAlloc b, 2, b.toNat)] = none from hb]
    rfl
  | _ => cases ha

/-- Lanes whose accesses all fail a check trap. -/
theorem accessUnit_traps {s : State} {i : Instr} {gl : List Nat} {addr : Nat → DWord} {n : Nat} {write : Bool} {u : State}
    (hw : i.wf = true) (he : exec i s = .next u) (hu : AccessUnit s i gl addr n write u) (hn : gl.Nodup)
    (hs : ∀ l ∈ gl, l ∈ s.subset) (code : Nat → Nat) (hk : ∀ l ∈ gl, accessTrap s (addr l) n write = some (code l)) :
    TrapsEach s i 1 gl code (fun l => loWord (addr l)) write := by
  intro ho
  obtain ⟨body, hbody, rfl⟩ := hu
  refine laneUnit_completes s _ i gl body _ _ he hw ?_
  rcases hbody with ⟨sc, dst, rfl⟩ | ⟨rfl, data, red, -, rfl⟩
  · exact loads_trap s gl addr n sc write dst code hn hs ho hk
  · exact stores_trap s gl addr data n red code hn hs ho hk

/-- Lanes whose accesses no TLB translates ask for walks and are held, in a word that is no RED. -/
theorem accessUnit_misses {s : State} {i : Instr} {gl : List Nat} {addr : Nat → DWord} {n : Nat} {write : Bool} {u : State}
    (hw : i.wf = true) (he : exec i s = .next u) (hu : AccessUnit s i gl addr n write u) (hn : gl.Nodup)
    (hs : ∀ l ∈ gl, l ∈ s.subset) (hr : ∀ sc op a b, i ≠ .red sc op a b)
    (hk : ∀ l ∈ gl, (s.thread? s.cur.core s.cur.team l).isSome = true ∧ accessMisses s (addr l) n write) :
    Completes i s (walksFor s addr gl) (lanesWith gl (fun l => heldAt s (.walk (missOfUnit s (addr l) write false)))) id := by
  obtain ⟨body, hbody, rfl⟩ := hu
  refine laneUnit_completes s _ i gl body _ _ he hw ?_
  rcases hbody with ⟨sc, dst, rfl⟩ | ⟨rfl, data, red, hred, rfl⟩
  · exact loads_miss s gl addr n sc write dst hn hs hk
  · obtain rfl : red = none := by
      rcases hred with h | ⟨sc, op, a, b, h⟩
      · exact h
      · exact absurd h (hr sc op a b)
    exact stores_miss s gl addr data n hn hs hk

theorem sldForm_unit (s : State) (i : Instr) (g : BitVec 3) (d a imm : BitVec 7) (n : Nat) (hg : s.guardU g = true)
    (hb : firstBad [(if n = 8 then s2Ok d else sOk d, 0, d.toNat), (s2Ok a, 1, a.toNat)] = none) :
    ∃ go, s.sldForm i g d a imm n = s.unifUnit i true none false (fun t => t.unifAccess (s.ulAddr a imm) n false go) :=
  ⟨fun t key => t.unifLoad key n (.unif d.toNat) (s.ulAddr a imm), by simp only [State.sldForm, hg, hb]⟩

theorem sstForm_unit (s : State) (i : Instr) (g : BitVec 3) (d a imm : BitVec 7) (n : Nat) (hg : s.guardU g = true)
    (hb : firstBad [(if n = 8 then s2Ok d else sOk d, 0, d.toNat), (s2Ok a, 1, a.toNat)] = none) :
    ∃ go, s.sstForm i g d a imm n = s.unifUnit i true none false (fun t => t.unifAccess (s.ulAddr a imm) n true go) :=
  ⟨fun t key => t.unifStore key ((toBytes 8 (s.team.sr2 d.toNat).toNat).take n) (s.ulAddr a imm), by
    simp only [State.sstForm, hg, hb]⟩

/-- A uniform load or store with legal registers, its guard true, is a unit that makes one access. -/
theorem exec_unifAccess (s : State) (i : Instr) (hb : firstBad (regFields s.curAlloc (s.hdr s.cur.core).accs i) = none)
    {addr : DWord} {n : Nat} {write : Bool} (ha : unifAccessOf s i = some (addr, n, write)) (hx : executes s i = true) :
    i.wf = true ∧ ∃ u, exec i s = .next u
      ∧ ∃ go, u = s.unifUnit i true none false (fun t => t.unifAccess addr n write go) := by
  cases i with
  | sldW g d a imm => cases ha; exact ⟨rfl, _, rfl, sldForm_unit s _ g d a imm 4 hx hb⟩
  | sldD g d a imm => cases ha; exact ⟨rfl, _, rfl, sldForm_unit s _ g d a imm 8 hx hb⟩
  | sstW g d a imm => cases ha; exact ⟨rfl, _, rfl, sstForm_unit s _ g d a imm 4 hx hb⟩
  | sstD g d a imm => cases ha; exact ⟨rfl, _, rfl, sstForm_unit s _ g d a imm 8 hx hb⟩
  | _ => cases ha

/-- Settles O12: each word that makes accesses is a unit whose body makes them, and the accesses that trap or miss are folded over
the lanes. -/
theorem accessTrapsAndMisses : Obligations.AccessTrapsAndMisses := by
  unfold Obligations.AccessTrapsAndMisses
  intro s i hb
  refine ⟨fun addr n write ha => ?_, fun addr n write ha hx => ?_⟩
  · obtain ⟨hw, u, hu, he⟩ := exec_accessUnit s i hb ha
    exact ⟨accessUnit_traps hw he hu (executing_nodup s i) (executing_subset s i),
      accessUnit_misses hw he hu (executing_nodup s i) (executing_subset s i)⟩
  · obtain ⟨hw, u, he, go, rfl⟩ := exec_unifAccess s i hb ha hx
    exact ⟨fun code hk ho => unifUnit_completes s _ i _ _ _ he hw (unif_access_traps s addr n write go code ho hk),
      fun hk => unifUnit_completes s _ i _ _ _ he hw (unif_access_misses s addr n write go hk)⟩

end Sys2Proof.Machine

/-! ### What clocks, fences and acquires leave -/

namespace Sys2Proof.Machine

/-- Sends of clocks change the channels and their numbers alone. -/
theorem sendClock_eq (s : State) (d : Nat) : ∃ c q, s.sendClock d = { s with chans := s.chans ++ c, chanSeq := q } := by
  have key : ∀ (js : List Nat) (t : State), (∃ c q, t = { s with chans := s.chans ++ c, chanSeq := q }) →
      ∃ c q, js.foldl (fun t j => t.send d j .clock) t = { s with chans := s.chans ++ c, chanSeq := q } := by
    intro js
    induction js with
    | nil => exact fun t h => h
    | cons j js ih =>
      rintro t ⟨c, q, rfl⟩
      exact ih _ ⟨c ++ [_], _, by simp only [State.send, List.append_assoc]; rfl⟩
  exact key _ s ⟨[], s.chanSeq, by rw [List.append_nil]⟩

/-- A merge of a stamp changes a clock, and what is sent of it. -/
theorem mergeStamp_eq (s : State) (d : Nat) (v : List Word) :
    ∃ m c q, s.mergeStamp d v = { s with vc := m, chans := s.chans ++ c, chanSeq := q } := by
  unfold State.mergeStamp
  split
  · exact ⟨s.vc, [], s.chanSeq, by rw [List.append_nil]⟩
  · obtain ⟨c, q, h⟩ := sendClock_eq (s.mergeOnly d v) d
    exact ⟨_, c, q, h⟩

/-- A fence that completes is forgotten; an acquire beyond BLOCK scope drops the views of its core and its cluster; the clock takes over
the stamp; and the threads that waited for it are ready. -/
theorem finishFence_eq (s : State) (f : FenceReq) : ∃ m c q, s.finishFence f = ({ s with
    fences := s.fences.filter (fun g => g.id ≠ f.id)
    l1 := if f.acq && 1 ≤ f.scope then s.l1.filter (fun e => viewUnit e.1 ≠ f.core) else s.l1
    caview := if f.acq && 1 ≤ f.scope then s.caview.filter (fun e => viewUnit e.1 ≠ clusterOf f.core) else s.caview
    vc := m, chans := s.chans ++ c, chanSeq := q } : State).setWaits f.core (fun t => t.wait = .fence f.id) .ready := by
  unfold State.finishFence
  extract_lets s1 v1 s2 s3
  have h2 : s2 = { s with
      fences := s.fences.filter (fun g => g.id ≠ f.id)
      l1 := if f.acq && 1 ≤ f.scope then s.l1.filter (fun e => viewUnit e.1 ≠ f.core) else s.l1
      caview := if f.acq && 1 ≤ f.scope then s.caview.filter (fun e => viewUnit e.1 ≠ clusterOf f.core) else s.caview } := by
    show (if f.acq && decide (1 ≤ f.scope) then _ else s1 : State) = _
    split <;> rfl
  have h3 : ∃ m c q, s3 = { s2 with vc := m, chans := s2.chans ++ c, chanSeq := q } := by
    show ∃ m c q, (if f.stamp.isEmpty then s2 else s2.mergeStamp (coreDie f.core) f.stamp : State) = _
    split
    · exact ⟨s2.vc, [], s2.chanSeq, by rw [List.append_nil]⟩
    · exact mergeStamp_eq s2 (coreDie f.core) f.stamp
  obtain ⟨m, c, q, h3⟩ := h3
  exact ⟨m, c, q, by rw [h3, h2]⟩

theorem thread?_finishFence (s : State) (f : FenceReq) (c n l : Nat) :
    (s.finishFence f).thread? c n l
      = (s.thread? c n l).map (fun x => if c = f.core ∧ x.wait = .fence f.id then { x with wait := .ready } else x) := by
  obtain ⟨m, k, q, e⟩ := finishFence_eq s f
  rw [e, thread?_setWaits]
  simp only [decide_eq_true_eq]
  rfl

theorem finishFence_fences (s : State) (f : FenceReq) : (s.finishFence f).fences = s.fences.filter (fun g => g.id ≠ f.id) := by
  obtain ⟨m, k, q, e⟩ := finishFence_eq s f
  rw [e]
  rfl

/-- An acquire beyond BLOCK scope leaves nothing in its core's L1 view and in its cluster's atomic view (R123). -/
theorem finishFence_views (s : State) (f : FenceReq) (ha : f.acq = true) (hs : 1 ≤ f.scope) :
    (∀ e ∈ (s.finishFence f).l1, viewUnit e.1 ≠ f.core) ∧ ∀ e ∈ (s.finishFence f).caview, viewUnit e.1 ≠ clusterOf f.core := by
  have hacq : (f.acq && decide (1 ≤ f.scope)) = true := by simp [ha, hs]
  obtain ⟨m, k, q, e⟩ := finishFence_eq s f
  rw [hacq, if_pos rfl, if_pos rfl] at e
  rw [e]
  exact ⟨fun x hx => of_decide_eq_true (List.mem_filter.1 hx).2, fun x hx => of_decide_eq_true (List.mem_filter.1 hx).2⟩

/-- The state in which threads of a core have begun a fence. -/
theorem thread?_startFence (s : State) (core uid : Nat) (tids : List Nat) (scope : Nat) (rel acq : Bool) (v : List Word)
    (c n l : Nat) : (s.startFence core uid tids scope rel acq v).thread? c n l
      = (s.thread? c n l).map (fun x => if c = core ∧ x.tid ∈ tids then { x with wait := .fence s.nextSeq } else x) := by
  unfold State.startFence
  dsimp only
  rw [thread?_setWaits]
  simp only [List.contains_iff_mem]
  rfl

/-- Whether an acquire may complete is asked of the loads and of the effects due as they stood before it. -/
theorem fenceEnabled_startFence (s : State) (core uid : Nat) (tids : List Nat) (scope : Nat) (v : List Word) :
    (s.startFence core uid tids scope false true v).fenceEnabled ⟨s.nextSeq, core, uid, tids ++ [uid], scope, false, true, v⟩ = true
      ↔ (∀ a ∈ s.loads, a.agent ∈ tids ∨ a.agent = uid → s.nextSeq ≤ a.id)
        ∧ ¬ (v ≠ [] ∧ s.dueBefore (coreDie core) v none = true) := by
  have hl : (s.startFence core uid tids scope false true v).loadsDone ⟨s.nextSeq, core, uid, tids ++ [uid], scope, false, true, v⟩
      = true ↔ ∀ a ∈ s.loads, a.agent ∈ tids ∨ a.agent = uid → s.nextSeq ≤ a.id := by
    have e : (s.startFence core uid tids scope false true v).loads = s.loads := rfl
    simp [State.loadsDone, e]
  have hd : (s.startFence core uid tids scope false true v).dueBefore (coreDie core) v none = s.dueBefore (coreDie core) v none := rfl
  rw [State.fenceEnabled, hd]
  simp only [Bool.and_eq_true, hl, Bool.or_eq_true, Bool.not_eq_true', List.isEmpty_iff, Bool.not_false, true_or, and_true]
  rw [not_and_or, not_not, Bool.not_eq_true]

theorem acquire_eq (s : State) (core uid : Nat) (tids : List Nat) (scope : Nat) (v : List Word) :
    let f : FenceReq := ⟨s.nextSeq, core, uid, tids ++ [uid], scope, false, true, v⟩
    let t := s.startFence core uid tids scope false true v
    s.acquire core uid tids scope v = if t.fenceEnabled f then t.finishFence f else t := rfl

/-! ### Fences begin, and acquires -/

/-- Settles O26: the unit begins a fence of the subset; an acquire is a fence that completes at once where it may. -/
theorem fencesBeginAndAcquire : Obligations.FencesBeginAndAcquire := by
  unfold Obligations.FencesBeginAndAcquire
  refine ⟨fun s g sc k hg hk => ?_, fun s core uid names scope n l x v hx hn => ⟨fun hl hd => ?_, fun hb => ?_⟩⟩
  · have hw : (Instr.fence g sc k).wf = true := by simpa [Instr.wf] using hk
    have he : exec (.fence g sc k) s = .next (s.advance.startFence s.cur.core s.team.uid s.subsetTids sc.toNat (k.toNat ≠ 0)
        (k.toNat ≠ 1) []).endIssue := by
      show execFence g sc k s = _
      rw [execFence, hg, unifUnit_ok _ _ _ hw, uid_team_advance, subsetTids_advance, cur_advance]
    let f : FenceReq := ⟨s.nextSeq, s.cur.core, s.team.uid, s.subsetTids ++ [s.team.uid], sc.toNat, k.toNat ≠ 0, k.toNat ≠ 1, []⟩
    have hf : UnitEffect s { s.advance.bump with fences := s.fences ++ [f] } _ (fun _ x => x) id :=
      Effect.outside (Effect.advance s) _ rfl
    exact ⟨_, he, wait_ends (wait_effect hf s.subsetTids (.fence s.nextSeq))⟩
  · have hen := (fenceEnabled_startFence s core uid names scope v).2 ⟨hl, hd⟩
    rw [acquire_eq, if_pos hen]
    refine ⟨?_, fun hs => (finishFence_views _ _ rfl hs).1⟩
    rw [thread?_finishFence, thread?_startFence, hx]
    simp [hn]
  · have hen : ¬ _ := mt (fenceEnabled_startFence s core uid names scope v).1 (by
      rintro ⟨hl, hd⟩
      rcases hb with ⟨a, ha, hag, hlt⟩ | hb
      · exact absurd (hl a ha hag) (by omega)
      · exact hd hb)
    rw [acquire_eq, if_neg hen]
    refine ⟨?_, ?_⟩
    · rw [thread?_startFence, hx]
      simp [hn]
    · exact List.mem_append_right _ (List.mem_singleton_self _)

end Sys2Proof.Machine

/-! ### Checks of the synchronising instructions, and waits that are over -/

namespace Sys2Proof.Machine

/-- A uniform unit that ends in a trap of its subset. -/
theorem unif_trapsLanes {s : State} {i : Instr} {code : Nat} {v : Word}
    (e : exec i s = .next (s.advance.trapLanes s.subset code v true false false).endIssue) : TrapsLanes s i s.subset code v true false :=
  fun ho => ⟨_, e, trapUnif_effect s code v ho⟩

/-- Legal registers pass their checks. -/
theorem firstBad_two {p q : Bool} (hp : p = true) (hq : q = true) (i j m n : Nat) : firstBad [(p, i, m), (q, j, n)] = none := by
  rw [hp, hq]
  rfl

theorem onLanes_congr (s : State) (ls : List Nat) {f g : Nat → Thread → Thread} (h : ∀ l ∈ ls, ∀ t, f l t = g l t) :
    s.onLanes ls f = s.onLanes ls g := by
  unfold State.onLanes State.modLanes
  congr 1
  funext m
  congr 1
  refine List.map_congr_left fun e _ => ?_
  split
  · next he => rw [h e.1 (List.contains_iff_mem.1 he)]
  · rfl

theorem uid_team_onLanes (s : State) (ls : List Nat) (f : Nat → Thread → Thread) : (s.onLanes ls f).team.uid = s.team.uid := by
  show (((s.onLanes ls f).team? s.cur.core s.cur.team).getD Team.empty).uid = ((s.team? s.cur.core s.cur.team).getD Team.empty).uid
  unfold State.onLanes State.modLanes
  rw [team?_modTeam, if_pos ⟨rfl, rfl⟩]
  cases s.team? s.cur.core s.cur.team <;> rfl

theorem waitPasses_lane_advance (s : State) (l : Nat) (k : BarKey) (p : Nat) :
    (s.advance.lane l).waitPasses k p = (s.lane l).waitPasses k p := by
  simp only [Thread.waitPasses, Thread.lastArrival, arrived_lane_advance]

/-- A barrier of cluster level needs CLUSTER = 1. -/
theorem barUnit_unclustered {s : State} {i : Instr} {g : BitVec 3} {body : State → State} (hw : i.wf = true) (hg : s.guardU g = true)
    (hc : (s.hdr s.cur.core).cluster = false) :
    s.barUnit i g 2 body = (s.advance.trapLanes s.subset 0x01 i.word true false false).endIssue := by
  unfold State.barUnit
  rw [hg, unifUnit_ok _ _ _ hw]
  exact congrArg State.endIssue (if_pos (by rw [cur_advance, hdr_advance, hc]; rfl))

theorem barWord_unclustered {s : State} {g : BitVec 3} {n : BitVec 5} (d : BitVec 7) (hg : s.guardU g = true) (hn : barNumOk 2 n = true)
    (hc : (s.hdr s.cur.core).cluster = false) :
    TrapsLanes s (.barSync g 2 n) s.subset 0x01 (Instr.barSync g 2 n).word true false
    ∧ TrapsLanes s (.barArv g 2 n) s.subset 0x01 (Instr.barArv g 2 n).word true false
    ∧ TrapsLanes s (.barWait g 2 n) s.subset 0x01 (Instr.barWait g 2 n).word true false
    ∧ TrapsLanes s (.barQry g 2 n d) s.subset 0x01 (Instr.barQry g 2 n d).word true false := by
  refine ⟨unif_trapsLanes (congrArg _ (barUnit_unclustered (i := .barSync g 2 n) hn hg hc)),
    unif_trapsLanes (congrArg _ (barUnit_unclustered (i := .barArv g 2 n) hn hg hc)),
    unif_trapsLanes (congrArg _ (barUnit_unclustered (i := .barWait g 2 n) hn hg hc)), unif_trapsLanes ?_⟩
  show execBarQry g 2 n d s = _
  unfold execBarQry
  dsimp only
  rw [hg, unifUnit_ok _ (.barQry g 2 n d) _ hn]
  exact congrArg (fun u : State => Host.Outcome.next u.endIssue) (if_pos (by rw [cur_advance, hdr_advance, hc]; rfl))

/-- The checks of an arrival word's offset (R306). -/
theorem awUnit_traps {s : State} {i : Instr} {g : BitVec 3} {a : BitVec 7} {body : State → Nat → State} {code : Nat}
    (hw : i.wf = true) (hg : s.guardU g = true)
    (hk : (s.team.sr a.toNat).toNat % 8 ≠ 0 ∧ code = 0x03
      ∨ (s.team.sr a.toNat).toNat % 8 = 0 ∧ s.scratchBytes s.cur.core < (s.team.sr a.toNat).toNat + 8 ∧ code = 0x04) :
    s.awUnit i g a none body = (s.advance.trapLanes s.subset code (s.team.sr a.toNat) true false false).endIssue := by
  unfold State.awUnit
  dsimp only
  rw [hg, unifUnit_ok _ _ _ hw, cur_advance, scratchBytes_advance, BitVec.ofNat_toNat, BitVec.setWidth_eq]
  rcases hk with ⟨h8, rfl⟩ | ⟨h8, hs, rfl⟩
  · exact congrArg State.endIssue (if_pos h8)
  · rw [if_neg (by omega), if_pos hs]
    rfl

/-- The address checks of SEAL and UNSEAL (R387). -/
theorem sealForm_traps {s : State} {i : Instr} {g : BitVec 3} {a b : BitVec 7} {unsl : Bool} {code : Nat} (hw : i.wf = true)
    (hg : s.guardU g = true) (ha : s2Ok a = true) (hb : sOk b = true)
    (hk : (s.team.sr2 a.toNat).toNat % 0x20000 ≠ 0 ∧ code = 0x03
      ∨ (s.team.sr2 a.toNat).toNat % 0x20000 = 0 ∧ (2 ^ 57 ≤ (s.team.sr2 a.toNat).toNat ∨ (s.team.sr2 a.toNat).toNat / 2 ^ 48 = 0x1FF
        ∨ 2 ^ 57 < (s.team.sr2 a.toNat).toNat + 0x20000 * (s.team.sr b.toNat).toNat) ∧ code = 0x04) :
    s.sealForm i g a b unsl = (s.advance.trapLanes s.subset code (loWord (s.team.sr2 a.toNat)) true false false).endIssue := by
  unfold State.sealForm
  dsimp only
  rw [hg, firstBad_two ha hb, unifUnit_ok _ _ _ hw]
  rcases hk with ⟨h, rfl⟩ | ⟨h, hr, rfl⟩
  · exact congrArg State.endIssue (if_pos h)
  · have hlt := (s.team.sr2 a.toNat).isLt
    have hbad : (nbits (s.team.sr2 a.toNat).toNat 63 57 ≠ 0 || nbits (s.team.sr2 a.toNat).toNat 56 48 = 0x1FF
        || 2 ^ 57 < (s.team.sr2 a.toNat).toNat + 131072 * (s.team.sr b.toNat).toNat) = true := by
      simp only [Bool.or_eq_true, decide_eq_true_eq]
      unfold nbits
      omega
    rw [if_neg (by omega)]
    exact congrArg State.endIssue (if_pos hbad)

/-- WAITM is a uniform unit, which ends where its access meets a place without memory. -/
theorem waitm_trapsLanes {s : State} {g : BitVec 3} {c : BitVec 4} {a b : BitVec 7} {code : Nat} {v : Word} (hs : s.stop = none)
    (hx : execWaitm g c a b s = finish (s.advance.trapLanes s.subset code v true false false).endIssue) :
    TrapsLanes s (.waitm g c a b) s.subset code v true false := fun ho =>
  have he := trapUnif_effect s code v ho
  ⟨_, finish_next _ _ hx ((stop_of_effect he).trans hs), he⟩

/-- The body of WAITM's unit checks the address for its place, then for its alignment (R422). -/
theorem execWaitm_unit (g : BitVec 3) (c : BitVec 4) (a b : BitVec 7) (s : State) : ∃ body,
    execWaitm g c a b s = finish (s.unifUnit (.waitm g c a b) (s.guardU g) (firstBad [(s2Ok a, 1, a.toNat), (sOk b, 2, b.toNat)])
      false body)
    ∧ (∀ t : State, t.place t.cur.core (s.team.sr2 a.toNat) 4 = .invalid →
      body t = t.trapLanes t.subset 0x04 (loWord (s.team.sr2 a.toNat)) true false false)
    ∧ ∀ t : State, t.place t.cur.core (s.team.sr2 a.toNat) 4 ≠ .invalid → (s.team.sr2 a.toNat).toNat % 4 ≠ 0 →
      body t = t.trapLanes t.subset 0x03 (loWord (s.team.sr2 a.toNat)) true false false := by
  refine ⟨_, rfl, fun t h => by rw [h], fun t h h4 => ?_⟩
  cases hp : t.place t.cur.core (s.team.sr2 a.toNat) 4 with
  | invalid => exact absurd hp h
  | window key => exact if_pos h4
  | virt va => exact if_pos h4

theorem waitm_invalid {s : State} {g : BitVec 3} {c : BitVec 4} {a b : BitVec 7} (hg : s.guardU g = true) (hc : intCondOk c = true)
    (ha : s2Ok a = true) (hb : sOk b = true) (hp : s.place s.cur.core (s.team.sr2 a.toNat) 4 = .invalid) :
    execWaitm g c a b s = finish (s.advance.trapLanes s.subset 0x04 (loWord (s.team.sr2 a.toNat)) true false false).endIssue := by
  obtain ⟨body, he, hinvalid, -⟩ := execWaitm_unit g c a b s
  rw [he, hg, firstBad_two ha hb, unifUnit_ok _ (.waitm g c a b) _ hc, hinvalid _ (by rw [cur_advance, place_advance]; exact hp),
    subset_advance]

theorem waitm_misaligned {s : State} {g : BitVec 3} {c : BitVec 4} {a b : BitVec 7} (hg : s.guardU g = true) (hc : intCondOk c = true)
    (ha : s2Ok a = true) (hb : sOk b = true) (hp : s.place s.cur.core (s.team.sr2 a.toNat) 4 ≠ .invalid)
    (h4 : (s.team.sr2 a.toNat).toNat % 4 ≠ 0) :
    execWaitm g c a b s = finish (s.advance.trapLanes s.subset 0x03 (loWord (s.team.sr2 a.toNat)) true false false).endIssue := by
  obtain ⟨body, he, -, hmisaligned⟩ := execWaitm_unit g c a b s
  rw [he, hg, firstBad_two ha hb, unifUnit_ok _ (.waitm g c a b) _ hc,
    hmisaligned _ (by rw [cur_advance, place_advance]; exact hp) h4, subset_advance]

/-- The checks of a queue instruction read what its unit leaves (R372). -/
theorem queueTrap_advance (s : State) (h : Word) (off : Nat) (long : Bool) : s.advance.queueTrap h off long = s.queueTrap h off long := by
  unfold State.queueTrap
  rw [cur_advance, scratchBytes_advance]
  rfl

theorem queueForm_traps {s : State} {i : Instr} {g : BitVec 3} {d a : BitVec 7} {op : Nat} {long : Bool} {code : Nat} {v : Word}
    (hw : i.wf = true) (hg : s.guardU g = true) (hd : sOk d = true) (ha : (if long then sOk a else s2Ok a) = true)
    (hk : s.queueTrap (s.team.sr d.toNat) (s.team.sr a.toNat).toNat long = some (code, v)) :
    s.queueForm i g d a op long = (s.advance.trapLanes s.subset code v true false false).endIssue := by
  unfold State.queueForm
  dsimp only
  rw [hg, firstBad_two hd ha, unifUnit_ok _ _ _ hw, queueTrap_advance, hk]
  rfl

/-- Each queue instruction of a length traps with the check that fails first. -/
theorem queueWords_trap {s : State} {g : BitVec 3} {d a : BitVec 7} (hg : s.guardU g = true) (hd : sOk d = true) {code : Nat}
    {v : Word} {long : Bool} (hk : s.queueTrap (s.team.sr d.toNat) (s.team.sr a.toNat).toNat long = some (code, v)) :
    if long then sOk a = true → TrapsLanes s (.qpushL g d a) s.subset code v true false
        ∧ TrapsLanes s (.qpopL g d a) s.subset code v true false ∧ TrapsLanes s (.qtryL g d a) s.subset code v true false
    else s2Ok a = true → TrapsLanes s (.qpushD g d a) s.subset code v true false
        ∧ TrapsLanes s (.qpopD g d a) s.subset code v true false ∧ TrapsLanes s (.qtryD g d a) s.subset code v true false := by
  cases long with
  | true => exact fun ha => ⟨unif_trapsLanes (congrArg _ (queueForm_traps (i := .qpushL g d a) (op := 0) (long := true) rfl hg hd ha hk)),
      unif_trapsLanes (congrArg _ (queueForm_traps (i := .qpopL g d a) (op := 1) (long := true) rfl hg hd ha hk)),
      unif_trapsLanes (congrArg _ (queueForm_traps (i := .qtryL g d a) (op := 2) (long := true) rfl hg hd ha hk))⟩
  | false => exact fun ha => ⟨unif_trapsLanes (congrArg _ (queueForm_traps (i := .qpushD g d a) (op := 0) (long := false) rfl hg hd ha hk)),
      unif_trapsLanes (congrArg _ (queueForm_traps (i := .qpopD g d a) (op := 1) (long := false) rfl hg hd ha hk)),
      unif_trapsLanes (congrArg _ (queueForm_traps (i := .qtryD g d a) (op := 2) (long := false) rfl hg hd ha hk))⟩

theorem queueTrap_misaligned (s : State) (h x : Word) (hx : x.toNat % 64 ≠ 0) : s.queueTrap h x.toNat true = some (0x03, x) := by
  simp [State.queueTrap, hx]

theorem queueTrap_outside (s : State) (h x : Word) (hx : x.toNat % 64 = 0) (hs : s.scratchBytes s.cur.core < x.toNat + 64) :
    s.queueTrap h x.toNat true = some (0x04, x) := by
  simp [State.queueTrap, hx, hs]

/-- A queue instruction whose place passes is checked for its queue, the queue's entries and its scope. -/
theorem queueTrap_placed {s : State} {h : Word} {off : Nat} {long : Bool}
    (hp : long = true → off % 64 = 0 ∧ off + 64 ≤ s.scratchBytes s.cur.core) :
    s.queueTrap h off long = match kvGet s.hwqs (h.toNat % 2 ^ 31) with
      | none => some (0x0B, h)
      | some q =>
        if 4096 ≤ h.toNat % 2 ^ 31 || q.long ≠ long then some (0x0B, h)
        else if !q.inScope s.cur.core then some (0x0C, BitVec.ofNat 32 (h.toNat % 2 ^ 31)) else none := by
  unfold State.queueTrap
  cases long with
  | false => rfl
  | true =>
    obtain ⟨h64, hs⟩ := hp rfl
    rw [if_neg (by simp [h64]), if_neg (by simp only [Bool.true_and, decide_eq_true_eq]; omega)]
    rfl

/-- BAR.WAIT of threads that all pass ends as an acquire (R314). -/
theorem barWait_passes {s : State} {g : BitVec 3} {lvl : BitVec 2} {n : BitVec 5} (hg : s.guardU g = true) (hn : barNumOk lvl n = true)
    (hc : lvl = 2 → (s.hdr s.cur.core).cluster = true) (ht : lvl ≠ 0 → s.told = false) (hs : s.subset ≠ [])
    (hp : ∀ l ∈ s.subset, (s.lane l).waitPasses (barKeyOf lvl.toNat n.toNat)
      (s.barrier s.cur.core s.cur.team (barKeyOf lvl.toNat n.toNat)).phase = true) :
    let k := barKeyOf lvl.toNat n.toNat
    let u := s.advance.onLanes s.subset (fun _ t => t.markWaited k)
    exec (.barWait g lvl n) s = .next (u.acquire s.cur.core s.team.uid s.subsetTids k.scope (u.barStamp s.cur.core s.cur.team k)).endIssue := by
  intro k u
  have hpass : s.advance.subset.filter (fun l => (s.advance.lane l).waitPasses k
      (s.advance.barrier s.advance.cur.core s.advance.cur.team k).phase) = s.subset := by
    refine List.filter_eq_self.2 fun l hl => ?_
    rw [waitPasses_lane_advance, cur_advance, barrier_advance]
    exact hp l hl
  have hmark : s.advance.onLanes s.subset (fun l t => if s.subset.contains l then t.markWaited k
      else { t.markWaited k with wait := .barrier k (s.advance.barrier s.advance.cur.core s.advance.cur.team k).phase }) = u :=
    onLanes_congr _ _ fun l hl t => if_pos (List.contains_iff_mem.2 hl)
  have htids : s.subset.map (fun l => (s.advance.lane l).tid) = s.subsetTids := subsetTids_advance s
  have hne : ¬ s.subsetTids.isEmpty = true := by
    rw [List.isEmpty_iff]
    simpa [State.subsetTids] using hs
  have huid : u.team.uid = s.team.uid := by rw [uid_team_onLanes, uid_team_advance]
  show Host.Outcome.next (s.barUnit _ g lvl _) = _
  rw [barUnit_ok s (.barWait g lvl n) g lvl _ hn hg hc ht]
  dsimp only
  rw [hpass, htids, subset_advance, hmark, if_neg hne, huid]
  rfl

/-- AWWAIT on a generation that has gone ends as an acquire at BLOCK scope (R309). -/
theorem awwait_passes {s : State} {g : BitVec 3} {a b : BitVec 7} (hg : s.guardU g = true) (ha : sOk a = true) (hb : sOk b = true)
    (h8 : (s.team.sr a.toNat).toNat % 8 = 0) (hs : (s.team.sr a.toNat).toNat + 8 ≤ s.scratchBytes s.cur.core)
    (hgen : ((s.unifView s.team.uid (scratchKey s.cur.core (s.team.sr a.toNat).toNat) 8).getD 7 0).toNat
      ≠ (s.team.sr b.toNat).toNat % 256) :
    exec (.awwait g a b) s = .next (s.advance.acquire s.cur.core s.team.uid s.subsetTids 0 []).endIssue := by
  show execAwwait g a b s = _
  unfold execAwwait
  dsimp only
  rw [firstBad_two ha hb, awUnit_ok s _ g a _ rfl hg h8 hs, uid_team_advance, subsetTids_advance, cur_advance]
  exact congrArg (fun u : State => Host.Outcome.next u.endIssue) (if_pos hgen)

/-- Settles O28: each word's checks, in their order, and the two waits that end at their issue. -/
theorem synchronisationChecksAndPasses : Obligations.SynchronisationChecksAndPasses := by
  unfold Obligations.SynchronisationChecksAndPasses
  intro s g a b d n lvl c hg
  refine ⟨fun hn hc => barWord_unclustered d hg hn hc, ?_, ?_, ?_, ?_, ?_, ?_⟩
  · rintro ha code v hk rfl
    refine ⟨fun hb => ⟨unif_trapsLanes ?_, unif_trapsLanes ?_⟩, fun hd => unif_trapsLanes ?_⟩
    · show execAwinit g a b s = _
      unfold execAwinit
      dsimp only
      rw [firstBad_two ha hb, awUnit_traps rfl hg hk]
    · show execAwwait g a b s = _
      unfold execAwwait
      dsimp only
      rw [firstBad_two ha hb, awUnit_traps rfl hg hk]
    · show execAwqry g a d s = _
      unfold execAwqry
      rw [firstBad_two hd ha, awUnit_traps rfl hg hk]
  · rintro ha hb code v hk rfl
    exact ⟨unif_trapsLanes (congrArg _ (sealForm_traps rfl hg ha hb hk)), unif_trapsLanes (congrArg _ (sealForm_traps rfl hg ha hb hk))⟩
  · exact fun ha hb hc hs => ⟨fun hp => waitm_trapsLanes hs (waitm_invalid hg hc ha hb hp),
      fun hp h4 => waitm_trapsLanes hs (waitm_misaligned hg hc ha hb hp h4)⟩
  · intro hd h Q placed
    refine ⟨fun hx => queueWords_trap hg hd (queueTrap_misaligned s _ _ hx),
      fun hx hs => queueWords_trap hg hd (queueTrap_outside s _ _ hx hs),
      fun long hp => ⟨fun hq => ?_, fun q hq => ⟨fun hbad => ?_, fun hn hl hsc => ?_⟩⟩⟩
    · exact queueWords_trap hg hd (by rw [queueTrap_placed hp, hq])
    · refine queueWords_trap hg hd ?_
      rw [queueTrap_placed hp, hq]
      exact if_pos (by simpa using hbad)
    · refine queueWords_trap hg hd ?_
      rw [queueTrap_placed hp, hq]
      show (if _ then _ else _) = _
      rw [if_neg (by simp only [Bool.or_eq_true, decide_eq_true_eq, not_or]; exact ⟨Nat.not_le.2 hn, not_not.2 hl⟩), hsc]
      rfl
  · exact fun hn hc ht hs hp => barWait_passes hg hn hc ht hs hp
  · exact fun ha hb h8 hs hgen => awwait_passes hg ha hb h8 hs hgen

end Sys2Proof.Machine

/-! ### Atomics at their home -/

namespace Sys2Proof.Machine

/-- A write performed at its home leaves memory with its bytes, and loads as they stood (R112). -/
theorem performAt_mem (s : State) (h : Nat) (w : WEntry) (hc : uncounted w) :
    (s.performAt h w).mem = memPut s.mem w.key (performedData s w) ∧ (s.performAt h w).loads = s.loads :=
  have h := beside_performAt s h w hc
  ⟨mem_of_beside h, (loads_of_beside h :)⟩

/-- What satisfies a load of a state satisfies it of one that differs in waits alone. -/
theorem Satisfied.of_waits {s v u : State} {l : LoadReq} {m : List Host.Cell} {F : Thread → Thread} (h : OnlyWaits s v)
    (hl : v.loads = s.loads) (hF : ∀ x, noWait (F x) = F (noWait x)) (hv : Satisfied v u l m F id) : Satisfied s u l m F id := by
  refine ⟨by rw [hv.loads, hl], hv.mem, fun c n k => ?_, fun c n => ?_⟩
  · have hcomm : ∀ x : Thread, noWait (if c = l.core ∧ x.tid = l.agent then F x else x)
        = (if c = l.core ∧ (noWait x).tid = l.agent then F (noWait x) else noWait x) := by
      intro x
      rw [apply_ite noWait, hF]
      rfl
    have ht := congrArg (Option.map fun x => if c = l.core ∧ x.tid = l.agent then F x else x) (h.threads c n k)
    rw [Option.map_map, Option.map_map] at ht
    rw [hv.threads]
    simp only [hcomm]
    exact ht
  · have ht := h.teams c n
    rw [hv.teams]
    simp only [id_eq, ite_self]
    exact ht

theorem noWait_putLoad (t : Thread) (d n x : Nat) (sg : Bool) : noWait (t.putLoad d n x sg) = (noWait t).putLoad d n x sg := by
  have hfold : ∀ (is : List Nat) (t : Thread),
      noWait (is.foldl (fun t i => t.setV (d + i) (BitVec.ofNat 32 (x / 4294967296 ^ i))) t)
        = is.foldl (fun t i => t.setV (d + i) (BitVec.ofNat 32 (x / 4294967296 ^ i))) (noWait t) := by
    intro is
    induction is with
    | nil => exact fun _ => rfl
    | cons i is ih => exact fun t => ih _
  unfold Thread.putLoad
  split
  · rfl
  · exact hfold _ t

/-- An atomic that acts at its home: memory takes its new value, where it has one, and its thread the old one (R303, R331). -/
theorem atomAct_satisfied (s : State) (l : LoadReq) (old h : Nat) (F : Thread → Thread) (hF : ∀ x, noWait (F x) = F (noWait x))
    (hd : (∃ d op y, l.dst = .atom d op y ∧ F = fun t => t.setV d (BitVec.ofNat 32 old))
      ∨ (∃ d e y, l.dst = .cas d e y ∧ F = fun t => t.putLoad d l.n old false)) :
    Satisfied s (s.atomAct l old (fun t w => t.performAt h w)) l (match l.dst.newValue l.n old with
      | some y => memPut s.mem l.key (s.settled (s.atomEntry l y) (toBytes l.n y)) | none => s.mem) F id := by
  have hlane := fun t : State => loadDone_lane t l old F (.inr hd)
  unfold State.atomAct
  cases l.dst.newValue l.n old with
  | none => exact hlane s
  | some x =>
    have hu : uncounted (s.atomEntry l x) := by rintro c i ⟨⟩
    obtain ⟨hmem, hloads⟩ := performAt_mem (s.track (s.atomEntry l x)) h (s.atomEntry l x) hu
    have hw : OnlyWaits s ((s.track (s.atomEntry l x)).performAt h (s.atomEntry l x)) :=
      OnlyWaits.trans (t := s.track (s.atomEntry l x)) (OnlyWaits.outside rfl rfl) (OnlyWaits.performAt _ _ _)
    have hdone := hlane ((s.track (s.atomEntry l x)).performAt h (s.atomEntry l x))
    rw [hmem] at hdone
    exact Satisfied.of_waits hw hloads hF hdone

/-- An atomic on its own scratchpad, or on its own die's memory at DEVICE scope or beyond, acts at its home. -/
theorem loadAtomic_home {s : State} {l : LoadReq} (hst : ∀ w ∈ s.stbuf, w.agent = l.agent → w.id < l.id → w.meets l.key l.n = false)
    (hp : isScratch l.key = true ∨ ((isDevice l.key = true → 2 ≤ l.scope) ∧ homeDie l.key = coreDie l.core ∧ homeDie l.key ≠ 5
      ∧ ∀ w ∈ s.wpath ++ s.capath, w.core = l.core → w.meets l.key l.n = false)) :
    s.loadAtomic l = s.atomAct l (s.readNat l.key l.n) (fun t w => t.performAt (coreDie l.core) w) := by
  have hstbuf : s.stbuf.any (fun w => w.agent = l.agent && w.id < l.id && w.meets l.key l.n) = false := by
    rw [List.any_eq_false]
    intro w hw
    simp only [Bool.and_eq_true, decide_eq_true_eq, not_and, Bool.not_eq_true]
    exact fun h => hst w hw h.1 h.2
  unfold State.loadAtomic
  dsimp only
  rw [if_neg (by rw [hstbuf]; simp)]
  by_cases hs : isScratch l.key = true
  · rw [if_pos hs]
  · obtain ⟨hsc, hhome, h5, hpath⟩ := hp.resolve_left hs
    have hpaths : (s.wpath ++ s.capath).any (fun w => w.core = l.core && w.meets l.key l.n) = false := by
      rw [List.any_eq_false]
      intro w hw
      simp only [Bool.and_eq_true, decide_eq_true_eq, not_and, Bool.not_eq_true]
      exact hpath w hw
    have hready : s.remoteReady (coreDie l.core) (coreDie l.core) = true := by simp [State.remoteReady]
    rw [if_neg hs, if_neg (by simp only [Bool.and_eq_true, decide_eq_true_eq, not_and, Nat.not_lt]; exact hsc),
      if_neg (by rw [hpaths]; simp), if_neg h5, hhome, if_pos hready, if_pos rfl]

/-- Settles O38: at its home an atomic is one step, a write performed there and a load done. -/
theorem atomicsAtTheirHome : Obligations.AtomicsAtTheirHome := by
  unfold Obligations.AtomicsAtTheirHome
  intro s l hl hb hf hm hst hp old ends
  have run : l.dst.atomic = true →
      exec (.loadSatisfy l.id) s = .next (s.atomAct l old (fun t w => t.performAt (coreDie l.core) w)).sweep := by
    intro hd
    show execLoadSatisfy l.id s = _
    rw [← loadAtomic_home hst hp]
    simp [execLoadSatisfy, hl, pastTries_of_ordered s l.agent l.id (ordered_of_unblocked s l hb), hb, hf, hd, accessing, hm]
  refine ⟨fun d op y hd => ⟨_, run (by rw [hd]; rfl), ?_⟩, fun d e y hd => ⟨_, run (by rw [hd]; rfl), ?_⟩⟩
  · have h := atomAct_satisfied s l old (coreDie l.core) (fun t => t.setV d (BitVec.ofNat 32 old)) (fun _ => rfl) (.inl ⟨d, op, y, hd, rfl⟩)
    rw [hd] at h
    exact h
  · have h := atomAct_satisfied s l old (coreDie l.core) _ (fun x => noWait_putLoad x d l.n old false) (.inr ⟨d, e, y, hd, rfl⟩)
    rw [hd] at h
    exact h

end Sys2Proof.Machine

/-! ### Where a dispatched write goes -/

namespace Sys2Proof.Machine

/-- A write of its own scratchpad or die is performed in the step. -/
theorem dispatch_home (s : State) (die : Nat) (w : WEntry) (h : isScratch w.key = true ∨ homeDie w.key = die) :
    s.dispatch die w = s.performAt die w := by
  unfold State.dispatch
  exact if_pos (by simpa using h)

theorem beside_toPort (s : State) (die : Nat) (w : WEntry) :
    beside (s.toPort die w) = beside { s with ports := s.ports ++ [{ w with data := s.portData w, red := none }] } :=
  congrArg (fun v : State => { v with ports := v.ports ++ [{ w with data := s.portData w, red := none }] })
    (beside_noteOld s w (s.portBytes w.key (s.portData w).length))

theorem dispatch_port (s : State) {die : Nat} {w : WEntry} (hs : isScratch w.key = false) (h5 : homeDie w.key = 5) (hd : die ≠ 5) :
    s.dispatch die w = s.toPort die w := by
  unfold State.dispatch
  dsimp only
  rw [if_neg (by simp [hs, h5, Ne.symm hd]), if_pos h5]

/-- A write of another die's memory leaves as a message, and its own die's copy of the line goes (R116; log 13). -/
theorem dispatch_away (s : State) {die : Nat} {w : WEntry} (hs : isScratch w.key = false) (h5 : homeDie w.key ≠ 5)
    (hd : homeDie w.key ≠ die) :
    beside (s.dispatch die w)
      = beside { s with copies := if isDevice w.key then kvDel s.copies (viewKey die (lineOf w.key)) else s.copies }
    ∧ ∃ m ∈ (s.dispatch die w).chans, m.src = die ∧ m.dst = homeDie w.key ∧ m.body = .write w := by
  let s1 : State := if isDevice w.key then { s with copies := kvDel s.copies (viewKey die (lineOf w.key)) } else s
  let s2 : State := (s1.numberWrite die w.id).send die (homeDie w.key) (.write w)
  have hcut : beside s1 = beside { s with copies := if isDevice w.key then kvDel s.copies (viewKey die (lineOf w.key)) else s.copies } := by
    show beside (if _ then _ else _ : State) = _
    split <;> rfl
  have hsent : s.dispatch die w = if s1.freshAt die w.id then s2.sendClock die else s2 := by
    unfold State.dispatch
    dsimp only
    rw [if_neg (by simp [hs, hd]), if_neg h5]
  have h2 : beside s2 = beside s1 := by rw [beside_send, beside_numberWrite]
  have hm : ∃ m ∈ s2.chans, m.src = die ∧ m.dst = homeDie w.key ∧ m.body = .write w :=
    ⟨_, List.mem_append_right _ (List.mem_singleton_self _), rfl, rfl, rfl⟩
  rw [hsent]
  split
  · obtain ⟨c, q, e⟩ := sendClock_eq s2 die
    obtain ⟨m, hin, hm⟩ := hm
    exact ⟨by rw [beside_sendClock, h2, hcut], m, by rw [e]; exact List.mem_append_left _ hin, hm⟩
  · exact ⟨by rw [h2, hcut], hm⟩

/-- A write that leaves its path changes at most the view that it was in. -/
theorem leaveView_eq (s : State) (cl : Bool) (w : WEntry) : ∃ a b, s.leaveView cl w = { s with l1 := a, caview := b } := by
  unfold State.leaveView State.dropPointView
  split
  · exact ⟨s.l1, s.caview, rfl⟩
  · split
    · split
      · cases cl
        · exact ⟨_, s.caview, rfl⟩
        · exact ⟨s.l1, _, rfl⟩
      · exact ⟨s.l1, s.caview, rfl⟩
    · exact ⟨s.l1, s.caview, rfl⟩

/-! ### Stores drain and leave their paths -/

/-- A write that a step dispatches, from a state that differs from `s` in its paths and views alone. -/
theorem leavesPath_of_dispatch {i : Instr} {s t : State} {w : WEntry} {cl : Bool}
    (he : exec i s = .next ((t.leaveView cl w).dispatch (coreDie w.core) w).sweep)
    (hmem : t.mem = s.mem) (hports : t.ports = s.ports) (hcopies : t.copies = s.copies)
    (hdata : ∀ a b, performedData { t with l1 := a, caview := b } w = performedData s w)
    (hport : ∀ a b, ({ t with l1 := a, caview := b } : State).portData w = s.portData w) : LeavesPath i s t w := by
  obtain ⟨a, b, hv⟩ := leaveView_eq t cl w
  rw [hv] at he
  refine ⟨fun h hu => ⟨_, he, ?_⟩, fun hs h5 hd => ⟨_, he, ?_⟩, fun hs h5 hd => ?_⟩
  · rw [dispatch_home _ _ _ h, beside_performAt _ _ _ hu, hdata, ← hmem]
    rfl
  · rw [dispatch_port _ hs h5 hd, beside_toPort, hport, ← hports]
    rfl
  · obtain ⟨hb, m, hm, hsrc, hdst, hbody⟩ := dispatch_away { t with l1 := a, caview := b } hs h5 hd
    refine ⟨_, m, he, ?_, hm, hsrc, hdst, hbody⟩
    rw [hb, ← hcopies]
    rfl

theorem exec_writePathLeave {s : State} {w : WEntry} (hok : s.writeOk w = true) (hm : memExists s.part w.key = true)
    (hf : s.wpath.find? (fun o => o.id = w.id) = some w) (hh : w.held = false) (ho : s.olderMeets (s.pointPath w.core false) w = false) :
    exec (.writePathLeave w.id) s
      = .next ((({ s with wpath := s.wpath.filter (fun o => o.id ≠ w.id) } : State).leaveView false w).dispatch (coreDie w.core) w).sweep := by
  show execWritePathLeave w.id s = _
  simp only [execWritePathLeave, hf, hh, ho, hok, accessing, hm]
  rfl

theorem exec_clusterAtomicPathLeave {s : State} {w : WEntry} (hok : s.writeOk w = true) (hm : memExists s.part w.key = true)
    (hf : s.capath.find? (fun o => o.id = w.id) = some w) (ho : s.olderMeets (s.pointPath w.core true) w = false) :
    exec (.clusterAtomicPathLeave w.id) s
      = .next ((({ s with capath := s.capath.filter (fun o => o.id ≠ w.id) } : State).leaveView true w).dispatch (coreDie w.core) w).sweep := by
  show execClusterAtomicPathLeave w.id s = _
  simp only [execClusterAtomicPathLeave, hf, ho, hok, accessing, hm]
  rfl

/-- A pending store that nothing stands before drains. -/
theorem exec_storeBufferDrain {s : State} {w : WEntry} (hf : s.stbuf.find? (fun o => o.id = w.id) = some w)
    (hst : ∀ o ∈ s.stbuf, o.agent = w.agent → o.id < w.id → o.meets w.key w.data.length = false)
    (hld : ∀ o ∈ s.loads, o.agent = w.agent → o.id < w.id → rangesMeet o.key o.n w.key w.data.length = false)
    (hlow : ∀ o ∈ s.stbuf, o.lowerLane w = false) (ho : s.ordered w.agent w.id = true) :
    exec (.storeBufferDrain w.id) s = .next (s.drain w).sweep := by
  have h1 : s.stbuf.any (fun o => (o.agent = w.agent && o.id < w.id && o.meets w.key w.data.length) || o.lowerLane w) = false := by
    rw [List.any_eq_false]
    intro o hin
    simp only [Bool.or_eq_true, Bool.and_eq_true, decide_eq_true_eq, not_or, not_and, Bool.not_eq_true]
    exact ⟨fun h => hst o hin h.1 h.2, hlow o hin⟩
  have h2 : s.loads.any (fun o => o.agent = w.agent && o.id < w.id && rangesMeet o.key o.n w.key w.data.length) = false := by
    rw [List.any_eq_false]
    intro o hin
    simp only [Bool.and_eq_true, decide_eq_true_eq, not_and, Bool.not_eq_true]
    exact fun h => hld o hin h.1 h.2
  show execStoreBufferDrain w.id s = _
  simp only [execStoreBufferDrain, hf, pastTries_of_ordered s w.agent w.id ho, h1, h2, ho]
  rfl

section
variable {s : State} {w : WEntry}

theorem drain_scratch (hs : isScratch w.key = true) :
    s.drain w = ({ s with stbuf := s.stbuf.filter (fun o => o.id ≠ w.id) } : State).performAt (coreDie w.core) w := by
  unfold State.drain
  dsimp only
  rw [if_pos hs, dispatch_home _ _ _ (.inl hs)]

theorem drain_store (hs : isScratch w.key = false) (hr : w.red = none) :
    s.drain w = { s with
      stbuf := s.stbuf.filter (fun o => o.id ≠ w.id), wpath := s.wpath ++ [w]
      l1 := match (if isDevice w.key then kvGet s.l1 (viewKey w.core (lineOf w.key)) else none) with
        | some b => kvPut s.l1 (viewKey w.core (lineOf w.key)) (overlay b (w.key % 128) w.data)
        | none => s.l1 } := by
  have hview : (if isDevice w.key then ({ s with stbuf := s.stbuf.filter (fun o => o.id ≠ w.id) } : State).pointView w.core false
      (lineOf w.key) else none) = (if isDevice w.key then kvGet s.l1 (viewKey w.core (lineOf w.key)) else none) := rfl
  unfold State.drain
  dsimp only
  rw [if_neg (by simp [hs]), hr]
  dsimp only
  rw [hview]
  cases (if isDevice w.key then kvGet s.l1 (viewKey w.core (lineOf w.key)) else none) <;> rfl

theorem drain_red (hs : isScratch w.key = false) {op sc : Nat} (hr : w.red = some (op, sc)) (hp : isDevice w.key = false ∨ 2 ≤ sc) :
    s.drain w = { s with
      stbuf := s.stbuf.filter (fun o => o.id ≠ w.id), wpath := s.wpath ++ [w], l1 := kvDel s.l1 (viewKey w.core (lineOf w.key)) } := by
  unfold State.drain
  dsimp only
  rw [if_neg (by simp [hs]), hr]
  refine if_neg ?_
  simp only [Bool.and_eq_true, decide_eq_true_eq, not_and, Nat.not_lt]
  exact fun h => hp.resolve_left (by simp [h])

/-- A RED at its point leaves its new value, as a plain write, in the view and the path there (R426). -/
theorem drain_redAtPoint (hs : isScratch w.key = false) {op sc : Nat} (hr : w.red = some (op, sc)) (hd : isDevice w.key = true)
    (hsc : sc < 2) (hpath : ∀ o ∈ s.pointPath w.core (sc = 1), o.red.isSome = true → o.meets w.key w.data.length = false)
    {v b : List Byte} (hl : s.pointLine w.core (sc = 1) (lineOf w.key) = some (v, b)) :
    let old : Word := BitVec.ofNat 32 (ofBytes ((b.drop (w.key % 128)).take 4))
    s.drain w = ({ s with stbuf := s.stbuf.filter (fun o => o.id ≠ w.id) } : State).pointPut (sc = 1)
      { w with data := toBytes 4 (atomNew op old (BitVec.ofNat 32 (ofBytes w.data))).toNat, red := none } v := by
  have hany : (s.pointPath w.core (sc = 1)).any (fun o => o.red.isSome && o.meets w.key w.data.length) = false := by
    rw [List.any_eq_false]
    intro o hin
    simp only [Bool.and_eq_true, not_and, Bool.not_eq_true]
    exact hpath o hin
  intro old
  unfold State.drain
  dsimp only
  rw [if_neg (by simp [hs]), hr]
  dsimp only
  rw [if_pos (by simp [hd, hsc])]
  unfold State.redAtPoint
  dsimp only
  rw [if_neg (by rw [hany]; simp), hl]

end

/-- Settles O39: the drain of each kind of entry, and the places to which a write that leaves its path is dispatched. -/
theorem storesReachTheirHomes : Obligations.StoresReachTheirHomes := by
  unfold Obligations.StoresReachTheirHomes
  refine ⟨fun s w hf hst hld hlow ho => ?_, fun s w hok hm => ⟨fun hf hh hold => ?_, fun hf hold => ?_⟩⟩
  · intro line t ends
    have he := exec_storeBufferDrain hf hst hld hlow ho
    refine ⟨fun hs hu => ⟨_, he, ?_⟩, fun hs => ⟨fun hr => ?_, fun op sc hr => ⟨fun hp => ?_, fun hd hsc hpath v b hl => ?_⟩⟩⟩
    · rw [drain_scratch hs, beside_performAt _ _ _ hu]
      rfl
    · rw [drain_store hs hr] at he
      exact he
    · rw [drain_red hs hr hp] at he
      exact he
    · rw [drain_redAtPoint hs hr hd hsc hpath hl] at he
      refine he.trans (congrArg (fun u : State => Host.Outcome.next u.sweep) ?_)
      by_cases h1 : sc = 1
      · rw [if_pos h1]
        simp only [h1]
        rfl
      · rw [if_neg h1]
        simp only [h1]
        rfl
  · exact leavesPath_of_dispatch (exec_writePathLeave hok hm hf hh hold) rfl rfl rfl (fun _ _ => rfl) (fun _ _ => rfl)
  · exact leavesPath_of_dispatch (exec_clusterAtomicPathLeave hok hm hf hold) rfl rfl rfl (fun _ _ => rfl) (fun _ _ => rfl)

end Sys2Proof.Machine

/-! ### Views, copies and gates -/

namespace Sys2Proof.Machine

theorem exec_l1ViewDrop (s : State) (core line : Nat) : exec (.l1ViewDrop core line) s = .next (if s.choice % 2 = 1
    then { s with caview := kvDel s.caview (viewKey (clusterOf core) line) } else { s with l1 := kvDel s.l1 (viewKey core line) }) := by
  show execL1ViewDrop core line s = _
  simp only [execL1ViewDrop, State.dropPointView, decide_eq_true_eq]

theorem exec_l1ViewFill {s : State} {core line : Nat} (hc : coreExists s.part core = true) (hd : isDevice (128 * line) = true)
    (hm : memExists s.part (128 * line) = true) (hr : s.dieReadable (coreDie core) (128 * line) = true) :
    exec (.l1ViewFill core line) s = .next { s with
      l1 := kvPut s.l1 (viewKey core line) (s.dieBytes (s.ctxOf core) (coreDie core) (128 * line) 128) } := by
  show execL1ViewFill core line s = _
  simp only [execL1ViewFill, hc, hd, hm, hr]
  rfl

/-! The gate of a die. A message is applied to a state whose clock alone has changed, and a clock may be sent behind it. -/

theorem acceptMsg_cases (s : State) (m : Msg) : ∃ v,
    s.acceptMsg m = ({ s with vc := v } : State).applyMsg m ∨ s.acceptMsg m = (({ s with vc := v } : State).applyMsg m).sendClock m.dst := by
  unfold State.acceptMsg
  split
  · exact ⟨s.vc, .inl rfl⟩
  · exact ⟨_, .inr rfl⟩

/-- What a message leaves beside clocks and channels, the clock that it may send behind it leaves too. -/
theorem beside_acceptMsg {s r : State} {m : Msg} (h : ∀ v, beside (({ s with vc := v } : State).applyMsg m) = beside r) :
    beside (s.acceptMsg m) = beside r := by
  obtain ⟨v, e | e⟩ := acceptMsg_cases s m
  · rw [e, h]
  · rw [e, beside_sendClock, h]

section
variable {s : State} {m : Msg} (hf : s.chans.find? (fun o => o.src = m.src && o.dst = m.dst) = some m) (hg : s.gateOpen m = true)

/-- The state without the message and with the link's count of failures cleared. -/
def arrivedAt (s : State) (m : Msg) : State :=
  { s with retries := kvDel s.retries (8 * m.src + m.dst + s.linkSel m.src m.dst)
           chans := s.chans.eraseP (fun o => o.src = m.src && o.dst = m.dst) }

include hf hg

theorem exec_gateApply_placed {key : Nat} (hp : m.body.place = some key) (hm : memExists s.part key = true) :
    exec (.gateApply m.src m.dst) s = .next ((arrivedAt s m).acceptMsg m).sweep := by
  show execGateApply m.src m.dst s = _
  simp only [execGateApply, hf, hg, hp, accessing, hm]
  rfl

theorem exec_gateApply_placeless (hp : m.body.place = none) :
    exec (.gateApply m.src m.dst) s = .next ((arrivedAt s m).acceptMsg m).sweep := by
  show execGateApply m.src m.dst s = _
  simp only [execGateApply, hf, hg, hp]
  rfl

end

/-- A write takes effect at its home. -/
theorem beside_accept_write (s : State) {m : Msg} {w : WEntry} (hb : m.body = .write w) (hu : uncounted w) :
    beside ((arrivedAt s m).acceptMsg m)
      = beside { arrivedAt s m with mem := memPut s.mem w.key (performedData s w) } := by
  refine beside_acceptMsg fun v => ?_
  unfold State.applyMsg
  rw [hb]
  exact beside_performAt _ m.dst w hu

theorem noteWas_cases (s : State) (key id : Nat) (o : Owner) (nb : Bool) (now : List Byte) :
    s.noteWas key id o nb now = s ∨ s.noteWas key id o nb now = { s.bump with was := s.was ++ [⟨s.nextSeq, key, now, id, o, nb⟩] } := by
  unfold State.noteWas
  split
  · exact .inr rfl
  · exact .inl rfl

/-- An update changes the copy. -/
theorem beside_applyMsg_update (s : State) {m : Msg} {id l off : Nat} {data : List Byte} (hb : m.body = .update id l off data) :
    beside (s.applyMsg m)
      = beside { s with copies := kvMod s.copies (viewKey m.dst l) (fun b => s.ownOver m.dst l (overlay b off data)) } := by
  unfold State.applyMsg
  rw [hb]
  dsimp only
  rw [beside_checkWrite]
  cases kvGet s.copies (viewKey m.dst l) with
  | none => rfl
  | some bs =>
    dsimp only
    obtain e | e := noteWas_cases s (wasKey m.dst (128 * l + off)) id
      (((s.writes.find? (fun (t : WTrack) => t.id = id)).map (·.owner)).getD .keystone) false ((bs.drop off).take data.length)
    · rw [e]
      rfl
    · rw [e]
      rfl

/-- A reply's line is kept as a copy, and in the L1 view of the core that asked. -/
theorem installLine_eq (s : State) (h load line : Nat) (data : List Byte) : ∃ a,
    s.installLine h load line data = { s with copies := kvPut s.copies (viewKey h line) (s.ownOver h line data), l1 := a }
    ∧ ∀ r, s.loads.find? (fun o => o.id = load) = some r → kvGet a (viewKey r.core line) = some (s.ownOver h line data) := by
  unfold State.installLine
  dsimp only
  cases hl : s.loads.find? (fun o => o.id = load) with
  | none => exact ⟨s.l1, rfl, fun r hr => by cases hr⟩
  | some l => exact ⟨kvPut s.l1 (viewKey l.core line) (s.ownOver h line data), rfl, fun r hr => by cases hr; exact kvGet_put_same _ _ _⟩

/-- The entries of a clock that has been merged. -/
theorem vcOf_mergeOnly (s : State) (d : Nat) (v : List Word) (hv : v.length = 8) : (s.mergeOnly d v).vcOf d = s.merged d v := by
  have hfold : ∀ (is : List Nat) (m : KV Word) (i : Nat),
      kvGetD 0 (is.foldl (fun m i => kvSetD 0 m (8 * d + i) ((s.merged d v).getD i 0)) m) (8 * d + i)
        = if i ∈ is then (s.merged d v).getD i 0 else kvGetD 0 m (8 * d + i) := by
    intro is
    induction is with
    | nil => exact fun m i => rfl
    | cons j is ih =>
      intro m i
      rw [List.foldl_cons, ih]
      by_cases hi : i ∈ is
      · rw [if_pos hi, if_pos (List.mem_cons_of_mem _ hi)]
      · rw [if_neg hi]
        by_cases hj : i = j
        · rw [hj, kvGetD_setD_same, if_pos (List.mem_cons_self ..)]
        · rw [kvGetD_setD_ne _ _ _ _ _ (by omega), if_neg (by simp [hi, hj])]
  have hlen : (s.merged d v).length = 8 := by simp [State.merged, State.vcOf, hv]
  refine List.ext_getElem (by rw [hlen]; simp [State.vcOf]) fun i h1 h2 => ?_
  have hi : i < 8 := by omega
  have h := hfold (List.range 8) s.vc i
  rw [if_pos (List.mem_range.2 hi), List.getD_eq_getElem _ _ h2] at h
  rw [← h]
  simp only [State.vcOf, List.getElem_map, List.getElem_range]
  rfl

theorem vcOf_sendClock (s : State) (a d : Nat) : (s.sendClock a).vcOf d = s.vcOf d := by
  obtain ⟨c, q, e⟩ := sendClock_eq s a
  rw [e]
  rfl

/-- A clock is merged. -/
theorem vcOf_accept_clock (s : State) {m : Msg} (hb : m.body = .clock) (hl : m.stamp.length = 8) :
    (s.acceptMsg m).vcOf m.dst = s.merged m.dst m.stamp := by
  have happly : ∀ t : State, t.applyMsg m = t := fun t => by unfold State.applyMsg; rw [hb]
  unfold State.acceptMsg
  split
  · next h => rw [happly, h]
  · rw [happly, vcOf_sendClock, vcOf_mergeOnly s m.dst m.stamp hl]

/-- A read is answered with the line. -/
theorem accept_read (s : State) {m : Msg} {ld l : Nat} (hb : m.body = .read ld l) :
    beside (s.acceptMsg m) = beside s
    ∧ ∃ r ∈ (s.acceptMsg m).chans, r.src = m.dst ∧ r.dst = m.src ∧ r.body = .reply ld l (s.readBytes (128 * l) 128) := by
  have happly : ∀ v, ({ s with vc := v } : State).applyMsg m
      = ({ s with vc := v } : State).send m.dst m.src (.reply ld l (s.readBytes (128 * l) 128)) := fun v => by
    unfold State.applyMsg
    rw [hb]
    rfl
  refine ⟨beside_acceptMsg fun v => by rw [happly]; rfl, ?_⟩
  obtain ⟨v, e | e⟩ := acceptMsg_cases s m
  · rw [e, happly]
    exact ⟨_, List.mem_append_right _ (List.mem_singleton_self _), rfl, rfl, rfl⟩
  · obtain ⟨c, q, hsent⟩ := sendClock_eq (({ s with vc := v } : State).applyMsg m) m.dst
    rw [e, hsent, happly]
    exact ⟨_, List.mem_append_left _ (List.mem_append_right _ (List.mem_singleton_self _)), rfl, rfl, rfl⟩

theorem accept_reply (s : State) {m : Msg} {ld l : Nat} {data : List Byte} (hb : m.body = .reply ld l data) :
    beside (s.acceptMsg m) = beside { s with copies := kvPut s.copies (viewKey m.dst l) (s.ownOver m.dst l data) }
    ∧ ∀ r, s.loads.find? (fun o => o.id = ld) = some r → kvGet (s.acceptMsg m).l1 (viewKey r.core l) = some (s.ownOver m.dst l data) := by
  have happly : ∀ v, ∃ a, ({ s with vc := v } : State).applyMsg m
        = { s with vc := v, copies := kvPut s.copies (viewKey m.dst l) (s.ownOver m.dst l data), l1 := a }
      ∧ ∀ r, s.loads.find? (fun o => o.id = ld) = some r → kvGet a (viewKey r.core l) = some (s.ownOver m.dst l data) := by
    intro v
    unfold State.applyMsg
    rw [hb]
    exact installLine_eq { s with vc := v } m.dst ld l data
  refine ⟨beside_acceptMsg fun v => ?_, fun r hr => ?_⟩
  · obtain ⟨a, e, -⟩ := happly v
    rw [e]
    rfl
  · obtain ⟨v, e | e⟩ := acceptMsg_cases s m
    · obtain ⟨a, ha, hl⟩ := happly v
      rw [e, ha]
      exact hl r hr
    · obtain ⟨a, ha, hl⟩ := happly v
      obtain ⟨c, q, hsent⟩ := sendClock_eq (({ s with vc := v } : State).applyMsg m) m.dst
      rw [e, hsent, ha]
      exact hl r hr

/-- Settles O40: the views' steps, and what each kind of message does at its die. -/
theorem viewsCopiesAndGates : Obligations.ViewsCopiesAndGates := by
  unfold Obligations.ViewsCopiesAndGates
  intro s core die line
  refine ⟨exec_l1ViewDrop s core line, rfl, exec_l1ViewFill, fun m hf hg => ?_⟩
  intro i t
  refine ⟨fun w hb hu hm => ?_, fun id l off data hb => ?_, fun ld l hb hm => ?_, fun ld l data hb => ?_, fun hb hl => ?_⟩
  · exact ⟨_, exec_gateApply_placed hf hg (by rw [hb]; rfl) hm, beside_accept_write s hb hu⟩
  · exact ⟨_, exec_gateApply_placeless hf hg (by rw [hb]; rfl),
      beside_acceptMsg fun v => beside_applyMsg_update { arrivedAt s m with vc := v } hb⟩
  · obtain ⟨hbeside, r, hr, hsrc, hdst, hbody⟩ := accept_read (arrivedAt s m) hb
    exact ⟨_, r, exec_gateApply_placed hf hg (by rw [hb]; rfl) hm, hbeside, hr, hsrc, hdst, hbody⟩
  · obtain ⟨hbeside, hl1⟩ := accept_reply (arrivedAt s m) hb
    exact ⟨_, exec_gateApply_placeless hf hg (by rw [hb]; rfl), hbeside, hl1⟩
  · refine ⟨_, exec_gateApply_placeless hf hg (by rw [hb]; rfl), beside_acceptMsg fun v => ?_, vcOf_accept_clock (arrivedAt s m) hb hl⟩
    unfold State.applyMsg
    rw [hb]
    rfl

end Sys2Proof.Machine

/-! ### Ports, fences that complete, and polls -/

namespace Sys2Proof.Machine

section
variable {s : State} {w : WEntry} (hf : s.ports.find? (fun o => o.id = w.id) = some w) (ho : s.olderMeets s.ports w = false)

/-- The Viaduct ports that are up (R221). -/
def portsUp (s : State) : List Nat := (List.range s.part.viaducts).filter (fun p => !s.viaductDown.contains p)

/-- The port through which a fabric write of this turn goes. -/
def turnPort (s : State) : Nat := (portsUp s).getD (s.choice % (portsUp s).length) 0

/-- The state without a write in its port, with the port's count of failures cleared where it passes one. -/
def pastPort (s : State) (w : WEntry) : State :=
  { s with ports := s.ports.filter (fun o => o.id ≠ w.id)
           retries := if spaceOf w.key = 3 then kvDel s.retries (64 + turnPort s) else s.retries }

include hf ho

theorem exec_portAcknowledge (hup : spaceOf w.key = 3 → portsUp s ≠ []) : exec (.portAcknowledge w.id) s
    = .next (if (match w.ctx with | some c => s.keyAcked c (w.engine (turnPort s)) | none => false)
      then ((pastPort s w).completeWrite w.id).sweep else ((pastPort s w).performAt 5 w).sweep) := by
  show execPortAcknowledge w.id s = _
  have hgo : ¬ (s.olderMeets s.ports w || (spaceOf w.key = 3 && (portsUp s).isEmpty)) = true := by
    simp only [ho, Bool.false_or, Bool.and_eq_true, decide_eq_true_eq, List.isEmpty_iff, not_and]
    exact hup
  simp only [execPortAcknowledge, hf]
  exact congrArg _ (if_neg hgo)

end

/-- What has been read of a place that every one of a list of pairs names. -/
theorem dedup_of_all_eq {α β : Type} [DecidableEq β] {l : List α} (f : α → β) {b : β} (hne : l ≠ []) (h : ∀ a ∈ l, f a = b) :
    (l.map f).dedup = [b] := by
  have hrep : l.map f = List.replicate l.length b := by
    rw [List.eq_replicate_iff]
    refine ⟨List.length_map f, fun x hx => ?_⟩
    obtain ⟨a, ha, rfl⟩ := List.mem_map.1 hx
    exact h a ha
  rw [hrep, List.replicate_dedup (by simpa using hne)]

/-- The waits of a team's threads, tested against a word (R423). -/
def pollTest (s : State) (core team uid : Nat) (ws : List (Nat × DWord × Nat × Nat × Word)) (k : Nat) : State :=
  let v := s.modLanes core team (ws.map (·.1)) (fun _ x => match x.wait with
    | .waitm a _ c y => { x with wait := .waitm a k c y }
    | _ => x)
  let hit := (ws.filter (fun w => intCond w.2.2.2.1 (BitVec.ofNat 32 (s.homeNat (s.ctxOf core) k 4)) w.2.2.2.2)).map (·.1)
  if hit = [] then v
  else v.acquire core uid (hit.filterMap (fun l => (v.thread? core team l).map (·.tid))) 2 (v.stampFrom core k)

theorem stop_pollTest (s : State) (core team uid : Nat) (ws : List (Nat × DWord × Nat × Nat × Word)) (k : Nat) :
    (pollTest s core team uid ws k).stop = s.stop := by
  unfold pollTest
  dsimp only
  split
  · rfl
  · rw [stop_acquire]
    rfl

/-- A word that may be read is tested. -/
theorem waitmPollAt_reached {s : State} {core team uid : Nat} {ws : List (Nat × DWord × Nat × Nat × Word)} {va : DWord} {key k : Nat}
    (hw : s.firewallOk (s.ctxOf core) k = true)
    (hp : s.place core va 4 = .window k ∨ ∃ a, s.place core va 4 = .virt a
      ∧ s.translateNow core (s.ctxOf core) a false false = .ok k ∧ memExists s.part k = true) :
    s.waitmPollAt core team uid ws va key = pollTest s core team uid ws k := by
  unfold State.waitmPollAt pollTest
  simp only [List.isEmpty_iff]
  rcases hp with hp | ⟨a, hp, ht, hm⟩
  · rw [hp]
    exact if_pos hw
  · have hcheck : s.checkMem k = s := if_pos hm
    rw [hp]
    dsimp only
    rw [ht]
    dsimp only
    rw [hcheck]
    exact if_pos hw

/-- A poll of a team whose waits are all on one word. -/
theorem exec_waitmPoll {s : State} {core team : Nat} {m : Team} {va : DWord} {key : Nat} (hm : s.team? core team = some m)
    (hne : m.waitmLanes ≠ []) (hone : ∀ w ∈ m.waitmLanes, w.2.1 = va ∧ w.2.2.1 = key) :
    exec (.waitmPoll core team) s = finish (s.waitmPollAt core team m.uid m.waitmLanes va key) := by
  have hfilter : m.waitmLanes.filter (fun w => w.2.1 = va) = m.waitmLanes :=
    List.filter_eq_self.2 fun w hw => decide_eq_true (hone w hw).1
  have hwords : (m.waitmLanes.map (fun w => (w.2.1, w.2.2.1))).dedup = [(va, key)] :=
    dedup_of_all_eq _ hne fun w hw => Prod.ext (hone w hw).1 (hone w hw).2
  show execWaitmPoll core team s = _
  unfold execWaitmPoll
  rw [hm]
  dsimp only
  rw [hwords]
  simp only [List.foldl_cons, List.foldl_nil, hfilter]

/-- Settles O41: a port's oldest write, a fence that may complete, and a poll. -/
theorem portsFencesAndPolls : Obligations.PortsFencesAndPolls := by
  unfold Obligations.PortsFencesAndPolls
  intro s
  refine ⟨fun w hf ho hu => ?_, fun f hf he => ?_, fun core team m va key k hm hstop hne hone hw hp => ?_⟩
  · intro up port t hup
    have hx := exec_portAcknowledge hf ho hup
    refine ⟨fun hk => ⟨_, hx.trans (congrArg _ (if_neg ?_)), beside_performAt (pastPort s w) 5 w hu⟩,
      fun c hc hk => ⟨_, hx.trans (congrArg _ (if_pos ?_)), beside_completeWrite (pastPort s w) w.id⟩⟩
    · cases hc : w.ctx with
      | none => simp
      | some c => exact Bool.eq_false_iff.1 (hk c hc)
    · rw [hc]
      exact hk
  · have hx : exec (.fenceComplete f.id) s = .next (s.finishFence f) := by
      show execFenceComplete f.id s = _
      simp only [execFenceComplete, hf]
      exact congrArg _ (if_pos he)
    exact ⟨_, hx, beside_finishFence s f, finishFence_fences s f, finishFence_views s f, thread?_finishFence s f⟩
  · have hx := exec_waitmPoll hm hne hone
    rw [waitmPollAt_reached hw hp] at hx
    exact finish_next _ _ hx ((stop_pollTest s core team m.uid m.waitmLanes k).trans hstop)

end Sys2Proof.Machine

/-! ### Writes of the Keystone die at a home, and rings -/

namespace Sys2Proof.Machine

/-- A write that no agent of a core makes, and that merges nothing, leaves its own bytes where no merge of a nibble is noted (R99). -/
theorem settled_keystone (s : State) {w : WEntry} (data : List Byte) (ho : w.owner = .keystone) (hw : w.merges = false)
    (hx : ∀ x ∈ s.was, x.nibble = false) : s.settled w data = data := by
  have hentry : ∀ a, s.entryMet w a = false := fun a => by
    unfold State.entryMet
    rw [ho]
    simp
  have hnibble : ∀ a, s.nibbleMet w a = false := fun a => by
    unfold State.nibbleMet
    rw [hw, if_neg (by decide), List.any_eq_false]
    intro x hin
    simp [hx x hin]
  unfold State.settled
  split
  · simp only [hentry, hnibble]
    exact List.zipIdx_map_fst 0 data
  · rfl

theorem homeWrite_uncounted (s : State) (k : Nat) (bs : List Byte) :
    uncounted ⟨s.nextSeq, 0, s.nextSeq, .keystone, k, bs, none, none, 0, false⟩ := by
  rintro c i ⟨⟩

/-- A write of the Keystone die at a home puts its bytes there. -/
theorem beside_homeWrite (s : State) (k : Nat) (bs : List Byte) (hx : ∀ x ∈ s.was, x.nibble = false) :
    beside (s.homeWrite k bs) = beside { s with mem := memPut s.mem k bs } := by
  let w : WEntry := ⟨s.nextSeq, 0, s.nextSeq, .keystone, k, bs, none, none, 0, false⟩
  have hdata : performedData (s.bump.track w) w = bs := settled_keystone _ bs rfl rfl hx
  have h := beside_performAt (s.bump.track w) (homeDie k) w (homeWrite_uncounted s k bs)
  rw [hdata] at h
  exact h

theorem ksAside_tracked (s : State) (w : WEntry) (k : Nat) (bs : List Byte) : ksAside ((s.bump.track w).writeBytes k bs) = ksAside s := by
  unfold ksAside beside State.writeBytes State.track State.bump
  rfl

/-- It changes no other table than memory's and those that it may release or number. -/
theorem ksAside_homeWrite (s : State) (k : Nat) (bs : List Byte) : ksAside (s.homeWrite k bs) = ksAside s := by
  let w : WEntry := ⟨s.nextSeq, 0, s.nextSeq, .keystone, k, bs, none, none, 0, false⟩
  have h : beside (s.homeWrite k bs) = beside ((s.bump.track w).writeBytes k (performedData (s.bump.track w) w)) :=
    beside_performAt (s.bump.track w) (homeDie k) w (homeWrite_uncounted s k bs)
  exact (ksAside_of h).trans (ksAside_tracked s w k _)

theorem seals_of_ksAside {s t : State} (h : ksAside s = ksAside t) : s.seals = t.seals := (congrArg State.seals h :)
theorem qops_of_ksAside {s t : State} (h : ksAside s = ksAside t) : s.qops = t.qops := (congrArg State.qops h :)
theorem hwqs_of_ksAside {s t : State} (h : ksAside s = ksAside t) : s.hwqs = t.hwqs := (congrArg State.hwqs h :)

theorem onlyWaits_homeWrite (s : State) (k : Nat) (bs : List Byte) : OnlyWaits s (s.homeWrite k bs) :=
  OnlyWaits.trans (t := s.bump.track ⟨s.nextSeq, 0, s.nextSeq, .keystone, k, bs, none, none, 0, false⟩)
    (OnlyWaits.outside rfl rfl) (OnlyWaits.performAt _ _ _)

theorem ksAside_ringPut (s : State) (q : HwQueue) (bs : List Byte) : ksAside (s.ringPut q bs) = ksAside s := by
  have hfold : ∀ (l : List (Nat × List Byte)) (t : State), ksAside (l.foldl (fun t p => t.homeWrite p.1 p.2) t) = ksAside t := by
    intro l
    induction l with
    | nil => exact fun _ => rfl
    | cons p r ih => exact fun t => (ih _).trans (ksAside_homeWrite t p.1 p.2)
  unfold State.ringPut
  split
  · exact hfold _ s
  · rfl

theorem onlyWaits_ringPut (s : State) (q : HwQueue) (bs : List Byte) : OnlyWaits s (s.ringPut q bs) := by
  unfold State.ringPut
  split
  · exact OnlyWaits.fold _ _ (fun t p _ => onlyWaits_homeWrite t p.1 p.2) s
  · exact OnlyWaits.refl s

/-- Bytes that lie in one line are cut into no more than one piece. -/
theorem cutLines_of_le {k : Nat} {bs : List Byte} (h : k % 128 + bs.length ≤ 128) :
    cutLines (bs.length + 1) k bs = if bs = [] then [] else [(k, bs)] := by
  cases bs with
  | nil => rfl
  | cons b r =>
    have hn : (b :: r).length ≤ 128 - k % 128 := by omega
    show (k, (b :: r).take (128 - k % 128)) :: cutLines (b :: r).length (k + (128 - k % 128)) ((b :: r).drop (128 - k % 128)) = _
    rw [if_neg (List.cons_ne_nil b r), List.take_of_length_le hn, List.drop_of_length_le hn]
    rfl

/-- An entry's bytes are put at its place in the ring, where that lies in one line. -/
theorem beside_ringPut (s : State) {q : HwQueue} {k : Nat} {bs : List Byte} (hx : ∀ x ∈ s.was, x.nibble = false)
    (hk : s.ringKey q q.recv.toNat true = some k) (hl : k % 128 + bs.length ≤ 128) :
    beside (s.ringPut q bs) = beside { s with mem := memPut s.mem k bs } := by
  unfold State.ringPut
  rw [hk]
  dsimp only
  rw [cutLines_of_le hl]
  split
  · next he => rw [he]; rfl
  · exact beside_homeWrite s k bs hx

theorem ringPut_none (s : State) {q : HwQueue} (bs : List Byte) (hk : s.ringKey q q.recv.toNat true = none) : s.ringPut q bs = s := by
  unfold State.ringPut
  rw [hk]

/-! ### Hardware queues -/

/-- From `s` to `t` each team bears its name, and the uniform registers of those that bear `uid` have changed by `W`. -/
def TeamsBy (s t : State) (uid : Nat) (W : Team → Team) : Prop :=
  ∀ c n, (t.team? c n).map (fun m => (m.uid, m.sregs)) = (s.team? c n).map (fun m => (m.uid, if m.uid = uid then (W m).sregs else m.sregs))

theorem TeamsBy.of_waits {s t : State} (h : OnlyWaits s t) (uid : Nat) : TeamsBy s t uid id := fun c n => by
  rw [h.teams]
  simp only [id_eq, ite_self]

theorem TeamsBy.modUid (s : State) (uid : Nat) (W : Team → Team) (hu : ∀ m, (W m).uid = m.uid) : TeamsBy s (s.modUid uid W) uid W := by
  intro c n
  rw [team?_modUid, Option.map_map]
  congr 1
  funext m
  simp only [Function.comp]
  split
  · rw [hu]
  · rfl

/-- Changes that read registers alone compose. -/
theorem TeamsBy.trans {s t u : State} {uid : Nat} {V W : Team → Team} (hW : ∀ m m', m.sregs = m'.sregs → (W m).sregs = (W m').sregs)
    (h : TeamsBy s t uid V) (k : TeamsBy t u uid W) : TeamsBy s u uid (fun m => W (V m)) := by
  intro c n
  have h1 := h c n
  rw [k c n]
  revert h1
  generalize t.team? c n = x
  generalize s.team? c n = y
  intro h1
  cases x with
  | none => cases y with
    | none => rfl
    | some b => cases h1
  | some a => cases y with
    | none => cases h1
    | some b =>
      simp only [Option.map_some, Option.some.injEq, Prod.mk.injEq] at h1 ⊢
      obtain ⟨huid, hregs⟩ := h1
      refine ⟨huid, ?_⟩
      rw [huid]
      by_cases hb : b.uid = uid
      · rw [if_pos hb] at hregs ⊢
        rw [if_pos hb]
        exact hW _ _ hregs
      · rw [if_neg hb] at hregs ⊢
        rw [if_neg hb]
        exact hregs

end Sys2Proof.Machine

/-! ### Pushes enter their ring -/

namespace Sys2Proof.Machine

/-- A queue instruction with none of its team's before it at the queue has its turn (R372). -/
theorem queueTurn_of {s : State} {x : QOp} {full : Bool}
    (h : ∀ y ∈ s.qops, y.q = x.q → y.uid = x.uid → y.id < x.id → x.op ≠ 0 ∧ y.op = 0 ∧ full = true) : s.queueTurn x full = true := by
  unfold State.queueTurn
  rw [Bool.not_eq_true', List.any_eq_false]
  intro y hy hbad
  simp only [Bool.and_eq_true, Bool.or_eq_true, decide_eq_true_eq, Bool.not_eq_true'] at hbad
  obtain ⟨⟨⟨hq, hu⟩, hid⟩, hblock⟩ := hbad
  obtain ⟨hx, hy0, hfull⟩ := h y hy hq hu hid
  rcases hblock with (h0 | h0) | h0
  · exact hx h0
  · exact h0 hy0
  · exact absurd hfull (by rw [h0]; decide)

/-- An entry and whether its check truncated it (R204). -/
def enteringEntry (q : HwQueue) (x : QOp) : List Byte × Bool := if q.vocab = 0 then (x.data, false) else vocabCheck q.vocab.toNat x.data

/-- The queue with a push's entry at its end. -/
def pushedQueue (q : HwQueue) (x : QOp) : HwQueue :=
  { q with entries := q.entries ++ [⟨(enteringEntry q x).1, x.uid, x.count⟩], recv := q.recv + 1
           oovcnt := if (enteringEntry q x).2 then satInc q.oovcnt else q.oovcnt }

/-- A push, its entry's bytes in the ring's memory, has entered: the queue has the entry, and its threads are ready. -/
def enteredState (s : State) (q : HwQueue) (x : QOp) : State :=
  (({ s with hwqs := kvPut s.hwqs x.q (pushedQueue q x), qops := s.qops.filter (fun y => y.id ≠ x.id) } : State).modUid x.uid
    (fun m => m.tokDone x.id)).setWaits x.core (fun t => t.wait = .queue x.id) .ready

theorem exec_qpushEnterRing {s : State} {x : QOp} {q : HwQueue} (hq : kvGet s.hwqs x.q = some q)
    (hf : s.qops.find? (fun y => y.id = x.id && y.op = 0) = some x) (hh : s.pushHeld x = false) (hroom : q.entries.length < 2 ^ q.logcap)
    (hr : q.early = true ∧ q.span = false ∨ s.remoteReady (coreDie x.core) q.home = true)
    (hturn : ∀ y ∈ s.qops, y.q = x.q → y.uid = x.uid → x.id ≤ y.id) : exec (.qpushEnterRing x.id) s = .next (enteredState (s.ringPut q (enteringEntry q x).1) q x).sweep := by
  have harrived : s.pushArrived x q = true := by
    unfold State.pushArrived
    rw [hh]
    simpa using hr
  have hqueue : s.queueTurn x false = true :=
    queueTurn_of fun y hy h1 h2 h3 => absurd (hturn y hy h1 h2) (Nat.not_le.2 h3)
  have hgo : ¬ (!s.pushArrived x q || decide (2 ^ q.logcap ≤ q.entries.length) || !s.queueTurn x false) = true := by
    rw [harrived, hqueue]
    simpa using hroom
  show execQpushEnterRing x.id s = _
  simp only [execQpushEnterRing, hf, hq]
  exact congrArg _ (if_neg hgo)

theorem tables_enteredState (s : State) (q : HwQueue) (x : QOp) :
    (enteredState s q x).qops = s.qops.filter (fun y => y.id ≠ x.id) ∧ (enteredState s q x).hwqs = kvPut s.hwqs x.q (pushedQueue q x)
    ∧ (enteredState s q x).mem = s.mem := ⟨rfl, rfl, rfl⟩

theorem onlyWaits_enteredState (s : State) (q : HwQueue) (x : QOp) : OnlyWaits s (enteredState s q x) := by
  let u : State := { s with hwqs := kvPut s.hwqs x.q (pushedQueue q x), qops := s.qops.filter (fun y => y.id ≠ x.id) }
  have htables : OnlyWaits s u := OnlyWaits.outside rfl rfl
  have hretired : OnlyWaits u (u.modUid x.uid (fun m => m.tokDone x.id)) := OnlyWaits.modUid _ _ _ (fun _ => rfl) (fun _ => rfl)
  exact (htables.trans hretired).trans
    (OnlyWaits.setWaits (u.modUid x.uid (fun m => m.tokDone x.id)) x.core (fun t => t.wait = .queue x.id) .ready)

/-- No thread waits for the push any more. -/
theorem enteredState_ready {s : State} {q : HwQueue} {x : QOp} {n l : Nat} {y : Thread}
    (h : (enteredState s q x).thread? x.core n l = some y) : y.wait ≠ .queue x.id := by
  unfold enteredState at h
  rw [thread?_setWaits] at h
  obtain ⟨z, -, rfl⟩ := Option.map_eq_some_iff.1 h
  split
  · exact Wait.noConfusion
  · next hz => exact fun hw => hz ⟨rfl, decide_eq_true hw⟩

/-! ### Pops and tries deliver -/

/-- Changes that read a team's registers alone. -/
theorem setSr_sregs (d : Nat) (v : Team → Word) (hv : ∀ m m' : Team, m.sregs = m'.sregs → v m = v m') :
    ∀ m m' : Team, m.sregs = m'.sregs → (m.setSr d (v m)).sregs = (m'.setSr d (v m')).sregs := by
  intro m m' h
  simp only [Team.setSr, h, hv m m' h]

theorem setSr2_sregs (d : Nat) (v : DWord) : ∀ m m' : Team, m.sregs = m'.sregs → (m.setSr2 d v).sregs = (m'.setSr2 d v).sregs := by
  intro m m' h
  simp only [Team.setSr2, Team.setSr, h]

/-- QTRY's status in its team's register (R375). -/
def statusOf (x : QOp) (b : Nat) (t : Team) : Team :=
  if 2 ≤ x.op then t.setSr x.d (BitVec.ofNat 32 ((t.sr x.d).toNat % 0x80000000 + b)) else t

theorem statusOf_sregs (x : QOp) (b : Nat) : ∀ m m' : Team, m.sregs = m'.sregs → (statusOf x b m).sregs = (statusOf x b m').sregs := by
  unfold statusOf
  split
  · exact setSr_sregs x.d (fun t => BitVec.ofNat 32 ((t.sr x.d).toNat % 0x80000000 + b)) (fun m m' h => by simp only [Team.sr, h])
  · exact fun m m' h => h

theorem teamsBy_qtryStatus (s : State) (x : QOp) (empty : Bool) :
    TeamsBy s (s.qtryStatus x empty) x.uid (statusOf x (if empty then 0x80000000 else 0)) := by
  unfold State.qtryStatus statusOf
  split
  · exact TeamsBy.modUid s x.uid _ (fun _ => rfl)
  · exact TeamsBy.of_waits (OnlyWaits.refl s) x.uid

theorem onlyWaits_qopDone (s : State) (x : QOp) : OnlyWaits s (s.qopDone x) :=
  OnlyWaits.trans (t := { s with qops := s.qops.filter (fun y => y.id ≠ x.id) }) (OnlyWaits.outside rfl rfl)
    (OnlyWaits.modUid _ _ _ (fun _ => rfl) (fun _ => rfl))

theorem teamsBy_qopWrite (s : State) (x : QOp) (long : Bool) (bs : List Byte) :
    TeamsBy s (s.qopWrite x long bs) x.uid (fun t => if long then t else t.setSr2 x.a (BitVec.ofNat 64 (ofBytes bs))) := by
  unfold State.qopWrite
  cases long with
  | true => exact TeamsBy.of_waits (OnlyWaits.trans (t := s.writeBytes (scratchKey x.core x.a) bs) (OnlyWaits.outside rfl rfl)
      (OnlyWaits.waitmTouched _ _ _)) x.uid
  | false => exact TeamsBy.modUid s x.uid (fun t => t.setSr2 x.a (BitVec.ofNat 64 (ofBytes bs))) (fun _ => rfl)

theorem beside_qtryStatus (s : State) (x : QOp) (empty : Bool) : beside (s.qtryStatus x empty) = beside s := by
  unfold State.qtryStatus
  split <;> rfl

theorem beside_qopWrite (s : State) (x : QOp) (long : Bool) (bs : List Byte) : beside (s.qopWrite x long bs)
    = beside { s with mem := if long then memPut s.mem (scratchKey x.core x.a) bs else s.mem } := by
  unfold State.qopWrite
  cases long with
  | true => exact beside_waitmTouched _ _ _
  | false => rfl

theorem beside_qopDone {s r : State} (x : QOp) (h : beside s = beside r) :
    beside (s.qopDone x) = beside { r with qops := r.qops.filter (fun y => y.id ≠ x.id) } :=
  congrArg (fun v : State => { v with qops := v.qops.filter (fun y => y.id ≠ x.id) }) h

/-- The acquire of a pop releases, and merges clocks. -/
theorem qopAcquire_waits (s : State) (x : QOp) (scope : Nat) (stamp : List Word) :
    OnlyWaits s (s.qopAcquire x scope stamp) ∧ beside (s.qopAcquire x scope stamp) = beside s := by
  unfold State.qopAcquire
  split
  · exact ⟨OnlyWaits.acquire _ _ _ _ _ _, beside_acquire _ _ _ _ _ _⟩
  · have hfence : OnlyWaits s { s with fences := s.fences ++ [⟨x.id, x.core, x.uid, x.agents, scope, false, true, stamp⟩] } :=
      OnlyWaits.outside rfl rfl
    dsimp only
    split
    · exact ⟨hfence.trans (OnlyWaits.finishFence _ _), beside_finishFence _ _⟩
    · exact ⟨hfence, rfl⟩

/-- The entry that a pop takes: the oldest, its producer's writes up to it complete where the queue is EARLY (R134). -/
theorem poppable_cons {s : State} {q : HwQueue} {e : QEntry} {r : List QEntry} (he : q.entries = e :: r)
    (hearly : q.early = true → ∀ w ∈ s.writes, ∀ l k n, w.owner = .team l e.uid k n → e.count.toNat < n.toNat) :
    s.poppable q = some e := by
  unfold State.poppable
  rw [he]
  refine if_neg ?_
  rw [Bool.and_eq_true, List.any_eq_true]
  rintro ⟨hq, w, hw, hbad⟩
  cases ho : w.owner with
  | team l u k n =>
    rw [ho] at hbad
    simp only [Bool.and_eq_true, decide_eq_true_eq] at hbad
    obtain ⟨hu, hle⟩ := hbad
    exact absurd (hearly hq w hw l k n (by rw [ho, hu])) (Nat.not_lt.2 hle)
  | cmd l id c => rw [ho] at hbad; cases hbad
  | keystone => rw [ho] at hbad; cases hbad

/-- A queue's table does not bear on where its ring lies. -/
theorem walkFrom_hwqs (s : State) (h : KV HwQueue) (ctx va : Nat) (ls : List (Nat × Nat × Option Nat)) (table : Nat) :
    ({ s with hwqs := h } : State).walkFrom ctx va ls table = s.walkFrom ctx va ls table := by
  induction ls generalizing table with
  | nil => rfl
  | cons e r ih =>
    obtain ⟨sh, w, size⟩ := e
    simp only [State.walkFrom, ih]
    rfl

theorem ringGet_hwqs (s : State) (h : KV HwQueue) (q : HwQueue) (e : QEntry) :
    ({ s with hwqs := h } : State).ringGet q e = s.ringGet q e := by
  have hwalk : ∀ ctx va, ({ s with hwqs := h } : State).walk ctx va = s.walk ctx va := by
    intro ctx va
    simp only [State.walk, walkFrom_hwqs]
    rfl
  have hplace : ∀ ctx a w, ({ s with hwqs := h } : State).ksPlace ctx a w = s.ksPlace ctx a w := by
    intro ctx a w
    simp only [State.ksPlace, hwalk]
    rfl
  simp only [State.ringGet, State.ringKey, hplace]
  rfl

section
variable {s : State} {x : QOp} {q : HwQueue} (hq : kvGet s.hwqs x.q = some q)
  (hf : s.qops.find? (fun y => y.id = x.id && y.op ≠ 0) = some x) (hr : s.remoteReady (coreDie x.core) q.home = true)
  (hturn : ∀ y ∈ s.qops, y.q = x.q → y.uid = x.uid → y.id < x.id → y.op = 0 ∧ 2 ^ q.logcap ≤ q.entries.length)

/-- The state in which a pop or try has taken an entry. -/
def poppedState (s : State) (x : QOp) (q : HwQueue) (e : QEntry) : State :=
  let t : State := { s with hwqs := kvPut s.hwqs x.q { q with entries := q.entries.tail } }
  ((t.qopWrite x q.long (t.ringGet q e)).qtryStatus x false).qopDone x

include hq hf hr hturn

theorem exec_qpopDeliver : exec (.qpopDeliver x.id) s = .next (match s.poppable q with
    | none => if 2 ≤ x.op then (s.qtryStatus x true).qopDone x else s
    | some e => if x.op = 3 then s else (poppedState s x q e).qopAcquire x (if q.early then 2 else q.scope)
        ((poppedState s x q e).stampOf x.core q.home)) := by
  have hx0 : x.op ≠ 0 := by
    have h := List.find?_some hf
    simp only [Bool.and_eq_true, decide_eq_true_eq] at h
    exact h.2
  have hqueue : s.queueTurn x (decide (2 ^ q.logcap ≤ q.entries.length)) = true :=
    queueTurn_of fun y hy h1 h2 h3 => ⟨hx0, (hturn y hy h1 h2 h3).1, decide_eq_true (hturn y hy h1 h2 h3).2⟩
  have hgo : ¬ (!s.remoteReady (coreDie x.core) q.home || !s.queueTurn x (decide (2 ^ q.logcap ≤ q.entries.length))) = true := by
    rw [hr, hqueue]
    decide
  show execQpopDeliver x.id s = _
  simp only [execQpopDeliver, hf, hq]
  exact congrArg _ (if_neg hgo)

end

theorem beside_poppedState (s : State) (x : QOp) {q : HwQueue} {e : QEntry} {r : List QEntry} (he : q.entries = e :: r) :
    beside (poppedState s x q e) = beside { s with
      hwqs := kvPut s.hwqs x.q { q with entries := r }
      mem := if q.long then memPut s.mem (scratchKey x.core x.a) (s.ringGet q e) else s.mem
      qops := s.qops.filter (fun y => y.id ≠ x.id) } := by
  unfold poppedState
  rw [he]
  dsimp only [List.tail_cons]
  rw [beside_qopDone x ((beside_qtryStatus _ _ _).trans (beside_qopWrite _ _ _ _)), ringGet_hwqs]

theorem teamsBy_poppedState (s : State) (x : QOp) (q : HwQueue) (e : QEntry) : TeamsBy s (poppedState s x q e) x.uid
    (fun t => statusOf x 0 (if q.long then t else t.setSr2 x.a (BitVec.ofNat 64 (ofBytes (s.ringGet q e))))) := by
  let t : State := { s with hwqs := kvPut s.hwqs x.q { q with entries := q.entries.tail } }
  have hopen : TeamsBy s t x.uid id := TeamsBy.of_waits (OnlyWaits.outside rfl rfl) x.uid
  have hwrite := teamsBy_qopWrite t x q.long (t.ringGet q e)
  rw [ringGet_hwqs] at hwrite
  have hstatus := teamsBy_qtryStatus (t.qopWrite x q.long (s.ringGet q e)) x false
  have hdone := TeamsBy.of_waits (onlyWaits_qopDone ((t.qopWrite x q.long (s.ringGet q e)).qtryStatus x false) x) x.uid
  have hregs : ∀ m m' : Team, m.sregs = m'.sregs →
      (if q.long then m else m.setSr2 x.a (BitVec.ofNat 64 (ofBytes (s.ringGet q e)))).sregs
        = (if q.long then m' else m'.setSr2 x.a (BitVec.ofNat 64 (ofBytes (s.ringGet q e)))).sregs := by
    intro m m' h
    split
    · exact h
    · exact setSr2_sregs _ _ m m' h
  unfold poppedState
  dsimp only
  rw [ringGet_hwqs]
  exact TeamsBy.trans (W := id) (fun _ _ h => h) (TeamsBy.trans (statusOf_sregs x 0) (TeamsBy.trans hregs hopen hwrite) hstatus) hdone

end Sys2Proof.Machine

/-! ### SEAL and UNSEAL -/

namespace Sys2Proof.Machine

/-- A leaf is written with its bit 5 set as `bit` says, and the TLBs drop what they hold of its range (R128, R129). -/
def leafPut (ctx bit : Nat) (s : State) (f : Leaf) : State :=
  (s.homeWrite f.pte (toBytes 8 (f.val / 64 * 64 + bit + f.val % 32))).dropTlb ctx f.va (f.va + f.bytes)

theorem seals_dropTlb (s : State) (ctx lo hi : Nat) : (s.dropTlb ctx lo hi).seals = s.seals := rfl

theorem seals_leafPuts (ctx bit : Nat) (ls : List Leaf) (s : State) : (ls.foldl (leafPut ctx bit) s).seals = s.seals := by
  induction ls generalizing s with
  | nil => rfl
  | cons f r ih =>
    rw [List.foldl_cons, ih]
    exact (seals_dropTlb _ _ _ _).trans (seals_of_ksAside (ksAside_homeWrite s f.pte _))

/-- Lines that are dropped leave every table but the copies and the L1 views. -/
theorem dropLines_eq (s : State) (key n : Nat) : ∃ a b, s.dropLines key n = { s with copies := a, l1 := b } := by
  unfold State.dropLines
  split
  · exact ⟨_, _, rfl⟩
  · exact ⟨s.copies, s.l1, rfl⟩

theorem tables_dropLines (ls : List Leaf) (s : State) :
    (ls.foldl (fun t f => t.dropLines f.key f.bytes) s).seals = s.seals
    ∧ (ls.foldl (fun t f => t.dropLines f.key f.bytes) s).sealedFrames = s.sealedFrames := by
  induction ls generalizing s with
  | nil => exact ⟨rfl, rfl⟩
  | cons f r ih =>
    obtain ⟨a, b, e⟩ := dropLines_eq s f.key f.bytes
    obtain ⟨h1, h2⟩ := ih (s.dropLines f.key f.bytes)
    rw [List.foldl_cons, h1, h2, e]
    exact ⟨rfl, rfl⟩

/-- The threads of a command that ends are ready. -/
theorem thread?_sealDone (s : State) (r : SealReq) (c n l : Nat) : (s.sealDone r).thread? c n l
    = (s.thread? c n l).map (fun x => if c = r.core ∧ x.wait = .seal r.id then { x with wait := .ready } else x) := by
  unfold State.sealDone
  rw [thread?_setWaits]
  simp only [decide_eq_true_eq]
  rfl

theorem sealDone_ready {s : State} {r : SealReq} {n l : Nat} {x : Thread} (h : (s.sealDone r).thread? r.core n l = some x) :
    x.wait ≠ .seal r.id := by
  rw [thread?_sealDone] at h
  obtain ⟨y, -, rfl⟩ := Option.map_eq_some_iff.1 h
  split
  · exact Wait.noConfusion
  · next hy => exact fun hw => hy ⟨rfl, hw⟩

section
variable {s : State} {r : SealReq}

theorem exec_sealComplete_over (hf : s.seals.find? (fun o => o.id = r.id && !o.unsl) = some r) (ha : r.accepted = true)
    (ho : s.allOver r.awaiting = true) : exec (.sealComplete r.id) s
      = .next { s.sealDone r with sealedFrames := (s.sealedFrames ++ leafFrames (s.sealLeaves r)).dedup } := by
  show execSealComplete r.id s = _
  simp only [execSealComplete, hf]
  rw [if_pos ha, if_pos ho]

theorem exec_sealComplete_accept (hf : s.seals.find? (fun o => o.id = r.id && !o.unsl) = some r) (ha : r.accepted = false)
    (hr : s.sealReady r = true) :
    let t := (s.sealLeaves r).foldl (leafPut r.ctx 32) s
    exec (.sealComplete r.id) s = .next { t with seals := t.seals.map (fun (o : SealReq) => if o.id = r.id then
      { o with accepted := true, awaiting := (s.sealLeaves r).flatMap (fun f => t.writesTo f.key f.bytes) } else o) } := by
  show execSealComplete r.id s = _
  simp only [execSealComplete, hf]
  rw [if_neg (by rw [ha]; decide), if_neg (by rw [hr]; decide)]
  rfl

/-- The state in which the copies of the region are gone, and its frames are sealed no more. -/
def unsealedLines (s : State) (r : SealReq) : State :=
  { (s.sealLeaves r).foldl (fun t f => t.dropLines f.key f.bytes) s with
    sealedFrames := s.sealedFrames.filter (fun g => !(leafFrames (s.sealLeaves r)).contains g) }

theorem exec_unsealComplete (hf : s.seals.find? (fun o => o.id = r.id && o.unsl) = some r) (hr : s.sealReady r = true) :
    exec (.unsealComplete r.id) s = .next (((s.sealLeaves r).foldl (leafPut r.ctx 0) (unsealedLines s r)).sealDone r) := by
  show execUnsealComplete r.id s = _
  simp only [execUnsealComplete, hf]
  rw [if_neg (by rw [hr]; decide), (tables_dropLines (s.sealLeaves r) s).2]
  rfl

end

/-- Settles O42: a push, a pop and a try at their queue, the ring's memory, and the steps of SEAL and UNSEAL. -/
theorem queueTransfersAndSeals : Obligations.QueueTransfersAndSeals := by
  unfold Obligations.QueueTransfersAndSeals
  refine ⟨fun s x q hq => ?_, fun s q k bs hx hs => ⟨beside_homeWrite s k bs hx, ringPut_none s bs, beside_ringPut s hx⟩, fun s r => ?_⟩
  · intro rest
    refine ⟨fun hf hh hroom hr hturn => ?_, fun hf hr hturn => ?_⟩
    · have hput := ksAside_ringPut s q (enteringEntry q x).1
      obtain ⟨hqops, hhwqs, hmem⟩ := tables_enteredState (s.ringPut q (enteringEntry q x).1) q x
      rw [qops_of_ksAside hput] at hqops
      rw [hwqs_of_ksAside hput] at hhwqs
      refine ⟨_, exec_qpushEnterRing hq hf hh hroom hr hturn, hqops, ?_, fun n hn => ?_, hmem,
        ((onlyWaits_ringPut s q _).trans (onlyWaits_enteredState _ q x)).threads, fun n l y => enteredState_ready⟩
      · rw [hhwqs]
        exact kvGet_put_same _ _ _
      · rw [hhwqs]
        exact kvGet_put_ne _ _ _ _ hn
    · intro did status
      have he := exec_qpopDeliver hq hf hr hturn
      refine ⟨fun h2 hp => ?_, fun hnil => ?_, fun e r hcons hearly => ⟨fun h3 => ?_, fun h3 => ?_⟩⟩
      · rw [hp] at he
        refine ⟨_, he.trans (congrArg _ (if_pos h2)), beside_qopDone x (beside_qtryStatus s x true), ?_⟩
        exact TeamsBy.trans (W := id) (fun _ _ h => h) (teamsBy_qtryStatus s x true)
          (TeamsBy.of_waits (onlyWaits_qopDone (s.qtryStatus x true) x) x.uid)
      · unfold State.poppable
        rw [hnil]
      · obtain ⟨hwaits, hbeside⟩ := qopAcquire_waits (poppedState s x q e) x (if q.early then 2 else q.scope)
          ((poppedState s x q e).stampOf x.core q.home)
        rw [poppable_cons hcons hearly] at he
        refine ⟨_, he.trans (congrArg _ (if_neg h3)), hbeside.trans (beside_poppedState s x hcons), ?_⟩
        exact TeamsBy.trans (W := id) (fun _ _ h => h) (teamsBy_poppedState s x q e) (TeamsBy.of_waits hwaits x.uid)
      · rw [poppable_cons hcons hearly] at he
        exact he.trans (congrArg _ (if_pos h3))
  · intro ls put ready
    refine ⟨fun hf => ⟨fun ha ho => ?_, fun ha hr => ?_⟩, fun hf hr => ?_⟩
    · exact ⟨_, exec_sealComplete_over hf ha ho, ⟨rfl, thread?_sealDone s r⟩, rfl⟩
    · refine ⟨_, exec_sealComplete_accept hf ha hr, rfl, ?_⟩
      exact congrArg (List.map _) (seals_leafPuts r.ctx 32 ls s)
    · refine ⟨_, exec_unsealComplete hf hr, ?_, fun n l x => sealDone_ready, rfl⟩
      have hseals : ((s.sealLeaves r).foldl (leafPut r.ctx 0) (unsealedLines s r)).seals = s.seals :=
        (seals_leafPuts _ _ _ _).trans (tables_dropLines (s.sealLeaves r) s).1
      exact congrArg (List.filter (fun o => o.id ≠ r.id)) hseals

end Sys2Proof.Machine

/-! ### Contexts, hardware queues and host requests -/

namespace Sys2Proof.Machine

/-- A registration of a context that does not stand, through an interface in CONFIG_UNLOCKED. -/
theorem contextRegistration_unlocked {s : State} {r : CtxReg} (hup : s.up = true) (hf : r.fn < 32) (hr : (s.iface r.fn).resetting = 0)
    (hst : (s.iface r.fn).state = 0) (hc : s.context? r.ctx = none) :
    exec (.contextRegistration r) s = .next { s with contexts := kvPut s.contexts r.ctx ⟨r, false, 0, [], false⟩ } := by
  show execContextRegistration r s = _
  simp [execContextRegistration, hup, hf, hr, hst, hc]

/-- A registration written anew. -/
theorem contextRegistration_anew {s : State} {r : CtxReg} {c : Context} (hup : s.up = true) (hf : r.fn < 32)
    (hr : (s.iface r.fn).resetting = 0) (hst : (s.iface r.fn).state = 0) (hc : s.context? r.ctx = some c) (hfn : c.reg.fn = r.fn) :
    exec (.contextRegistration r) s = .next { s with contexts := kvPut s.contexts r.ctx { c with reg := r } } := by
  show execContextRegistration r s = _
  simp [execContextRegistration, hup, hf, hr, hst, hc, hfn]

/-- A protected registration. -/
theorem contextRegistration_run {s : State} {r : CtxReg} (hup : s.up = true) (hf : r.fn < 32) (hr : (s.iface r.fn).resetting = 0)
    (hst : (s.iface r.fn).state = 2) (hc : s.context? r.ctx = none) (hk : r.keySlot < 64) (hs : (s.key r.keySlot).state = 0) :
    exec (.contextRegistration r) s = .next { s with
      contexts := kvPut s.contexts r.ctx ⟨r, true, 0, [], false⟩, keys := kvPut s.keys r.keySlot ⟨1, 0, r.ctx⟩
      owners := (granuleKeys r).foldl (fun m k => kvSetD 0 m (granuleOf k) (r.ctx % 65536)) s.owners } := by
  show execContextRegistration r s = _
  simp [execContextRegistration, hup, Nat.not_le.2 hf, hr, hst, hc, Nat.not_le.2 hk, hs]

/-- A registration of a locked register. -/
theorem contextRegistration_locked {s : State} {r : CtxReg} (hup : s.up = true) (hf : r.fn < 32) (hr : (s.iface r.fn).resetting = 0)
    (h : (s.iface r.fn).state = 1 ∨ ((s.iface r.fn).state = 2 ∧ s.context? r.ctx ≠ none)) :
    exec (.contextRegistration r) s = .next (s.enterError r.fn true false false) := by
  show execContextRegistration r s = _
  rcases h with hst | ⟨hst, hc⟩
  · simp [execContextRegistration, hup, hf, hr, hst]
  · simp [execContextRegistration, hup, hf, hr, hst, Option.isSome_iff_ne_none.2 hc]

theorem contextRegistration_error {s : State} {r : CtxReg} (hst : (s.iface r.fn).state = 3) :
    exec (.contextRegistration r) s = .next s := by
  show execContextRegistration r s = _
  simp [execContextRegistration, hst]

/-- A context that no launch needs ends. -/
theorem contextEnd_eq {s : State} {ctx : Nat} {c : Context} (hup : s.up = true) (hc : s.context? ctx = some c)
    (hl : ∀ e ∈ s.launches, e.2.ctx ≠ ctx) :
    let t := s.dropEstates ctx
    let u := if c.prot then t.killKey c.reg.keySlot else t
    exec (.contextEnd ctx) s = .next { u with
      groups := u.groups.map (fun (e : Nat × Group) => if e.2.ctx = ctx && e.2.state = GState.opened then (e.1, e.2.closed) else e)
      owners := (granuleKeys c.reg).foldl (fun m k => kvDel m (granuleOf k)) u.owners
      hwqs := u.hwqs.filter (fun e => e.2.ctx ≠ ctx)
      contexts := kvDel u.contexts ctx } := by
  have hany : s.launches.any (fun e => decide (e.2.ctx = ctx)) = false := by
    rw [List.any_eq_false]
    intro e he
    rw [decide_eq_true_eq]
    exact hl e he
  dsimp only
  show execContextEnd ctx s = _
  simp only [execContextEnd, hc, hup, hany]
  rfl

/-- The lowest number of a free place is the first one that a search meets. -/
theorem find?_range_lowest (p : Nat → Bool) {n m : Nat} (hm : m < n) (hp : p m = true) (hlow : ∀ k, k < m → p k = false) :
    (List.range n).find? p = some m := by
  rw [List.find?_range_eq_some]
  exact ⟨hp, List.mem_range.2 hm, fun k hk => by rw [hlow k hk]; rfl⟩

/-- The host writes its own memory. -/
theorem hostRequest_host {s : State} {r : HostReq} {bs : List Byte} (hh : r.host = true) (hd : r.data = some bs) :
    exec (.hostRequest r) s
      = .next (({ s with mem := memPut s.mem (keyOf spHost r.pa) bs } : State).waitmTouched (keyOf spHost r.pa) bs.length) := by
  show execHostRequest r s = _
  simp only [execHostRequest, hh, if_true, hd]
  rfl

/-- The bytes that a host request names. -/
def hostSize (r : HostReq) : Nat := match r.data with | some bs => bs.length | none => r.n

/-- What a host request performs: its write, or a read, which leaves the device. -/
def hostWrites (s : State) (r : HostReq) : State := match r.data with | some bs => s.ksWrite (keyOf spDevice r.pa) bs | none => s

section
variable {s : State} {r : HostReq} (hup : s.up = true) (hh : r.host = false) (hn : 0 < hostSize r)
include hup hh hn

/-- A request that names bytes is dropped under a dead key, performed where it may, and refused elsewhere. -/
theorem hostRequest_cases : exec (.hostRequest r) s =
    if s.ideDead r then
      .next (if r.fn < 32 && ((s.iface r.fn).state = 1 || (s.iface r.fn).state = 2) then s.enterError r.fn false false true else s)
    else if s.requestOk r then
      if !memExists s.part (keyOf spDevice r.pa) then .fault (.noSuchMemory (keyOf spDevice r.pa))
      else accessing s (keyOf spDevice r.pa + hostSize r - 1) (hostWrites s r)
    else .next (s.refuseRequest r) := by
  have hgo : ¬ (!s.up || decide (hostSize r = 0)) = true := by
    simp [hup, Nat.pos_iff_ne_zero.1 hn]
  show execHostRequest r s = _
  unfold execHostRequest
  dsimp only
  rw [if_neg (by simp [hh])]
  exact if_neg hgo

theorem hostRequest_dead (hd : s.ideDead r = true) : exec (.hostRequest r) s
    = .next (if r.fn < 32 ∧ ((s.iface r.fn).state = 1 ∨ (s.iface r.fn).state = 2) then s.enterError r.fn false false true else s) := by
  rw [hostRequest_cases hup hh hn, if_pos hd]
  simp only [Bool.and_eq_true, Bool.or_eq_true, decide_eq_true_eq]

theorem hostRequest_performed (hd : s.ideDead r = false) (ho : s.requestOk r = true)
    (hk : memExists s.part (keyOf spDevice r.pa) = true)
    (hl : memExists s.part (keyOf spDevice r.pa + hostSize r - 1) = true) :
    exec (.hostRequest r) s = .next (hostWrites s r) := by
  rw [hostRequest_cases hup hh hn, if_neg (by simp [hd]), if_pos ho, if_neg (by simp [hk]), accessing, if_pos hl]

theorem hostRequest_refused (hd : s.ideDead r = false) (ho : s.requestOk r = false) :
    exec (.hostRequest r) s = .next (s.refuseRequest r) := by
  rw [hostRequest_cases hup hh hn, if_neg (by simp [hd]), if_neg (by simp [ho])]

end

/-- The state in which the refusal of a function's request is logged, and its stream's context has faulted. -/
def refusedState (s : State) (r : HostReq) : State :=
  let logged := s.logWrite false 5 5 0 0 (BitVec.ofNat 64 (r.ide.getD 0)) 1
  match r.ide with
  | some c => logged.contextFault c ⟨0x20, 0, 0, r.pa, 5, 0, 0, false, 0, 0, 0⟩
  | none => logged

theorem refuseRequest_function (s : State) (r : HostReq) (hf : r.fn < 32) :
    let t := refusedState s r
    s.refuseRequest r = if (t.iface r.fn).state = 1 || (t.iface r.fn).state = 2 then t.enterError r.fn false true false
      else t.setIface r.fn { t.iface r.fn with fwall := true } := by
  unfold State.refuseRequest
  rw [if_pos hf]
  rfl

theorem refuseRequest_foreign (s : State) (r : HostReq) (hf : 32 ≤ r.fn) :
    s.refuseRequest r = s.logWrite false 5 5 0 0 (BitVec.ofNat 64 (r.ide.getD 0)) 0 := by
  unfold State.refuseRequest
  exact if_neg (Nat.not_lt.2 hf)

/-- Settles O53: each step evaluates, case by case, to the state that the statement names. -/
theorem contextsQueuesAndHostRequests : Obligations.ContextsQueuesAndHostRequests := by
  unfold Obligations.ContextsQueuesAndHostRequests
  intro s hup
  refine ⟨fun r hf hr => ⟨fun hst hc => contextRegistration_unlocked hup hf hr hst hc,
      fun c hst hc hfn => contextRegistration_anew hup hf hr hst hc hfn,
      fun hst hc hk hs => contextRegistration_run hup hf hr hst hc hk hs,
      fun h => contextRegistration_locked hup hf hr h, fun hst => contextRegistration_error hst⟩,
    fun ctx c hc hl => contextEnd_eq hup hc hl,
    fun ctx desc c key n hc hk hn hfree hlow => ?_, fun r => ⟨fun hh bs hd => hostRequest_host hh hd, fun hh hn => ⟨fun hd => hostRequest_dead hup hh hn hd,
      fun hd ho hl hk => ⟨fun hdat => ?_, fun bs hdat => ?_⟩, fun hd ho => ?_⟩⟩⟩
  · intro d m a q hdesc
    have hfind : (List.range 4096).find? (fun n => (kvGet s.hwqs n).isNone) = some n :=
      find?_range_lowest _ hn (by rw [hfree]; rfl) (fun k hkn => by
        rw [Option.isNone_eq_false_iff, Option.isSome_iff_ne_none]
        exact hlow k hkn)
    show execHardwareQueueRegistration ctx desc s = _
    simp only [execHardwareQueueRegistration, hc, hk, hfind]
    rw [if_neg (by simp [hup, show descOk (s.ksRead ctx desc 64) = true from hdesc])]
  · rw [hostRequest_performed hup hh hn hd ho hk hl, hostWrites, hdat]
  · rw [hostRequest_performed hup hh hn hd ho hk hl, hostWrites, hdat]
  · rw [hostRequest_refused hup hh hn hd ho]
    refine ⟨fun hf => ?_, fun hf => ?_⟩
    · rw [refuseRequest_foreign s r hf, if_neg (Nat.not_lt.2 hf)]
    · rw [refuseRequest_function s r hf, if_pos hf]
      refine ⟨fun hst => congrArg _ (if_neg ?_), fun hst => congrArg _ (if_pos ?_)⟩
      · have hst' : ((refusedState s r).iface r.fn).state = 0 ∨ ((refusedState s r).iface r.fn).state = 3 := hst
        simp only [Bool.or_eq_true, decide_eq_true_eq]
        omega
      · rw [Bool.or_eq_true, decide_eq_true_eq, decide_eq_true_eq]
        exact hst

end Sys2Proof.Machine

/-! ### SUPPORT: estates, the counts of their lineages, and settles (R135, R139, R140, R150, R153) -/

namespace Sys2Proof.Machine

/-- A saturating count that has counted something stands above zero (R153). -/
theorem satInc_ne_zero (w : Word) {n : Nat} (hn : 0 < n) : satInc w n ≠ 0 := by
  intro h
  have hw : (satInc w n).toNat = min (w.toNat + n) 4294967295 := by
    rw [satInc, BitVec.toNat_ofNat]
    omega
  rw [h, show (0 : Word).toNat = 0 from rfl] at hw
  omega

/-- The counts of a lineage that is changed stand in the state, whether the change opened it or not (R135). -/
theorem exists_mem_modLineage {s : State} {ctx lin : Nat} {f : Lineage → Lineage} {P : Lineage → Prop}
    (hf : ∀ k : Lineage, k.ctx = ctx → k.lin = lin → P (f k)) : ∃ c ∈ (s.modLineage ctx lin f).lineages, P c := by
  unfold State.modLineage
  split
  · next hopen =>
    obtain ⟨k, hk, hkey⟩ := List.any_eq_true.1 hopen
    refine ⟨f k, List.mem_map.2 ⟨k, hk, if_pos hkey⟩, ?_⟩
    simp only [Bool.and_eq_true, decide_eq_true_eq] at hkey
    exact hf k hkey.1 hkey.2
  · exact ⟨f (Lineage.opened ctx lin), List.mem_append_right _ (List.mem_singleton_self _), hf _ rfl rfl⟩

theorem modLineage_stores (s : State) (ctx lin : Nat) (f : Lineage → Lineage) : (s.modLineage ctx lin f).stores = s.stores := by
  unfold State.modLineage
  split <;> rfl

theorem modLineage_nextSeq (s : State) (ctx lin : Nat) (f : Lineage → Lineage) :
    (s.modLineage ctx lin f).nextSeq = s.nextSeq := by
  unfold State.modLineage
  split <;> rfl

theorem modLineage_settles (s : State) (ctx lin : Nat) (f : Lineage → Lineage) :
    (s.modLineage ctx lin f).settles = s.settles := by
  unfold State.modLineage
  split <;> rfl

/-- Is a settle's estate of a cancelled sibling of its launch (R150)? -/
def State.settleCancelled (s : State) (x : Settle) : Bool :=
  match s.launch? x.launch with
  | some l => l.hdr.sibf ≠ 0 && s.sibCancelled l (l.hdr.sibOfId x.est.ident)
  | none => false

theorem settleCancelled_iff (s : State) (x : Settle) : s.settleCancelled x = true ↔
    ∃ l, s.launch? x.launch = some l ∧ l.hdr.sibf ≠ 0 ∧ s.sibCancelled l (l.hdr.sibOfId x.est.ident) = true := by
  unfold State.settleCancelled
  cases s.launch? x.launch <;> simp

/-- The entries that stay beside an estate: those that are pinned or of another key (R140). -/
def Estate.keptBeside (e : Estate) (held : List Estate) : List Estate :=
  held.filter (fun y => y.pinned || !(y.ctx = e.ctx && y.lin = e.lin && y.ident = e.ident))

theorem pinned_of_mem_keptBeside {e y : Estate} {held : List Estate} (hy : y ∈ e.keptBeside held)
    (hkey : y.ctx = e.ctx ∧ y.lin = e.lin ∧ y.ident = e.ident) : y.pinned = true := by
  obtain ⟨hctx, hlin, hident⟩ := hkey
  simpa [hctx, hlin, hident] using (List.mem_filter.1 hy).2

/-- A settle counted in its lineage, with so many estates discarded and cancelled, and over. -/
def State.settleCounted (s : State) (x : Settle) (discarded cancelled : Nat) : State :=
  { s.modLineage x.est.ctx x.est.lin (fun k => { k with
      bequeathed := satInc k.bequeathed, discarded := satInc k.discarded discarded, cancelled := satInc k.cancelled cancelled }) with
    settles := s.settles.filter (fun y => y.id ≠ x.id) }

/-- A settle counted, its estate in its core's store as the youngest entry, where those of its key that are not pinned made way. -/
def State.settleStored (s : State) (x : Settle) : State :=
  let held := kvGetD [] s.stores x.core
  let kept := x.est.keptBeside held
  { s.settleCounted x (held.length - kept.length) 0 with
    nextSeq := s.nextSeq + 1, stores := kvPut s.stores x.core (kept ++ [{ x.est with order := s.nextSeq }]) }

theorem settleCounted_stores (s : State) (x : Settle) (d c : Nat) : (s.settleCounted x d c).stores = s.stores :=
  modLineage_stores _ _ _ _

/-- Every settle counts an estate bequeathed. -/
theorem settleCounted_bequeathed (s : State) (x : Settle) (d c : Nat) : ∃ k ∈ (s.settleCounted x d c).lineages,
    k.ctx = x.est.ctx ∧ k.lin = x.est.lin ∧ k.bequeathed ≠ 0 :=
  exists_mem_modLineage fun _ hctx hlin => ⟨hctx, hlin, satInc_ne_zero _ Nat.one_pos⟩

/-- An estate of a cancelled sibling is counted three times: bequeathed, discarded and cancelled (R150). -/
theorem settleCounted_discarded (s : State) (x : Settle) : ∃ k ∈ (s.settleCounted x 1 1).lineages,
    k.ctx = x.est.ctx ∧ k.lin = x.est.lin ∧ k.bequeathed ≠ 0 ∧ k.discarded ≠ 0 ∧ k.cancelled ≠ 0 :=
  exists_mem_modLineage fun _ hctx hlin => ⟨hctx, hlin, satInc_ne_zero _ Nat.one_pos, satInc_ne_zero _ Nat.one_pos,
    satInc_ne_zero _ Nat.one_pos⟩

theorem settleStored_store (s : State) (x : Settle) : kvGetD [] (s.settleStored x).stores x.core
    = x.est.keptBeside (kvGetD [] s.stores x.core) ++ [{ x.est with order := s.nextSeq }] := by
  rw [kvGetD, State.settleStored, kvGet_put_same, Option.getD_some]

/-- An entry of the settled key is pinned, or the one just settled (R140). -/
theorem settleStored_of_key {s : State} {x : Settle} {y : Estate} (hy : y ∈ kvGetD [] (s.settleStored x).stores x.core)
    (hkey : y.ctx = x.est.ctx ∧ y.lin = x.est.lin ∧ y.ident = x.est.ident) :
    y.pinned = true ∨ y = { x.est with order := s.nextSeq } := by
  rw [settleStored_store] at hy
  exact (List.mem_append.1 hy).imp (fun hk => pinned_of_mem_keptBeside hk hkey) List.mem_singleton.1

section
variable {s : State} {x : Settle} (hf : s.settles.find? (fun o => o.id = x.id) = some x)
include hf

/-- A mark of a cancelled sibling (R150). -/
theorem exec_estateSettle_cancelled (hg : s.settleCancelled x = true) :
    exec (.estateSettle x.id) s = .next (s.settleCounted x 1 1) := by
  show execEstateSettle x.id s = _
  unfold execEstateSettle
  rw [hf]
  refine (congrArg Host.Outcome.next (if_pos hg)).trans ?_
  simp only [State.settleCounted, modLineage_settles]

/-- A mark of no cancelled sibling, in whose core's store there is room (R139, R140). -/
theorem exec_estateSettle_stored (hg : s.settleCancelled x = false)
    (hroom : (x.est.keptBeside (kvGetD [] s.stores x.core)).length < 4096) :
    exec (.estateSettle x.id) s = .next (s.settleStored x) := by
  show execEstateSettle x.id s = _
  unfold execEstateSettle
  rw [hf]
  refine (congrArg Host.Outcome.next ((if_neg (ne_true_of_eq_false hg)).trans (if_pos hroom))).trans ?_
  simp only [State.settleStored, State.settleCounted, State.bump, Estate.keptBeside, modLineage_settles, modLineage_stores,
    modLineage_nextSeq]

end

/-- A close none of whose estates is pinned: the record, its first word last, and the packet (R152 step 4). -/
theorem exec_lineageCloseFinish {s : State} {c : CloseReq} (hf : s.closes.find? (fun o => o.id = c.id) = some c)
    (hp : c.pins = []) :
    let t : State := { s with closes := s.closes.filter (fun o => o.id ≠ c.id) }
    let v := if c.buf = 0 then t else (t.ksStore c.counts.ctx (c.buf + 8) c.counts.words).ksStore c.counts.ctx c.buf
      (toBytes 4 (c.counts.lin + 65536 + if c.overCap then 131072 else 0))
    exec (.lineageCloseFinish c.id) s = .next (if c.launch = none then v.completePacket c.queue 1 0 else v) := by
  show execLineageCloseFinish c.id s = _
  unfold execLineageCloseFinish
  rw [hf]
  refine (congrArg Host.Outcome.next (if_neg (by simp [hp]))).trans ?_
  cases c.launch <;> rfl

/-! ### O44 -/

/-- Settles O44: a settle is discarded or stored by whether its sibling is cancelled, and a close without pins evaluates to its
record and its packet. -/
theorem estatesSettleAndCloses : Obligations.EstatesSettleAndCloses := by
  unfold Obligations.EstatesSettleAndCloses
  refine fun s => ⟨fun x hf => ?_, fun c => exec_lineageCloseFinish⟩
  dsimp only
  rw [← settleCancelled_iff]
  by_cases hg : s.settleCancelled x = true
  · exact ⟨_, exec_estateSettle_cancelled hf hg,
      fun _ => ⟨settleCounted_stores _ _ _ _, rfl, settleCounted_discarded s x⟩, fun hn => absurd hg hn⟩
  by_cases hroom : (x.est.keptBeside (kvGetD [] s.stores x.core)).length < 4096
  · exact ⟨_, exec_estateSettle_stored hf (Bool.eq_false_of_not_eq_true hg) hroom, fun h => absurd h hg,
      fun _ _ => ⟨rfl, settleStored_store s x, fun y hy hkey => settleStored_of_key hy hkey, settleCounted_bequeathed s x _ 0⟩⟩
  · exact ⟨_, rfl, fun h => absurd h hg, fun _ h => absurd h hroom⟩

end Sys2Proof.Machine

/-! ### SUPPORT: the packet at a queue's head, and what reading it leaves as it was (R155 to R157) -/

namespace Sys2Proof.Machine

/-- The state in which the packet at the head of a queue has been read (R155). -/
def State.reading (s : State) (q : Nat) (p : List Byte) : State :=
  s.setQueue q { s.queue q with packet := ⟨(s.queue q).headAddr, (s.queue q).ctx, p⟩ }

@[simp] theorem queue_setQueue_same (s : State) (q : Nat) (x : HostQueue) : (s.setQueue q x).queue q = x := by
  rw [State.queue, State.setQueue_queues, kvGet_put_same, Option.getD_some]

/-- A queue reads as the list of the queues has it. -/
theorem queue_congr {s t : State} (h : t.queues = s.queues) (q : Nat) : t.queue q = s.queue q :=
  congrArg (fun m => (kvGet m q).getD _) h

@[simp] theorem queue_reading (s : State) (q : Nat) (p : List Byte) : (s.reading q p).queue q
    = { s.queue q with packet := ⟨(s.queue q).headAddr, (s.queue q).ctx, p⟩ } :=
  queue_setQueue_same _ _ _

theorem queue_reading_prio (s : State) (q : Nat) (p : List Byte) : ((s.reading q p).queue q).prio = (s.queue q).prio := by
  rw [queue_reading]
theorem queue_reading_fn (s : State) (q : Nat) (p : List Byte) : ((s.reading q p).queue q).fn = (s.queue q).fn := by
  rw [queue_reading]
theorem queue_reading_withdrawn (s : State) (q : Nat) (p : List Byte) :
    ((s.reading q p).queue q).withdrawn = (s.queue q).withdrawn := by
  rw [queue_reading]

/-! What is looked up beside the queues stays as it was. -/

theorem ksRead_reading (s : State) (q : Nat) (p : List Byte) (c : Nat) (a : DWord) (n : Nat) :
    (s.reading q p).ksRead c a n = s.ksRead c a n := rfl

theorem headerDetail_reading (s : State) (q : Nat) (p b : List Byte) : (s.reading q p).headerDetail b = s.headerDetail b := rfl

theorem coresDetail_reading (s : State) (q : Nat) (p : List Byte) (m n : Nat) (d : BitVec 5) :
    (s.reading q p).coresDetail m n d = s.coresDetail m n d := rfl

theorem freeqOk_reading (s : State) (q : Nat) (p : List Byte) (c k : Nat) : (s.reading q p).freeqOk c k = s.freeqOk c k := rfl
theorem freeGroup_reading (s : State) (q : Nat) (p : List Byte) : (s.reading q p).freeGroup = s.freeGroup := rfl
theorem moving_reading (s : State) (q : Nat) (p : List Byte) (l : Launch) : (s.reading q p).moving l = s.moving l := rfl
theorem context?_reading (s : State) (q : Nat) (p : List Byte) (c : Nat) : (s.reading q p).context? c = s.context? c := rfl

section
variable {s : State} {q type : Nat} {p : List Byte} (h : Parses s q type p)
include h

/-- A packet that is parsed completes with BAD_PACKET where a reserved header bit is set; else its body runs on what was read. -/
theorem parse_eq (h1 : 1 ≤ type) (h8 : type ≤ 8) (body : State → Packet → State) :
    s.parse q type body = if 2 ≤ pkt p 1 1 then (s.reading q p).completePacket q 4 0
      else body (s.reading q p) ⟨(s.queue q).headAddr, (s.queue q).ctx, p⟩ := by
  have hkept : ¬ (BitVec.ofNat 32 (pkt p 4 4) ≠ 0#32 ∧ BitVec.ofNat 32 (pkt p 4 4) ∈ (s.queue q).withdrawn) := by
    rintro ⟨hne, hmem⟩
    exact h.kept.elim (fun hz => hne (by rw [hz])) (fun hn => hn hmem)
  have hctx : (s.context? (s.queue q).ctx).isNone = false := by rw [Option.isNone_eq_false_iff]; exact h.context
  have hgo : (!s.up || !(s.queue q).enable || (s.queue q).error || decide ((s.queue q).rptr = (s.queue q).wptr)
      || s.statusHeld q || (s.context? (s.queue q).ctx).isNone || decide ((s.iface (s.queue q).fn).resetting ≠ 0)) = false := by
    simp [h.up, h.enabled, h.sound, h.waiting, h.told, hctx, h.steady]
  unfold State.parse
  simp only [h.idle, hgo, h.bytes, h.kind]
  rw [if_neg Bool.false_ne_true, if_neg (by simpa using hkept), if_neg (by simp; omega), if_neg (by simp)]
  simp only [State.reading, h.idle]

/-- The body of a packet with no reserved header bit runs on what was read. -/
theorem parse_body (h1 : 1 ≤ type) (h8 : type ≤ 8) (hh : pkt p 1 1 < 2) (body : State → Packet → State) :
    s.parse q type body = body (s.reading q p) ⟨(s.queue q).headAddr, (s.queue q).ctx, p⟩ := by
  rw [parse_eq h h1 h8, if_neg (Nat.not_le.2 hh)]

/-- No packet in progress waits for its writes. -/
theorem writesDone_of_parses : s.writesDone q = s := by rw [State.writesDone, h.idle]

/-- No packet in progress saves a launch. -/
theorem saveDone_of_parses (atEnd : Option Nat) : s.saveDone q atEnd = s := by rw [State.saveDone, h.idle]

end

/-- A reserved header bit completes a packet of any kind with BAD_PACKET (R157). -/
theorem exec_reserved {s : State} {q type : Nat} {p : List Byte} (h : Parses s q type p) (hr : 2 ≤ pkt p 1 1) {i : Instr}
    (hi : (i, type) ∈ [(Instr.launch q, 1), (.fencePacket q, 2), (.signal q, 3), (.batch q, 4), (.sibopen q, 5), (.lineageClose q, 6),
        (.save q, 7), (.restore q, 8)]) : exec i s = .next ((s.reading q p).completePacket q 4 0) := by
  have hbad : 1 ≤ type → type ≤ 8 → ∀ body, s.parse q type body = (s.reading q p).completePacket q 4 0 :=
    fun h1 h8 body => by rw [parse_eq h h1 h8, if_pos hr]
  have hw := writesDone_of_parses h
  have hs := saveDone_of_parses h none
  simp only [List.mem_cons, Prod.mk.injEq, List.not_mem_nil, or_false] at hi
  obtain ⟨rfl, rfl⟩ | ⟨rfl, rfl⟩ | ⟨rfl, rfl⟩ | ⟨rfl, rfl⟩ | ⟨rfl, rfl⟩ | ⟨rfl, rfl⟩ | ⟨rfl, rfl⟩ | ⟨rfl, rfl⟩ := hi
  · exact congrArg Host.Outcome.next (hbad (by decide) (by decide) _)
  · exact congrArg Host.Outcome.next (hbad (by decide) (by decide) _)
  · show execSignal q s = _
    simp only [execSignal, hw, hbad (by decide) (by decide)]
  · exact congrArg Host.Outcome.next (hbad (by decide) (by decide) _)
  · show execSibopen q s = _
    simp only [execSibopen, hw, hbad (by decide) (by decide)]
  · exact congrArg Host.Outcome.next (hbad (by decide) (by decide) _)
  · show execSave q s = _
    simp only [execSave, hs, hbad (by decide) (by decide)]
  · exact congrArg Host.Outcome.next (hbad (by decide) (by decide) _)

/-! ### SUPPORT: a launch that passes its checks waits for cores (R160, R166, R208) -/

/-- The launch that a LAUNCH or BATCH packet asks for, as it waits for cores (R160). -/
def waitingLaunch (id q : Nat) (k : Packet) (prio : Nat) (h : Header) (cmin cmax : Nat) (dies : BitVec 5) (cpl : DWord × DWord)
    (batch : Option (Nat × DWord × Nat)) : Launch :=
  ⟨id, k.ctx, q, BitVec.ofNat 32 (pkt k.bytes 4 4), prio, h, h.cores cmin, h.cores cmax, dies, cpl.1, cpl.2,
    .waiting, [], [], [], batch, [], [], [], 0⟩

/-- What a launch that passes its checks changes: it is listed, its queue is busy with it, and its group votes (R160, R208). -/
theorem queueLaunch_eq (v : State) (q : Nat) (k : Packet) (h : Header) (cmin cmax : Nat) (dies : BitVec 5) (cpl : DWord × DWord)
    (batch : Option (Nat × DWord × Nat)) : ∃ groups, v.queueLaunch q k h cmin cmax dies cpl batch
      = { v with nextSeq := v.nextSeq + 1
                 launches := kvPut v.launches v.nextSeq
                   (waitingLaunch v.nextSeq q k (v.queue q).prio h cmin cmax dies cpl batch)
                 groups := groups, queues := kvPut v.queues q { v.queue q with busy := some (.launch v.nextSeq) } }
    ∧ (h.sibf = 0 → groups = v.groups)
    ∧ (h.sibf ≠ 0 → ∀ k g, v.openGroup h.sibgrp = some (k, g) →
      groups = kvPut v.groups k { g with state := .voting, launch := v.nextSeq }) := by
  simp only [State.queueLaunch]
  split
  · next hs => exact ⟨v.groups, rfl, fun _ => rfl, fun hn => absurd hs hn⟩
  · next hs =>
    split
    · next k g ho =>
      refine ⟨_, rfl, fun h0 => absurd h0 hs, fun _ k' g' ho' => ?_⟩
      obtain ⟨rfl, rfl⟩ : k = k' ∧ g = g' := by simpa using ho.symm.trans ho'
      rfl
    · next ho => exact ⟨v.groups, rfl, fun h0 => absurd h0 hs, fun _ k g ho' => absurd (ho.symm.trans ho') nofun⟩

/-- The state that a launch leaves where it passes its checks, part by part, and that nothing else has changed. -/
theorem queueLaunch_effect {v : State} {q prio : Nat} (hprio : (v.queue q).prio = prio) (k : Packet) (h : Header) (cmin cmax : Nat)
    (dies : BitVec 5) (cpl : DWord × DWord) (batch : Option (Nat × DWord × Nat)) :
    let u := v.queueLaunch q k h cmin cmax dies cpl batch
    u.launches = kvPut v.launches v.nextSeq (waitingLaunch v.nextSeq q k prio h cmin cmax dies cpl batch)
    ∧ u.queue q = { v.queue q with busy := some (.launch v.nextSeq) }
    ∧ (h.sibf = 0 → u.groups = v.groups)
    ∧ (h.sibf ≠ 0 → ∀ k g, v.openGroup h.sibgrp = some (k, g) →
      u.groups = kvPut v.groups k { g with state := .voting, launch := v.nextSeq })
    ∧ ({ u with launches := v.launches, queues := v.queues, groups := v.groups, nextSeq := v.nextSeq } : State) = v := by
  obtain ⟨groups, hu, halone, hsibling⟩ := queueLaunch_eq v q k h cmin cmax dies cpl batch
  intro u
  rw [show u = _ from hu, hprio]
  exact ⟨rfl, queue_setQueue_same v q _, halone, hsibling, rfl⟩

/-- The snapshot of an entry leaves the queues as they were. -/
theorem snapEntry_queues (s : State) (ctx : Nat) (wset : List Word) (table snap : DWord) (i : Nat) :
    (s.snapEntry ctx wset table snap i).queues = s.queues := by
  unfold State.snapEntry
  extract_lets a e old st new new'
  split
  · rfl
  · exact queues_ksStore _ _ _ _

/-- A snapshot leaves every queue as it was. -/
theorem snapshot_queue (ctx q : Nat) (wset : List Word) (table snap : DWord) (is : List Nat) (s : State) :
    (is.foldl (fun u i => u.snapEntry ctx wset table snap i) s).queue q = s.queue q := by
  induction is generalizing s with
  | nil => rfl
  | cons i is ih => exact (ih _).trans (queue_congr (snapEntry_queues s ctx wset table snap i) q)

/-- A snapshot tests every tag against the withdraw set that stood when it began (R166, R169). -/
theorem snapshot_withdrawn {ctx q : Nat} {wset : List Word} (table snap : DWord) (is : List Nat) {s : State}
    (hw : (s.queue q).withdrawn = wset) : is.foldl (fun u i => u.snapEntry ctx (u.queue q).withdrawn table snap i) s
      = is.foldl (fun u i => u.snapEntry ctx wset table snap i) s := by
  induction is generalizing s with
  | nil => rw [List.foldl_nil, List.foldl_nil]
  | cons i is ih =>
    rw [List.foldl_cons, List.foldl_cons, hw]
    exact ih (by rw [queue_congr (snapEntry_queues s ctx wset table snap i), hw])

/-! ### SUPPORT: LAUNCH and BATCH (R159, R160, R166) -/

/-- The DETAIL of the first condition of R159 that a launch breaks: of its header, then of its cores. -/
def State.launchDetail (s : State) (hdr : List Byte) (cmin cmax : Nat) (dies : BitVec 5) : Option Nat :=
  (s.headerDetail hdr).or (s.coresDetail cmin cmax dies)

theorem launchDetail_of_header {s : State} {hdr : List Byte} {d : Nat} (hd : s.headerDetail hdr = some d) (cmin cmax : Nat)
    (dies : BitVec 5) : s.launchDetail hdr cmin cmax dies = some d := by
  rw [State.launchDetail, hd, Option.some_or]

/-- Condition 0x0C is the only one that the cores of a launch can break (R159). -/
theorem launchDetail_of_cores {s : State} {hdr : List Byte} (hd : s.headerDetail hdr = none) {cmin cmax : Nat}
    {dies : BitVec 5} (hc : s.coresDetail cmin cmax dies ≠ none) : s.launchDetail hdr cmin cmax dies = some 0x0C := by
  rw [State.launchDetail, hd, Option.none_or]
  unfold State.coresDetail at hc ⊢
  split at hc
  · exact absurd rfl hc
  · next hn => exact if_neg hn

theorem launchDetail_none {s : State} {hdr : List Byte} (hd : s.headerDetail hdr = none) {cmin cmax : Nat}
    {dies : BitVec 5} (hc : s.coresDetail cmin cmax dies = none) : s.launchDetail hdr cmin cmax dies = none := by
  rw [State.launchDetail, hd, Option.none_or, hc]

/-- The fields of a LAUNCH packet's body are neither reserved nor misaligned (R157, R160). -/
def launchBodyOk (p : List Byte) : Prop :=
  pkt p 0x14 4 < 32 ∧ zeroFrom p 0x28 = true ∧ pkt p 8 8 % 128 = 0 ∧ pkt p 0x18 8 % 8 = 0

/-- The fields of a BATCH packet's body are neither reserved nor misaligned (R157, R166). -/
def batchBodyOk (p : List Byte) : Prop :=
  pkt p 0x20 4 < 65536 ∧ pkt p 0x28 4 < 32 ∧ pkt p 0x2C 4 = 0 ∧ pkt p 8 8 % 128 = 0 ∧ pkt p 0x10 8 % 64 = 0 ∧ pkt p 0x18 8 % 64 = 0
    ∧ pkt p 0x30 8 % 8 = 0

/-- The entries of a BATCH fit an extent of its launch (condition 0x0D of R166). -/
abbrev batchFits (h : Header) (nent bf : Nat) : Prop := 1 ≤ nent ∧ nent ≤ 4096 ∧ 2 ≤ bf ∧ bf ≤ 5 ∧ h.ext.getD (bf - 2) 0 = nent

section
variable {s : State} {q : Nat} {p : List Byte}

/-- A LAUNCH with a reserved or misaligned field completes with BAD_PACKET (R157). -/
theorem exec_launch_malformed (h : Parses s q 1 p) (hh : pkt p 1 1 < 2) (hbad : ¬ launchBodyOk p) :
    exec (.launch q) s = .next ((s.reading q p).completePacket q 4 0) := by
  show execLaunch q s = _
  rw [execLaunch, parse_body h (by decide) (by decide) hh]
  refine congrArg _ (if_pos ?_)
  simpa only [Bool.or_eq_true, Bool.not_eq_true', decide_eq_true_eq, ne_eq, not_and_or, Bool.not_eq_true, Nat.not_lt, or_assoc,
    launchBodyOk] using hbad

/-- A LAUNCH whose fields are sound is refused by the first condition of R159 that it breaks, or waits for cores (R160). -/
theorem exec_launch_checked (h : Parses s q 1 p) (hh : pkt p 1 1 < 2) (hok : launchBodyOk p) {refusal : Option Nat} :
    let x := s.queue q
    let r := s.reading q p
    let dies : BitVec 5 := BitVec.ofNat 5 (pkt p 0x14 4)
    let hdr := s.ksRead x.ctx (BitVec.ofNat 64 (pkt p 8 8)) 128
    s.launchDetail hdr (pkt p 0x10 2) (pkt p 0x12 2) dies = refusal → exec (.launch q) s = .next (refusal.elim
      (r.queueLaunch q ⟨x.headAddr, x.ctx, p⟩ (parseHeader hdr) (pkt p 0x10 2) (pkt p 0x12 2) dies
        (BitVec.ofNat 64 (pkt p 0x18 8), BitVec.ofNat 64 (pkt p 0x20 8)) none)
      (fun d => r.completePacket q 3 d)) := by
  rintro x r dies hdr rfl
  show execLaunch q s = _
  rw [execLaunch, parse_body h (by decide) (by decide) hh]
  refine congrArg _ ((if_neg ?_).trans ?_)
  · simpa only [Bool.or_eq_true, Bool.not_eq_true', decide_eq_true_eq, ne_eq, not_or, not_not, Bool.not_eq_false, Nat.not_le, and_assoc,
      launchBodyOk] using hok
  · simp only [ksRead_reading, headerDetail_reading, coresDetail_reading, State.launchDetail]
    cases s.headerDetail hdr with
    | some d => rfl
    | none => cases s.coresDetail (pkt p 0x10 2) (pkt p 0x12 2) dies <;> rfl

/-- A BATCH whose fields are sound is refused by the first condition of R159 that it breaks, or where its entries do not fit; else
it takes its snapshot and waits for cores (R166). -/
theorem exec_batch_checked (h : Parses s q 4 p) (hh : pkt p 1 1 < 2) (hok : batchBodyOk p) {refusal : Option Nat} :
    let x := s.queue q
    let r := s.reading q p
    let dies : BitVec 5 := BitVec.ofNat 5 (pkt p 0x28 4)
    let hdr := s.ksRead x.ctx (BitVec.ofNat 64 (pkt p 8 8)) 128
    let nent := pkt p 0x20 4 % 8192
    let bf := pkt p 0x20 4 / 8192 % 8
    let snap : DWord := BitVec.ofNat 64 (pkt p 0x18 8)
    let shot := (List.range nent).foldl (fun u i => u.snapEntry x.ctx x.withdrawn (BitVec.ofNat 64 (pkt p 0x10 8)) snap i) r
    s.launchDetail hdr (pkt p 0x24 2) (pkt p 0x26 2) dies = refusal → exec (.batch q) s = .next (refusal.elim
      (if batchFits (parseHeader hdr) nent bf then
        shot.queueLaunch q ⟨x.headAddr, x.ctx, p⟩ (parseHeader hdr) (pkt p 0x24 2) (pkt p 0x26 2) dies
          (BitVec.ofNat 64 (pkt p 0x30 8), BitVec.ofNat 64 (pkt p 0x38 8)) (some (bf, snap, nent))
      else r.completePacket q 3 0x0D)
      (fun d => r.completePacket q 3 d)) := by
  rintro x r dies hdr nent bf snap shot rfl
  show execBatch q s = _
  rw [execBatch, parse_body h (by decide) (by decide) hh]
  refine congrArg _ ((if_neg ?_).trans ?_)
  · simpa only [Bool.or_eq_true, Bool.not_eq_true', decide_eq_true_eq, ne_eq, not_or, not_not, Bool.not_eq_false, Nat.not_le, and_assoc,
      batchBodyOk] using hok
  have hfits : ¬ batchFits (parseHeader hdr) nent bf ↔ (decide (nent = 0) || decide (4096 < nent) || decide (bf < 2) || decide (5 < bf)
      || decide ((parseHeader hdr).ext.getD (bf - 2) 0 ≠ nent)) = true := by
    simp only [not_and_or, Nat.not_le, Nat.lt_one_iff, Bool.or_eq_true, decide_eq_true_eq, or_assoc]
  have hshot : (List.range nent).foldl (fun u i => u.snapEntry x.ctx (u.queue q).withdrawn (BitVec.ofNat 64 (pkt p 0x10 8)) snap i) r
      = shot := snapshot_withdrawn _ _ _ (queue_reading_withdrawn s q p)
  simp only [ksRead_reading, headerDetail_reading, coresDetail_reading, State.launchDetail]
  cases s.headerDetail hdr with
  | some d => rfl
  | none =>
    cases s.coresDetail (pkt p 0x24 2) (pkt p 0x26 2) dies with
    | some d => rfl
    | none =>
      by_cases hf : batchFits (parseHeader hdr) nent bf
      · refine (if_neg (mt hfits.2 (not_not.2 hf))).trans (Eq.trans ?_ (if_pos hf).symm)
        exact congrArg (fun u : State => u.queueLaunch q _ _ _ _ _ _ _) hshot
      · exact (if_pos (hfits.1 hf)).trans (if_neg hf).symm
end

/-! ### SUPPORT: FENCE, SIGNAL, SIBOPEN and LINEAGE_CLOSE (R161 to R164) -/

/-- The condition that an entry of a FENCE's list names: address, comparison, width, value (R161). -/
def fenceEntry (e : List Byte) : DWord × Nat × Bool × DWord :=
  (BitVec.ofNat 64 (nbits (pkt e 0 8) 56 0), nbits (pkt e 0 8) 59 57, decide (nbits (pkt e 0 8) 60 60 = 1), BitVec.ofNat 64 (pkt e 8 8))

/-- The fields of an entry of a FENCE's list are neither reserved nor misaligned (R161). -/
def fenceEntryOk (e : List Byte) : Prop :=
  nbits (pkt e 0 8) 59 57 < 5 ∧ nbits (pkt e 0 8) 63 61 = 0
    ∧ nbits (pkt e 0 8) 56 0 % (if nbits (pkt e 0 8) 60 60 = 1 then 4 else 8) = 0

section
variable {s : State} {q : Nat} {p : List Byte}

/-- The FENCE in progress whose conditions are found met is done (R161). -/
theorem pollFence_inProgress {cs : List (DWord × Nat × Bool × DWord)} {any : Bool} (hb : (s.queue q).busy = some (.fence cs any))
    (hh : s.statusHeld q = false) :
    s.pollFence q = if s.fenceMet (s.queue q).packet.ctx cs any then s.putStatus q 1 0 (0, 0) else s := by
  simp only [State.pollFence, hb, hh, Bool.not_false, Bool.true_and]

/-- A FENCE whose fields are sound is done at once where its conditions hold, else in progress (R161). -/
theorem exec_fencePacket (h : Parses s q 2 p) (hh : pkt p 1 1 < 2) (hw : pkt p 0x10 4 < 32) (hz : zeroFrom p 0x14 = true)
    (h1 : 1 ≤ pkt p 0x10 4 % 16) (h12 : pkt p 0x10 4 % 16 ≤ 12) (hl : pkt p 8 8 % 16 = 0) :
    let r := s.reading q p
    let es := (List.range (pkt p 0x10 4 % 16)).map (fun i => s.ksRead (s.queue q).ctx (BitVec.ofNat 64 (pkt p 8 8 + 16 * i)) 16)
    let any := decide (pkt p 0x10 1 / 16 % 2 = 1)
    let t := r.setQueue q { r.queue q with busy := some (.fence (es.map fenceEntry) any), fenceWait := true }
    (∀ e ∈ es, fenceEntryOk e) → exec (.fencePacket q) s
      = .next (if s.fenceMet (s.queue q).ctx (es.map fenceEntry) any then t.putStatus q 1 0 (0, 0) else t) := by
  intro r es any t hes
  have ht : t.queue q = { r.queue q with busy := some (.fence (es.map fenceEntry) any), fenceWait := true } :=
    queue_setQueue_same _ _ _
  have hctx : (t.queue q).packet.ctx = (s.queue q).ctx := by rw [ht, queue_reading]
  have hpoll := pollFence_inProgress (s := t) (q := q) (cs := es.map fenceEntry) (any := any) (by rw [ht]) h.told
  rw [hctx, show t.fenceMet = s.fenceMet from rfl] at hpoll
  show execFencePacket q s = _
  rw [execFencePacket, parse_body h (by decide) (by decide) hh]
  simp only [ksRead_reading]
  refine congrArg _ ((if_neg ?_).trans ((if_neg ?_).trans hpoll))
  · simp only [Bool.or_eq_true, Bool.not_eq_true', decide_eq_true_eq, ne_eq, not_or, not_not, Bool.not_eq_false, Nat.not_le, Nat.not_lt]
    exact ⟨⟨⟨⟨hw, hz⟩, Nat.one_le_iff_ne_zero.1 h1⟩, h12⟩, hl⟩
  · rw [List.any_eq_true]
    rintro ⟨e, he, hbad⟩
    obtain ⟨hcond, hres, hal⟩ := hes e he
    simp only [Bool.or_eq_true, decide_eq_true_eq] at hbad
    obtain (hc | hr) | ha := hbad
    · exact Nat.not_le.2 hcond hc
    · exact hr hres
    · exact ha hal

/-- What a SIGNAL's OP does at its address: a store of 64 bits, an addition, else a store of 32 bits (R162). -/
def State.signalWrite (r : State) (ctx : Nat) (addr : DWord) (v : Nat) : Nat → State
  | 0 => r.ksStoreNat ctx addr 8 v
  | 1 => r.ksAdd ctx addr v
  | _ => r.ksStoreNat ctx addr 4 (v % 4294967296)

/-- A SIGNAL whose fields are sound stores or adds, and is done with its write; the FENCEs that wait read their counters again (R162). -/
theorem exec_signal (h : Parses s q 3 p) (hh : pkt p 1 1 < 2) (hz : zeroFrom p 0x1C = true) {op : Nat} (hop : pkt p 0x18 4 = op)
    (hlt : op < 3) (hal : pkt p 8 8 % (if op = 2 then 4 else 8) = 0) :
    exec (.signal q) s = .next ((((s.reading q p).signalWrite (s.queue q).ctx (BitVec.ofNat 64 (pkt p 8 8)) (pkt p 0x10 8) op).awaitWrites
      q s.nextSeq).pollFences) := by
  show execSignal q s = _
  simp only [execSignal, writesDone_of_parses h, parse_body h (by decide : 1 ≤ 3) (by decide) hh, hop]
  exact congrArg _ (if_neg (by simp [hz, hal, Nat.not_le.2 hlt]))

/-- The fields of a SIBOPEN packet's body are neither reserved nor misaligned (R157, R163). -/
def sibopenBodyOk (p : List Byte) : Prop := pkt p 0x28 4 < 16384 ∧ zeroFrom p 0x30 = true ∧ pkt p 8 8 % 4 = 0

/-- What a SIBOPEN packet asks for can be had: its threshold, its siblings and its FREEQ (condition 0x10 of R159). -/
abbrev sibopenFits (s : State) (ctx : Nat) (p : List Byte) : Prop :=
  1 ≤ pkt p 0x28 4 / 128 % 128 ∧ pkt p 0x28 4 / 128 % 128 ≤ pkt p 0x28 4 % 128 ∧ pkt p 0x28 4 % 128 ≤ 64
    ∧ s.freeqOk ctx (pkt p 0x2C 4) = true

/-- The group that a SIBOPEN packet opens, of a generation (R163, R208). -/
def openedGroup (x : HostQueue) (p : List Byte) (gen : Nat) : Group :=
  ⟨gen, .opened, x.ctx, x.fn, BitVec.ofNat 64 (pkt p 8 8), BitVec.ofNat 64 (pkt p 0x10 8), BitVec.ofNat 64 (pkt p 0x18 8),
    BitVec.ofNat 32 (pkt p 0x2C 4), pkt p 0x28 4 % 128, pkt p 0x28 4 / 128 % 128, 0, 0,
    List.replicate (pkt p 0x28 4 % 128) ⟨none, 0, 0, 0, 0, false, false⟩, 0, 0, 0, 0, 0, 0, (0, none, 0)⟩

/-- A SIBOPEN packet opens its group in slot `k`: each sibling's live word is 1, then the handle is stored, and the packet waits
for these writes (R163). -/
def State.openSiblings (s : State) (q : Nat) (p : List Byte) (k gen : Nat) : State :=
  let x := s.queue q
  let live := (List.range (pkt p 0x28 4 % 128)).foldl
    (fun (u : State) i => u.ksStoreNat x.ctx (BitVec.ofNat 64 (pkt p 8 8 + 4 * i)) 4 1)
    { s.reading q p with groups := kvPut s.groups k (openedGroup x p gen) }
  (live.ksStoreNat x.ctx (BitVec.ofNat 64 (pkt p 0x20 8)) 4 (k + 256 * gen)).awaitWrites q s.nextSeq

/-- A SIBOPEN whose fields are sound is refused, waits for a free group slot, or opens its group (R163, R208). -/
theorem exec_sibopen_checked (h : Parses s q 5 p) (hh : pkt p 1 1 < 2) (hok : sibopenBodyOk p) :
    exec (.sibopen q) s = .next (if sibopenFits s (s.queue q).ctx p then
      s.freeGroup.elim ((s.reading q p).waitPacket q) (fun o => s.openSiblings q p o.1 o.2)
      else (s.reading q p).completePacket q 3 0x10) := by
  have hfits : (decide (pkt p 0x28 4 / 128 % 128 = 0) || decide (pkt p 0x28 4 % 128 < pkt p 0x28 4 / 128 % 128)
      || decide (64 < pkt p 0x28 4 % 128) || !(s.reading q p).freeqOk (s.queue q).ctx (pkt p 0x2C 4)) = true
      ↔ ¬ sibopenFits s (s.queue q).ctx p := by
    simp only [Bool.or_eq_true, Bool.not_eq_true', decide_eq_true_eq, not_and_or, Bool.not_eq_true, Nat.not_le, Nat.lt_one_iff,
      or_assoc, freeqOk_reading]
  show execSibopen q s = _
  simp only [execSibopen, writesDone_of_parses h, parse_body h (by decide : 1 ≤ 5) (by decide) hh]
  refine congrArg _ ((if_neg ?_).trans ?_)
  · obtain ⟨hw, hz, hl⟩ := hok
    simp [hz, hl, Nat.not_le.2 hw]
  by_cases hf : sibopenFits s (s.queue q).ctx p
  · refine (if_neg (mt hfits.1 (not_not.2 hf))).trans (Eq.trans ?_ (if_pos hf).symm)
    rw [queue_reading_fn, freeGroup_reading]
    cases s.freeGroup <;> rfl
  · exact (if_pos (hfits.2 hf)).trans (if_neg hf).symm

/-- A LINEAGE_CLOSE whose fields are sound starts its close, and is in progress until the close's step 4 (R152, R164). -/
theorem exec_lineageClose_checked (h : Parses s q 6 p) (hh : pkt p 1 1 < 2) (hl : pkt p 8 4 < 65536) (hr : pkt p 0x0C 4 = 0)
    (hz : zeroFrom p 0x18 = true) :
    let u := (s.reading q p).startClose (s.queue q).ctx (pkt p 8 2) q none (BitVec.ofNat 64 (pkt p 0x10 8))
    ∀ c, u.closes.getLast? = some c →
      exec (.lineageClose q) s = .next (u.setQueue q { u.queue q with busy := some (.closing c.id) }) := by
  intro u c hc
  show execLineageClose q s = _
  rw [execLineageClose, parse_body h (by decide) (by decide) hh]
  refine congrArg _ ((if_neg (by simp [hr, hz, Nat.not_le.2 hl])).trans ?_)
  dsimp only
  rw [show ((s.reading q p).startClose (s.queue q).ctx (pkt p 8 2) q none (BitVec.ofNat 64 (pkt p 0x10 8))).closes.getLast? = some c
    from hc]

end

/-! ### O49 -/

/-- Settles O49, a kind of packet at a time. -/
theorem packetsAreParsed : Obligations.PacketsAreParsed := by
  unfold Obligations.PacketsAreParsed
  intro s q type p h x r ends hdr head queued
  refine ⟨fun i t hi ht hr => exec_reserved h hr (ht ▸ hi), fun hh => ⟨?_, ?_, ?_, ?_, ?_, ?_⟩⟩
  · intro ht dies ok cores
    subst ht
    refine ⟨exec_launch_malformed h hh, fun hok => ?_⟩
    exact ⟨fun d hd => exec_launch_checked h hh hok (launchDetail_of_header hd _ _ _),
      fun hd hc => exec_launch_checked h hh hok (launchDetail_of_cores hd hc),
      fun hd hc => ⟨_, exec_launch_checked h hh hok (launchDetail_none hd hc),
        queueLaunch_effect (queue_reading_prio s q p) _ _ _ _ _ _ _⟩⟩
  · intro ht dies nent bf table snap hw hdies hres hhdr htable hsnap hcpl hd hc fits
    subst ht
    have hrun := exec_batch_checked h hh ⟨hw, hdies, hres, hhdr, htable, hsnap, hcpl⟩ (launchDetail_none hd hc)
    refine ⟨fun hf => hrun.trans (congrArg _ (if_neg hf)), fun hf => ⟨_, hrun.trans (congrArg _ (if_pos hf)), ?_⟩⟩
    exact queueLaunch_effect ((congrArg HostQueue.prio (snapshot_queue _ _ _ _ _ _ _)).trans (queue_reading_prio s q p)) _ _ _ _ _ _ _
  · intro ht n es cond any t hw hz h1 h12 hl hes
    subst ht
    exact exec_fencePacket h hh hw hz h1 h12 hl hes
  · intro ht a v addr hz
    subst ht
    refine ⟨fun hop hal => ?_, fun hop hal => ?_, fun hop hal => ?_⟩
    all_goals
      have hrun := exec_signal h hh hz hop (by decide) hal
      simp only [State.signalWrite] at hrun
      exact hrun
  · intro ht n t live hw hz hl
    subst ht
    have hrun := exec_sibopen_checked h hh ⟨hw, hz, hl⟩
    refine ⟨fun hbad => hrun.trans (congrArg _ (if_neg ?_)), fun h1 hle h64 hq => ?_⟩
    · rintro ⟨h1, hle, h64, hq⟩
      obtain h0 | hlt | hgt | hno := hbad
      · exact Nat.one_le_iff_ne_zero.1 h1 h0
      · exact Nat.not_le.2 hlt hle
      · exact Nat.not_le.2 hgt h64
      · exact ne_true_of_eq_false hno hq
    · rw [if_pos ⟨h1, hle, h64, hq⟩] at hrun
      exact ⟨fun hn => by rwa [hn] at hrun, fun k gen hk => by rwa [hk] at hrun⟩
  · intro ht hl hr hz
    subst ht
    exact exec_lineageClose_checked h hh hl hr hz

end Sys2Proof.Machine

/-! ### SUPPORT: SAVE and RESTORE (R165, R178, R201) -/

namespace Sys2Proof.Machine

/-- Every live workgroup of a launch, and every one of its images already saved, fits a slot of a SAVE (R165). -/
abbrev imagesFit (s : State) (l : Launch) (prot : Bool) (stride nslot : Nat) : Prop :=
  (∀ e ∈ s.wgs, e.2.launch = l.id → e.2.ended = false → e.2.imageSize l.hdr prot ≤ stride ∧ e.2.num < nslot)
    ∧ ∀ v ∈ l.saved, v.wg.imageSize l.hdr prot ≤ stride ∧ v.wg.num < nslot

/-- A SAVE stops what runs of its launch, once the images already saved lie in their slots (R165). -/
def State.beginSave (r : State) (q : Nat) (l : Launch) (img : DWord) (stride nslot : Nat) : State :=
  let u := l.saved.foldl (fun s v => s.moveImage l img stride v) r
  (u.setQueue q { u.queue q with busy := some (.saving l.id img stride nslot) }).saveDone q none

/-- The images that a RESTORE finds in its slots, in ascending order (R165). -/
def imagesInSlots (l : Launch) (img : DWord) (stride nslot : Nat) : List SavedWg :=
  ((List.range (min nslot 608)).filter (fun n => l.saved.any (fun v => v.num = n))).filterMap
    (fun n => (l.saved.find? (fun v => v.num = n)).map (fun v =>
      { v with addr := img + BitVec.ofNat 64 (stride * n), stride := stride, slot := none }))

/-- How a RESTORE ends by the first of its images that fails a check, if any (R165, R188, R201). -/
def State.endRestore (r : State) (q : Nat) (l : Launch) (here : List SavedWg) : Option ImageCheck → State
  | none => (r.modLaunch l.id (fun l => { l with state := .running, saved := here })).completePacket q 1 0
  | some .mismatch => r.completePacket q 3 0x0F
  | some .capacity => r.completePacket q 0x21 0
  | some .stale => r.completePacket q 0x22 0
  | some .tag => (r.waitPacket q).contextFault l.ctx ⟨0x23, 0, 0, 0, 5, 0, 0, false, 0, l.queue, l.tag.toNat⟩
  | some .ok => r

section
variable {s : State} {q : Nat} {p : List Byte} {l : Launch} {c : Context}

/-- A SAVE that names no launch is refused (R165). -/
theorem exec_save_unnamed (h : Parses s q 7 p) (hh : pkt p 1 1 < 2) (hb : saveBodyOk p = true)
    (hn : (s.reading q p).namedLaunch (s.queue q).ctx p = none) :
    exec (.save q) s = .next ((s.reading q p).completePacket q 3 0x0E) := by
  show execSave q s = _
  simp only [execSave, saveDone_of_parses h none, parse_body h (by decide : 1 ≤ 7) (by decide) hh, hb, hn]
  rfl

/-- A RESTORE that names no launch is refused (R165). -/
theorem exec_restore_unnamed (h : Parses s q 8 p) (hh : pkt p 1 1 < 2) (hb : saveBodyOk p = true)
    (hn : (s.reading q p).namedLaunch (s.queue q).ctx p = none) :
    exec (.restore q) s = .next ((s.reading q p).completePacket q 3 0x0E) := by
  show execRestore q s = _
  simp only [execRestore, parse_body h (by decide : 1 ≤ 8) (by decide) hh, hb, hn]
  rfl

/-- A SAVE waits while a workgroup of its launch moves; it is refused of a launch that has not started or is over, or whose images do
not fit; else it begins (R165, R178). -/
theorem exec_save_named (h : Parses s q 7 p) (hh : pkt p 1 1 < 2) (hb : saveBodyOk p = true)
    (hn : (s.reading q p).namedLaunch (s.queue q).ctx p = some l) (hc : s.context? l.ctx = some c) :
    let r := s.reading q p
    exec (.save q) s = .next (if s.moving l = true then r.waitPacket q
      else if l.state ≠ .running ∧ l.state ≠ .closing then r.completePacket q 3 0x0E
      else if imagesFit s l c.prot (pkt p 0x18 4) (pkt p 0x1C 4) then
        r.beginSave q l (BitVec.ofNat 64 (pkt p 0x10 8)) (pkt p 0x18 4) (pkt p 0x1C 4)
      else r.completePacket q 3 0x0F) := by
  intro r
  have hfits : imagesFit s l c.prot (pkt p 0x18 4) (pkt p 0x1C 4) ↔
      (((s.wgs.filter (fun e => e.2.launch = l.id && !e.2.ended)).all
          (fun e => e.2.imageSize l.hdr c.prot ≤ pkt p 0x18 4 && e.2.num < pkt p 0x1C 4))
        && l.saved.all (fun v => v.wg.imageSize l.hdr c.prot ≤ pkt p 0x18 4 && v.wg.num < pkt p 0x1C 4)) = true := by
    simp only [Bool.and_eq_true, List.all_eq_true, List.mem_filter, decide_eq_true_eq, Bool.not_eq_true', and_imp]
  show execSave q s = _
  simp only [execSave, saveDone_of_parses h none, parse_body h (by decide : 1 ≤ 7) (by decide) hh, hb, hn, context?_reading, hc,
    moving_reading]
  refine congrArg _ ((if_neg (by decide)).trans ?_)
  by_cases hm : s.moving l = true
  · rw [if_pos hm, if_pos hm]
  rw [if_neg hm, if_neg hm]
  by_cases hst : l.state ≠ .running ∧ l.state ≠ .closing
  · rw [if_pos hst]
    exact if_pos (by simpa using hst)
  rw [if_neg hst]
  refine (if_neg (by simpa using hst)).trans ?_
  by_cases hf : imagesFit s l c.prot (pkt p 0x18 4) (pkt p 0x1C 4)
  · refine (if_neg ?_).trans (if_pos hf).symm
    rw [Bool.not_eq_true, Bool.not_eq_false']
    exact hfits.1 hf
  · refine (if_pos ?_).trans (if_neg hf).symm
    rw [Bool.not_eq_true', ← Bool.not_eq_true]
    exact mt hfits.2 hf

/-- A RESTORE is refused of a launch that is not suspended, or with an image beyond its slots; else the checks of its images end it
(R165, R201). -/
theorem exec_restore_named (h : Parses s q 8 p) (hh : pkt p 1 1 < 2) (hb : saveBodyOk p = true)
    (hn : (s.reading q p).namedLaunch (s.queue q).ctx p = some l) (hc : s.context? l.ctx = some c) :
    let r := s.reading q p
    let here := imagesInSlots l (BitVec.ofNat 64 (pkt p 0x10 8)) (pkt p 0x18 4) (pkt p 0x1C 4)
    exec (.restore q) s = .next (if l.state ≠ .suspended then r.completePacket q 3 0x0E
      else if ∃ v ∈ l.saved, pkt p 0x1C 4 ≤ v.num then r.completePacket q 3 0x0F
      else r.endRestore q l here ((here.map (r.checkImage l c)).find? (· ≠ .ok))) := by
  intro r here
  show execRestore q s = _
  simp only [execRestore, parse_body h (by decide : 1 ≤ 8) (by decide) hh, hb, hn, context?_reading, hc]
  refine congrArg _ ((if_neg (by decide)).trans ?_)
  by_cases hst : l.state ≠ .suspended
  · rw [if_pos hst, if_pos hst]
  rw [if_neg hst, if_neg hst]
  by_cases hslot : ∃ v ∈ l.saved, pkt p 0x1C 4 ≤ v.num
  · rw [if_pos hslot]
    exact if_pos (by simpa using hslot)
  rw [if_neg hslot]
  refine (if_neg (by simpa using hslot)).trans ?_
  unfold State.endRestore
  rfl

end

/-! ### O50 -/

/-- Settles O50: SAVE and RESTORE by the launch that they name, a poll by the FENCE in progress. -/
theorem saveRestoreAndFencePolls : Obligations.SaveRestoreAndFencePolls := by
  unfold Obligations.SaveRestoreAndFencePolls
  refine ⟨fun s q type p l c h hh hb hc => ?_, fun s q cs any hbusy hheld => ?_⟩
  · intro img stride nslot x r ends
    refine ⟨fun hn => ⟨?_, ?_⟩, fun hn => ⟨fun ht hm => ?_, fun ht hm => ?_, fun ht => ?_⟩⟩
    · rintro rfl
      exact exec_save_unnamed h hh hb hn
    · rintro rfl
      exact exec_restore_unnamed h hh hb hn
    · subst ht
      exact (exec_save_named h hh hb hn hc).trans (congrArg _ (if_pos hm))
    · subst ht
      have hrun := (exec_save_named h hh hb hn hc).trans (congrArg _ (if_neg (ne_true_of_eq_false hm)))
      refine ⟨fun h1 h2 => hrun.trans (congrArg _ (if_pos ⟨h1, h2⟩)), fun hst => ?_⟩
      have hrun' := hrun.trans (congrArg _ (if_neg (by rintro ⟨h1, h2⟩; exact hst.elim h1 h2)))
      exact ⟨fun hf => hrun'.trans (congrArg _ (if_neg hf)), fun hf => hrun'.trans (congrArg _ (if_pos hf))⟩
    · subst ht
      have hrun := exec_restore_named h hh hb hn hc
      refine ⟨fun hst => hrun.trans (congrArg _ (if_pos hst)), fun hst hslot => ?_, fun hst hslot => ?_⟩
      · exact hrun.trans (congrArg _ ((if_neg (not_not.2 hst)).trans (if_pos hslot)))
      · intro nums here first
        have hend : exec (.restore q) s = .next (r.endRestore q l here first) :=
          hrun.trans (congrArg _ ((if_neg (not_not.2 hst)).trans (if_neg (by
            rintro ⟨v, hv, hle⟩
            exact Nat.not_le.2 (hslot v hv) hle))))
        refine ⟨fun hf => ?_, fun hf => ?_, fun hf => ?_, fun hf => ?_, fun hf => ?_⟩
        all_goals rwa [hf] at hend
  · intro met
    have hpoll : exec (.fencePacketPoll q) s = .next (if s.fenceMet (s.queue q).packet.ctx cs any then s.putStatus q 1 0 (0, 0) else s) :=
      congrArg _ (pollFence_inProgress hbusy hheld)
    have hmet : s.fenceMet (s.queue q).packet.ctx cs any = true ↔ (if any then ∃ c ∈ cs, met c else ∀ c ∈ cs, met c) := by
      cases any <;> simp [State.fenceMet, met]
    exact ⟨fun hm => hpoll.trans (congrArg _ (if_pos (hmet.2 hm))), fun hm => hpoll.trans (congrArg _ (if_neg (mt hmet.1 hm)))⟩

end Sys2Proof.Machine

/-! ### SUPPORT: software traps, handler registers and the return from a handler (R181 to R185) -/

namespace Sys2Proof.Machine

section
variable {s : State} {i : Instr}

/-- A uniform unit whose effect is a trap of its subset, with TPC at the next unit, takes its threads into the handler (R184). -/
theorem unifUnit_softTrap {code : Nat} {v : Word} (hw : i.wf = true)
    (e : exec i s = .next (s.unifUnit i true none false (fun s => s.trapLanes s.subset code v true false true))) :
    TrapsLanes s i s.subset code v true true := fun ho =>
  unifUnit_completes s s i _ _ _ e hw (trapLanes_effect s s.subset (subset_nodup s) (fun _ h => h) ho code v true true)

theorem exec_trapl (g : BitVec 3) (code : BitVec 8) : exec (.trapl g code) s
    = .next (s.advance.trapLanes (s.guarded g) 0x10 (code.zeroExtend 32) false false true).endIssue :=
  congrArg Host.Outcome.next (laneUnit_ok s (.trapl g code) (s.guarded g) _ rfl)

theorem exec_trap (g : BitVec 3) (code : BitVec 8) (hg : s.guardU g = true) : exec (.trap g code) s
    = .next (s.unifUnit (.trap g code) true none false (fun s => s.trapLanes s.subset 0x10 (code.zeroExtend 32) true false true)) := by
  show execTrap g code s = _
  rw [execTrap, hg]

theorem exec_brkpt (g : BitVec 3) (hg : s.guardU g = true) : exec (.brkpt g) s
    = .next (s.unifUnit (.brkpt g) true none false (fun s => s.trapLanes s.subset 0x11 0 true false true)) := by
  show execBrkpt g s = _
  rw [execBrkpt, hg]

/-! #### Handler registers -/

section
variable {g : BitVec 3} {d sel : BitVec 7} (hd : bad1 s.curAlloc d = none) (hlo : 0x11 ≤ sel.toNat) (hhi : sel.toNat ≤ 0x14)
include hlo hhi

theorem wf_sread_handler : (Instr.sread g d sel).wf = true := by
  simp only [Instr.wf, sreadSelOk]
  simp
  omega

include hd

/-- An SREAD of a handler register runs as a lane unit whose privilege check asks for a thread outside its handler (R183). -/
theorem exec_sread_handler : exec (.sread g d sel) s
    = .next (s.laneUnit (.sread g d sel) (s.guarded g) false none ((s.guarded g).any (fun l => !(s.lane l).inHandler))
        (fun t => t.onLanes (s.guarded g) (fun l th => s.sreadThread l d.toNat sel.toNat th))) := by
  have hsel : handlerSel sel.toNat = true := by
    simp only [handlerSel, Bool.and_eq_true, decide_eq_true_eq]
    exact ⟨hlo, hhi⟩
  show execSread g d sel s = _
  simp only [execSread, hd, hsel, Bool.true_and]

/-- One thread outside its handler fails the check for every thread whose guard holds (R182, R183; log 28). -/
theorem exec_sread_unprivileged (h : ∃ l ∈ s.guarded g, (s.lane l).inHandler = false) : exec (.sread g d sel) s
    = .next (s.advance.trapLanes (s.guarded g) 0x08 (Instr.sread g d sel).word false false false).endIssue := by
  have hany : (s.guarded g).any (fun l => !(s.lane l).inHandler) = true := by
    simpa only [List.any_eq_true, Bool.not_eq_true'] using h
  rw [exec_sread_handler hd hlo hhi, hany]
  simp only [State.laneUnit, wf_sread_handler hlo hhi, Bool.not_true, Bool.false_eq_true, if_false, if_true]

theorem sread_handler_traps : TrapsLanes s (.sread g d sel) (s.guarded g) 0x08 (Instr.sread g d sel).word false false := by
  intro ho
  cases hgl : s.guarded g with
  | nil =>
    have e := exec_sread_handler (g := g) hd hlo hhi
    rw [hgl] at e
    refine laneUnit_completes s s _ [] _ _ _ e (wf_sread_handler hlo hhi) ?_
    exact Effect.lanesEq (Effect.lanes (Effect.advance s) rfl [] (by simp) _) (fun l x => by simp [lanesWith])
  | cons l ls =>
    have hl : l ∈ s.guarded g := hgl ▸ List.mem_cons_self
    obtain ⟨x, hx, hout⟩ := ho.2 l hl
    have hlane : (s.lane l).inHandler = false := by rw [lane_eq, hx]; exact hout
    rw [← hgl]
    exact laneUnit_traps s _ _ (guarded_nodup s g) (mem_guarded s g) _ _ false
      (exec_sread_unprivileged hd hlo hhi ⟨l, hl, hlane⟩) ho

end

/-! #### RETT -/

/-- The address to which a RETT takes a thread: its TPC plus the offset (R380). -/
def State.rettTarget (s : State) (a : BitVec 7) (l : Nat) : DWord := (s.lane l).tpc.zeroExtend 64 + (s.team.sr a.toNat).signExtend 64

/-- What a RETT does where its checks on the word pass: the first target that is no code address traps the subset, and else every
thread leaves its handler (R268, R380). -/
def State.leaveHandlers (s : State) (a : BitVec 7) : State :=
  match (s.subset.filterMap (fun l => (targetTrap (s.rettTarget a l)).map (fun c => (c, loWord (s.rettTarget a l))))).head? with
  | some (c, v) => s.trapLanes s.subset c v true false false
  | none => s.onLanes s.subset (fun l t => t.leaveHandler (BitVec.ofNat 57 (s.rettTarget a l).toNat))

theorem exec_rett (g : BitVec 3) (a : BitVec 7) : exec (.rett g a) s = .next (s.unifUnit (.rett g a) (s.guardU g)
    (firstBad [(sOk a, 1, a.toNat)]) (s.subset.any (fun l => !(s.lane l).inHandler)) (fun s => s.leaveHandlers a)) := rfl

theorem rettTarget_advance (a : BitVec 7) (l : Nat) : s.advance.rettTarget a l = s.rettTarget a l := by
  simp only [State.rettTarget, tpc_lane_advance, sr_team_advance]

/-- Where every target is a code address, every thread goes to its own. -/
theorem leaveHandlers_ok {a : BitVec 7} (h : ∀ l ∈ s.subset, targetTrap (s.rettTarget a l) = none) :
    s.leaveHandlers a = s.onLanes s.subset (fun l t => t.leaveHandler (BitVec.ofNat 57 (s.rettTarget a l).toNat)) := by
  have hnone : s.subset.filterMap (fun l => (targetTrap (s.rettTarget a l)).map (fun c => (c, loWord (s.rettTarget a l)))) = [] :=
    List.filterMap_eq_nil_iff.2 fun l hl => by rw [h l hl]; rfl
  rw [State.leaveHandlers, hnone]
  rfl

/-- A RETT whose threads are all in their handlers, each with a code address to go to, leaves the handlers (R185, R380). -/
theorem rett_completes {g : BitVec 3} {a : BitVec 7} (hg : s.guardU g = true) (ha : sOk a = true)
    (h : ∀ l ∈ s.subset, (s.lane l).inHandler = true ∧ targetTrap (s.rettTarget a l) = none) :
    Completes (.rett g a) s s (lanesWith s.subset (fun l x =>
      { x with inHandler := false, pc := BitVec.ofNat 57 (s.rettTarget a l).toNat })) id := by
  have hpriv : s.subset.any (fun l => !(s.lane l).inHandler) = false :=
    List.any_eq_false.2 fun l hl => by rw [(h l hl).1]; decide
  have hreg : firstBad [(sOk a, 1, a.toNat)] = none := by rw [ha]; rfl
  refine unifUnit_completes s s _ (fun s => s.leaveHandlers a) _ _ ?_ rfl ?_
  · rw [exec_rett, hg, hreg, hpriv]
  · have hadv : ∀ l ∈ s.advance.subset, targetTrap (s.advance.rettTarget a l) = none := fun l hl => by
      rw [rettTarget_advance]
      exact (h l hl).2
    simp only [leaveHandlers_ok hadv, rettTarget_advance]
    exact Effect.lanesEq (Effect.lanes (Effect.advance s) rfl s.subset (fun _ h => h) _) (fun _ _ => rfl)

end

/-- A trap of a thread in its handler, or of a launch without one, is its context's fault HANDLER_ABSENT (R184). -/
theorem takeTrap_absent {s : State} {core team lane code : Nat} {tval cause : Word} {tpc : PC} {x : Thread}
    (hx : s.thread? core team lane = some x) (h : (s.hdr core).handler = 0 ∨ x.inHandler = true) :
    s.takeTrap core team lane code tval cause tpc = s.coreFault core 0x25 code tpc.toNat 0 0 false := by
  have hc : ((s.hdr core).handler = 0 || x.inHandler) = true := by simpa only [Bool.or_eq_true, decide_eq_true_eq] using h
  simp only [State.takeTrap, hx, hc, if_true]

/-! ### O21, O22 -/

/-- Settles O21: each unit's effect is a trap of the threads that it names, whose TPC is the next unit. -/
theorem softwareTraps : Obligations.SoftwareTraps := by
  unfold Obligations.SoftwareTraps
  refine fun s g code => ⟨?_, fun hg => ⟨?_, ?_⟩⟩
  · exact laneUnit_traps s _ _ (guarded_nodup s g) (mem_guarded s g) _ _ true (exec_trapl g code)
  · exact unifUnit_softTrap rfl (exec_trap g code hg)
  · exact unifUnit_softTrap rfl (exec_brkpt g hg)

/-- Settles O22: the privilege check of SREAD, the way out of a handler, and the trap that finds no handler. -/
theorem handlersAndPrivilege : Obligations.HandlersAndPrivilege := by
  unfold Obligations.HandlersAndPrivilege
  refine ⟨fun s g d a sel => ⟨fun hd hlo hhi => ?_, fun hg ha => ?_⟩, fun s core team lane code tval cause tpc x hx h => ?_⟩
  · exact ⟨sread_handler_traps hd hlo hhi, exec_sread_unprivileged hd hlo hhi⟩
  · intro target h
    exact rett_completes hg ha h
  · exact takeTrap_absent hx h

end Sys2Proof.Machine

/-! ### SUPPORT: what a completed walk does (R192, R193, R195) -/

namespace Sys2Proof.Machine

/-! #### Setting what held threads wait for -/

/-- An access that waits for a walk: core, team, lane, PC and miss. -/
abbrev HeldAccess := Nat × Nat × Nat × PC × Miss

/-- The access is made by the thread of a lane. -/
def HeldAccess.standsAt (a : HeldAccess) (c n l : Nat) : Prop := a.1 = c ∧ a.2.1 = n ∧ a.2.2.1 = l

theorem thread?_modLane_at (s : State) {a : HeldAccess} {c n l : Nat} (f : Nat → Thread → Thread) (h : a.standsAt c n l) :
    (s.modLanes a.1 a.2.1 [a.2.2.1] f).thread? c n l = (s.thread? c n l).map (f l) := by
  obtain ⟨rfl, rfl, rfl⟩ := h
  rw [thread?_modLanes, if_pos ⟨rfl, rfl⟩]
  simp only [List.mem_singleton, if_true]

theorem thread?_modLane_ne (s : State) {a : HeldAccess} {c n l : Nat} (f : Nat → Thread → Thread) (h : ¬ a.standsAt c n l) :
    (s.modLanes a.1 a.2.1 [a.2.2.1] f).thread? c n l = s.thread? c n l := by
  rw [thread?_modLanes]
  split
  · next hcn =>
    have hl : l ≠ a.2.2.1 := fun hl => h ⟨hcn.1.symm, hcn.2.symm, hl.symm⟩
    simp only [List.mem_singleton, hl, if_false, Option.map_id']
  · rfl

/-- A lane that makes none of the accesses keeps its thread. -/
theorem thread?_setAccess_ne {s : State} {who : List HeldAccess} {w : Miss → Wait} {c n l : Nat}
    (h : ∀ a ∈ who, ¬ a.standsAt c n l) : (s.setAccess who w).thread? c n l = s.thread? c n l := by
  unfold State.setAccess
  induction who generalizing s with
  | nil => rfl
  | cons a r ih =>
    rw [List.foldl_cons, ih fun b hb => h b (List.mem_cons_of_mem _ hb), thread?_modLane_ne s _ (h a List.mem_cons_self)]

/-- Where the accesses that a lane makes have one miss, its thread waits as that miss says. -/
theorem thread?_setAccess_at {s : State} {who : List HeldAccess} {w : Miss → Wait} {c n l : Nat} {m : Miss}
    (hm : ∀ a ∈ who, a.standsAt c n l → a.2.2.2.2 = m) (hex : ∃ a ∈ who, a.standsAt c n l) :
    (s.setAccess who w).thread? c n l = (s.thread? c n l).map (fun x => { x with wait := w m }) := by
  unfold State.setAccess
  induction who generalizing s with
  | nil => obtain ⟨a, ha, -⟩ := hex; cases ha
  | cons a r ih =>
    have hmr : ∀ b ∈ r, b.standsAt c n l → b.2.2.2.2 = m := fun b hb => hm b (List.mem_cons_of_mem _ hb)
    have htail := @thread?_setAccess_ne (s.modLanes a.1 a.2.1 [a.2.2.1] (fun _ t => { t with wait := w a.2.2.2.2 })) r w c n l
    rw [List.foldl_cons]
    by_cases hr : ∃ b ∈ r, b.standsAt c n l
    · rw [ih hmr hr]
      by_cases ha : a.standsAt c n l
      · rw [thread?_modLane_at s _ ha, Option.map_map]
        rfl
      · rw [thread?_modLane_ne s _ ha]
    · obtain ⟨b, hb, hbs⟩ := hex
      have ha : a.standsAt c n l := by
        rcases List.mem_cons.1 hb with rfl | hb
        · exact hbs
        · exact absurd ⟨b, hb, hbs⟩ hr
      rw [← hm a List.mem_cons_self ha]
      exact (htail fun b hb hbs => hr ⟨b, hb, hbs⟩).trans (thread?_modLane_at s _ ha)

/-! #### Recording the faults of accesses -/

/-- The state but for what recording the faults of accesses changes: threads, faults and names. -/
def accessAside (s : State) : State := { s with wgs := [], faults := [], nextSeq := 0 }

theorem accessAside_setAccess (s : State) (who : List HeldAccess) (w : Miss → Wait) :
    accessAside (s.setAccess who w) = accessAside s := by
  unfold State.setAccess
  exact foldl_keeps accessAside _ who (by intros; rfl) s

theorem faults_setAccess (s : State) (who : List HeldAccess) (w : Miss → Wait) : (s.setAccess who w).faults = s.faults := by
  unfold State.setAccess
  exact foldl_keeps (fun s : State => s.faults) _ who (by intros; rfl) s

/-- The fault of one access, which holds the threads that share it (R195). -/
def State.faultAccess (s : State) (who : List HeldAccess) (kind : Nat) (a : HeldAccess) : State :=
  (s.newFault (.threads a.1) kind a.2.2.2.2 a.1).setAccess (who.filter (sameAccess a)) (fun _ => .fault s.nextSeq)

theorem faultAccesses_eq (s : State) (who : List HeldAccess) (kind : Nat) :
    s.faultAccesses who kind = (accessHeads who).foldl (fun s a => s.faultAccess who kind a) s := rfl

theorem accessAside_faultAccess (s : State) (who : List HeldAccess) (kind : Nat) (a : HeldAccess) :
    accessAside (s.faultAccess who kind a) = accessAside s := by
  unfold State.faultAccess
  rw [accessAside_setAccess]
  rfl

theorem accessAside_faultAccesses (s : State) (who : List HeldAccess) (kind : Nat) :
    accessAside (s.faultAccesses who kind) = accessAside s := by
  rw [faultAccesses_eq]
  exact foldl_keeps accessAside _ _ (fun s a => accessAside_faultAccess s who kind a) s

/-- The fault that an access records, not posted yet. -/
def faultOf (s : State) (kind : Nat) (a : HeldAccess) : FaultReq :=
  ⟨s.nextSeq, none, .threads a.1, kind, a.2.2.2.2, coreDie a.1, coreX a.1, coreY a.1⟩

theorem faults_faultAccess (s : State) (who : List HeldAccess) (kind : Nat) (a : HeldAccess) :
    (s.faultAccess who kind a).faults = s.faults ++ [faultOf s kind a] := faults_setAccess _ _ _

/-- Every access of a list has its fault once all of them are recorded, and the faults before them stand. -/
theorem faultAccess_foldl_faults (who hs : List HeldAccess) (kind : Nat) (s : State) :
    let u := hs.foldl (fun s a => s.faultAccess who kind a) s
    (∀ f ∈ s.faults, f ∈ u.faults) ∧ ∀ a ∈ hs, ∃ f ∈ u.faults, f.who = .threads a.1 ∧ f.kind = kind ∧ f.m = a.2.2.2.2 ∧ f.seq = none := by
  induction hs generalizing s with
  | nil => exact ⟨fun _ h => h, fun _ h => nomatch h⟩
  | cons a r ih =>
    obtain ⟨hkept, hrec⟩ := ih (s.faultAccess who kind a)
    rw [faults_faultAccess] at hkept
    refine ⟨fun f hf => hkept f (List.mem_append_left _ hf), fun b hb => ?_⟩
    rcases List.mem_cons.1 hb with rfl | hb
    · exact ⟨faultOf s kind b, hkept _ (List.mem_append_right _ List.mem_cons_self), rfl, rfl, rfl, rfl⟩
    · exact hrec b hb

theorem faultAccesses_records (s : State) (who : List HeldAccess) (kind : Nat) : ∀ a ∈ accessHeads who,
    ∃ f ∈ (s.faultAccesses who kind).faults, f.who = .threads a.1 ∧ f.kind = kind ∧ f.m = a.2.2.2.2 ∧ f.seq = none :=
  (faultAccess_foldl_faults who (accessHeads who) kind s).2

theorem thread?_faultAccess_ne {s : State} {who : List HeldAccess} {kind c n l : Nat} (b : HeldAccess)
    (h : ∀ a ∈ who, ¬ a.standsAt c n l) : (s.faultAccess who kind b).thread? c n l = s.thread? c n l := by
  unfold State.faultAccess
  rw [thread?_setAccess_ne fun a ha => h a (List.mem_of_mem_filter ha)]
  rfl

theorem thread?_faultAccesses_ne {s : State} {who : List HeldAccess} {kind c n l : Nat} (h : ∀ a ∈ who, ¬ a.standsAt c n l) :
    (s.faultAccesses who kind).thread? c n l = s.thread? c n l := by
  rw [faultAccesses_eq]
  exact foldl_keeps (fun s : State => s.thread? c n l) _ _ (fun _ b => thread?_faultAccess_ne b h) s

/-! #### Filling TLBs -/

/-- The state but for the TLBs. -/
def tlbAside (s : State) : State := { s with l1tlb := [], cltlb := [], lltlb := [] }

theorem tlbAside_fills (s : State) (cores : List Nat) (e : TlbEntry) :
    tlbAside (cores.foldl (fun s c => s.tlbFill c e) s) = tlbAside s :=
  foldl_keeps tlbAside _ cores (by intros; rfl) s

theorem l1_tlbFill_head (s : State) (c : Nat) (e : TlbEntry) : (kvGetD [] (s.tlbFill c e).l1tlb c).head? = some e := by
  show (kvGetD [] (kvPut s.l1tlb c _) c).head? = some e
  rw [kvGetD_put_same]
  rfl

theorem l1_tlbFill_ne (s : State) {c c' : Nat} (e : TlbEntry) (h : c ≠ c') :
    kvGetD [] (s.tlbFill c' e).l1tlb c = kvGetD [] s.l1tlb c := by
  show (kvGet (kvPut s.l1tlb c' _) c).getD [] = (kvGet s.l1tlb c).getD []
  rw [kvGet_put_ne _ _ _ _ h]

/-- A core's L1 TLB that has a leaf at its head keeps it there while others are filled with that leaf. -/
theorem l1_fills_head_kept {cores : List Nat} {s : State} {c : Nat} {e : TlbEntry} (h : (kvGetD [] s.l1tlb c).head? = some e) :
    (kvGetD [] (cores.foldl (fun s c => s.tlbFill c e) s).l1tlb c).head? = some e := by
  induction cores generalizing s with
  | nil => exact h
  | cons d r ih =>
    refine ih ?_
    by_cases hd : c = d
    · exact hd ▸ l1_tlbFill_head s c e
    · rw [l1_tlbFill_ne s e hd, h]

theorem l1_fills_head {cores : List Nat} {s : State} {c : Nat} {e : TlbEntry} (h : c ∈ cores) :
    (kvGetD [] (cores.foldl (fun s c => s.tlbFill c e) s).l1tlb c).head? = some e := by
  induction cores generalizing s with
  | nil => cases h
  | cons d r ih =>
    rcases List.mem_cons.1 h with rfl | h
    · exact l1_fills_head_kept (s := s.tlbFill c e) (l1_tlbFill_head s c e)
    · exact ih h

theorem tlbFind_of_l1_head {s : State} {c ctx va : Nat} {e : TlbEntry} (h : (kvGetD [] s.l1tlb c).head? = some e)
    (hcov : e.covers ctx va = true) : s.tlbFind c ctx va = some e := by
  obtain ⟨r, hr⟩ := List.head?_eq_some_iff.1 h
  simp only [State.tlbFind, hr, List.cons_append, List.find?_cons, hcov]

/-! #### The walk -/

/-- The walks under way do not bear on what a walk answers. -/
theorem walkFrom_walks (s : State) (ws : List Walk) (ctx va : Nat) (ls : List (Nat × Nat × Option Nat)) (table : Nat) :
    ({ s with walks := ws } : State).walkFrom ctx va ls table = s.walkFrom ctx va ls table := by
  induction ls generalizing table with
  | nil => rfl
  | cons e r ih =>
    obtain ⟨sh, w, size⟩ := e
    simp only [State.walkFrom, ih]
    rfl

theorem walk_walks (s : State) (ws : List Walk) (ctx va : Nat) : ({ s with walks := ws } : State).walk ctx va = s.walk ctx va := by
  simp only [State.walk, walkFrom_walks]
  rfl

/-- A thread that waits for a walk is among those whom its end serves. -/
theorem mem_walkers {s : State} {die ctx vpage c n l : Nat} {x : Thread} {m : Miss} (hx : s.thread? c n l = some x)
    (hdie : coreDie c = die) (hw : x.wait = .walk m) (hctx : m.ctx = ctx) (hva : m.va.toNat / 131072 = vpage) :
    (c, n, l, x.pc, m) ∈ s.walkers ⟨die, ctx, vpage⟩ := by
  obtain ⟨t, ht, hl⟩ := Option.bind_eq_some_iff.1 hx
  obtain ⟨w, hwg, hn⟩ := Option.bind_eq_some_iff.1 ht
  have hthread : (n, l, x) ∈ w.threads :=
    List.mem_flatMap.2 ⟨(n, t), mem_of_kvGet hn, List.mem_map.2 ⟨(l, x), mem_of_kvGet hl, rfl⟩⟩
  refine List.mem_flatMap.2 ⟨(c, w), List.mem_filter.2 ⟨mem_of_kvGet hwg, by simpa using hdie⟩, ?_⟩
  refine List.mem_filterMap.2 ⟨(n, l, x), hthread, ?_⟩
  simp only [hw, hctx, hva, decide_true, Bool.and_self, if_true]

/-- Does a leaf fault an access (R192)? -/
def State.leafRefuses (s : State) (e : TlbEntry) (m : Miss) : Bool :=
  match e.check s.cxlCoherent m.va.toNat m.write false with | .fault _ => true | _ => false

/-- The accesses that a leaf faults, and those that it serves. -/
def State.refused (s : State) (e : TlbEntry) (who : List HeldAccess) : List HeldAccess :=
  who.filter (fun a => s.leafRefuses e a.2.2.2.2)
def State.served (s : State) (e : TlbEntry) (who : List HeldAccess) : List HeldAccess :=
  who.filter (fun a => !(s.refused e who).contains a)

/-- A walk is over. -/
def State.endWalk (s : State) (w : Walk) : State := { s with walks := s.walks.filter (· ≠ w) }

/-- The cores whose accesses a leaf serves hold it in their TLBs. -/
def State.fillServed (s : State) (e : TlbEntry) (who : List HeldAccess) : State :=
  ((s.served e who).map (·.1)).dedup.foldl (fun s c => s.tlbFill c e) s

/-- A leaf reaches the accesses that wait for it (R193, R195). -/
def State.serveLeaf (s : State) (e : TlbEntry) (who : List HeldAccess) : State :=
  ((s.fillServed e who).setAccess (s.served e who) Miss.again).faultAccesses (s.refused e who) 1

theorem mem_served {s : State} {e : TlbEntry} {who : List HeldAccess} {a : HeldAccess} (ha : a ∈ who)
    (h : s.leafRefuses e a.2.2.2.2 = false) : a ∈ s.served e who := by
  refine List.mem_filter.2 ⟨ha, ?_⟩
  have hnot : a ∉ s.refused e who := fun hmem => Bool.false_ne_true (h.symm.trans (List.mem_filter.1 hmem).2)
  simpa using hnot

theorem accessAside_serveLeaf (s : State) (e : TlbEntry) (who : List HeldAccess) :
    accessAside (s.serveLeaf e who) = accessAside (s.fillServed e who) := by
  rw [State.serveLeaf, accessAside_faultAccesses, accessAside_setAccess]

theorem tlbAside_fillServed (s : State) (e : TlbEntry) (who : List HeldAccess) : tlbAside (s.fillServed e who) = tlbAside s :=
  tlbAside_fills _ _ _

/-- What a leaf's arrival leaves of the walks, of memory, and of the accesses to places without memory. -/
theorem serveLeaf_keeps (s : State) (e : TlbEntry) (who : List HeldAccess) :
    (s.serveLeaf e who).walks = s.walks ∧ (s.serveLeaf e who).mem = s.mem ∧ (s.serveLeaf e who).stop = s.stop := by
  have ha := accessAside_serveLeaf s e who
  have ht := tlbAside_fillServed s e who
  exact ⟨(congrArg State.walks ha :).trans (congrArg State.walks ht :), (congrArg State.mem ha :).trans (congrArg State.mem ht :),
    (congrArg State.stop ha :).trans (congrArg State.stop ht :)⟩

/-- A lane whose accesses have one miss, which the leaf does not fault, runs its unit again. -/
theorem thread?_serveLeaf {s : State} {e : TlbEntry} {who : List HeldAccess} {c n l : Nat} {m : Miss}
    (hone : ∀ a ∈ who, a.standsAt c n l → a.2.2.2.2 = m) (hex : ∃ a ∈ who, a.standsAt c n l) (hok : s.leafRefuses e m = false) :
    (s.serveLeaf e who).thread? c n l = (s.thread? c n l).map (fun x => { x with wait := m.again }) := by
  have hkept : ∀ a ∈ s.refused e who, ¬ a.standsAt c n l := by
    intro a ha hat
    obtain ⟨hmem, href⟩ := List.mem_filter.1 ha
    rw [hone a hmem hat, hok] at href
    exact Bool.false_ne_true href
  have hserved : ∃ a ∈ s.served e who, a.standsAt c n l := by
    obtain ⟨a, ha, hat⟩ := hex
    exact ⟨a, mem_served ha (hone a ha hat ▸ hok), hat⟩
  have hfill : (s.fillServed e who).thread? c n l = s.thread? c n l :=
    (congrArg (fun t : State => t.thread? c n l) (tlbAside_fillServed s e who) :)
  have hone' : ∀ a ∈ s.served e who, a.standsAt c n l → a.2.2.2.2 = m := fun a ha => hone a (List.mem_of_mem_filter ha)
  rw [State.serveLeaf, thread?_faultAccesses_ne hkept, thread?_setAccess_at hone' hserved, hfill]

/-- A core one of whose accesses the leaf serves finds it. -/
theorem tlbFind_serveLeaf {s : State} {e : TlbEntry} {who : List HeldAccess} {c ctx va : Nat} (hcov : e.covers ctx va = true)
    (hex : ∃ a ∈ who, a.1 = c ∧ s.leafRefuses e a.2.2.2.2 = false) : (s.serveLeaf e who).tlbFind c ctx va = some e := by
  obtain ⟨a, ha, rfl, hok⟩ := hex
  refine tlbFind_of_l1_head ?_ hcov
  have hl1 : (s.serveLeaf e who).l1tlb = (s.fillServed e who).l1tlb := (congrArg State.l1tlb (accessAside_serveLeaf s e who) :)
  rw [hl1]
  exact l1_fills_head (List.mem_dedup.2 (List.mem_map_of_mem (mem_served ha hok)))

section
variable {s : State} {die ctx vpage : Nat} (hs : s.stop = none) (hr : s.walkRunning ⟨die, ctx, vpage⟩ = true)
include hs hr

/-- A walk that finds a leaf (R192, R193). -/
theorem exec_pageWalkComplete_leaf {e : TlbEntry} (h : s.walk ctx (vpage * 131072) = .leaf e) : exec (.pageWalkComplete die ctx vpage) s
    = .next ((s.endWalk ⟨die, ctx, vpage⟩).serveLeaf e (s.walkers ⟨die, ctx, vpage⟩)) := by
  refine finish_next _ _ ?_ ((serveLeaf_keeps _ _ _).2.2.trans hs)
  show execPageWalkComplete die ctx vpage s = _
  simp only [execPageWalkComplete, hr, walk_walks, h]
  rfl

/-- A walk that faults (R192, R195). -/
theorem exec_pageWalkComplete_fault {k : Nat} (h : s.walk ctx (vpage * 131072) = .fault k) : exec (.pageWalkComplete die ctx vpage) s
    = .next ((s.endWalk ⟨die, ctx, vpage⟩).faultAccesses (s.walkers ⟨die, ctx, vpage⟩) k) := by
  refine finish_next _ _ ?_ ((congrArg State.stop (accessAside_faultAccesses _ _ _) :).trans hs)
  show execPageWalkComplete die ctx vpage s = _
  simp only [execPageWalkComplete, hr, walk_walks, h]
  rfl

end

end Sys2Proof.Machine

/-! ### SUPPORT: the fault buffer and its responses (R195, R197, R198) -/

namespace Sys2Proof.Machine

/-- A write of the Keystone die leaves the fault buffer's registers, the faults and the interrupts alone. -/
@[simp] theorem ksWrite_fb (s : State) (k : Nat) (bs : List Byte) : (s.ksWrite k bs).fb = s.fb :=
  (congrArg State.fb (ksAside_ksWrite s k bs) :)
@[simp] theorem ksWrite_faults (s : State) (k : Nat) (bs : List Byte) : (s.ksWrite k bs).faults = s.faults :=
  (congrArg State.faults (ksAside_ksWrite s k bs) :)
@[simp] theorem ksWrite_irqs (s : State) (k : Nat) (bs : List Byte) : (s.ksWrite k bs).irqs = s.irqs :=
  (congrArg State.irqs (ksAside_ksWrite s k bs) :)

section
variable {s : State} {f : FaultReq}

section
variable (h : s.faults.find? (fun g => g.id = f.id && g.seq.isNone) = some f)
include h

/-- While the buffer is not enabled a fault fails at once (R197). -/
theorem exec_faultPost_disabled (he : s.fb.enable = false) : exec (.faultPost f.id) s = .next (s.failFault f 0) := by
  show execFaultPost f.id s = _
  simp only [execFaultPost, h, he, Bool.not_false, if_true]

/-- A fault is posted with the next sequence number, its record's first word last (R197, R198). -/
theorem exec_faultPost_enabled (he : s.fb.enable = true) (hroom : (s.fb.wptr - s.fb.rptr).toNat < 2 ^ s.fb.logsz) (hk : f.kind ≠ 4) :
    let a := s.fb.base.toNat + 32 * (s.fb.wptr.toNat % 2 ^ s.fb.logsz)
    exec (.faultPost f.id) s
      = .next { (s.ksWrite (physKey (a + 4)) (s.faultBody f)).ksWriteNat (physKey a) 4 s.fb.nextSeq.toNat with
          fb := { s.fb with wptr := s.fb.wptr + 1, nextSeq := s.fb.nextSeq + 1 }
          faults := s.faults.map (fun (g : FaultReq) => if g.id = f.id then { g with seq := some s.fb.nextSeq } else g)
          irqs := if s.fb.inten then s.irqs ++ [.faultBuffer] else s.irqs } := by
  have hon : ¬ (!s.fb.enable) = true := by rw [he]; decide
  show execFaultPost f.id s = _
  simp only [execFaultPost, h]
  rw [if_neg hon, if_neg (Nat.not_le.2 hroom), if_neg hk]
  simp only [State.ksWriteNat, ksWrite_fb, ksWrite_faults, ksWrite_irqs]

end

/-- A fault is answered. -/
def State.answered (s : State) (f : FaultReq) : State := { s with faults := s.faults.filter (fun g => g.id ≠ f.id) }

section
variable {q : Word} (h : s.faults.find? (fun g => g.seq = some q) = some f)
include h

theorem exec_faultRespFail : exec (.faultRespFail q) s = .next (s.failFault f q) := by
  show execFaultRespFail q s = _
  simp only [execFaultRespFail, h]

variable (hs : s.stop = none)
include hs

/-- A REPLAY of a fault of threads lets them run their unit again, with a new walk (R195). -/
theorem exec_faultRespReplay_threads {core : Nat} (hw : f.who = .threads core) : exec (.faultRespReplay q) s
    = .next (((s.answered f).tlbEvict core f.m.ctx f.m.va.toNat).setWaits core (fun t => t.wait = .fault f.id) f.m.again) := by
  refine finish_next _ _ ?_ hs
  show execFaultRespReplay q s = _
  simp only [execFaultRespReplay, h, hw]
  rfl

/-- A REPLAY of an engine's fault drops what translates its access (R195). -/
theorem exec_faultRespReplay_engine {core id : Nat} (hw : f.who = .engine core id) : exec (.faultRespReplay q) s
    = .next ((s.answered f).tlbEvict core f.m.ctx f.m.va.toNat) := by
  refine finish_next _ _ ?_ hs
  show execFaultRespReplay q s = _
  simp only [execFaultRespReplay, h, hw]
  rfl

end

/-- A held RED whose thread is gone moves to a replay buffer with a free place (R195). -/
theorem exec_redReplayBufferMove {w : WEntry} (h : s.wpath.find? (fun o => o.id = w.id && o.held) = some w) (hd : s.alive w.agent = false) :
    let slice := coreDie w.core * 256 + w.va.toNat / 131072 % 128 % homeSlices (coreDie w.core)
    (s.replay.filter (fun e => e.1 = slice)).length < 32 → exec (.redReplayBufferMove w.id) s
      = .next ({ s with wpath := s.wpath.filter (fun o => o.id ≠ w.id), replay := s.replay ++ [(slice, w)] } : State).sweep := by
  intro slice hroom
  have hmoves : (s.alive w.agent || decide (32 ≤ (s.replay.filter (fun e => e.1 = slice)).length)) = false := by
    rw [hd, Bool.false_or, decide_eq_false_iff_not]
    omega
  show execRedReplayBufferMove w.id s = _
  simp only [execRedReplayBufferMove, h]
  exact congrArg Host.Outcome.next (if_neg (Bool.eq_false_iff.1 hmoves))

end

end Sys2Proof.Machine

/-! ### SUPPORT: invalidation, soft errors and links (R11, R14, R194, R221) -/

namespace Sys2Proof.Machine

section
variable {s : State}

/-- Does an entry translate an address of a range of a context? -/
def TlbEntry.inRange (e : TlbEntry) (ctx lo hi : Nat) : Bool :=
  e.ctx = ctx && rangesMeet (e.vbase * 2 ^ pageBits e.size) (2 ^ pageBits e.size) lo (hi - lo)

/-- No TLB holds an entry of a range that has been dropped (R194). -/
theorem dropTlb_out {ctx lo hi : Nat} {k : Nat × List TlbEntry} {e : TlbEntry}
    (hk : k ∈ (s.dropTlb ctx lo hi).l1tlb ++ (s.dropTlb ctx lo hi).cltlb ++ (s.dropTlb ctx lo hi).lltlb) (he : e ∈ k.2) :
    e.inRange ctx lo hi = false := by
  have hcut : ∀ m : List (Nat × List TlbEntry),
      k ∈ (m.map (fun e => (e.1, e.2.filter (fun x => !x.inRange ctx lo hi)))).filter (fun e => !e.2.isEmpty) → e.inRange ctx lo hi = false := by
    intro m hm
    obtain ⟨o, -, rfl⟩ := List.mem_map.1 (List.mem_of_mem_filter hm)
    simpa using (List.mem_filter.1 he).2
  rcases List.mem_append.1 hk with hk | hk
  · rcases List.mem_append.1 hk with hk | hk
    · exact hcut s.l1tlb hk
    · exact hcut s.cltlb hk
  · exact hcut s.lltlb hk

/-- INVALIDATE_GO of an interface that is not BUSY (R194). -/
theorem exec_invalidateGo (hb : s.inval.busy = false) : exec .invalidateGo s
    = .next { s.dropTlb s.inval.ctx.toNat s.inval.range.1 s.inval.range.2 with
        inval := { s.inval with busy := true, awaiting := s.accessesIn s.inval.ctx.toNat s.inval.range.1 s.inval.range.2 } } := by
  show execInvalidateGo s = _
  simp only [execInvalidateGo, hb, Bool.false_eq_true, if_false]

/-- BUSY falls once the accesses and the walks of the range are over (R194). -/
theorem exec_tlbInvalidationDone (hb : s.inval.busy = true) (ho : s.allOver s.inval.awaiting = true)
    (hw : ∀ w ∈ s.walks, w.ctx = s.inval.ctx.toNat → s.inval.range.1 ≤ w.vpage * 131072 → s.inval.range.2 ≤ w.vpage * 131072) :
    exec .tlbInvalidationDone s = .next { s with inval := { s.inval with busy := false, awaiting := [] } } := by
  have hnone : s.walks.any (fun w => w.ctx = s.inval.ctx.toNat && s.inval.range.1 ≤ w.vpage * 131072
      && w.vpage * 131072 < s.inval.range.2) = false := by
    refine List.any_eq_false.2 fun w hmem => ?_
    simp only [Bool.and_eq_true, decide_eq_true_eq]
    rintro ⟨⟨hctx, hlo⟩, hhi⟩
    exact absurd hhi (Nat.not_lt.2 (hw w hmem hctx hlo))
  show execTlbInvalidationDone s = _
  simp only [execTlbInvalidationDone, hb, ho, hnone, Bool.not_false, Bool.and_self, if_true]

/-- A word that memory has lost is kept and logged (R11). -/
theorem exec_softErrorUncorrectable {pa : Nat} (h : memExists s.part (keyOf spDevice pa) = true) :
    let o := s.owner (keyOf spDevice pa)
    exec (.softErrorUncorrectable pa) s = .next (({ s with
      softErrs := if s.softErrs.contains (pa / 8) then s.softErrs else s.softErrs ++ [pa / 8] } : State).logWrite false 3
        (homeDie (keyOf spDevice pa)) 0 0 (BitVec.ofNat 64 (if o = 0 then pa else pa / 131072 * 131072)) (BitVec.ofNat 64 (o % 65536))) := by
  show execSoftErrorUncorrectable pa s = _
  simp only [execSoftErrorUncorrectable, h, Bool.not_true, Bool.false_eq_true, if_false]

/-- A Span link joins two of the dies 0 to 5 (R12). -/
theorem linkUp_src_lt {a b : Nat} (h : s.linkUp a b = true) : a < 64 := by
  obtain ⟨hspan, -⟩ := Bool.and_eq_true_iff.1 h
  simp only [Part.spanLink, Bool.and_eq_true, Bool.or_eq_true, decide_eq_true_eq] at hspan
  omega

/-- A flit of a Span link that carries traffic fails its check (R14). -/
theorem exec_spanFlitCrcFail_link {a b : Nat} (h : s.linkUp a b = true) (hc : s.chans ≠ []) :
    exec (.spanFlitCrcFail a b) s = .next (s.flitFails (8 * a + b + s.linkSel a b)) := by
  have htraffic : (!s.chans.isEmpty) = true := by simpa using hc
  show execSpanFlitCrcFail a b s = _
  simp only [execSpanFlitCrcFail, Nat.not_le.2 (linkUp_src_lt h), h, htraffic, Bool.and_self, if_true, if_false]

/-- A flit of a Viaduct port that carries fabric writes fails its check (R221). -/
theorem exec_spanFlitCrcFail_port {p : Nat} (h : s.portUp p = true) (hw : ∃ w ∈ s.ports, spaceOf w.key = spFabric) (d : Nat) :
    exec (.spanFlitCrcFail (64 + p) d) s = .next (s.flitFails (64 + p)) := by
  have htraffic : s.ports.any (fun w => decide (spaceOf w.key = spFabric)) = true := by
    simpa only [List.any_eq_true, decide_eq_true_eq] using hw
  show execSpanFlitCrcFail (64 + p) d s = _
  simp only [execSpanFlitCrcFail, Nat.le_add_right, Nat.add_sub_cancel_left, h, htraffic, Bool.and_self, if_true]

/-- A Span link whose flit has failed nine times in a row goes down (R14; log 47). -/
theorem exec_spanLinkDown {a b : Nat} (h : s.linkUp a b = true) (hn : 9 ≤ kvGetD 0 s.retries (8 * a + b + s.linkSel a b)) :
    let t := ({ s with linksDown := kvPut s.linksDown (linkKey a b + s.linkSel a b) 1
                       retries := kvDel (kvDel s.retries (8 * a + b + s.linkSel a b)) (8 * b + a + s.linkSel a b) } : State).logWrite
      false 1 a 0 0 (linkArg a b) (linkDir a b)
    exec (.spanLinkDown a b) s
      = .next (if a = 5 ∨ b = 5 then t else t.logWrite true 0x0103 a 0 0 (linkArg a b) (linkDir a b)) := by
  show execSpanLinkDown a b s = _
  simp only [execSpanLinkDown, h, hn, decide_true, Bool.and_self, if_true, Bool.or_eq_true, decide_eq_true_eq]

/-- A Viaduct port whose flit has failed nine times in a row goes down (R11, R221). -/
theorem exec_viaductLinkDown {p : Nat} (h : s.portUp p = true) (hp : s.choice = p) (hn : 9 ≤ kvGetD 0 s.retries (64 + p)) :
    exec .viaductLinkDown s = .next (({ s with viaductDown := s.viaductDown ++ [p], retries := kvDel s.retries (64 + p) } : State).logWrite
      false 2 5 0 0 (BitVec.ofNat 64 p) 0) := by
  subst hp
  show execViaductLinkDown s = _
  simp only [execViaductLinkDown, h, hn, decide_true, Bool.and_self, if_true]

end

/-! ### O46 -/

/-- Settles O46: the end of a walk, the post and the two answers of a fault, then invalidation, soft errors and links. -/
theorem faultsInvalidationsAndLinks : Obligations.FaultsInvalidationsAndLinks := by
  unfold Obligations.FaultsInvalidationsAndLinks
  refine ⟨fun s hs => ⟨fun die ctx vpage hr => ?_, fun f hf => ?_, fun f q hf => ?_, fun w hw hd => ?_⟩,
    fun s => ⟨fun hb => ?_, fun hb ho hw => ?_, fun pa hpa => ?_, fun a b hup => ?_, fun p hup => ?_⟩⟩
  · intro who faults
    refine ⟨fun e he => ?_, fun k hk => ?_⟩
    · obtain ⟨hwalks, hmem, -⟩ := serveLeaf_keeps (s.endWalk ⟨die, ctx, vpage⟩) e who
      refine ⟨_, exec_pageWalkComplete_leaf hs hr he, hwalks, hmem, faultAccesses_records _ _ 1, ?_⟩
      intro c n l x m hx hdie hwait hctx hva hok hone
      have hin : (c, n, l, x.pc, m) ∈ who := mem_walkers hx hdie hwait hctx hva
      have hone' : ∀ a ∈ who, HeldAccess.standsAt a c n l → a.2.2.2.2 = m := fun a ha hat => hone a ha hat.1 hat.2.1 hat.2.2
      refine ⟨?_, fun hcov => tlbFind_serveLeaf hcov ⟨_, hin, rfl, hok⟩⟩
      refine (thread?_serveLeaf (s := s.endWalk ⟨die, ctx, vpage⟩) hone' ⟨_, hin, rfl, rfl, rfl⟩ hok).trans ?_
      exact congrArg (Option.map fun x : Thread => { x with wait := m.again }) hx
    · have haside := accessAside_faultAccesses (s.endWalk ⟨die, ctx, vpage⟩) who k
      exact ⟨_, exec_pageWalkComplete_fault hs hr hk, (congrArg State.walks haside :), (congrArg State.mem haside :),
        faultAccesses_records _ _ k⟩
  · exact ⟨exec_faultPost_disabled hf, exec_faultPost_enabled hf⟩
  · refine ⟨fun core hw => ⟨_, exec_faultRespReplay_threads hf hs hw, rfl, fun c n l => ?_⟩,
      fun core id hw => exec_faultRespReplay_engine hf hs hw, exec_faultRespFail hf⟩
    rw [thread?_setWaits]
    simp only [decide_eq_true_eq]
    rfl
  · exact exec_redReplayBufferMove hw hd
  · refine ⟨_, exec_invalidateGo hb, rfl, rfl, fun k hk e he hctx => ?_⟩
    have hout : e.inRange s.inval.ctx.toNat s.inval.range.1 s.inval.range.2 = false := dropTlb_out hk he
    simpa only [TlbEntry.inRange, hctx, decide_true, Bool.true_and] using hout
  · exact exec_tlbInvalidationDone hb ho hw
  · exact exec_softErrorUncorrectable hpa
  · exact ⟨exec_spanFlitCrcFail_link hup, exec_spanLinkDown hup⟩
  · exact ⟨exec_spanFlitCrcFail_port hup, exec_viaductLinkDown hup⟩

end Sys2Proof.Machine

/-! ### SUPPORT: what releases, completions and stores leave of a workgroup, and a workgroup that stops whole (R213) -/

namespace Sys2Proof.Machine

theorem noteOld_wgs (s : State) (w : WEntry) (b : List Byte) : (s.noteOld w b).wgs = s.wgs := by
  unfold State.noteOld State.noteWas
  split <;> rfl

theorem numberWrite_wgs (s : State) (d i : Nat) : (s.numberWrite d i).wgs = s.wgs := by
  unfold State.numberWrite
  split <;> rfl

theorem sendClock_wgs (s : State) (d : Nat) : (s.sendClock d).wgs = s.wgs :=
  foldl_wgs (fun s j => s.send d j .clock) _ (fun _ _ => rfl) s

/-- What a workgroup holds beside its teams, its engine commands and its count of issues. -/
def groupStay (w : Workgroup) : Workgroup := { w with teams := [], insns := 0, cmds := [] }

/-- From `s` to `t` no workgroup has come, gone or changed but in its teams, its engine commands and its count of issues. -/
def KeepsGroups (s t : State) : Prop := ∀ c, (t.wg? c).map groupStay = (s.wg? c).map groupStay

namespace KeepsGroups

theorem refl (s : State) : KeepsGroups s s := fun _ => rfl

theorem trans {s t u : State} (h : KeepsGroups s t) (k : KeepsGroups t u) : KeepsGroups s u := fun c => (k c).trans (h c)

theorem outside {s t : State} (hw : t.wgs = s.wgs) : KeepsGroups s t := fun c => by rw [State.wg?, State.wg?, hw]

theorem fold {α : Type} (f : State → α → State) (l : List α) (h : ∀ s x, KeepsGroups s (f s x)) (s : State) :
    KeepsGroups s (l.foldl f s) := fun c => foldl_keeps (fun s => (s.wg? c).map groupStay) f l (fun s x => h s x c) s

theorem of_shell {s t : State} (h : ∀ c, (t.wg? c).map groupShell = (s.wg? c).map groupShell) : KeepsGroups s t := fun c => by
  have hc := congrArg (Option.map groupStay) (h c)
  rwa [Option.map_map, Option.map_map] at hc

/-- A change of every workgroup in its teams and commands. -/
theorem mapGroups (s : State) (f : Nat × Workgroup → Workgroup) (hf : ∀ e, groupStay (f e) = groupStay e.2) :
    KeepsGroups s { s with wgs := s.wgs.map (fun e => (e.1, f e)) } := fun c =>
  kvGet_map_keeps groupStay s.wgs c (fun i w => f (i, w)) (fun i w => hf (i, w))

theorem setWaits (s : State) (c : Nat) (p : Thread → Bool) (w : Wait) : KeepsGroups s (s.setWaits c p w) :=
  of_shell (setWaits_groups s c p w)

theorem finishFence (s : State) (f : FenceReq) : KeepsGroups s (s.finishFence f) := by
  obtain ⟨m, c, q, h⟩ := finishFence_eq s f
  rw [h]
  exact trans (outside rfl) (setWaits _ _ _ _)

theorem acquire (s : State) (c u : Nat) (ts : List Nat) (k : Nat) (v : List Word) : KeepsGroups s (s.acquire c u ts k v) := by
  have hstart : KeepsGroups s (s.startFence c u ts k false true v) :=
    trans (t := { s.bump with fences := s.fences ++ [⟨s.nextSeq, c, u, ts ++ [u], k, false, true, v⟩] }) (outside rfl)
      (setWaits _ c (fun t => ts.contains t.tid) (.fence s.nextSeq))
  show KeepsGroups s (if _ then _ else _ : State)
  split
  · exact hstart.trans (finishFence _ _)
  · exact hstart

theorem modUid (s : State) (u : Nat) (f : Team → Team) : KeepsGroups s (s.modUid u f) := mapGroups s _ fun _ => rfl

theorem cmdRetire (s : State) (id : Nat) : KeepsGroups s (s.cmdRetire id) := by
  refine trans (mapGroups s (fun e => if e.2.cmds.any (fun c => c.id = id) then
      { e.2 with cmds := e.2.cmds.filter (fun c => c.id ≠ id), teams := e.2.teams.map (fun t => (t.1, t.2.tokDone id)) } else e.2)
    fun e => ?_) (outside rfl)
  split <;> rfl

/-- A write that is complete lowers its team's counter, or may end its engine command. -/
theorem completeWrite (s : State) (id : Nat) : KeepsGroups s (s.completeWrite id) := by
  unfold State.completeWrite
  split
  · exact refl s
  · refine trans (t := { s with writes := s.writes.filter (fun (t : WTrack) => t.id ≠ id) }) (outside rfl) ?_
    dsimp only
    split
    · split
      · exact refl _
      · exact modUid _ _ _
    · unfold State.cmdCheck
      dsimp only
      split
      · exact cmdRetire _ _
      · exact refl _
    · exact refl _

theorem checkWrite (s : State) (id : Nat) : KeepsGroups s (s.checkWrite id) := by
  unfold State.checkWrite
  split
  · split
    · exact completeWrite _ _
    · exact refl s
  · exact refl s

theorem waitmTouched (s : State) (key n : Nat) : KeepsGroups s (s.waitmTouched key n) := by
  refine fold _ _ (fun s _ => fold _ _ (fun s c => ?_) s) s
  dsimp only
  split
  · exact refl s
  · exact fold _ _ (fun s u => acquire _ _ _ _ _ _) s

/-- A write that no arrival word counts, performed at its home. -/
theorem performAt (s : State) (h : Nat) (w : WEntry) (hu : uncounted w) : KeepsGroups s (s.performAt h w) := by
  unfold State.performAt
  extract_lets data s1 s2 s3 holders fresh s4 s5 s6 s7 s8 s9
  have h1 : KeepsGroups s s1 := by
    show KeepsGroups s (if _ then _ else _ : State)
    split
    · exact refl _
    · exact outside (noteOld_wgs _ _ _)
  have h4 : KeepsGroups s3 s4 := by
    show KeepsGroups s3 (if _ then _ else _ : State)
    split
    · exact refl _
    · exact outside (numberWrite_wgs _ _ _)
  have h5 : KeepsGroups s4 s5 := outside (foldl_wgs
    (fun s d => s.send h d (.update w.id (lineOf w.key) (w.key % 128) data)) _ (fun _ _ => rfl) _)
  have h6 : KeepsGroups s5 s6 := by
    show KeepsGroups s5 (if _ then _ else _ : State)
    split
    · exact refl _
    · exact outside (sendClock_wgs _ _)
  have h9 : s9 = s8 := by
    show (match w.owner with
      | .cmd _ id true => s8.arrivalFor id data.length
      | _ => s8) = s8
    split
    · next c i e => exact absurd e (hu _ _)
    · rfl
  rw [h9]
  have h8 : KeepsGroups s7 s8 := waitmTouched _ _ _
  have h3 : KeepsGroups s1 s3 := outside rfl
  have h7 : KeepsGroups s6 s7 := outside rfl
  exact (((((h1.trans h3).trans h4).trans h5).trans h6).trans h7).trans (h8.trans (checkWrite _ _))

theorem ksSend (s : State) (k : Nat) (b : List Byte) : KeepsGroups s (s.ksSend none k b) := by
  unfold State.ksSend
  extract_lets w s1 h s2
  refine trans (t := s1) (outside rfl) ?_
  split
  · split
    · exact outside (noteOld_wgs s1 w _)
    · exact performAt _ _ _ (by rintro c i ⟨⟩)
  · exact outside ((sendClock_wgs _ _).trans (numberWrite_wgs s1 _ _))

theorem ksStore (s : State) (c : Nat) (a : DWord) (b : List Byte) : KeepsGroups s (s.ksStore c a b) := by
  refine fold _ _ (fun s p => ?_) s
  split
  · exact fold _ _ (fun s _ => ksSend s _ _) s
  · exact refl s

theorem freeSlot (s : State) (c k : Nat) : KeepsGroups s (s.freeSlot c k) := trans (ksStore s c _ _) (outside rfl)

theorem startClose (s : State) (c l q : Nat) (la : Option Nat) (b : DWord) : KeepsGroups s (s.startClose c l q la b) := by
  unfold State.startClose
  extract_lets counts held spilt pins all cap out lost s1 s2 s3 counts2
  have h2 : KeepsGroups s1 s2 := fold _ _ (fun s k => freeSlot s c k) _
  have h3 : KeepsGroups s2 s3 := fold _ _ (fun s k => ksStore _ _ _ _) _
  have h1 : KeepsGroups s s1 := outside rfl
  exact ((h1.trans h2).trans h3).trans (outside rfl)

theorem heirClose (s : State) (l : Nat) : KeepsGroups s (s.heirClose l) := by
  unfold State.heirClose
  split
  · exact refl s
  · split
    · exact trans (t := s.modLaunch l (fun l => { l with state := .closing })) (outside rfl) (startClose _ _ _ _ _ _)
    · exact refl s

end KeepsGroups

/-! #### A workgroup that stops whole -/

/-- No thread stands in a lane of a core, and a workgroup that still holds the core has been cancelled and has no bin. -/
structure Stopped (c : Nat) (s : State) : Prop where
  lanes : ∀ n l, s.thread? c n l = none
  group : ∀ w, s.wg? c = some w → w.cancelled = true ∧ w.bins = []

namespace Stopped

variable {c : Nat} {s t : State}

theorem same (hw : t.wgs = s.wgs) (h : Stopped c s) : Stopped c t :=
  ⟨fun n l => by simpa only [State.thread?, State.team?, State.wg?, hw] using h.lanes n l,
    fun w e => h.group w (by simpa only [State.wg?, hw] using e)⟩

theorem gone (hw : s.wg? c = none) : Stopped c s :=
  ⟨fun n l => by simp [State.thread?, State.team?, hw], fun w e => by simp [hw] at e⟩

/-- Waits, completions and counts leave a workgroup stopped. -/
theorem kept (hW : ∀ n l, (t.thread? c n l).map noWait = (s.thread? c n l).map noWait)
    (hG : (t.wg? c).map groupStay = (s.wg? c).map groupStay) (h : Stopped c s) : Stopped c t := by
  refine ⟨fun n l => ?_, fun w e => ?_⟩
  · have hnone := hW n l
    rw [h.lanes n l] at hnone
    exact Option.map_eq_none_iff.1 hnone
  · rw [e, Option.map_some] at hG
    obtain ⟨v, hv, hvw⟩ := Option.map_eq_some_iff.1 hG.symm
    obtain ⟨hcancelled, hbins⟩ := h.group v hv
    exact ⟨(congrArg Workgroup.cancelled hvw).symm.trans hcancelled, (congrArg Workgroup.bins hvw).symm.trans hbins⟩

/-- A workgroup whose teams all give up their threads, and its bins with them. -/
theorem emptied (f : Workgroup → Workgroup) (g : Nat × Team → Team) (ht : ∀ w, (f w).teams = w.teams.map (fun e => (e.1, g e)))
    (hl : ∀ e, (g e).lanes = []) (hc : ∀ w, (f w).cancelled = true) (hb : ∀ w, (f w).bins = []) : Stopped c (s.modWg c f) := by
  refine ⟨fun n l => ?_, fun w e => ?_⟩
  · rw [State.thread?, State.team?, wg?_modWg_same]
    cases s.wg? c with
    | none => rfl
    | some w =>
      rw [Option.map_some, Option.bind_some, ht, kvGet_map w.teams n (fun i m => g (i, m))]
      cases kvGet w.teams n with
      | none => rfl
      | some m => rw [Option.map_some, Option.bind_some, hl]; rfl
  · rw [wg?_modWg_same] at e
    obtain ⟨v, -, rfl⟩ := Option.map_eq_some_iff.1 e
    exact ⟨hc v, hb v⟩

theorem endWorkgroup (h : Stopped c s) : Stopped c (s.endWorkgroup c) := by
  unfold State.endWorkgroup
  split
  · exact h
  · next w _ =>
    split
    · have hreturned : Stopped c (if w.cmds.isEmpty && !s.heldRed c then s.coreReturns c w else s) := by
        split
        · exact gone (by rw [State.wg?, Absent.coreReturns_wgs]; exact kvGet_del_same _ _)
        · exact h
      exact kept (fun n l => (OnlyWaits.heirClose _ _).threads c n l) (KeepsGroups.heirClose _ _ c)
        (same (siblingsQuiet_wgs _ _) hreturned)
    · exact h

theorem endIssue (h : Stopped c s) : Stopped c s.endIssue :=
  kept (fun n l => by rw [thread?_endIssue]) (KeepsGroups.of_shell (shell_endIssue s) c) h

end Stopped

/-- At a cancellation point the workgroup of a core stops whole (R213). -/
theorem cancelStop_stopped {s : State} {c : Nat} {w : Workgroup} {l : Launch} (hw : s.wg? c = some w) (hl : s.wgLaunch? c = some l) :
    Stopped c (s.cancelStop c) := by
  unfold State.cancelStop
  rw [hw, hl]
  exact Stopped.endWorkgroup (Stopped.emptied _ (fun e => { e.2 with lanes := [], order := [] }) (fun _ => rfl) (fun _ => rfl)
    (fun _ => rfl) (fun _ => rfl))

section
variable {s : State} {w : Workgroup} (hw : s.wg? s.cur.core = some w) (hl : (s.wgLaunch? s.cur.core).isSome = true)
include hw hl

/-- The stopping issue counts, and then the workgroup stops (R213, R216). -/
theorem cancelHere_stopped : Stopped s.cur.core s.advance.cancelHere := by
  obtain ⟨l, hl⟩ := Option.isSome_iff_exists.1 hl
  have hgroup : (s.advance.modWg s.cur.core (fun w => { w with insns := w.insns + 1 })).wg? s.cur.core = some _ :=
    (wg?_modWg_same _ _ _).trans (congrArg _ ((wg?_advance s).trans (congrArg _ hw)))
  have hlaunch := (wgLaunch?_modWg (s := s.advance) (c := s.cur.core) (f := fun w => { w with insns := w.insns + 1 })
    (fun _ => rfl)).trans ((wgLaunch?_advance s s.cur.core).trans hl)
  exact cancelStop_stopped hgroup hlaunch

/-- A unit that has come to a cancellation point of a told workgroup leaves it stopped. -/
theorem stops_of_exec {i : Instr} (h : exec i s = .next s.advance.cancelHere.endIssue) :
    ∃ t, exec i s = .next t ∧ (∀ n l, t.thread? s.cur.core n l = none)
      ∧ ∀ v, t.wg? s.cur.core = some v → v.cancelled = true ∧ v.bins = [] :=
  have hstopped := Stopped.endIssue (cancelHere_stopped hw hl)
  ⟨_, h, hstopped.lanes, hstopped.group⟩

end

/-! #### The cancellation points -/

section
variable {s : State} {g : BitVec 3} (hg : s.guardU g = true) (ht : s.told = true)
include hg ht

theorem exec_yield_told : exec (.yield g) s = .next s.advance.cancelHere.endIssue := by
  show execYield g s = _
  rw [execYield, hg, unifUnit_ok _ _ _ rfl]
  exact congrArg (fun u : State => Host.Outcome.next u.endIssue) (if_pos ((told_advance s).trans ht))

theorem exec_sibchk_told (hv : s.votes = true) : exec (.sibchk g) s = .next s.advance.cancelHere.endIssue := by
  show execSibchk g s = _
  rw [execSibchk, hg, unifUnit_ok _ _ _ rfl, if_pos (by rw [votes_advance, told_advance, hv, ht]; rfl)]

/-- A barrier of workgroup level or above is a cancellation point (R213, R316). -/
theorem barUnit_told {i : Instr} {lvl : BitVec 2} {body : State → State} (hw : i.wf = true) (hn : lvl ≠ 0)
    (hc : lvl = 2 → (s.hdr s.cur.core).cluster = true) : s.barUnit i g lvl body = s.advance.cancelHere.endIssue := by
  have hcluster : ¬ (decide (lvl.toNat = 2) && !(s.advance.hdr s.advance.cur.core).cluster) = true := by
    rw [cur_advance, hdr_advance]
    intro h
    simp only [Bool.and_eq_true, decide_eq_true_eq, Bool.not_eq_true'] at h
    rw [hc (BitVec.eq_of_toNat_eq h.1)] at h
    exact absurd h.2 (by decide)
  have hlevel : lvl.toNat ≠ 0 := fun h => hn (BitVec.eq_of_toNat_eq h)
  unfold State.barUnit
  rw [hg, unifUnit_ok _ _ _ hw, if_neg hcluster, if_pos (by rw [told_advance, ht]; simp [hlevel])]

end

/-! #### O29 -/

/-- Settles O29: every cancellation point of a told workgroup evaluates to the stop of its workgroup, which empties its lanes and
bins. -/
theorem cancellationPoints : Obligations.CancellationPoints := by
  unfold Obligations.CancellationPoints
  intro s g lvl n w hg ht hw hl stops
  refine ⟨stops_of_exec hw hl (exec_yield_told hg ht), fun hv => stops_of_exec hw hl (exec_sibchk_told hg ht hv), fun hn h0 hc => ?_⟩
  exact ⟨stops_of_exec hw hl (congrArg Host.Outcome.next (barUnit_told hg ht hn h0 hc)),
    stops_of_exec hw hl (congrArg Host.Outcome.next (barUnit_told hg ht hn h0 hc)),
    stops_of_exec hw hl (congrArg Host.Outcome.next (barUnit_told hg ht hn h0 hc))⟩

end Sys2Proof.Machine

/-! ### SUPPORT: posts at the ballot unit, and its answers (R210, R211, R260, R321, R323) -/

namespace Sys2Proof.Machine

/-! #### Groups -/

/-- What the record of a changed sibling holds. -/
theorem sibs_modSib (g : Group) (i : Nat) (f : Sibling → Sibling) : (g.modSib i f).sibs[i]? = (g.sibs[i]?).map f := by
  simp only [Group.modSib, List.getElem?_map]
  by_cases h : i < g.sibs.length
  · simp [h]
  · simp [Nat.le_of_not_lt h]

/-- A group's slot holds the group. -/
def State.putGroup (s : State) (slot : Nat) (g : Group) : State := { s with groups := kvPut s.groups slot g }

theorem putGroup_of_groups {s t : State} (h : t.groups = s.groups) (slot : Nat) (g : Group) :
    t.putGroup slot g = { t with groups := kvPut s.groups slot g } := by rw [State.putGroup, h]

theorem liveGroup_of_groups {s t : State} (h : t.groups = s.groups) (handle : Word) : t.liveGroup handle = s.liveGroup handle := by
  rw [State.liveGroup, State.liveGroup, h]

theorem mergeStamp_groups (s : State) (d : Nat) (v : List Word) : (s.mergeStamp d v).groups = s.groups :=
  (congrArg State.groups (beside_mergeStamp s d v) :)

/-! #### A post that arrives -/

/-- A post is answered: its status is on the way back. -/
def State.answerPost (s : State) (id : Nat) (x : Word) : State :=
  { s with posts := s.posts.map (fun (o : Post) => if o.id = id then { o with answer := some x } else o) }

/-- A group that has taken in a post of one of its siblings: its number, and the work units (R210, R211). -/
def Group.seeing (g : Group) (i : Nat) (work : Word) : Group :=
  ({ g with nposts := g.nposts + 1 } : Group).modSib i (fun b => { b with work := b.work + work })

/-- The same group with the sibling's post counted under its number (R211). -/
def Group.counting (g : Group) (i : Nat) (hash : DWord) (work : Word) : Group :=
  (g.seeing i work).modSib i (fun b => { b with post := some (hash, g.nposts + 1) })

section
variable {s : State} {p : Post} {hash : DWord} {work : Word}
  (hf : s.posts.find? (fun o => o.id = p.id && o.answer.isNone) = some p) (hh : p.hash = some (hash, work)) (ha : s.postArrives p = true)
include hf hh ha

/-- A post whose group does not stand is answered 2 (R210). -/
theorem exec_ballotPostAccept_dead (hg : s.liveGroup p.handle = none) :
    exec (.ballotPostAccept p.id) s = .next ((s.mergeStamp 5 (s.vcOf (coreDie p.core))).answerPost p.id 2) := by
  show execBallotPostAccept p.id s = _
  have hlive := (liveGroup_of_groups (mergeStamp_groups s 5 (s.vcOf (coreDie p.core))) p.handle).trans hg
  simp only [execBallotPostAccept, hf, hh, ha, hlive]
  rfl

variable {k : Nat} {g : Group} {b : Sibling} (hg : s.liveGroup p.handle = some (k, g)) (hb : g.sibs[p.sib]? = some b)
include hg hb

/-- A post to a group that stands counts in NPOSTS and WORK, and then goes by the group's state and its sibling's record (R210, R211). -/
theorem exec_ballotPostAccept_live :
    let s0 := s.mergeStamp 5 (s.vcOf (coreDie p.core))
    exec (.ballotPostAccept p.id) s = .next (if g.state = .voting then
        if b.post.isSome = true then (s0.putGroup k (g.seeing p.sib work)).answerPost p.id 1
        else (if g.t ≤ ((g.counting p.sib hash work).counted.filter (fun e => e.2.1 = hash)).length
          then (s0.answerPost p.id 0).decideGroup k (g.counting p.sib hash work) hash (g.nposts + 1)
          else (s0.answerPost p.id 0).putGroup k (g.counting p.sib hash work)).siblingsQuiet g.launch
      else (s0.putGroup k (g.seeing p.sib work)).answerPost p.id (if b.cancelled then 3 else 2)) := by
  intro s0
  have hlive : s0.liveGroup p.handle = some (k, g) := (liveGroup_of_groups (mergeStamp_groups _ _ _) p.handle).trans hg
  have hsib : (({ g with nposts := g.nposts + 1 } : Group).modSib p.sib (fun b => { b with work := b.work + work })).sibs[p.sib]?
      = some { b with work := b.work + work } := by
    rw [sibs_modSib, hb]; rfl
  show execBallotPostAccept p.id s = _
  unfold execBallotPostAccept
  rw [hf]
  dsimp only
  rw [hh]
  dsimp only
  rw [if_neg (by rw [ha]; decide), show s.mergeStamp 5 (s.vcOf (coreDie p.core)) = s0 from rfl, hlive]
  dsimp only
  rw [hsib, apply_ite (fun t : State => t.siblingsQuiet g.launch)]
  rfl

end

/-! #### Answers -/

/-- An answer puts its word into the register, and the post is over. -/
theorem beside_deliver (s : State) (p : Post) (x : Word) :
    beside (s.deliver p x) = beside { s with posts := s.posts.filter (fun o => o.id ≠ p.id) } := by
  have h := beside_mergeStamp s (coreDie p.core) (s.vcOf 5)
  exact (congrArg (fun u : State => { u with posts := u.posts.filter (fun o => o.id ≠ p.id) }) h :)

theorem team?_deliver (s : State) (p : Post) (x : Word) (c n : Nat) :
    (s.deliver p x).team? c n = (s.team? c n).map (fun t => if t.uid = p.uid then t.setSr p.d x else t) := by
  have hteam := team?_modUid (s.mergeStamp (coreDie p.core) (s.vcOf 5)) p.uid (fun t => t.setSr p.d x) c n
  rw [State.team?, State.team?, State.wg?, State.wg?, mergeStamp_wgs] at hteam
  exact hteam

section
variable {s : State} {p : Post} (hr : s.fiveReaches (coreDie p.core) = true)
include hr

/-- A status is written once every cancelled sibling of the post's group has been told (R260). -/
theorem exec_bpostStatusDeliver {x : Word} (hf : s.posts.find? (fun o => o.id = p.id && o.hash.isSome) = some p) (hx : p.answer = some x)
    (htold : ∀ k g, s.liveGroup p.handle = some (k, g) → ∀ b ∈ g.sibs, b.cancelled = true → b.told = true) :
    exec (.bpostStatusDeliver p.id) s = .next (s.deliver p x) := by
  have hall : (match s.liveGroup p.handle with
      | some (_, g) => g.sibs.all (fun b => !b.cancelled || b.told)
      | none => true) = true := by
    split
    · next k g hg =>
      rw [List.all_eq_true]
      intro b hb
      have hbt := htold k g hg b hb
      cases hbc : b.cancelled with
      | false => rfl
      | true => rw [hbt hbc]; rfl
    · rfl
  show execBpostStatusDeliver p.id s = _
  unfold execBpostStatusDeliver
  rw [hf]
  dsimp only
  rw [hx]
  exact congrArg Host.Outcome.next (if_pos (by rw [hr, Bool.and_true]; exact hall))

theorem exec_bqryResultDeliver (hf : s.posts.find? (fun o => o.id = p.id && o.hash.isNone) = some p) :
    exec (.bqryResultDeliver p.id) s = .next (s.deliver p (queryWord ((s.liveGroup p.handle).map (·.2)) p.sib)) := by
  show execBqryResultDeliver p.id s = _
  simp only [execBqryResultDeliver, hf, hr, if_true]

end

/-- The word that a query of a group that stands reads (R323). -/
theorem queryWord_live {g : Group} {i : Nat} {b : Sibling} (hb : g.sibs[i]? = some b) : queryWord (some g) i
    = BitVec.ofNat 32 ((if g.outcome ≠ 0 ∨ g.state = .releasing then 1 else 0) + (if b.cancelled then 2 else 0)
        + (if b.post.isSome then 4 else 0) + 256 * g.counted.length) := by
  simp only [queryWord, hb, Option.getD_some, Bool.or_eq_true, decide_eq_true_eq]

/-- Whatever ends as a delivery writes the register and forgets the post. -/
theorem writes_of_deliver {s : State} {i : Instr} {p : Post} {x : Word} (h : exec i s = .next (s.deliver p x)) :
    ∃ u : State, exec i s = .next u ∧ beside u = beside { s with posts := s.posts.filter (fun o => o.id ≠ p.id) }
      ∧ ∀ c n, u.team? c n = (s.team? c n).map (fun t => if t.uid = p.uid then t.setSr p.d x else t) :=
  ⟨_, h, beside_deliver s p x, team?_deliver s p x⟩

/-! #### Telling the piers -/

/-- The siblings of a group whose cancellation is to be told: their exchange is done (R212 step 3). -/
def State.dueSiblings (s : State) (g : Group) : List Nat :=
  (List.range g.sibs.length).filter (fun i => match g.sibs[i]? with
    | some b => b.cancelled && !b.told && s.exchangeDone g i
    | none => false)

theorem exec_siblingCancelNotify {s : State} {slot : Nat} {g : Group} {l : Launch} (hg : kvGet s.groups slot = some g)
    (hs : g.state ≠ .closed) (hl : s.launch? g.launch = some l) (hd : s.dueSiblings g ≠ []) : exec (.siblingCancelNotify slot) s
    = .next (((s.dueSiblings g).foldl (fun s i => s.tellSibling slot l i) s).siblingsQuiet g.launch) := by
  show execSiblingCancelNotify slot s = _
  unfold execSiblingCancelNotify
  rw [hg]
  have hopen : ¬ (decide (g.state = GState.closed) || (s.dueSiblings g).isEmpty) = true := by
    simpa [hs] using hd
  refine congrArg Host.Outcome.next ((if_neg hopen).trans ?_)
  rw [hl]
  rfl

end Sys2Proof.Machine

/-! ### SUPPORT: page release and the accounting record (R214 to R217) -/

namespace Sys2Proof.Machine

section
variable {s : State} {slot : Nat} {g : Group} (hg : kvGet s.groups slot = some g) (hs : g.state = .releasing) (hn : g.walk.1 < g.n)
include hg hs hn

/-- The walk reads a list's head (R214). -/
theorem exec_pageReleaseWalk_head (hw : g.walk.2.1 = none) :
    let head := g.pages + BitVec.ofNat 64 (8 * g.walk.1)
    exec (.pageReleaseWalk slot) s = .next (if (s.ksPlace g.ctx head false).isSome = true then
        if s.ksReadNat g.ctx head 8 = 0 then s.putGroup slot (g.nextList false)
        else s.putGroup slot { g with walk := (g.walk.1, some (BitVec.ofNat 64 (s.ksReadNat g.ctx head 8)), 0) }
      else s.putGroup slot (g.nextList true)) := by
  intro head
  show execPageReleaseWalk slot s = _
  unfold execPageReleaseWalk
  rw [hg]
  dsimp only
  rw [if_neg (by simp [hs, hn]), hw]
  dsimp only
  cases s.ksPlace g.ctx head false <;> rfl

/-- The walk at a node that it can read and that is well formed: its end, a push, or a decrement (R214, R215). -/
theorem exec_pageReleaseWalk_node {a : DWord} (hw : g.walk.2.1 = some a) (hp : (s.ksPlace g.ctx a false).isSome = true)
    (hnum : pkt (s.ksRead g.ctx a 64) 8 8 < 4) (hform : pkt (s.ksRead g.ctx a 64) 8 8 ≠ 0 ∨ pkt (s.ksRead g.ctx a 64) 0 8 = 0) :
    let node := s.ksRead g.ctx a 64
    let j := g.walk.2.2 / 2
    exec (.pageReleaseWalk slot) s = .next (if pkt node 8 8 ≤ j then
        if pkt node 0 8 = 0 then s.putGroup slot (g.nextList false)
        else s.putGroup slot { g with walk := (g.walk.1, some (BitVec.ofNat 64 (pkt node 0 8)), 0) }
      else if g.walk.2.2 % 2 = 1 then s.pushPage slot g (pkt node (0x10 + 16 * j) 8)
      else s.releaseEntry slot g (pkt node (0x18 + 16 * j) 8)) := by
  intro node j
  obtain ⟨place, hplace⟩ := Option.isSome_iff_exists.1 hp
  show execPageReleaseWalk slot s = _
  unfold execPageReleaseWalk
  rw [hg]
  dsimp only
  rw [if_neg (by simp [hs, hn]), hw]
  dsimp only
  rw [hplace]
  dsimp only
  rw [if_neg]
  · rfl
  · simp only [Bool.or_eq_true, Bool.and_eq_true, decide_eq_true_eq, not_or, not_and, not_not]
    exact ⟨Nat.not_le.2 hnum, fun h0 => hform.resolve_left (not_not.2 h0)⟩

end

/-- A decrement at the refcount's home: one that reaches 0 leaves its page to be pushed, one of 0 counts in UNDERFLOW (R215). -/
theorem releaseEntry_decrements {s : State} {g : Group} {ref key : Nat} (slot : Nat) (h4 : ref % 4 = 0)
    (hk : s.ksPlace g.ctx (BitVec.ofNat 64 ref) true = some key) (hd : isDevice key = true)
    (hr : s.remoteReady 5 (homeDie key) = true) (hx : ∀ x ∈ s.was, x.nibble = false) :
    let old := s.readNat key 4
    (s.releaseEntry slot g ref).mem = memPut s.mem key (toBytes 4 ((old + 0xFFFFFFFF) % 0x100000000))
      ∧ kvGet (s.releaseEntry slot g ref).groups slot = some { (if old = 1 then { g with walk := (g.walk.1, g.walk.2.1, g.walk.2.2 + 1) }
          else g.nextEntry (old = 0)) with pagesrel := g.pagesrel + 1 } := by
  intro old
  have hreleased : s.releaseEntry slot g ref = (s.homeWrite key (toBytes 4 ((old + 0xFFFFFFFF) % 0x100000000))).putGroup slot
      { (if old = 1 then { g with walk := (g.walk.1, g.walk.2.1, g.walk.2.2 + 1) } else g.nextEntry (old = 0)) with
        pagesrel := g.pagesrel + 1 } := by
    unfold State.releaseEntry
    rw [if_pos h4, hk]
    dsimp only
    rw [if_neg (by simp [hd]), if_neg (by simp [hr])]
    by_cases h1 : old = 1
    · rw [if_pos h1, if_pos h1]; rfl
    · rw [if_neg h1, if_neg h1]; rfl
  rw [hreleased]
  exact ⟨mem_of_beside (beside_homeWrite s key _ hx), kvGet_put_same _ _ _⟩

/-- The record of a group whose walk is over, none of whose cancelled siblings is untold or has a settle that waits (R216, R217). -/
theorem exec_accountingRecordWrite {s : State} {slot : Nat} {g : Group} (hg : kvGet s.groups slot = some g) (hs : g.state = .releasing)
    (hn : g.n ≤ g.walk.1) (htold : ∀ b ∈ g.sibs, b.cancelled = true → b.told = true) (hc : s.settlesCancelled g = false) :
    let r := g.header ++ g.sibs.flatMap Sibling.entry
    exec (.accountingRecordWrite slot) s = .next { (s.ksStore g.ctx (g.acct + 4) (r.drop 4)).ksStore g.ctx g.acct (r.take 4) with
      groups := kvPut s.groups slot g.closed } := by
  intro r
  have hnone : g.sibs.any (fun b => b.cancelled && !b.told) = false := by
    rw [List.any_eq_false]
    intro b hb h
    rw [Bool.and_eq_true, Bool.not_eq_true'] at h
    rw [htold b hb h.1] at h
    exact absurd h.2 (by decide)
  show execAccountingRecordWrite slot s = _
  unfold execAccountingRecordWrite
  rw [hg]
  dsimp only
  rw [if_neg (by simp [hs, hnone, hc, Nat.not_lt.2 hn]), ksStore_groups, ksStore_groups]

/-- SIBCLOSE releases a group that no launch has used (R217, R218). -/
theorem exec_sibclose {s : State} {fn : Nat} {handle : Word} {k : Nat} {g : Group} {c : Context}
    (ho : s.openGroup handle = some (k, g)) (hup : s.up = true) (hc : s.context? g.ctx = some c) (hfn : c.reg.fn = fn) :
    exec (.sibclose fn handle) s
      = .next (s.putGroup k { g with state := .releasing, outcome := 3, winner := 0, dseq := 0 }) := by
  show execSibclose fn handle s = _
  unfold execSibclose
  rw [ho]
  dsimp only
  rw [hc]
  exact congrArg Host.Outcome.next (if_pos (by simp [hup, hfn]))

/-! ### O47 -/

/-- Settles O47: posts and answers, then the cancellation, the release and the record, each by what its event evaluates to. -/
theorem ballotUnit : Obligations.BallotUnit := by
  unfold Obligations.BallotUnit
  intro s
  refine ⟨fun p hash work hf hh ha => ?_, fun slot g l hg hs hl hd => exec_siblingCancelNotify hg hs hl hd, fun p hr => ?_,
    fun slot g hg hs => ?_, fun fn handle k g c ho hup hc hfn => exec_sibclose ho hup hc hfn⟩
  · intro s0 say i
    refine ⟨exec_ballotPostAccept_dead hf hh ha, fun k g b hg hb => ?_⟩
    have hexec := exec_ballotPostAccept_live hf hh ha hg hb
    have hgroups : s0.groups = s.groups := mergeStamp_groups _ _ _
    have hseen := putGroup_of_groups hgroups k (g.seeing p.sib work)
    have hcounted := putGroup_of_groups (t := s0.answerPost p.id 0) hgroups k (g.counting p.sib hash work)
    refine ⟨fun hv hp => ?_, fun hv => ?_, fun hv hp => ?_⟩
    · exact hexec.trans ((congrArg Host.Outcome.next ((if_pos hv).trans (if_pos hp))).trans
        (congrArg (fun t : State => Host.Outcome.next (t.answerPost p.id 1)) hseen))
    · exact hexec.trans ((congrArg Host.Outcome.next (if_neg hv)).trans
        (congrArg (fun t : State => Host.Outcome.next (t.answerPost p.id (if b.cancelled then 3 else 2))) hseen))
    · refine hexec.trans (congrArg Host.Outcome.next ((if_pos hv).trans ((if_neg (by simp [hp])).trans ?_)))
      rw [hcounted]
      rfl
  · refine ⟨fun x hf hx htold => writes_of_deliver (exec_bpostStatusDeliver hr hf hx htold), fun hf => ⟨fun hg => ?_, fun k g b hg hb => ?_⟩⟩
    · have hexec := exec_bqryResultDeliver hr hf
      rw [hg] at hexec
      exact writes_of_deliver hexec
    · have hexec := exec_bqryResultDeliver hr hf
      rw [hg, Option.map_some, queryWord_live hb] at hexec
      exact writes_of_deliver hexec
  · refine ⟨fun hn hw => ?_, fun a hn hw hp hnum hform => ?_, fun hn htold hc => exec_accountingRecordWrite hg hs hn htold hc⟩
    · have hexec := exec_pageReleaseWalk_head hg hs hn hw
      refine ⟨fun hp => hexec.trans (congrArg Host.Outcome.next (if_neg (by simp [hp]))), fun hp => ?_⟩
      exact hexec.trans (congrArg Host.Outcome.next (if_pos hp))
    · have hexec := exec_pageReleaseWalk_node hg hs hn hw hp hnum hform
      refine ⟨fun hj => hexec.trans (congrArg Host.Outcome.next (if_pos hj)), fun hj hodd => ?_, fun hj heven key h4 hk hd hr hx => ?_⟩
      · exact hexec.trans (congrArg Host.Outcome.next ((if_neg (Nat.not_le.2 hj)).trans (if_pos hodd)))
      · refine ⟨_, hexec.trans (congrArg Host.Outcome.next ((if_neg (Nat.not_le.2 hj)).trans (if_neg (by omega)))), ?_⟩
        exact releaseEntry_decrements slot h4 hk hd hr hx

end Sys2Proof.Machine

/-! ### SUPPORT: interfaces, their reset sequences, and key slots (R222, R224, R231, R232, R239) -/

namespace Sys2Proof.Machine

/-- Removing an interface's entry leaves it at reset. -/
theorem iface_of_del {s t : State} {fn : Nat} (h : t.ifaces = kvDel s.ifaces fn) :
    t.iface fn = ⟨0, false, false, false, false, false, 0⟩ := by
  rw [State.iface, h, kvGet_del_same]
  rfl

theorem iface_setIface_same (s : State) (fn : Nat) (i : Iface) : (s.setIface fn i).iface fn = i := by
  rw [State.iface, State.setIface_ifaces, kvGet_put_same, Option.getD_some]

/-! #### TDISP requests (R222, R224, R239) -/

section
variable {s : State} {fn : Nat} (hup : s.up = true)
include hup

theorem exec_keyExchange (hf : fn < 32) : exec (.keyExchange fn) s = .next (s.setIface fn { s.iface fn with session := true }) :=
  congrArg Host.Outcome.next (if_pos (by simp [hup, hf]))

theorem exec_lockInterfaceRequest (hs : (s.iface fn).session = true) (h0 : (s.iface fn).state = 0) (hr : (s.iface fn).resetting = 0) :
    exec (.lockInterfaceRequest fn) s = .next (s.setIface fn { s.iface fn with state := 1 }) :=
  congrArg Host.Outcome.next (if_pos (by simp [hup, hs, h0, hr]))

/-- A request to start a locked interface, and its response: what the request's guard lets through. -/
theorem exec_startInterfaceRequest (respond : Bool) (hs : (s.iface fn).session = true) (h1 : (s.iface fn).state = 1) :
    exec (.startInterfaceRequest fn respond) s = .next (
      if respond then (if (s.iface fn).starting then s.setIface fn { s.iface fn with state := 2, starting := false } else s)
      else s.setIface fn { s.iface fn with starting := true }) :=
  congrArg Host.Outcome.next (if_neg (by simp [hup, hs, h1]))

theorem exec_stopInterfaceRequest (hs : (s.iface fn).session = true) (hr : (s.iface fn).resetting ≠ 1) :
    exec (.stopInterfaceRequest fn) s = .next ((s.beginReset fn 1).finishReset fn) :=
  congrArg Host.Outcome.next (if_pos (by simp [hup, hs, hr]))

theorem exec_ideStreamFailure (h : (s.iface fn).state = 1 ∨ (s.iface fn).state = 2) :
    exec (.ideStreamFailure fn) s = .next (s.enterError fn false false true) :=
  congrArg Host.Outcome.next (if_pos (by simpa [hup] using h))

/-- Outside recovery a function-level reset that is not under way begins, and goes on as far as it can. -/
theorem exec_functionLevelReset (hf : fn < 32) (hr : (s.iface fn).resetting ≠ 1) :
    exec (.functionLevelReset fn) s = .next ((s.beginReset fn 1).finishReset fn) := by
  obtain ⟨_, hrec⟩ := (up_iff s).1 hup
  show execFunctionLevelReset fn s = _
  unfold execFunctionLevelReset
  rw [if_neg (by simp [hrec]), if_neg (by simp [hup, hf]), if_neg hr]

end

/-! #### The reset sequence of a function with no context (R232) -/

/-- Writes of queues change the queues only. -/
theorem foldl_setQueue (f : State → Nat → HostQueue) (l : List Nat) (s : State) :
    ∃ qs, l.foldl (fun s q => s.setQueue q (f s q)) s = { s with queues := qs } := by
  induction l generalizing s with
  | nil => exact ⟨s.queues, rfl⟩
  | cons q l ih => exact ih (s.setQueue q (f s q))

theorem fnContexts_nil {s : State} {fn : Nat} (h : ∀ e ∈ s.contexts, e.2.reg.fn ≠ fn) : s.fnContexts fn = [] := by
  rw [State.fnContexts, List.filter_eq_nil_iff.2 (fun e he => by simpa using h e he), List.map_nil]

/-- With no context, no cluster has one active. -/
theorem activeOn_nil (s : State) : s.activeOn [] = [] := by
  rw [State.activeOn, List.filter_eq_nil_iff.2 (fun e _ => by cases e.2.active <;> simp), List.map_nil]

/-- Where the function has no context and no completion is held back, a reset begins with its queues and its interface alone. -/
theorem beginReset_noContexts {s : State} {fn : Nat} (kind : Nat) (hc : ∀ e ∈ s.contexts, e.2.reg.fn ≠ fn) (hd : s.deferredCpl = []) :
    ∃ qs, s.beginReset fn kind = ({ s with queues := qs } : State).setIface fn { s.iface fn with resetting := kind, starting := false } := by
  obtain ⟨qs, hqs⟩ := foldl_setQueue (fun s q => { s.queue q with enable := false, busy := none, fenceWait := false }) (s.fnQueues fn) s
  refine ⟨qs, ?_⟩
  unfold State.beginReset
  dsimp only
  rw [hqs, fnContexts_nil, List.foldl_nil, List.foldl_nil, hd, List.filter_nil]
  · rfl
  · exact hc

/-- A reset sequence that is not under way does not go on. -/
theorem finishReset_idle {s : State} {fn : Nat} (h : (s.iface fn).resetting = 0) : s.finishReset fn = s := by
  unfold State.finishReset
  exact if_pos (by simp [h])

theorem finishResets_idle {s : State} (h : ∀ fn, (s.iface fn).resetting = 0) : s.finishResets = s :=
  List.foldl_fixed' (fun _ => finishReset_idle (h _)) _

/-- A reset of a function other than the physical one, with no context and nothing on its way, ends at once. -/
theorem finishReset_noContexts {s : State} {fn : Nat} (hf : fn ≠ 0) (hr : (s.iface fn).resetting = 1)
    (hc : ∀ e ∈ s.contexts, e.2.reg.fn ≠ fn) (hq : s.chans = []) (hw : ∀ t ∈ s.writes, t.nums = []) :
    s.finishReset fn = ({ s with queues := s.queues.filter (fun e => e.2.fn ≠ fn), ifaces := kvDel s.ifaces fn } : State).zeroClocks := by
  have hquiet : (s.chans.isEmpty && s.writes.all (fun (t : WTrack) => t.nums.isEmpty)) = true := by
    rw [hq, List.isEmpty_nil, Bool.true_and, List.all_eq_true]
    exact fun t ht => by rw [hw t ht, List.isEmpty_nil]
  unfold State.finishReset
  dsimp only
  -- The branches left out: no key is killed, no cluster is to be cleared, nothing is on its way, and the reset is not that of ERROR.
  rw [fnContexts_nil hc, activeOn_nil, hquiet, if_neg (by simp [hr]), if_neg (by simp), if_neg (by simp), List.foldl_nil,
    if_neg (by simp [hr]), if_neg hf]

/-- The whole sequence, begun and ended in one step: the function's queues go, and its interface and the die clocks are at reset. -/
theorem resets_noContexts {s : State} {fn : Nat} (hf : fn ≠ 0) (hc : ∀ e ∈ s.contexts, e.2.reg.fn ≠ fn) (hq : s.chans = [])
    (hw : ∀ t ∈ s.writes, t.nums = []) (hd : s.deferredCpl = []) :
    let u := (s.beginReset fn 1).finishReset fn
    u.iface fn = ⟨0, false, false, false, false, false, 0⟩ ∧ (∀ e ∈ u.queues, e.2.fn ≠ fn) ∧ u.vc = []
      ∧ { u with ifaces := s.ifaces, queues := s.queues } = s.zeroClocks := by
  intro u
  obtain ⟨qs, hbegun⟩ := beginReset_noContexts 1 hc hd
  have hresetting : ((s.beginReset fn 1).iface fn).resetting = 1 := by rw [hbegun, iface_setIface_same]
  have hended := finishReset_noContexts (s := s.beginReset fn 1) hf hresetting (by rwa [hbegun]) (by rwa [hbegun]) (by rwa [hbegun])
  refine ⟨iface_of_del (congrArg State.ifaces hended), fun e he => ?_, congrArg State.vc hended, ?_⟩
  · rw [show u.queues = _ from congrArg State.queues hended] at he
    simpa using (List.mem_filter.1 he).2
  · rw [show u = _ from hended, hbegun]
    rfl

/-! #### A key that is killed (R231) -/

/-- An acknowledgement that arrives: the slot is emptied by the last one, and notes each other one. -/
theorem exec_keyKillAck {s : State} {slot engine : Nat} (hk : (s.key slot).state = 2) (he : engine < 14)
    (hr : ∀ fn, (s.iface fn).resetting = 0) :
    let acks := (s.key slot).acks ||| BitVec.twoPow 14 engine
    exec (.keyKillAck slot engine) s = .next { s with
      keys := if acks = BitVec.allOnes 14 then kvDel s.keys slot else kvPut s.keys slot { s.key slot with acks := acks } } := by
  intro acks
  show execKeyKillAck slot engine s = _
  unfold execKeyKillAck
  dsimp only
  rw [if_neg (by simp [hk, he])]
  exact congrArg Host.Outcome.next (finishResets_idle hr)

/-- What the key slots hold once the engine's acknowledgement is in. -/
theorem keyKillAck_settles {s : State} {slot engine : Nat} (hk : (s.key slot).state = 2) (he : engine < 14)
    (hr : ∀ fn, (s.iface fn).resetting = 0) :
    let acks := (s.key slot).acks ||| BitVec.twoPow 14 engine
    ∃ u, exec (.keyKillAck slot engine) s = .next u ∧ { u with keys := s.keys } = s
      ∧ (acks = BitVec.allOnes 14 → (u.key slot).state = 0)
      ∧ (acks ≠ BitVec.allOnes 14 → u.key slot = { s.key slot with acks := acks })
      ∧ ∀ k, k ≠ slot → u.key k = s.key k := by
  intro acks
  refine ⟨_, exec_keyKillAck hk he hr, rfl, fun hlast => ?_, fun hmore => ?_, fun k hne => ?_⟩
  · rw [State.key, if_pos hlast, kvGet_del_same]
    rfl
  · rw [State.key, if_neg hmore, kvGet_put_same, Option.getD_some]
  · refine congrArg (fun o : Option KeySlot => o.getD ⟨0, 0, 0⟩) ?_
    split
    · exact kvGet_del_ne _ _ _ hne
    · exact kvGet_put_ne _ _ _ _ hne

/-! ### O52 -/

/-- Settles O52: each request by what it evaluates to, the reset sequence with no context by its beginning and its end. -/
theorem interfacesKeysAndResets : Obligations.InterfacesKeysAndResets := by
  unfold Obligations.InterfacesKeysAndResets
  refine ⟨fun s fn hup hf => ?_, fun s slot engine hk he hr => keyKillAck_settles hk he hr⟩
  refine ⟨exec_keyExchange hup hf, fun hs => ⟨exec_lockInterfaceRequest hup hs, fun h1 => ⟨?_, fun hstarting => ?_⟩,
      exec_stopInterfaceRequest hup hs⟩, exec_ideStreamFailure hup, exec_functionLevelReset hup hf, fun hr hfn hc hq hw hd => ?_⟩
  · exact exec_startInterfaceRequest hup false hs h1
  · exact (exec_startInterfaceRequest hup true hs h1).trans (congrArg Host.Outcome.next (if_pos hstarting))
  · exact ⟨_, exec_functionLevelReset hup hf hr, resets_noContexts hfn hc hq hw hd⟩

end Sys2Proof.Machine

/-! ### SUPPORT: the encoder's words and the decoder's groups (R267 to R270, R281 to R284)

A word of each encoded instruction decodes to it, a group of the opcode map at a time; and a word that a group of the decoder takes
is the sum of the fixed bits and the fields of what it gives. -/

namespace Sys2Proof.Machine

/-- The instruction's word is one of 32 bits, and decodes to the instruction. -/
def Encoded (i : Instr) : Prop := encodeWord i < 2 ^ 32 ∧ decodeWord (encodeWord i) = some i

/-- The words of the format with fields d, a and b and a two-bit function (R269): the set, the group, the function and the fields
of the word are the ones that went into it. -/
theorem encoded_dab {i : Instr} {c : Nat} (g : BitVec 3) (d a b : BitVec 7)
    (hi : encodeWord i = c + g.toNat * 8388608 + d.toNat * 65536 + a.toNat * 512 + b.toNat * 4) (hc : c < 4294967296 ∧ c % 67108864 < 4)
    (h : ∀ w, fld w 31 1 = c / 2147483648 % 2 → fld w 26 5 = c / 67108864 % 32 → fld w 0 2 = c % 4 → bits w 23 3 = g →
      bits w 16 7 = d → bits w 9 7 = a → bits w 2 7 = b → decodeWord w = some i) : Encoded i := by
  have hg := g.isLt; have hd := d.isLt; have ha := a.isLt; have hb := b.isLt
  refine ⟨by omega, h _ ?_ ?_ ?_ (bits_of _ _ _ ?_) (bits_of _ _ _ ?_) (bits_of _ _ _ ?_) (bits_of _ _ _ ?_)⟩ <;>
    simp only [fld, Nat.reducePow] <;> omega

/-- The other way: a word of that format is the sum of its fixed bits and its fields. -/
theorem word_dab {w : Nat} (c : Nat) (hw : w < 2 ^ 32) (h31 : fld w 31 1 = c / 2147483648 % 2) (h26 : fld w 26 5 = c / 67108864 % 32)
    (h0 : fld w 0 2 = c % 4) (hc : c < 4294967296 ∧ c % 67108864 < 4) :
    c + (bits w 23 3).toNat * 8388608 + (bits w 16 7).toNat * 65536 + (bits w 9 7).toNat * 512 + (bits w 2 7).toNat * 4 = w := by
  simp only [bits_toNat, fld, Nat.reducePow] at *
  have hhigh : w / 67108864 = c / 67108864 := by omega
  clear h31 h26
  omega

/-! #### From the instruction to its word and back -/

theorem encoded_lane00 (g : BitVec 3) (d a b : BitVec 7) :
    Encoded (.iadd g d a b) ∧ Encoded (.isub g d a b) ∧ Encoded (.imul g d a b) ∧ Encoded (.imulh g d a b) := by
  refine ⟨?_, ?_, ?_, ?_⟩ <;>
    exact encoded_dab g d a b rfl (by decide) fun w h31 h26 h0 hg hd ha hb => by
      simp [decodeWord_lane00 w h31 h26, decodeLane00, h0, hg, hd, ha, hb]

theorem encoded_lane01 (g : BitVec 3) (d a b : BitVec 7) :
    Encoded (.imulhu g d a b) ∧ Encoded (.imad g d a b) ∧ Encoded (.imin g d a b) ∧ Encoded (.imax g d a b) := by
  refine ⟨?_, ?_, ?_, ?_⟩ <;>
    exact encoded_dab g d a b rfl (by decide) fun w h31 h26 h0 hg hd ha hb => by
      simp [decodeWord_lane01 w h31 h26, decodeLane01, h0, hg, hd, ha, hb]

theorem encoded_lane02 (g : BitVec 3) (d a b : BitVec 7) :
    Encoded (.iminu g d a b) ∧ Encoded (.imaxu g d a b) ∧ Encoded (.isel g d a b) ∧ Encoded (.iabsd g d a b) := by
  refine ⟨?_, ?_, ?_, ?_⟩ <;>
    exact encoded_dab g d a b rfl (by decide) fun w h31 h26 h0 hg hd ha hb => by
      simp [decodeWord_lane02 w h31 h26, decodeLane02, h0, hg, hd, ha, hb]

theorem encoded_lane03 (g : BitVec 3) (d a b : BitVec 7) :
    Encoded (.and g d a b) ∧ Encoded (.or g d a b) ∧ Encoded (.xor g d a b) ∧ Encoded (.andn g d a b) := by
  refine ⟨?_, ?_, ?_, ?_⟩ <;>
    exact encoded_dab g d a b rfl (by decide) fun w h31 h26 h0 hg hd ha hb => by
      simp [decodeWord_lane03 w h31 h26, decodeLane03, h0, hg, hd, ha, hb]

theorem encoded_lane04 (g : BitVec 3) (d a b : BitVec 7) :
    Encoded (.shl g d a b) ∧ Encoded (.shr g d a b) ∧ Encoded (.shra g d a b) ∧ Encoded (.rotl g d a b) := by
  refine ⟨?_, ?_, ?_, ?_⟩ <;>
    exact encoded_dab g d a b rfl (by decide) fun w h31 h26 h0 hg hd ha hb => by
      simp [decodeWord_lane04 w h31 h26, decodeLane04, h0, hg, hd, ha, hb]

theorem encoded_popc (g : BitVec 3) (d a : BitVec 7) :
    Encoded (.popc g d a) ∧ Encoded (.clz g d a) ∧ Encoded (.brev g d a) := by
  have := g.isLt; have := d.isLt; have := a.isLt
  simp only [Encoded, encodeWord_popc, encodeWord_clz, encodeWord_brev]
  refine ⟨⟨by omega, ?_⟩, ⟨by omega, ?_⟩, by omega, ?_⟩ <;>
    (rw [decodeWord_lane05 _ (by simp only [fld]; omega) (by simp only [fld]; omega), decodeLane05]
     simp (disch := simp only [fld]; omega) only [if_pos, if_neg]
     congr 2 <;> exact bits_of _ _ _ (by omega))

theorem encoded_bfx (g : BitVec 3) (d a b : BitVec 7) :
    Encoded (.bfx g d a b) := by
  have := g.isLt; have := d.isLt; have := a.isLt; have := b.isLt
  simp only [Encoded, encodeWord_bfx]
  refine ⟨by omega, ?_⟩
  rw [decodeWord_lane05 _ (by simp only [fld]; omega) (by simp only [fld]; omega), decodeLane05]
  simp (disch := simp only [fld]; omega) only [if_pos, if_neg]
  congr 2 <;> exact bits_of _ _ _ (by omega)

theorem encoded_bfi (g : BitVec 3) (d a b : BitVec 7) :
    Encoded (.bfi g d a b) := by
  exact encoded_dab g d a b rfl (by decide) fun w h31 h26 h0 hg hd ha hb => by
    simp [decodeWord_lane06 w h31 h26, decodeLane06, h0, hg, hd, ha, hb]

theorem encoded_icmp (g : BitVec 3) (cond : BitVec 4) (p : BitVec 3) (a b : BitVec 7) :
    Encoded (.icmp g cond p a b) ∧ Encoded (.fcmp g cond p a b) := by
  have := g.isLt; have := cond.isLt; have := p.isLt; have := a.isLt; have := b.isLt
  simp only [Encoded, encodeWord_icmp, encodeWord_fcmp]
  refine ⟨⟨by omega, ?_⟩, by omega, ?_⟩ <;>
    (rw [decodeWord_lane06 _ (by simp only [fld]; omega) (by simp only [fld]; omega), decodeLane06]
     simp (disch := simp only [fld]; omega) only [if_pos, if_neg]
     congr 2 <;> exact bits_of _ _ _ (by omega))

theorem encoded_mov (g : BitVec 3) (d a : BitVec 7) :
    Encoded (.mov g d a) := by
  have := g.isLt; have := d.isLt; have := a.isLt
  simp only [Encoded, encodeWord_mov]
  refine ⟨by omega, ?_⟩
  rw [decodeWord_lane06 _ (by simp only [fld]; omega) (by simp only [fld]; omega), decodeLane06]
  simp (disch := simp only [fld]; omega) only [if_pos, if_neg]
  congr 2 <;> exact bits_of _ _ _ (by omega)

theorem encoded_lane07 (g : BitVec 3) (d a b : BitVec 7) :
    Encoded (.fadd g d a b) ∧ Encoded (.fsub g d a b) ∧ Encoded (.fmul g d a b) ∧ Encoded (.ffma g d a b) := by
  refine ⟨?_, ?_, ?_, ?_⟩ <;>
    exact encoded_dab g d a b rfl (by decide) fun w h31 h26 h0 hg hd ha hb => by
      simp [decodeWord_lane07 w h31 h26, decodeLane07, h0, hg, hd, ha, hb]

theorem encoded_lane08 (g : BitVec 3) (d a b : BitVec 7) :
    Encoded (.fmin g d a b) ∧ Encoded (.fmax g d a b) ∧ Encoded (.frnd g d a b) ∧ Encoded (.fcvt g d a b) := by
  refine ⟨?_, ?_, ?_, ?_⟩ <;>
    exact encoded_dab g d a b rfl (by decide) fun w h31 h26 h0 hg hd ha hb => by
      simp [decodeWord_lane08 w h31 h26, decodeLane08, h0, hg, hd, ha, hb]

theorem encoded_lane09 (g : BitVec 3) (d a b : BitVec 7) :
    Encoded (.hadd2 g d a b) ∧ Encoded (.hmul2 g d a b) ∧ Encoded (.hfma2 g d a b) ∧ Encoded (.hmax2 g d a b) := by
  refine ⟨?_, ?_, ?_, ?_⟩ <;>
    exact encoded_dab g d a b rfl (by decide) fun w h31 h26 h0 hg hd ha hb => by
      simp [decodeWord_lane09 w h31 h26, decodeLane09, h0, hg, hd, ha, hb]

theorem encoded_lane0A (g : BitVec 3) (d a b : BitVec 7) :
    Encoded (.badd2 g d a b) ∧ Encoded (.bmul2 g d a b) ∧ Encoded (.bfma2 g d a b) ∧ Encoded (.bmax2 g d a b) := by
  refine ⟨?_, ?_, ?_, ?_⟩ <;>
    exact encoded_dab g d a b rfl (by decide) fun w h31 h26 h0 hg hd ha hb => by
      simp [decodeWord_lane0A w h31 h26, decodeLane0A, h0, hg, hd, ha, hb]

theorem encoded_lane0B (g : BitVec 3) (d a b : BitVec 7) :
    Encoded (.dadd g d a b) ∧ Encoded (.dmul g d a b) ∧ Encoded (.dfma g d a b) ∧ Encoded (.dcvt g d a b) := by
  refine ⟨?_, ?_, ?_, ?_⟩ <;>
    exact encoded_dab g d a b rfl (by decide) fun w h31 h26 h0 hg hd ha hb => by
      simp [decodeWord_lane0B w h31 h26, decodeLane0B, h0, hg, hd, ha, hb]

theorem encoded_vnbr (g : BitVec 3) (d a b : BitVec 7) :
    Encoded (.vnbr g d a b) ∧ Encoded (.vscan g d a b) ∧ Encoded (.vred g d a b) := by
  refine ⟨?_, ?_, ?_⟩ <;>
    exact encoded_dab g d a b rfl (by decide) fun w h31 h26 h0 hg hd ha hb => by
      simp [decodeWord_lane0C w h31 h26, decodeLane0C, h0, hg, hd, ha, hb]

theorem encoded_vvote (g : BitVec 3) (d : BitVec 7) (p : BitVec 3) (code : BitVec 7) :
    Encoded (.vvote g d p code) := by
  have := g.isLt; have := d.isLt; have := p.isLt; have := code.isLt
  simp only [Encoded, encodeWord_vvote]
  refine ⟨by omega, ?_⟩
  rw [decodeWord_lane0C _ (by simp only [fld]; omega) (by simp only [fld]; omega), decodeLane0C]
  simp (disch := simp only [fld]; omega) only [if_pos, if_neg]
  congr 2 <;> exact bits_of _ _ _ (by omega)

theorem encoded_lane0D (g : BitVec 3) (d a b : BitVec 7) :
    Encoded (.vqnsE2m1 g d a b) ∧ Encoded (.vqnsI4h g d a b) ∧ Encoded (.vqnsI8h g d a b) ∧ Encoded (.vdq g d a b) := by
  refine ⟨?_, ?_, ?_, ?_⟩ <;>
    exact encoded_dab g d a b rfl (by decide) fun w h31 h26 h0 hg hd ha hb => by
      simp [decodeWord_lane0D w h31 h26, decodeLane0D, h0, hg, hd, ha, hb]

theorem encoded_sfq (g : BitVec 3) (d a b : BitVec 7) :
    Encoded (.sfq g d a b) := by
  exact encoded_dab g d a b rfl (by decide) fun w h31 h26 h0 hg hd ha hb => by
    simp [decodeWord_lane0E w h31 h26, decodeLane0E, h0, hg, hd, ha, hb]

theorem encoded_sread (g : BitVec 3) (d sel : BitVec 7) :
    Encoded (.sread g d sel) ∧ Encoded (.will g d sel) ∧ Encoded (.heirq g d sel) := by
  have := g.isLt; have := d.isLt; have := sel.isLt
  simp only [Encoded, encodeWord_sread, encodeWord_will, encodeWord_heirq]
  refine ⟨⟨by omega, ?_⟩, ⟨by omega, ?_⟩, by omega, ?_⟩ <;>
    (rw [decodeWord_lane0E _ (by simp only [fld]; omega) (by simp only [fld]; omega), decodeLane0E]
     simp (disch := simp only [fld]; omega) only [if_pos, if_neg]
     congr 2 <;> exact bits_of _ _ _ (by omega))

theorem encoded_lane0F (g d a b : BitVec 3) :
    Encoded (.pand g d a b) ∧ Encoded (.por g d a b) ∧ Encoded (.pxor g d a b) ∧ Encoded (.pnand g d a b) := by
  have := g.isLt; have := d.isLt; have := a.isLt; have := b.isLt
  simp only [Encoded, encodeWord_pand, encodeWord_por, encodeWord_pxor, encodeWord_pnand]
  refine ⟨⟨by omega, ?_⟩, ⟨by omega, ?_⟩, ⟨by omega, ?_⟩, by omega, ?_⟩ <;>
    (rw [decodeWord_lane0F _ (by simp only [fld]; omega) (by simp only [fld]; omega), decodeLane0F]
     simp (disch := simp only [fld]; omega) only [if_pos, if_neg]
     congr 2 <;> exact bits_of _ _ _ (by omega))

theorem encoded_lane10 (g : BitVec 3) (d : BitVec 7) (imm : BitVec 16) :
    Encoded (.movi g d imm) := by
  have := g.isLt; have := d.isLt; have := imm.isLt
  simp only [Encoded, encodeWord_movi]
  refine ⟨by omega, ?_⟩
  rw [decodeWord_lane10 _ (by simp only [fld]; omega) (by simp only [fld]; omega), decodeLane10]
  congr 2 <;> exact bits_of _ _ _ (by omega)

theorem encoded_lane11 (g : BitVec 3) (d a : BitVec 7) (imm : BitVec 9) :
    Encoded (.iaddi g d a imm) := by
  have := g.isLt; have := d.isLt; have := a.isLt; have := imm.isLt
  simp only [Encoded, encodeWord_iaddi]
  refine ⟨by omega, ?_⟩
  rw [decodeWord_lane11 _ (by simp only [fld]; omega) (by simp only [fld]; omega), decodeLane11]
  congr 2 <;> exact bits_of _ _ _ (by omega)

theorem encoded_lane12 (g : BitVec 3) (d a b : BitVec 7) :
    Encoded (.ldB g d a b) ∧ Encoded (.ldSb g d a b) ∧ Encoded (.ldH g d a b) ∧ Encoded (.ldSh g d a b) := by
  refine ⟨?_, ?_, ?_, ?_⟩ <;>
    exact encoded_dab g d a b rfl (by decide) fun w h31 h26 h0 hg hd ha hb => by
      simp [decodeWord_lane12 w h31 h26, decodeLane12, h0, hg, hd, ha, hb]

theorem encoded_ldW (g : BitVec 3) (d a b : BitVec 7) :
    Encoded (.ldW g d a b) ∧ Encoded (.ldD g d a b) ∧ Encoded (.ldQ g d a b) := by
  refine ⟨?_, ?_, ?_⟩ <;>
    exact encoded_dab g d a b rfl (by decide) fun w h31 h26 h0 hg hd ha hb => by
      simp [decodeWord_lane13 w h31 h26, decodeLane13, h0, hg, hd, ha, hb]

theorem encoded_prf (g : BitVec 3) (a sb : BitVec 7) :
    Encoded (.prf g a sb) := by
  have := g.isLt; have := a.isLt; have := sb.isLt
  simp only [Encoded, encodeWord_prf]
  refine ⟨by omega, ?_⟩
  rw [decodeWord_lane13 _ (by simp only [fld]; omega) (by simp only [fld]; omega), decodeLane13]
  simp (disch := simp only [fld]; omega) only [if_pos, if_neg]
  congr 2 <;> exact bits_of _ _ _ (by omega)

theorem encoded_lane14 (g : BitVec 3) (d a b : BitVec 7) :
    Encoded (.stB g d a b) ∧ Encoded (.stH g d a b) ∧ Encoded (.stW g d a b) ∧ Encoded (.stD g d a b) := by
  refine ⟨?_, ?_, ?_, ?_⟩ <;>
    exact encoded_dab g d a b rfl (by decide) fun w h31 h26 h0 hg hd ha hb => by
      simp [decodeWord_lane14 w h31 h26, decodeLane14, h0, hg, hd, ha, hb]

theorem encoded_lane15 (g : BitVec 3) (d a b : BitVec 7) :
    Encoded (.stQ g d a b) := by
  exact encoded_dab g d a b rfl (by decide) fun w h31 h26 h0 hg hd ha hb => by
    simp [decodeWord_lane15 w h31 h26, decodeLane15, h0, hg, hd, ha, hb]

theorem encoded_lane16 (sc : BitVec 2) (d a b : BitVec 7) :
    Encoded (.atomAdd sc d a b) ∧ Encoded (.atomFadd sc d a b) ∧ Encoded (.atomMin sc d a b) ∧
    Encoded (.atomMax sc d a b) := by
  have := sc.isLt; have := d.isLt; have := a.isLt; have := b.isLt
  simp only [Encoded, encodeWord_atomAdd, encodeWord_atomFadd, encodeWord_atomMin, encodeWord_atomMax]
  refine ⟨⟨by omega, ?_⟩, ⟨by omega, ?_⟩, ⟨by omega, ?_⟩, by omega, ?_⟩ <;>
    (rw [decodeWord_lane16 _ (by simp only [fld]; omega) (by simp only [fld]; omega), decodeLane16]
     simp (disch := simp only [fld]; omega) only [if_pos, if_neg]
     congr 2 <;> exact bits_of _ _ _ (by omega))

theorem encoded_lane17 (sc : BitVec 2) (d a b : BitVec 7) :
    Encoded (.atomAnd sc d a b) ∧ Encoded (.atomOr sc d a b) ∧ Encoded (.atomXor sc d a b) ∧
    Encoded (.atomExch sc d a b) := by
  have := sc.isLt; have := d.isLt; have := a.isLt; have := b.isLt
  simp only [Encoded, encodeWord_atomAnd, encodeWord_atomOr, encodeWord_atomXor, encodeWord_atomExch]
  refine ⟨⟨by omega, ?_⟩, ⟨by omega, ?_⟩, ⟨by omega, ?_⟩, by omega, ?_⟩ <;>
    (rw [decodeWord_lane17 _ (by simp only [fld]; omega) (by simp only [fld]; omega), decodeLane17]
     simp (disch := simp only [fld]; omega) only [if_pos, if_neg]
     congr 2 <;> exact bits_of _ _ _ (by omega))

theorem encoded_lane18 (sc : BitVec 2) (op : BitVec 3) (a b : BitVec 7) :
    Encoded (.red sc op a b) := by
  have := sc.isLt; have := op.isLt; have := a.isLt; have := b.isLt
  simp only [Encoded, encodeWord_red]
  refine ⟨by omega, ?_⟩
  rw [decodeWord_lane18 _ (by simp only [fld]; omega) (by simp only [fld]; omega), decodeLane18]
  simp (disch := simp only [fld]; omega) only [if_pos]
  congr 2 <;> exact bits_of _ _ _ (by omega)

theorem encoded_lane19 (sc : BitVec 2) (d a b : BitVec 7) :
    Encoded (.casW sc d a b) ∧ Encoded (.casD sc d a b) := by
  have := sc.isLt; have := d.isLt; have := a.isLt; have := b.isLt
  simp only [Encoded, encodeWord_casW, encodeWord_casD]
  refine ⟨⟨by omega, ?_⟩, by omega, ?_⟩ <;>
    (rw [decodeWord_lane19 _ (by simp only [fld]; omega) (by simp only [fld]; omega), decodeLane19]
     simp (disch := simp only [fld]; omega) only [if_pos, if_neg]
     congr 2 <;> exact bits_of _ _ _ (by omega))

theorem encoded_lane1C (g : BitVec 3) (off : BitVec 23) :
    Encoded (.bra g off) := by
  have := g.isLt; have := off.isLt
  simp only [Encoded, encodeWord_bra]
  refine ⟨by omega, ?_⟩
  rw [decodeWord_lane1C _ (by simp only [fld]; omega) (by simp only [fld]; omega), decodeLane1C]
  congr 2 <;> exact bits_of _ _ _ (by omega)

theorem encoded_lane1D (g : BitVec 3) (off : BitVec 23) :
    Encoded (.call g off) := by
  have := g.isLt; have := off.isLt
  simp only [Encoded, encodeWord_call]
  refine ⟨by omega, ?_⟩
  rw [decodeWord_lane1D _ (by simp only [fld]; omega) (by simp only [fld]; omega), decodeLane1D]
  congr 2 <;> exact bits_of _ _ _ (by omega)

theorem encoded_ret (g : BitVec 3) :
    Encoded (.ret g) ∧ Encoded (.exit g) ∧ Encoded (.reform g) ∧ Encoded (.nop g) := by
  have := g.isLt
  simp only [Encoded, encodeWord_ret, encodeWord_exit, encodeWord_reform, encodeWord_nop]
  refine ⟨⟨by omega, ?_⟩, ⟨by omega, ?_⟩, ⟨by omega, ?_⟩, by omega, ?_⟩ <;>
    (rw [decodeWord_lane1E _ (by simp only [fld]; omega) (by simp only [fld]; omega), decodeLane1E]
     simp (disch := simp only [fld]; omega) only [if_pos, if_neg]
     congr 2; exact bits_of _ _ _ (by omega))

theorem encoded_jmpr (g : BitVec 3) (a : BitVec 7) :
    Encoded (.jmpr g a) := by
  have := g.isLt; have := a.isLt
  simp only [Encoded, encodeWord_jmpr]
  refine ⟨by omega, ?_⟩
  rw [decodeWord_lane1E _ (by simp only [fld]; omega) (by simp only [fld]; omega), decodeLane1E]
  simp (disch := simp only [fld]; omega) only [if_pos, if_neg]
  congr 2 <;> exact bits_of _ _ _ (by omega)

theorem encoded_join (g k : BitVec 3) :
    Encoded (.join g k) := by
  have := g.isLt; have := k.isLt
  simp only [Encoded, encodeWord_join]
  refine ⟨by omega, ?_⟩
  rw [decodeWord_lane1E _ (by simp only [fld]; omega) (by simp only [fld]; omega), decodeLane1E]
  simp (disch := simp only [fld]; omega) only [if_pos, if_neg]
  congr 2 <;> exact bits_of _ _ _ (by omega)

theorem encoded_sfwait (g : BitVec 3) (mask : BitVec 16) :
    Encoded (.sfwait g mask) := by
  have := g.isLt; have := mask.isLt
  simp only [Encoded, encodeWord_sfwait]
  refine ⟨by omega, ?_⟩
  rw [decodeWord_lane1E _ (by simp only [fld]; omega) (by simp only [fld]; omega), decodeLane1E]
  simp (disch := simp only [fld]; omega) only [if_pos, if_neg]
  congr 2 <;> exact bits_of _ _ _ (by omega)

theorem encoded_trapl (g : BitVec 3) (code : BitVec 8) :
    Encoded (.trapl g code) := by
  have := g.isLt; have := code.isLt
  simp only [Encoded, encodeWord_trapl]
  refine ⟨by omega, ?_⟩
  rw [decodeWord_lane1E _ (by simp only [fld]; omega) (by simp only [fld]; omega), decodeLane1E]
  simp (disch := simp only [fld]; omega) only [if_pos, if_neg]
  congr 2 <;> exact bits_of _ _ _ (by omega)

theorem encoded_unif00 (g : BitVec 3) (d a b : BitVec 7) :
    Encoded (.sadd g d a b) ∧ Encoded (.ssub g d a b) ∧ Encoded (.smul g d a b) ∧ Encoded (.smulh g d a b) := by
  refine ⟨?_, ?_, ?_, ?_⟩ <;>
    exact encoded_dab g d a b rfl (by decide) fun w h31 h26 h0 hg hd ha hb => by
      simp [decodeWord_unif00 w h31 h26, decodeUnif00, h0, hg, hd, ha, hb]

theorem encoded_unif01 (g : BitVec 3) (d a b : BitVec 7) :
    Encoded (.sand g d a b) ∧ Encoded (.sor g d a b) ∧ Encoded (.sxor g d a b) ∧ Encoded (.sshl g d a b) := by
  refine ⟨?_, ?_, ?_, ?_⟩ <;>
    exact encoded_dab g d a b rfl (by decide) fun w h31 h26 h0 hg hd ha hb => by
      simp [decodeWord_unif01 w h31 h26, decodeUnif01, h0, hg, hd, ha, hb]

theorem encoded_unif02 (g : BitVec 3) (d a b : BitVec 7) :
    Encoded (.sshr g d a b) ∧ Encoded (.sshra g d a b) ∧ Encoded (.smin g d a b) ∧ Encoded (.smax g d a b) := by
  refine ⟨?_, ?_, ?_, ?_⟩ <;>
    exact encoded_dab g d a b rfl (by decide) fun w h31 h26 h0 hg hd ha hb => by
      simp [decodeWord_unif02 w h31 h26, decodeUnif02, h0, hg, hd, ha, hb]

theorem encoded_scmp (g : BitVec 3) (cond : BitVec 4) (q : BitVec 3) (a b : BitVec 7) :
    Encoded (.scmp g cond q a b) := by
  have := g.isLt; have := cond.isLt; have := q.isLt; have := a.isLt; have := b.isLt
  simp only [Encoded, encodeWord_scmp]
  refine ⟨by omega, ?_⟩
  rw [decodeWord_unif03 _ (by simp only [fld]; omega) (by simp only [fld]; omega), decodeUnif03]
  simp (disch := simp only [fld]; omega) only [if_pos, if_neg]
  congr 2 <;> exact bits_of _ _ _ (by omega)

theorem encoded_ssel (g : BitVec 3) (d a b : BitVec 7) :
    Encoded (.ssel g d a b) := by
  exact encoded_dab g d a b rfl (by decide) fun w h31 h26 h0 hg hd ha hb => by
    simp [decodeWord_unif03 w h31 h26, decodeUnif03, h0, hg, hd, ha, hb]

theorem encoded_smov (g : BitVec 3) (d a : BitVec 7) :
    Encoded (.smov g d a) ∧ Encoded (.ssr g d a) := by
  have := g.isLt; have := d.isLt; have := a.isLt
  simp only [Encoded, encodeWord_smov, encodeWord_ssr]
  refine ⟨⟨by omega, ?_⟩, by omega, ?_⟩ <;>
    (rw [decodeWord_unif03 _ (by simp only [fld]; omega) (by simp only [fld]; omega), decodeUnif03]
     simp (disch := simp only [fld]; omega) only [if_pos, if_neg]
     congr 2 <;> exact bits_of _ _ _ (by omega))

theorem encoded_unif04 (g : BitVec 3) (d : BitVec 7) (imm : BitVec 16) :
    Encoded (.smovi g d imm) := by
  have := g.isLt; have := d.isLt; have := imm.isLt
  simp only [Encoded, encodeWord_smovi]
  refine ⟨by omega, ?_⟩
  rw [decodeWord_unif04 _ (by simp only [fld]; omega) (by simp only [fld]; omega), decodeUnif04]
  congr 2 <;> exact bits_of _ _ _ (by omega)

theorem encoded_unif05 (g : BitVec 3) (d a : BitVec 7) (imm : BitVec 9) :
    Encoded (.saddi g d a imm) := by
  have := g.isLt; have := d.isLt; have := a.isLt; have := imm.isLt
  simp only [Encoded, encodeWord_saddi]
  refine ⟨by omega, ?_⟩
  rw [decodeWord_unif05 _ (by simp only [fld]; omega) (by simp only [fld]; omega), decodeUnif05]
  congr 2 <;> exact bits_of _ _ _ (by omega)

theorem encoded_unif06 (g : BitVec 3) (d a b : BitVec 7) :
    Encoded (.sldW g d a b) ∧ Encoded (.sldD g d a b) ∧ Encoded (.sstW g d a b) ∧ Encoded (.sstD g d a b) := by
  refine ⟨?_, ?_, ?_, ?_⟩ <;>
    exact encoded_dab g d a b rfl (by decide) fun w h31 h26 h0 hg hd ha hb => by
      simp [decodeWord_unif06 w h31 h26, decodeUnif06, h0, hg, hd, ha, hb]

theorem encoded_unif07 (g d a b : BitVec 3) :
    Encoded (.qand g d a b) ∧ Encoded (.qor g d a b) ∧ Encoded (.qxor g d a b) ∧ Encoded (.qnand g d a b) := by
  have := g.isLt; have := d.isLt; have := a.isLt; have := b.isLt
  simp only [Encoded, encodeWord_qand, encodeWord_qor, encodeWord_qxor, encodeWord_qnand]
  refine ⟨⟨by omega, ?_⟩, ⟨by omega, ?_⟩, ⟨by omega, ?_⟩, by omega, ?_⟩ <;>
    (rw [decodeWord_unif07 _ (by simp only [fld]; omega) (by simp only [fld]; omega), decodeUnif07]
     simp (disch := simp only [fld]; omega) only [if_pos, if_neg]
     congr 2 <;> exact bits_of _ _ _ (by omega))

theorem encoded_unif08 (g : BitVec 3) (off : BitVec 23) :
    Encoded (.sbra g off) := by
  have := g.isLt; have := off.isLt
  simp only [Encoded, encodeWord_sbra]
  refine ⟨by omega, ?_⟩
  rw [decodeWord_unif08 _ (by simp only [fld]; omega) (by simp only [fld]; omega), decodeUnif08]
  congr 2 <;> exact bits_of _ _ _ (by omega)

theorem encoded_barSync (g : BitVec 3) (lvl : BitVec 2) (n : BitVec 5) :
    Encoded (.barSync g lvl n) ∧ Encoded (.barArv g lvl n) ∧ Encoded (.barWait g lvl n) := by
  have := g.isLt; have := lvl.isLt; have := n.isLt
  simp only [Encoded, encodeWord_barSync, encodeWord_barArv, encodeWord_barWait]
  refine ⟨⟨by omega, ?_⟩, ⟨by omega, ?_⟩, by omega, ?_⟩ <;>
    (rw [decodeWord_unif09 _ (by simp only [fld]; omega) (by simp only [fld]; omega), decodeUnif09]
     simp (disch := simp only [fld]; omega) only [if_pos, if_neg]
     congr 2 <;> exact bits_of _ _ _ (by omega))

theorem encoded_barQry (g : BitVec 3) (lvl : BitVec 2) (n : BitVec 5) (d : BitVec 7) :
    Encoded (.barQry g lvl n d) := by
  have := g.isLt; have := lvl.isLt; have := n.isLt; have := d.isLt
  simp only [Encoded, encodeWord_barQry]
  refine ⟨by omega, ?_⟩
  rw [decodeWord_unif09 _ (by simp only [fld]; omega) (by simp only [fld]; omega), decodeUnif09]
  simp (disch := simp only [fld]; omega) only [if_pos, if_neg]
  congr 2 <;> exact bits_of _ _ _ (by omega)

theorem encoded_kset (g d : BitVec 3) :
    Encoded (.kset g d) := by
  have := g.isLt; have := d.isLt
  simp only [Encoded, encodeWord_kset]
  refine ⟨by omega, ?_⟩
  rw [decodeWord_unif0A _ (by simp only [fld]; omega) (by simp only [fld]; omega), decodeUnif0A]
  simp (disch := simp only [fld]; omega) only [if_pos, if_neg]
  congr 2 <;> exact bits_of _ _ _ (by omega)

theorem encoded_kand (g d a b : BitVec 3) :
    Encoded (.kand g d a b) ∧ Encoded (.kor g d a b) := by
  have := g.isLt; have := d.isLt; have := a.isLt; have := b.isLt
  simp only [Encoded, encodeWord_kand, encodeWord_kor]
  refine ⟨⟨by omega, ?_⟩, by omega, ?_⟩ <;>
    (rw [decodeWord_unif0A _ (by simp only [fld]; omega) (by simp only [fld]; omega), decodeUnif0A]
     simp (disch := simp only [fld]; omega) only [if_pos, if_neg]
     congr 2 <;> exact bits_of _ _ _ (by omega))

theorem encoded_kmov (g d a : BitVec 3) :
    Encoded (.kmov g d a) := by
  have := g.isLt; have := d.isLt; have := a.isLt
  simp only [Encoded, encodeWord_kmov]
  refine ⟨by omega, ?_⟩
  rw [decodeWord_unif0A _ (by simp only [fld]; omega) (by simp only [fld]; omega), decodeUnif0A]
  simp (disch := simp only [fld]; omega) only [if_pos, if_neg]
  congr 2 <;> exact bits_of _ _ _ (by omega)

theorem encoded_waitc (g : BitVec 3) (ld st cp mx : BitVec 4) :
    Encoded (.waitc g ld st cp mx) := by
  have := g.isLt; have := ld.isLt; have := st.isLt; have := cp.isLt; have := mx.isLt
  simp only [Encoded, encodeWord_waitc]
  refine ⟨by omega, ?_⟩
  rw [decodeWord_unif0B _ (by simp only [fld]; omega) (by simp only [fld]; omega), decodeUnif0B]
  simp (disch := simp only [fld]; omega) only [if_pos, if_neg]
  congr 2 <;> exact bits_of _ _ _ (by omega)

theorem encoded_fence (g : BitVec 3) (sc k : BitVec 2) :
    Encoded (.fence g sc k) := by
  have := g.isLt; have := sc.isLt; have := k.isLt
  simp only [Encoded, encodeWord_fence]
  refine ⟨by omega, ?_⟩
  rw [decodeWord_unif0B _ (by simp only [fld]; omega) (by simp only [fld]; omega), decodeUnif0B]
  simp (disch := simp only [fld]; omega) only [if_pos, if_neg]
  congr 2 <;> exact bits_of _ _ _ (by omega)

theorem encoded_smode (g : BitVec 3) (a : BitVec 7) :
    Encoded (.smode g a) := by
  have := g.isLt; have := a.isLt
  simp only [Encoded, encodeWord_smode]
  refine ⟨by omega, ?_⟩
  rw [decodeWord_unif0B _ (by simp only [fld]; omega) (by simp only [fld]; omega), decodeUnif0B]
  simp (disch := simp only [fld]; omega) only [if_pos, if_neg]
  congr 2 <;> exact bits_of _ _ _ (by omega)

theorem encoded_yield (g : BitVec 3) :
    Encoded (.yield g) := by
  have := g.isLt
  simp only [Encoded, encodeWord_yield]
  refine ⟨by omega, ?_⟩
  rw [decodeWord_unif0B _ (by simp only [fld]; omega) (by simp only [fld]; omega), decodeUnif0B]
  simp (disch := simp only [fld]; omega) only [if_pos, if_neg]
  congr 2; exact bits_of _ _ _ (by omega)

theorem encoded_unif0C (g : BitVec 3) (a : BitVec 7) (acc : BitVec 2) :
    Encoded (.mma g a acc) ∧ Encoded (.aswap g a acc) ∧ Encoded (.azero g a acc) := by
  have := g.isLt; have := a.isLt; have := acc.isLt
  simp only [Encoded, encodeWord_mma, encodeWord_aswap, encodeWord_azero]
  refine ⟨⟨by omega, ?_⟩, ⟨by omega, ?_⟩, by omega, ?_⟩ <;>
    (rw [decodeWord_unif0C _ (by simp only [fld]; omega) (by simp only [fld]; omega), decodeUnif0C]
     simp (disch := simp only [fld]; omega) only [if_pos, if_neg]
     congr 2 <;> exact bits_of _ _ _ (by omega))

theorem encoded_unif0D (g : BitVec 3) (a : BitVec 7) (acc : BitVec 2) :
    Encoded (.ald g a acc) ∧ Encoded (.ast g a acc) := by
  have := g.isLt; have := a.isLt; have := acc.isLt
  simp only [Encoded, encodeWord_ald, encodeWord_ast]
  refine ⟨⟨by omega, ?_⟩, by omega, ?_⟩ <;>
    (rw [decodeWord_unif0D _ (by simp only [fld]; omega) (by simp only [fld]; omega), decodeUnif0D]
     simp (disch := simp only [fld]; omega) only [if_pos, if_neg]
     congr 2 <;> exact bits_of _ _ _ (by omega))

theorem encoded_unif0E (g : BitVec 3) (a : BitVec 7) :
    Encoded (.tcopy g a) ∧ Encoded (.tqst g a) ∧ Encoded (.tchain g a) ∧ Encoded (.trot g a) := by
  have := g.isLt; have := a.isLt
  simp only [Encoded, encodeWord_tcopy, encodeWord_tqst, encodeWord_tchain, encodeWord_trot]
  refine ⟨⟨by omega, ?_⟩, ⟨by omega, ?_⟩, ⟨by omega, ?_⟩, by omega, ?_⟩ <;>
    (rw [decodeWord_unif0E _ (by simp only [fld]; omega) (by simp only [fld]; omega), decodeUnif0E]
     simp (disch := simp only [fld]; omega) only [if_pos, if_neg]
     congr 2 <;> exact bits_of _ _ _ (by omega))

theorem encoded_awinit (g : BitVec 3) (a b : BitVec 7) :
    Encoded (.awinit g a b) ∧ Encoded (.awwait g a b) ∧ Encoded (.awqry g a b) := by
  have := g.isLt; have := a.isLt; have := b.isLt
  simp only [Encoded, encodeWord_awinit, encodeWord_awwait, encodeWord_awqry]
  refine ⟨⟨by omega, ?_⟩, ⟨by omega, ?_⟩, by omega, ?_⟩ <;>
    (rw [decodeWord_unif0F _ (by simp only [fld]; omega) (by simp only [fld]; omega), decodeUnif0F]
     simp (disch := simp only [fld]; omega) only [if_pos, if_neg]
     congr 2 <;> exact bits_of _ _ _ (by omega))

theorem encoded_tfetch (g q : BitVec 3) :
    Encoded (.tfetch g q) := by
  have := g.isLt; have := q.isLt
  simp only [Encoded, encodeWord_tfetch]
  refine ⟨by omega, ?_⟩
  rw [decodeWord_unif0F _ (by simp only [fld]; omega) (by simp only [fld]; omega), decodeUnif0F]
  simp (disch := simp only [fld]; omega) only [if_pos, if_neg]
  congr 2 <;> exact bits_of _ _ _ (by omega)

theorem encoded_bpost (g : BitVec 3) (d a b : BitVec 7) :
    Encoded (.bpost g d a b) := by
  exact encoded_dab g d a b rfl (by decide) fun w h31 h26 h0 hg hd ha hb => by
    simp [decodeWord_unif10 w h31 h26, decodeUnif10, h0, hg, hd, ha, hb]

theorem encoded_bqry (g : BitVec 3) (d : BitVec 7) :
    Encoded (.bqry g d) := by
  have := g.isLt; have := d.isLt
  simp only [Encoded, encodeWord_bqry]
  refine ⟨by omega, ?_⟩
  rw [decodeWord_unif10 _ (by simp only [fld]; omega) (by simp only [fld]; omega), decodeUnif10]
  simp (disch := simp only [fld]; omega) only [if_pos, if_neg]
  congr 2 <;> exact bits_of _ _ _ (by omega)

theorem encoded_sibchk (g : BitVec 3) :
    Encoded (.sibchk g) := by
  have := g.isLt
  simp only [Encoded, encodeWord_sibchk]
  refine ⟨by omega, ?_⟩
  rw [decodeWord_unif10 _ (by simp only [fld]; omega) (by simp only [fld]; omega), decodeUnif10]
  simp (disch := simp only [fld]; omega) only [if_pos, if_neg]
  congr 2; exact bits_of _ _ _ (by omega)

theorem encoded_waitm (g : BitVec 3) (cond : BitVec 4) (a b : BitVec 7) :
    Encoded (.waitm g cond a b) := by
  have := g.isLt; have := cond.isLt; have := a.isLt; have := b.isLt
  simp only [Encoded, encodeWord_waitm]
  refine ⟨by omega, ?_⟩
  rw [decodeWord_unif11 _ (by simp only [fld]; omega) (by simp only [fld]; omega), decodeUnif11]
  simp (disch := simp only [fld]; omega) only [if_pos, if_neg]
  congr 2 <;> exact bits_of _ _ _ (by omega)

theorem encoded_seal (g : BitVec 3) (a b : BitVec 7) :
    Encoded (.seal g a b) ∧ Encoded (.unseal g a b) := by
  have := g.isLt; have := a.isLt; have := b.isLt
  simp only [Encoded, encodeWord_seal, encodeWord_unseal]
  refine ⟨⟨by omega, ?_⟩, by omega, ?_⟩ <;>
    (rw [decodeWord_unif11 _ (by simp only [fld]; omega) (by simp only [fld]; omega), decodeUnif11]
     simp (disch := simp only [fld]; omega) only [if_pos, if_neg]
     congr 2 <;> exact bits_of _ _ _ (by omega))

theorem encoded_unif12 (g : BitVec 3) (d a : BitVec 7) :
    Encoded (.qpushD g d a) ∧ Encoded (.qpushL g d a) ∧ Encoded (.qpopD g d a) ∧ Encoded (.qpopL g d a) ∧
    Encoded (.qtryD g d a) ∧ Encoded (.qtryL g d a) := by
  have := g.isLt; have := d.isLt; have := a.isLt
  simp only [Encoded, encodeWord_qpushD, encodeWord_qpushL, encodeWord_qpopD, encodeWord_qpopL, encodeWord_qtryD,
    encodeWord_qtryL]
  refine ⟨⟨by omega, ?_⟩, ⟨by omega, ?_⟩, ⟨by omega, ?_⟩, ⟨by omega, ?_⟩, ⟨by omega, ?_⟩, by omega, ?_⟩ <;>
    (rw [decodeWord_unif12 _ (by simp only [fld]; omega) (by simp only [fld]; omega), decodeUnif12]
     simp (disch := simp only [fld]; omega) only [if_pos, if_neg]
     congr 2 <;> exact bits_of _ _ _ (by omega))

theorem encoded_trap (g : BitVec 3) (code : BitVec 8) :
    Encoded (.trap g code) := by
  have := g.isLt; have := code.isLt
  simp only [Encoded, encodeWord_trap]
  refine ⟨by omega, ?_⟩
  rw [decodeWord_unif13 _ (by simp only [fld]; omega) (by simp only [fld]; omega), decodeUnif13]
  simp (disch := simp only [fld]; omega) only [if_pos, if_neg]
  congr 2 <;> exact bits_of _ _ _ (by omega)

theorem encoded_rett (g : BitVec 3) (a : BitVec 7) :
    Encoded (.rett g a) := by
  have := g.isLt; have := a.isLt
  simp only [Encoded, encodeWord_rett]
  refine ⟨by omega, ?_⟩
  rw [decodeWord_unif13 _ (by simp only [fld]; omega) (by simp only [fld]; omega), decodeUnif13]
  simp (disch := simp only [fld]; omega) only [if_pos, if_neg]
  congr 2 <;> exact bits_of _ _ _ (by omega)

theorem encoded_brkpt (g : BitVec 3) :
    Encoded (.brkpt g) := by
  have := g.isLt
  simp only [Encoded, encodeWord_brkpt]
  refine ⟨by omega, ?_⟩
  rw [decodeWord_unif13 _ (by simp only [fld]; omega) (by simp only [fld]; omega), decodeUnif13]
  simp (disch := simp only [fld]; omega) only [if_pos, if_neg]
  congr 2; exact bits_of _ _ _ (by omega)

/-- An instruction of one word. -/
theorem encoded_of_single (i : Instr) (he : i.isEvent = false) (hl : (encode i).length = 1) : Encoded i := by
  cases i
  case ext | pat => cases hl
  any_goals simp only [encoded_lane00, encoded_lane01, encoded_lane02, encoded_lane03, encoded_lane04, encoded_popc,
    encoded_bfx, encoded_bfi, encoded_icmp, encoded_mov, encoded_lane07, encoded_lane08, encoded_lane09, encoded_lane0A,
    encoded_lane0B, encoded_vnbr, encoded_vvote, encoded_lane0D, encoded_sfq, encoded_sread, encoded_lane0F, encoded_lane10,
    encoded_lane11, encoded_lane12, encoded_ldW, encoded_prf, encoded_lane14, encoded_lane15, encoded_lane16,
    encoded_lane17, encoded_lane18, encoded_lane19, encoded_lane1C, encoded_lane1D, encoded_ret, encoded_jmpr, encoded_join,
    encoded_sfwait, encoded_trapl, encoded_unif00, encoded_unif01, encoded_unif02, encoded_scmp, encoded_ssel, encoded_smov,
    encoded_unif04, encoded_unif05, encoded_unif06, encoded_unif07, encoded_unif08, encoded_barSync, encoded_barQry,
    encoded_kset, encoded_kand, encoded_kmov, encoded_waitc, encoded_fence, encoded_smode, encoded_yield, encoded_unif0C,
    encoded_unif0D, encoded_unif0E, encoded_awinit, encoded_tfetch, encoded_bpost, encoded_bqry, encoded_sibchk,
    encoded_waitm, encoded_seal, encoded_unif12, encoded_trap, encoded_rett, encoded_brkpt]
  all_goals exact nomatch he

/-! #### From the word to its instruction and back -/

theorem decodeLane00_word {w : Nat} {i : Instr} (hw : w < 2 ^ 32) (h31 : fld w 31 1 = 0) (h26 : fld w 26 5 = 0)
    (h : decodeLane00 w = some i) : encodeWord i = w := by
  simp only [decodeLane00] at h
  split_ifs at h with h0 h0 h0 h0 <;> cases h <;> exact word_dab _ hw h31 h26 h0 (by decide)

theorem decodeLane01_word {w : Nat} {i : Instr} (hw : w < 2 ^ 32) (h31 : fld w 31 1 = 0) (h26 : fld w 26 5 = 1)
    (h : decodeLane01 w = some i) : encodeWord i = w := by
  simp only [decodeLane01] at h
  split_ifs at h with h0 h0 h0 h0 <;> cases h <;> exact word_dab _ hw h31 h26 h0 (by decide)

theorem decodeLane02_word {w : Nat} {i : Instr} (hw : w < 2 ^ 32) (h31 : fld w 31 1 = 0) (h26 : fld w 26 5 = 2)
    (h : decodeLane02 w = some i) : encodeWord i = w := by
  simp only [decodeLane02] at h
  split_ifs at h with h0 h0 h0 h0 <;> cases h <;> exact word_dab _ hw h31 h26 h0 (by decide)

theorem decodeLane03_word {w : Nat} {i : Instr} (hw : w < 2 ^ 32) (h31 : fld w 31 1 = 0) (h26 : fld w 26 5 = 3)
    (h : decodeLane03 w = some i) : encodeWord i = w := by
  simp only [decodeLane03] at h
  split_ifs at h with h0 h0 h0 h0 <;> cases h <;> exact word_dab _ hw h31 h26 h0 (by decide)

theorem decodeLane04_word {w : Nat} {i : Instr} (hw : w < 2 ^ 32) (h31 : fld w 31 1 = 0) (h26 : fld w 26 5 = 4)
    (h : decodeLane04 w = some i) : encodeWord i = w := by
  simp only [decodeLane04] at h
  split_ifs at h with h0 h0 h0 h0 <;> cases h <;> exact word_dab _ hw h31 h26 h0 (by decide)

theorem decodeLane05_word {w : Nat} {i : Instr} (hw : w < 2 ^ 32) (h31 : fld w 31 1 = 0) (h26 : fld w 26 5 = 5)
    (h : decodeLane05 w = some i) : encodeWord i = w := by
  simp only [decodeLane05] at h
  split_ifs at h <;> cases h <;>
    simp only [encodeWord_popc, encodeWord_clz, encodeWord_brev, encodeWord_bfx, bits_toNat, fld, Nat.reducePow] at * <;> omega

theorem decodeLane06_word {w : Nat} {i : Instr} (hw : w < 2 ^ 32) (h31 : fld w 31 1 = 0) (h26 : fld w 26 5 = 6)
    (h : decodeLane06 w = some i) : encodeWord i = w := by
  simp only [decodeLane06] at h
  split_ifs at h <;> cases h <;>
    simp only [encodeWord_bfi, encodeWord_icmp, encodeWord_fcmp, encodeWord_mov, bits_toNat, fld, Nat.reducePow] at * <;> omega

theorem decodeLane07_word {w : Nat} {i : Instr} (hw : w < 2 ^ 32) (h31 : fld w 31 1 = 0) (h26 : fld w 26 5 = 7)
    (h : decodeLane07 w = some i) : encodeWord i = w := by
  simp only [decodeLane07] at h
  split_ifs at h with h0 h0 h0 h0 <;> cases h <;> exact word_dab _ hw h31 h26 h0 (by decide)

theorem decodeLane08_word {w : Nat} {i : Instr} (hw : w < 2 ^ 32) (h31 : fld w 31 1 = 0) (h26 : fld w 26 5 = 8)
    (h : decodeLane08 w = some i) : encodeWord i = w := by
  simp only [decodeLane08] at h
  split_ifs at h with h0 h0 h0 h0 <;> cases h <;> exact word_dab _ hw h31 h26 h0 (by decide)

theorem decodeLane09_word {w : Nat} {i : Instr} (hw : w < 2 ^ 32) (h31 : fld w 31 1 = 0) (h26 : fld w 26 5 = 9)
    (h : decodeLane09 w = some i) : encodeWord i = w := by
  simp only [decodeLane09] at h
  split_ifs at h with h0 h0 h0 h0 <;> cases h <;> exact word_dab _ hw h31 h26 h0 (by decide)

theorem decodeLane0A_word {w : Nat} {i : Instr} (hw : w < 2 ^ 32) (h31 : fld w 31 1 = 0) (h26 : fld w 26 5 = 10)
    (h : decodeLane0A w = some i) : encodeWord i = w := by
  simp only [decodeLane0A] at h
  split_ifs at h with h0 h0 h0 h0 <;> cases h <;> exact word_dab _ hw h31 h26 h0 (by decide)

theorem decodeLane0B_word {w : Nat} {i : Instr} (hw : w < 2 ^ 32) (h31 : fld w 31 1 = 0) (h26 : fld w 26 5 = 11)
    (h : decodeLane0B w = some i) : encodeWord i = w := by
  simp only [decodeLane0B] at h
  split_ifs at h with h0 h0 h0 h0 <;> cases h <;> exact word_dab _ hw h31 h26 h0 (by decide)

theorem decodeLane0C_word {w : Nat} {i : Instr} (hw : w < 2 ^ 32) (h31 : fld w 31 1 = 0) (h26 : fld w 26 5 = 12)
    (h : decodeLane0C w = some i) : encodeWord i = w := by
  simp only [decodeLane0C] at h
  split_ifs at h <;> cases h <;>
    simp only [encodeWord_vnbr, encodeWord_vscan, encodeWord_vred, encodeWord_vvote, bits_toNat, fld, Nat.reducePow] at * <;> omega

theorem decodeLane0D_word {w : Nat} {i : Instr} (hw : w < 2 ^ 32) (h31 : fld w 31 1 = 0) (h26 : fld w 26 5 = 13)
    (h : decodeLane0D w = some i) : encodeWord i = w := by
  simp only [decodeLane0D] at h
  split_ifs at h with h0 h0 h0 h0 <;> cases h <;> exact word_dab _ hw h31 h26 h0 (by decide)

theorem decodeLane0E_word {w : Nat} {i : Instr} (hw : w < 2 ^ 32) (h31 : fld w 31 1 = 0) (h26 : fld w 26 5 = 14)
    (h : decodeLane0E w = some i) : encodeWord i = w := by
  simp only [decodeLane0E] at h
  split_ifs at h <;> cases h <;>
    simp only [encodeWord_sfq, encodeWord_sread, encodeWord_will, encodeWord_heirq, bits_toNat, fld, Nat.reducePow] at * <;> omega

theorem decodeLane0F_word {w : Nat} {i : Instr} (hw : w < 2 ^ 32) (h31 : fld w 31 1 = 0) (h26 : fld w 26 5 = 15)
    (h : decodeLane0F w = some i) : encodeWord i = w := by
  simp only [decodeLane0F] at h
  split_ifs at h <;> cases h <;>
    simp only [encodeWord_pand, encodeWord_por, encodeWord_pxor, encodeWord_pnand, bits_toNat, fld, Nat.reducePow] at * <;> omega

theorem decodeLane10_word {w : Nat} {i : Instr} (hw : w < 2 ^ 32) (h31 : fld w 31 1 = 0) (h26 : fld w 26 5 = 16)
    (h : decodeLane10 w = some i) : encodeWord i = w := by
  cases h
  simp only [encodeWord_movi, bits_toNat, fld, Nat.reducePow] at *
  omega

theorem decodeLane11_word {w : Nat} {i : Instr} (hw : w < 2 ^ 32) (h31 : fld w 31 1 = 0) (h26 : fld w 26 5 = 17)
    (h : decodeLane11 w = some i) : encodeWord i = w := by
  cases h
  simp only [encodeWord_iaddi, bits_toNat, fld, Nat.reducePow] at *
  omega

theorem decodeLane12_word {w : Nat} {i : Instr} (hw : w < 2 ^ 32) (h31 : fld w 31 1 = 0) (h26 : fld w 26 5 = 18)
    (h : decodeLane12 w = some i) : encodeWord i = w := by
  simp only [decodeLane12] at h
  split_ifs at h with h0 h0 h0 h0 <;> cases h <;> exact word_dab _ hw h31 h26 h0 (by decide)

theorem decodeLane13_word {w : Nat} {i : Instr} (hw : w < 2 ^ 32) (h31 : fld w 31 1 = 0) (h26 : fld w 26 5 = 19)
    (h : decodeLane13 w = some i) : encodeWord i = w := by
  simp only [decodeLane13] at h
  split_ifs at h <;> cases h <;>
    simp only [encodeWord_ldW, encodeWord_ldD, encodeWord_ldQ, encodeWord_prf, bits_toNat, fld, Nat.reducePow] at * <;> omega

theorem decodeLane14_word {w : Nat} {i : Instr} (hw : w < 2 ^ 32) (h31 : fld w 31 1 = 0) (h26 : fld w 26 5 = 20)
    (h : decodeLane14 w = some i) : encodeWord i = w := by
  simp only [decodeLane14] at h
  split_ifs at h with h0 h0 h0 h0 <;> cases h <;> exact word_dab _ hw h31 h26 h0 (by decide)

theorem decodeLane15_word {w : Nat} {i : Instr} (hw : w < 2 ^ 32) (h31 : fld w 31 1 = 0) (h26 : fld w 26 5 = 21)
    (h : decodeLane15 w = some i) : encodeWord i = w := by
  simp only [decodeLane15] at h
  split_ifs at h with h0
  cases h
  exact word_dab _ hw h31 h26 h0 (by decide)

theorem decodeLane16_word {w : Nat} {i : Instr} (hw : w < 2 ^ 32) (h31 : fld w 31 1 = 0) (h26 : fld w 26 5 = 22)
    (h : decodeLane16 w = some i) : encodeWord i = w := by
  simp only [decodeLane16] at h
  split_ifs at h <;> cases h <;>
    simp only [encodeWord_atomAdd, encodeWord_atomFadd, encodeWord_atomMin, encodeWord_atomMax, bits_toNat, fld,
      Nat.reducePow] at * <;> omega

theorem decodeLane17_word {w : Nat} {i : Instr} (hw : w < 2 ^ 32) (h31 : fld w 31 1 = 0) (h26 : fld w 26 5 = 23)
    (h : decodeLane17 w = some i) : encodeWord i = w := by
  simp only [decodeLane17] at h
  split_ifs at h <;> cases h <;>
    simp only [encodeWord_atomAnd, encodeWord_atomOr, encodeWord_atomXor, encodeWord_atomExch, bits_toNat, fld, Nat.reducePow] at * <;> omega

theorem decodeLane18_word {w : Nat} {i : Instr} (hw : w < 2 ^ 32) (h31 : fld w 31 1 = 0) (h26 : fld w 26 5 = 24)
    (h : decodeLane18 w = some i) : encodeWord i = w := by
  simp only [decodeLane18] at h
  split_ifs at h
  cases h
  simp only [encodeWord_red, bits_toNat, fld, Nat.reducePow] at *
  omega

theorem decodeLane19_word {w : Nat} {i : Instr} (hw : w < 2 ^ 32) (h31 : fld w 31 1 = 0) (h26 : fld w 26 5 = 25)
    (h : decodeLane19 w = some i) : encodeWord i = w := by
  simp only [decodeLane19] at h
  split_ifs at h <;> cases h <;>
    simp only [encodeWord_casW, encodeWord_casD, bits_toNat, fld, Nat.reducePow] at * <;> omega

theorem decodeLane1C_word {w : Nat} {i : Instr} (hw : w < 2 ^ 32) (h31 : fld w 31 1 = 0) (h26 : fld w 26 5 = 28)
    (h : decodeLane1C w = some i) : encodeWord i = w := by
  cases h
  simp only [encodeWord_bra, bits_toNat, fld, Nat.reducePow] at *
  omega

theorem decodeLane1D_word {w : Nat} {i : Instr} (hw : w < 2 ^ 32) (h31 : fld w 31 1 = 0) (h26 : fld w 26 5 = 29)
    (h : decodeLane1D w = some i) : encodeWord i = w := by
  cases h
  simp only [encodeWord_call, bits_toNat, fld, Nat.reducePow] at *
  omega

theorem decodeLane1E_word {w : Nat} {i : Instr} (hw : w < 2 ^ 32) (h31 : fld w 31 1 = 0) (h26 : fld w 26 5 = 30)
    (h : decodeLane1E w = some i) : encodeWord i = w := by
  simp only [decodeLane1E] at h
  split_ifs at h <;> cases h <;>
    simp only [encodeWord_ret, encodeWord_jmpr, encodeWord_exit, encodeWord_reform, encodeWord_join, encodeWord_sfwait,
      encodeWord_nop, encodeWord_trapl, bits_toNat, fld, Nat.reducePow] at * <;> omega

theorem decodeLane1F_word {w : Nat} {i : Instr} (hw : w < 2 ^ 32) (h31 : fld w 31 1 = 0) (h26 : fld w 26 5 = 31)
    (h : decodeLane1F w = some i) : encodeWord i = w := by
  simp only [decodeLane1F] at h
  split_ifs at h <;> cases h <;>
    simp only [encodeWord_ext, encodeWord_pat, bits_toNat, fld, Nat.reducePow] at * <;> omega

theorem decodeUnif00_word {w : Nat} {i : Instr} (hw : w < 2 ^ 32) (h31 : fld w 31 1 = 1) (h26 : fld w 26 5 = 0)
    (h : decodeUnif00 w = some i) : encodeWord i = w := by
  simp only [decodeUnif00] at h
  split_ifs at h with h0 h0 h0 h0 <;> cases h <;> exact word_dab _ hw h31 h26 h0 (by decide)

theorem decodeUnif01_word {w : Nat} {i : Instr} (hw : w < 2 ^ 32) (h31 : fld w 31 1 = 1) (h26 : fld w 26 5 = 1)
    (h : decodeUnif01 w = some i) : encodeWord i = w := by
  simp only [decodeUnif01] at h
  split_ifs at h with h0 h0 h0 h0 <;> cases h <;> exact word_dab _ hw h31 h26 h0 (by decide)

theorem decodeUnif02_word {w : Nat} {i : Instr} (hw : w < 2 ^ 32) (h31 : fld w 31 1 = 1) (h26 : fld w 26 5 = 2)
    (h : decodeUnif02 w = some i) : encodeWord i = w := by
  simp only [decodeUnif02] at h
  split_ifs at h with h0 h0 h0 h0 <;> cases h <;> exact word_dab _ hw h31 h26 h0 (by decide)

theorem decodeUnif03_word {w : Nat} {i : Instr} (hw : w < 2 ^ 32) (h31 : fld w 31 1 = 1) (h26 : fld w 26 5 = 3)
    (h : decodeUnif03 w = some i) : encodeWord i = w := by
  simp only [decodeUnif03] at h
  split_ifs at h <;> cases h <;>
    simp only [encodeWord_scmp, encodeWord_ssel, encodeWord_smov, encodeWord_ssr, bits_toNat, fld, Nat.reducePow] at * <;> omega

theorem decodeUnif04_word {w : Nat} {i : Instr} (hw : w < 2 ^ 32) (h31 : fld w 31 1 = 1) (h26 : fld w 26 5 = 4)
    (h : decodeUnif04 w = some i) : encodeWord i = w := by
  cases h
  simp only [encodeWord_smovi, bits_toNat, fld, Nat.reducePow] at *
  omega

theorem decodeUnif05_word {w : Nat} {i : Instr} (hw : w < 2 ^ 32) (h31 : fld w 31 1 = 1) (h26 : fld w 26 5 = 5)
    (h : decodeUnif05 w = some i) : encodeWord i = w := by
  cases h
  simp only [encodeWord_saddi, bits_toNat, fld, Nat.reducePow] at *
  omega

theorem decodeUnif06_word {w : Nat} {i : Instr} (hw : w < 2 ^ 32) (h31 : fld w 31 1 = 1) (h26 : fld w 26 5 = 6)
    (h : decodeUnif06 w = some i) : encodeWord i = w := by
  simp only [decodeUnif06] at h
  split_ifs at h with h0 h0 h0 h0 <;> cases h <;> exact word_dab _ hw h31 h26 h0 (by decide)

theorem decodeUnif07_word {w : Nat} {i : Instr} (hw : w < 2 ^ 32) (h31 : fld w 31 1 = 1) (h26 : fld w 26 5 = 7)
    (h : decodeUnif07 w = some i) : encodeWord i = w := by
  simp only [decodeUnif07] at h
  split_ifs at h <;> cases h <;>
    simp only [encodeWord_qand, encodeWord_qor, encodeWord_qxor, encodeWord_qnand, bits_toNat, fld, Nat.reducePow] at * <;> omega

theorem decodeUnif08_word {w : Nat} {i : Instr} (hw : w < 2 ^ 32) (h31 : fld w 31 1 = 1) (h26 : fld w 26 5 = 8)
    (h : decodeUnif08 w = some i) : encodeWord i = w := by
  cases h
  simp only [encodeWord_sbra, bits_toNat, fld, Nat.reducePow] at *
  omega

theorem decodeUnif09_word {w : Nat} {i : Instr} (hw : w < 2 ^ 32) (h31 : fld w 31 1 = 1) (h26 : fld w 26 5 = 9)
    (h : decodeUnif09 w = some i) : encodeWord i = w := by
  simp only [decodeUnif09] at h
  split_ifs at h <;> cases h <;>
    simp only [encodeWord_barSync, encodeWord_barArv, encodeWord_barWait, encodeWord_barQry, bits_toNat, fld, Nat.reducePow] at * <;> omega

theorem decodeUnif0A_word {w : Nat} {i : Instr} (hw : w < 2 ^ 32) (h31 : fld w 31 1 = 1) (h26 : fld w 26 5 = 10)
    (h : decodeUnif0A w = some i) : encodeWord i = w := by
  simp only [decodeUnif0A] at h
  split_ifs at h <;> cases h <;>
    simp only [encodeWord_kset, encodeWord_kand, encodeWord_kor, encodeWord_kmov, bits_toNat, fld, Nat.reducePow] at * <;> omega

theorem decodeUnif0B_word {w : Nat} {i : Instr} (hw : w < 2 ^ 32) (h31 : fld w 31 1 = 1) (h26 : fld w 26 5 = 11)
    (h : decodeUnif0B w = some i) : encodeWord i = w := by
  simp only [decodeUnif0B] at h
  split_ifs at h <;> cases h <;>
    simp only [encodeWord_waitc, encodeWord_fence, encodeWord_smode, encodeWord_yield, bits_toNat, fld, Nat.reducePow] at * <;> omega

theorem decodeUnif0C_word {w : Nat} {i : Instr} (hw : w < 2 ^ 32) (h31 : fld w 31 1 = 1) (h26 : fld w 26 5 = 12)
    (h : decodeUnif0C w = some i) : encodeWord i = w := by
  simp only [decodeUnif0C] at h
  split_ifs at h <;> cases h <;>
    simp only [encodeWord_mma, encodeWord_aswap, encodeWord_azero, bits_toNat, fld, Nat.reducePow] at * <;> omega

theorem decodeUnif0D_word {w : Nat} {i : Instr} (hw : w < 2 ^ 32) (h31 : fld w 31 1 = 1) (h26 : fld w 26 5 = 13)
    (h : decodeUnif0D w = some i) : encodeWord i = w := by
  simp only [decodeUnif0D] at h
  split_ifs at h <;> cases h <;>
    simp only [encodeWord_ald, encodeWord_ast, bits_toNat, fld, Nat.reducePow] at * <;> omega

theorem decodeUnif0E_word {w : Nat} {i : Instr} (hw : w < 2 ^ 32) (h31 : fld w 31 1 = 1) (h26 : fld w 26 5 = 14)
    (h : decodeUnif0E w = some i) : encodeWord i = w := by
  simp only [decodeUnif0E] at h
  split_ifs at h <;> cases h <;>
    simp only [encodeWord_tcopy, encodeWord_tqst, encodeWord_tchain, encodeWord_trot, bits_toNat, fld, Nat.reducePow] at * <;> omega

theorem decodeUnif0F_word {w : Nat} {i : Instr} (hw : w < 2 ^ 32) (h31 : fld w 31 1 = 1) (h26 : fld w 26 5 = 15)
    (h : decodeUnif0F w = some i) : encodeWord i = w := by
  simp only [decodeUnif0F] at h
  split_ifs at h <;> cases h <;>
    simp only [encodeWord_awinit, encodeWord_awwait, encodeWord_awqry, encodeWord_tfetch, bits_toNat, fld, Nat.reducePow] at * <;> omega

theorem decodeUnif10_word {w : Nat} {i : Instr} (hw : w < 2 ^ 32) (h31 : fld w 31 1 = 1) (h26 : fld w 26 5 = 16)
    (h : decodeUnif10 w = some i) : encodeWord i = w := by
  simp only [decodeUnif10] at h
  split_ifs at h <;> cases h <;>
    simp only [encodeWord_bpost, encodeWord_bqry, encodeWord_sibchk, bits_toNat, fld, Nat.reducePow] at * <;> omega

theorem decodeUnif11_word {w : Nat} {i : Instr} (hw : w < 2 ^ 32) (h31 : fld w 31 1 = 1) (h26 : fld w 26 5 = 17)
    (h : decodeUnif11 w = some i) : encodeWord i = w := by
  simp only [decodeUnif11] at h
  split_ifs at h <;> cases h <;>
    simp only [encodeWord_waitm, encodeWord_seal, encodeWord_unseal, bits_toNat, fld, Nat.reducePow] at * <;> omega

theorem decodeUnif12_word {w : Nat} {i : Instr} (hw : w < 2 ^ 32) (h31 : fld w 31 1 = 1) (h26 : fld w 26 5 = 18)
    (h : decodeUnif12 w = some i) : encodeWord i = w := by
  simp only [decodeUnif12] at h
  split_ifs at h <;> cases h <;>
    simp only [encodeWord_qpushD, encodeWord_qpushL, encodeWord_qpopD, encodeWord_qpopL, encodeWord_qtryD, encodeWord_qtryL,
      bits_toNat, fld, Nat.reducePow] at * <;> omega

theorem decodeUnif13_word {w : Nat} {i : Instr} (hw : w < 2 ^ 32) (h31 : fld w 31 1 = 1) (h26 : fld w 26 5 = 19)
    (h : decodeUnif13 w = some i) : encodeWord i = w := by
  simp only [decodeUnif13] at h
  split_ifs at h <;> cases h <;>
    simp only [encodeWord_trap, encodeWord_rett, encodeWord_brkpt, bits_toNat, fld, Nat.reducePow] at * <;> omega

/-- R282, R284: a word that decodes has each of its bits from the instruction that it decodes to. -/
theorem encodeWord_of_decodeWord {w : Nat} {i : Instr} (hw : w < 2 ^ 32) (h : decodeWord w = some i) : encodeWord i = w := by
  unfold decodeWord at h
  split at h
  all_goals rename_i h31 h26
  exacts [decodeLane00_word hw h31 h26 h, decodeLane01_word hw h31 h26 h, decodeLane02_word hw h31 h26 h,
    decodeLane03_word hw h31 h26 h, decodeLane04_word hw h31 h26 h, decodeLane05_word hw h31 h26 h,
    decodeLane06_word hw h31 h26 h, decodeLane07_word hw h31 h26 h, decodeLane08_word hw h31 h26 h,
    decodeLane09_word hw h31 h26 h, decodeLane0A_word hw h31 h26 h, decodeLane0B_word hw h31 h26 h,
    decodeLane0C_word hw h31 h26 h, decodeLane0D_word hw h31 h26 h, decodeLane0E_word hw h31 h26 h,
    decodeLane0F_word hw h31 h26 h, decodeLane10_word hw h31 h26 h, decodeLane11_word hw h31 h26 h,
    decodeLane12_word hw h31 h26 h, decodeLane13_word hw h31 h26 h, decodeLane14_word hw h31 h26 h,
    decodeLane15_word hw h31 h26 h, decodeLane16_word hw h31 h26 h, decodeLane17_word hw h31 h26 h,
    decodeLane18_word hw h31 h26 h, decodeLane19_word hw h31 h26 h, decodeLane1C_word hw h31 h26 h,
    decodeLane1D_word hw h31 h26 h, decodeLane1E_word hw h31 h26 h, decodeLane1F_word hw h31 h26 h,
    decodeUnif00_word hw h31 h26 h, decodeUnif01_word hw h31 h26 h, decodeUnif02_word hw h31 h26 h,
    decodeUnif03_word hw h31 h26 h, decodeUnif04_word hw h31 h26 h, decodeUnif05_word hw h31 h26 h,
    decodeUnif06_word hw h31 h26 h, decodeUnif07_word hw h31 h26 h, decodeUnif08_word hw h31 h26 h,
    decodeUnif09_word hw h31 h26 h, decodeUnif0A_word hw h31 h26 h, decodeUnif0B_word hw h31 h26 h,
    decodeUnif0C_word hw h31 h26 h, decodeUnif0D_word hw h31 h26 h, decodeUnif0E_word hw h31 h26 h,
    decodeUnif0F_word hw h31 h26 h, decodeUnif10_word hw h31 h26 h, decodeUnif11_word hw h31 h26 h,
    decodeUnif12_word hw h31 h26 h, decodeUnif13_word hw h31 h26 h, nomatch h]

/-! #### Units and their bytes (R186, R267, R277) -/

/-- A word of group 0x1F decodes to an EXT or a PAT. -/
theorem decodeWord_prefix {w : Nat} {i : Instr} (hp : isPrefixWord w = true) (h : decodeWord w = some i) :
    (∃ imm, i = .ext imm 0) ∨ ∃ a b, i = .pat a b 0 := by
  have hp : fld w 26 6 = 31 := of_decide_eq_true hp
  simp only [fld, Nat.reducePow] at hp
  rw [decodeWord_lane1F w (by simp only [fld]; omega) (by simp only [fld]; omega), decodeLane1F] at h
  split_ifs at h <;> cases h
  · exact .inl ⟨_, rfl⟩
  · exact .inr ⟨_, _, rfl⟩

theorem decodeWord_ext (imm : BitVec 25) (next : Word) : decodeWord (encodeWord (.ext imm next)) = some (.ext imm 0) := by
  have := imm.isLt
  rw [encodeWord_ext, decodeWord_lane1F _ (by simp only [fld]; omega) (by simp only [fld]; omega), decodeLane1F,
    if_pos (by simp only [fld]; omega), bits_of _ _ imm (by omega)]

theorem decodeWord_pat (a b : BitVec 8) (next : Word) : decodeWord (encodeWord (.pat a b next)) = some (.pat a b 0) := by
  have := a.isLt; have := b.isLt
  rw [encodeWord_pat, decodeWord_lane1F _ (by simp only [fld]; omega) (by simp only [fld]; omega), decodeLane1F,
    if_neg (by simp only [fld]; omega), if_pos (by simp only [fld]; omega), bits_of _ _ a (by omega), bits_of _ _ b (by omega)]

/-- A unit of two words: EXT or PAT, and the word after it. -/
theorem decode_two (w0 : Nat) (next : Word) (rest : List Byte) {i : Instr} (hw : w0 < 2 ^ 32) (hp : isPrefixWord w0 = true)
    (hi : decodeUnit w0 next.toNat = some i) : decode ([w0, next.toNat].flatMap (leBytes 4) ++ rest) = .unit i rest := by
  simp only [List.flatMap_cons, List.flatMap_nil, List.append_nil, List.append_assoc, decode]
  rw [takeWord_leBytes _ _ hw]
  simp only [hp, takeWord_leBytes _ _ next.isLt, if_true, hi]

/-- A unit of one word. -/
theorem decode_one (w0 : Nat) (rest : List Byte) {i : Instr} (hw : w0 < 2 ^ 32) (hp : isPrefixWord w0 = false)
    (hi : decodeUnit w0 0 = some i) : decode ([w0].flatMap (leBytes 4) ++ rest) = .unit i rest := by
  simp only [List.flatMap_cons, List.flatMap_nil, List.append_nil, decode]
  rw [takeWord_leBytes _ _ hw]
  simp only [hp, Bool.false_eq_true, if_false, hi]

theorem encode_eq_single {i : Instr} (h : (encode i).length = 1) : encode i = [encodeWord i] := by
  unfold encode at h ⊢
  split at h <;> first | rfl | cases h

/-- An instruction whose encoding is one word is read back from it. -/
theorem decode_of_single (i : Instr) (rest : List Byte) (he : i.isEvent = false) (hl : (encode i).length = 1) :
    decode ((encode i).flatMap (leBytes 4) ++ rest) = .unit i rest := by
  obtain ⟨hw, hd⟩ := encoded_of_single i he hl
  rw [encode_eq_single hl]
  have hne : ∀ imm v, i ≠ .ext imm v := by rintro imm v rfl; cases hl
  have hnp : ∀ a b v, i ≠ .pat a b v := by rintro a b v rfl; cases hl
  refine decode_one _ rest hw (Bool.eq_false_iff.2 fun hp => ?_) ?_
  · obtain ⟨imm, rfl⟩ | ⟨a, b, rfl⟩ := decodeWord_prefix hp hd
    · exact hne _ _ rfl
    · exact hnp _ _ _ rfl
  · unfold decodeUnit
    rw [hd]
    split
    · next heq => exact absurd (Option.some.inj heq) (hne _ _)
    · next heq => exact absurd (Option.some.inj heq) (hnp _ _ _)
    · rfl

theorem decode_ext (imm : BitVec 25) (next : Word) (rest : List Byte) :
    decode ((encode (.ext imm next)).flatMap (leBytes 4) ++ rest) = .unit (.ext imm next) rest := by
  obtain ⟨hw, hp⟩ := Laws.Encodes.ext imm next rfl
  refine decode_two _ next rest hw hp ?_
  simp only [decodeUnit, decodeWord_ext, BitVec.ofNat_toNat, BitVec.setWidth_eq]

theorem decode_pat (a b : BitVec 8) (next : Word) (rest : List Byte) :
    decode ((encode (.pat a b next)).flatMap (leBytes 4) ++ rest) = .unit (.pat a b next) rest := by
  obtain ⟨hw, hp⟩ := Laws.Encodes.pat a b next rfl
  refine decode_two _ next rest hw hp ?_
  simp only [decodeUnit, decodeWord_pat, BitVec.ofNat_toNat, BitVec.setWidth_eq]

theorem decode_encode (i : Instr) (rest : List Byte) (he : i.isEvent = false) :
    decode ((encode i).flatMap (leBytes 4) ++ rest) = .unit i rest := by
  by_cases hl : (encode i).length = 1
  · exact decode_of_single i rest he hl
  · match i, hl with
    | .ext imm next, _ => exact decode_ext imm next rest
    | .pat a b next, _ => exact decode_pat a b next rest

/-! ### O56 -/

/-- Settles O56: `decode_encode` reads every encoding back, `encodeWord_of_decodeWord` accounts for every bit of a word. -/
theorem decodeAndEncodeAgree : Obligations.DecodeAndEncodeAgree :=
  ⟨decode_encode, fun _ _ hw h => encodeWord_of_decodeWord hw h⟩

end Sys2Proof.Machine

/-! ### SUPPORT: units of one shape, from what `exec` gives for them (R271, R272, R280) -/

namespace Sys2Proof.Machine

theorem laneSet_completes {s : State} {i : Instr} {gl : List Nat} {bad : Option Word} {f : State → Nat → Thread → Thread}
    {F : Nat → Thread → Thread} (e : exec i s = .next (s.laneSet i gl false bad f)) (hw : i.wf = true) (hb : bad = none)
    (hgl : ∀ l ∈ gl, l ∈ s.subset) (hF : ∀ l x, f s.advance l x = F l x) : Completes i s s (lanesWith gl F) id := by
  refine ⟨_, e, ?_⟩
  have h := laneSet_effect s i gl f hw hgl
  simp only [hF] at h
  rw [hb]
  exact h

theorem laneFp_completes {s : State} {i : Instr} {gl : List Nat} {absent : Bool} {bad : Option Word}
    {f : State → BitVec 9 → Nat → Thread → Thread × FlagSet} {F : Nat → Thread → Thread} {K : Nat → FlagSet}
    (e : exec i s = .next (s.laneFp i gl absent bad f)) (hw : i.wf = true) (ha : absent = false) (hb : bad = none)
    (hgl : ∀ l ∈ gl, l ∈ s.subset) (hF : ∀ l x, (f s.advance s.team.mode l x).1 = F l x)
    (hK : ∀ l, (f s.advance s.team.mode l (s.advance.lane l)).2 = K l) :
    Completes i s s (lanesWith gl F) (withFlags (flagsOf gl K)) := by
  refine ⟨_, e, ?_⟩
  rw [ha, hb]
  exact laneFp_effect s i gl f F K hw hgl hF hK

theorem unifSet_completes {s : State} {i : Instr} {guard : Bool} {bad : Option Word} {f : Team → Team}
    (e : exec i s = .next (s.unifSet i guard bad f)) (hw : i.wf = true) (hg : guard = true) (hb : bad = none)
    (hl : ∀ m, (f m).lanes = m.lanes) (hS : ∀ x y, teamShared x = teamShared y → teamShared (f x) = teamShared (f y)) :
    WritesTeam s i f := by
  refine ⟨_, e, ?_⟩
  rw [hg, hb]
  exact unifSet_effect s i f hw hl hS

/-- What a function writes to `s[d]` from registers that the teams share is the same for both. -/
theorem setSr_of_shared (n : Nat) (f : Team → Word) (hf : ∀ x y, teamShared x = teamShared y → f x = f y) :
    ∀ x y, teamShared x = teamShared y → teamShared (x.setSr n (f x)) = teamShared (y.setSr n (f y)) := by
  intro x y h
  rw [hf x y h]
  exact setSr_shared n _ x y h

theorem sr_of_shared {x y : Team} (h : teamShared x = teamShared y) (n : Nat) : x.sr n = y.sr n :=
  show (teamShared x).sr n = (teamShared y).sr n by rw [h]

theorem q_of_shared {x y : Team} (h : teamShared x = teamShared y) (n : Nat) : x.q n = y.q n :=
  show (teamShared x).q n = (teamShared y).q n by rw [h]

/-! ### O1 -/

/-- Settles O1: the functions of three registers and of one by the lemma of their shape, MOVI and ISEL as writes of their own. -/
theorem laneIntegersAndMoves : Obligations.LaneIntegersAndMoves := by
  unfold Obligations.LaneIntegersAndMoves
  refine ⟨fun s g d a b h => ?_, fun s g d a b imm k => ⟨fun h => ?_, fun h => ?_, fun h => ?_⟩⟩
  · intro W
    have hW : ∀ i f, exec i s = .next (s.laneOp i g d a b f) → i.wf = true → W i f :=
      fun i f e hw => laneOp_completes s i g d a b f e hw h
    clear_value W
    exact ⟨hW _ _ rfl rfl, hW _ _ rfl rfl, hW _ _ rfl rfl, hW _ _ rfl rfl, hW _ _ rfl rfl, hW _ _ rfl rfl, hW _ _ rfl rfl,
      hW _ _ rfl rfl, hW _ _ rfl rfl, hW _ _ rfl rfl, hW _ _ rfl rfl⟩
  · exact ⟨laneOp1_completes s _ g d a id rfl rfl h, laneOp1_completes s _ g d a (fun x => x + k.signExtend 32) rfl rfl h⟩
  · exact laneSet_completes rfl rfl h (mem_guarded s g) (fun _ _ => rfl)
  · exact laneSet_completes rfl rfl h (fun _ hl => hl) (fun l x => by rw [srcA_advance, srcB_advance])

/-! ### O2 -/

/-- Settles O2: each function by the lemma of its shape. -/
theorem laneLogicShiftsAndBits : Obligations.LaneLogicShiftsAndBits := by
  unfold Obligations.LaneLogicShiftsAndBits
  refine fun s g d a b => ⟨fun h => ?_, fun h => ?_⟩
  · intro W
    have hW : ∀ i f, exec i s = .next (s.laneOp i g d a b (fun x y _ => f x y)) → i.wf = true → W i f :=
      fun i f e hw => laneOp_completes s i g d a b (fun x y _ => f x y) e hw h
    clear_value W
    exact ⟨hW _ _ rfl rfl, hW _ _ rfl rfl, hW _ _ rfl rfl, hW _ _ rfl rfl, hW _ _ rfl rfl, hW _ _ rfl rfl, hW _ _ rfl rfl,
      hW _ _ rfl rfl, hW _ _ rfl rfl, hW _ _ rfl rfl⟩
  · intro W
    have hW : ∀ i f, exec i s = .next (s.laneOp1 i g d a f) → i.wf = true → W i f :=
      fun i f e hw => laneOp1_completes s i g d a f e hw h
    clear_value W
    exact ⟨hW _ _ rfl rfl, hW _ _ rfl rfl, hW _ _ rfl rfl⟩

/-! ### O3 -/

theorem setP_seven (x : Thread) (v : Bool) : x.setP 7 v = x := rfl

theorem setQ_seven (t : Team) (v : Bool) : t.setQ 7 v = t := rfl

/-- Logic on the threads' predicates. -/
theorem predOp_completes {s : State} {i : Instr} {g d a b : BitVec 3} {f : Bool → Bool → Bool}
    (e : exec i s = .next (s.predOp i g d a b f)) (hw : i.wf = true) :
    Completes i s s (lanesWith (s.guarded g) (fun _ x => x.setP d.toNat (f (x.p a.toNat) (x.p b.toNat)))) id :=
  laneSet_completes e hw rfl (mem_guarded s g) (fun _ _ => rfl)

/-- Logic on the team's predicates. -/
theorem unifPred_completes {s : State} {i : Instr} {g d a b : BitVec 3} {f : Bool → Bool → Bool}
    (e : exec i s = .next (s.unifPred i g d a b f)) (hw : i.wf = true) (hg : s.guardU g = true) :
    WritesTeam s i (fun t => t.setQ d.toNat (f (t.q a.toNat) (t.q b.toNat))) :=
  unifSet_completes e hw hg rfl (fun _ => setQ_lanes _ _ _)
    (setQ_shared _ _ fun _ _ h => by rw [q_of_shared h, q_of_shared h])

/-- Settles O3: compares and predicate logic by the lemmas of their shapes, and p7 and q7 by what they are. -/
theorem predicateWrites : Obligations.PredicateWrites := by
  unfold Obligations.PredicateWrites
  refine fun s g p n m c a b => ⟨fun hc hb => ?_, ?_, fun hg => ⟨fun hc hb => ?_, ?_⟩, fun x t v =>
    ⟨setP_seven x v, rfl, setQ_seven t v, rfl⟩⟩
  · have h := laneFp_completes (K := fun _ => 0) (e := rfl) (i := .icmp g c p a b) hc rfl hb (mem_guarded s g)
      (F := fun l x => x.setP p.toNat (intCond c.toNat (s.srcA l a) (s.srcB l b)))
      (fun l x => by simp only [srcA_advance, srcB_advance]) (fun _ => rfl)
    rwa [flagsOf_zero] at h
  · intro W
    have hW : ∀ i f, exec i s = .next (s.predOp i g p n m f) → i.wf = true → W i f := fun i f e hw => predOp_completes e hw
    clear_value W
    exact ⟨hW _ _ rfl rfl, hW _ _ rfl rfl, hW _ _ rfl rfl, hW _ _ rfl rfl⟩
  · exact unifSet_completes rfl hc hg hb (fun _ => setQ_lanes _ _ _)
      (setQ_shared _ _ fun _ _ h => by rw [sr_of_shared h, sr_of_shared h])
  · intro W
    have hW : ∀ i f, exec i s = .next (s.unifPred i g p n m f) → i.wf = true → W i f :=
      fun i f e hw => unifPred_completes e hw hg
    clear_value W
    exact ⟨hW _ _ rfl rfl, hW _ _ rfl rfl, hW _ _ rfl rfl, hW _ _ rfl rfl⟩

/-! ### O4 -/

/-- Settles O4: the functions of three registers by the lemma of their shape, FRND, FCVT and FCMP as functions of floating point. -/
theorem laneSingleFloat : Obligations.LaneSingleFloat := by
  unfold Obligations.LaneSingleFloat
  refine fun s g p c d a b k => ⟨fun h => ?_, fun h => ?_, fun hc hb => ?_⟩
  · intro W
    have hW : ∀ i f, exec i s = .next (s.laneFp3 i g d a b f) → i.wf = true → W i f :=
      fun i f e hw => laneFp3_completes s i g d a b f e hw h
    clear_value W
    exact ⟨hW _ _ rfl rfl, hW _ _ rfl rfl, hW _ _ rfl rfl, hW _ _ rfl rfl, hW _ _ rfl rfl, hW _ _ rfl rfl⟩
  · refine ⟨fun hk => ?_, fun hk => ?_⟩
    · exact laneFp_completes rfl (decide_eq_true hk) rfl h (mem_guarded s g)
        (fun l x => by rw [srcA_advance]) (fun l => by rw [srcA_advance])
    · exact laneFp_completes rfl hk rfl h (mem_guarded s g) (fun l x => by rw [srcA_advance]) (fun l => by rw [srcA_advance])
  · exact laneFp_completes rfl hc rfl hb (mem_guarded s g) (fun l x => by simp only [srcA_advance, srcB_advance])
      (fun l => by simp only [srcA_advance, srcB_advance])

/-! ### O5 -/

/-- Settles O5: the functions of three registers by the lemmas of their shapes, DCVT by the two kinds of its code. -/
theorem lanePairedAndDoubleFloat : Obligations.LanePairedAndDoubleFloat := by
  unfold Obligations.LanePairedAndDoubleFloat
  refine ⟨fun s g d a b h => ?_, fun s g d a b k hu => ⟨fun h => ?_, fun hk hd ha => ?_, fun hk hd ha => ?_⟩⟩
  · intro W
    have hW : ∀ i f, exec i s = .next (s.lanePair3 i g d a b f) → i.wf = true → W i f :=
      fun i f e hw => lanePair3_completes s i g d a b f e hw h
    clear_value W
    exact ⟨hW _ _ rfl rfl, hW _ _ rfl rfl, hW _ _ rfl rfl, hW _ _ rfl rfl, hW _ _ rfl rfl, hW _ _ rfl rfl, hW _ _ rfl rfl,
      hW _ _ rfl rfl⟩
  · intro W
    have hW : ∀ i f, exec i s = .next (s.laneFp64 i g d a b f) → i.wf = true → W i f :=
      fun i f e hw => laneFp64_completes s i g d a b f e hw hu h
    clear_value W
    exact ⟨hW _ _ rfl rfl, hW _ _ rfl rfl, hW _ _ rfl rfl⟩
  · have hwide : (k.toNat = 0x10 || k.toNat = 0x12) = true := by rcases hk with rfl | rfl <;> rfl
    have hok : dcvtCodeOk k = true := by rcases hk with rfl | rfl <;> rfl
    refine laneFp_completes rfl hok (by rw [hu]; rfl) ?_ (mem_guarded s g) (fun l x => ?_) (fun l => ?_)
    · simp only [hwide, if_true, firstBad_two hd ha]
    · simp only [hwide, if_true, srcA_advance]
    · simp only [hwide, if_true, srcA_advance]
  · have hwide : (k.toNat = 0x10 || k.toNat = 0x12) = false := by rcases hk with rfl | rfl <;> rfl
    have hok : dcvtCodeOk k = true := by rcases hk with rfl | rfl <;> rfl
    refine laneFp_completes rfl hok (by rw [hu]; rfl) ?_ (mem_guarded s g) (fun l x => ?_) (fun l => ?_)
    · simp only [hwide, Bool.false_eq_true, if_false, firstBad_two hd ha]
    · simp only [hwide, Bool.false_eq_true, if_false, srcA2_advance]
    · simp only [hwide, Bool.false_eq_true, if_false, srcA2_advance]

/-! ### O13 -/

/-- Settles O13: the functions of two registers by the lemma of their shape, the others as writes of their own. -/
theorem uniformArithmetic : Obligations.UniformArithmetic := by
  unfold Obligations.UniformArithmetic
  refine fun s g n d a b imm k => ⟨fun hg h => ?_, fun h => ?_, fun hg h => ⟨?_, ?_⟩, fun hg hd => ?_⟩
  · intro W
    have hW : ∀ i f, exec i s = .next (s.unifOp i g d a b f) → i.wf = true → W i f :=
      fun i f e hw => unifOp_completes s i g d a b f e hw hg h
    clear_value W
    exact ⟨hW _ _ rfl rfl, hW _ _ rfl rfl, hW _ _ rfl rfl, hW _ _ rfl rfl, hW _ _ rfl rfl, hW _ _ rfl rfl, hW _ _ rfl rfl,
      hW _ _ rfl rfl, hW _ _ rfl rfl, hW _ _ rfl rfl, hW _ _ rfl rfl, hW _ _ rfl rfl⟩
  · exact unifSet_completes rfl rfl rfl h (fun _ => rfl)
      (setSr_of_shared _ _ fun _ _ e => by rw [q_of_shared e, sr_of_shared e, sr_of_shared e])
  · exact unifSet_completes rfl rfl hg h (fun _ => rfl) (setSr_of_shared _ _ fun _ _ e => sr_of_shared e _)
  · exact unifSet_completes rfl rfl hg h (fun _ => rfl) (setSr_of_shared _ _ fun _ _ e => by rw [sr_of_shared e])
  · exact unifSet_completes rfl rfl hg (by rw [badS1, hd]; rfl) (fun _ => rfl) (setSr_of_shared _ _ fun _ _ _ => rfl)

end Sys2Proof.Machine

/-! ### SUPPORT: special registers (R183, R291, R292) -/

namespace Sys2Proof.Machine

/-- A selector that is not the clock's and that a launch, a core, a workgroup or a team holds. -/
def sharedSel (sel : Nat) : Bool := sel ≠ 0x0B && sel ≠ 0x0C && !isOwnSel sel

theorem sreadThread_shared (s : State) (l d : Nat) {sel : Nat} (h : sharedSel sel = true) (x : Thread) :
    s.sreadThread l d sel x = x.setV d (s.sharedReg sel) := by
  simp only [sharedSel, Bool.and_eq_true, decide_eq_true_eq, Bool.not_eq_true'] at h
  obtain ⟨⟨hlo, hhi⟩, hown⟩ := h
  simp only [State.sreadThread, hlo, hhi, hown, if_false, Bool.false_eq_true]

theorem sreadThread_own (s : State) (l d : Nat) {sel : Nat} (h : isOwnSel sel = true) (x : Thread) :
    s.sreadThread l d sel x = x.setV d (x.ownReg l sel) := by
  have hlo : sel ≠ 0x0B := by rintro rfl; cases h
  have hhi : sel ≠ 0x0C := by rintro rfl; cases h
  simp only [State.sreadThread, hlo, hhi, h, if_false, if_true]

/-- SREAD of a selector that the executing threads may read does to each what `sreadThread` says. -/
theorem sread_completes {s : State} {g : BitVec 3} {d sel : BitVec 7} (hb : bad1 s.curAlloc d = none) (hsel : sreadSelOk sel = true)
    (hp : handlerSel sel.toNat = true → ∀ l ∈ s.guarded g, (s.lane l).inHandler = true) :
    Completes (.sread g d sel) s s (lanesWith (s.guarded g) (fun l x => s.sreadThread l d.toNat sel.toNat x)) id := by
  have hpriv : (handlerSel sel.toNat && (s.guarded g).any (fun l => !(s.lane l).inHandler)) = false := by
    cases hh : handlerSel sel.toNat with
    | false => rfl
    | true => simpa [List.any_eq_false] using hp hh
  refine laneUnit_completes s s _ (s.guarded g)
    (fun t => t.onLanes (s.guarded g) (fun l x => s.sreadThread l d.toNat sel.toNat x)) _ _ ?_ hsel
    (Effect.lanes (Effect.advance s) rfl _ (mem_guarded s g) _)
  show Host.Outcome.next (s.laneUnit _ _ _ (bad1 s.curAlloc d) (handlerSel sel.toNat && _) _) = _
  rw [hb, hpriv]

theorem sread_shared {s : State} {g : BitVec 3} {d : BitVec 7} (hb : bad1 s.curAlloc d = none) (sel : BitVec 7)
    (hs : sharedSel sel.toNat = true) (hsel : sreadSelOk sel = true) (hp : handlerSel sel.toNat = false) :
    WritesLanes s (.sread g d sel) g d (fun _ _ => s.sharedReg sel.toNat) := by
  have h := sread_completes (g := g) hb hsel (fun hh => absurd hh (by rw [hp]; exact Bool.false_ne_true))
  simp only [sreadThread_shared s _ _ hs] at h
  exact h

theorem sread_own {s : State} {g : BitVec 3} {d : BitVec 7} (hb : bad1 s.curAlloc d = none) (sel : BitVec 7)
    (hs : isOwnSel sel.toNat = true) (hsel : sreadSelOk sel = true)
    (hp : handlerSel sel.toNat = true → ∀ l ∈ s.guarded g, (s.lane l).inHandler = true) :
    WritesLanes s (.sread g d sel) g d (fun l x => x.ownReg l sel.toNat) := by
  have h := sread_completes hb hsel hp
  simp only [sreadThread_own s _ _ hs] at h
  exact h

/-- SSR of a selector that it accepts. -/
theorem ssr_completes {s : State} {g : BitVec 3} {d sel : BitVec 7} {M : Team → Team} (hg : s.guardU g = true) (hd : sOk d = true)
    (hsel : ssrSelOk sel = true) (hl : ∀ m, (M m).lanes = m.lanes)
    (hS : ∀ x y, teamShared x = teamShared y → teamShared (M x) = teamShared (M y))
    (hM : ∀ m, M m = if sel = 0x0B then { m.setSr d.toNat (loWord (s.clock s.cur.core)) with clockHi := some (hiWord (s.clock s.cur.core)) }
      else if sel = 0x0C then { m.setSr d.toNat (m.clockHi.getD (hiWord (s.clock s.cur.core))) with clockHi := none }
      else m.setSr d.toNat (s.sharedReg sel.toNat)) : WritesTeam s (.ssr g d sel) M := by
  have hb : badS1 d = none := by rw [badS1, hd]; rfl
  have h := Effect.teamWith (Effect.advance s) rfl M hl hS
  simp only [funext hM] at h ⊢
  refine unifUnit_completes s s _ (fun t => let r := t.sharedReg sel.toNat; t.onTeam (fun m =>
      if sel = 0x0B then { m.setSr d.toNat (loWord (s.clock s.cur.core)) with clockHi := some (hiWord (s.clock s.cur.core)) }
      else if sel = 0x0C then { m.setSr d.toNat (m.clockHi.getD (hiWord (s.clock s.cur.core))) with clockHi := none }
      else m.setSr d.toNat r)) _ _ ?_ hsel ?_
  · show Host.Outcome.next (s.unifUnit _ (s.guardU g) (badS1 d) _ _) = _
    rw [hg, hb]
  · simp only [sharedReg_advance]
    exact h

theorem ssr_shared {s : State} {g : BitVec 3} {d : BitVec 7} (hg : s.guardU g = true) (hd : sOk d = true) (sel : BitVec 7)
    (hsel : ssrSelOk sel = true) (hlo : sel ≠ 0x0B) (hhi : sel ≠ 0x0C) :
    WritesTeam s (.ssr g d sel) (fun m => m.setSr d.toNat (s.sharedReg sel.toNat)) :=
  ssr_completes hg hd hsel (fun _ => rfl) (setSr_shared _ _) (fun m => by rw [if_neg hlo, if_neg hhi])

theorem clockHi_of_shared {x y : Team} (h : teamShared x = teamShared y) : x.clockHi = y.clockHi :=
  show (teamShared x).clockHi = (teamShared y).clockHi by rw [h]

theorem setClockHi_shared (f : Team → Team) (v : Option Word)
    (hf : ∀ x y, teamShared x = teamShared y → teamShared (f x) = teamShared (f y)) :
    ∀ x y, teamShared x = teamShared y → teamShared { f x with clockHi := v } = teamShared { f y with clockHi := v } :=
  fun x y h => congrArg (fun m : Team => { m with clockHi := v }) (hf x y h)

/-! ### O8 -/

/-- Settles O8: SREAD by the selectors that are shared, those of the thread and those of the clock, SSR the same. -/
theorem specialRegisterReads : Obligations.SpecialRegisterReads := by
  unfold Obligations.SpecialRegisterReads
  refine ⟨fun s g d hb => ?_, fun s g d hg hd => ?_⟩
  · intro gl c tile W
    have shared := sread_shared (g := g) hb
    have own : ∀ sel : BitVec 7, isOwnSel sel.toNat = true → sreadSelOk sel = true → handlerSel sel.toNat = false →
        WritesLanes s (.sread g d sel) g d (fun l x => x.ownReg l sel.toNat) :=
      fun sel hs hsel hp => sread_own hb sel hs hsel (fun hh => absurd hh (by rw [hp]; exact Bool.false_ne_true))
    refine ⟨shared 0x00 rfl rfl rfl, own 0x01 rfl rfl rfl, shared 0x02 rfl rfl rfl, shared 0x03 rfl rfl rfl, own 0x04 rfl rfl rfl,
      own 0x05 rfl rfl rfl, shared 0x06 rfl rfl rfl, shared 0x07 rfl rfl rfl, shared 0x08 rfl rfl rfl, shared 0x09 rfl rfl rfl,
      shared 0x0A rfl rfl rfl, shared 0x0D rfl rfl rfl, shared 0x0E rfl rfl rfl, own 0x0F rfl rfl rfl, shared 0x10 rfl rfl rfl,
      shared 0x15 rfl rfl rfl, shared 0x16 rfl rfl rfl, own 0x17 rfl rfl rfl, own 0x18 rfl rfl rfl, fun hh => ?_, ?_, ?_⟩
    · exact ⟨sread_own hb 0x11 rfl rfl (fun _ => hh), sread_own hb 0x12 rfl rfl (fun _ => hh),
        sread_own hb 0x13 rfl rfl (fun _ => hh), sread_own hb 0x14 rfl rfl (fun _ => hh)⟩
    · exact sread_completes hb rfl (fun hh => nomatch hh)
    · exact sread_completes hb rfl (fun hh => nomatch hh)
  · intro c tile W
    have shared := ssr_shared hg hd
    refine ⟨shared 0x00 rfl (by decide) (by decide), shared 0x02 rfl (by decide) (by decide), shared 0x03 rfl (by decide) (by decide),
      shared 0x06 rfl (by decide) (by decide), shared 0x07 rfl (by decide) (by decide), shared 0x08 rfl (by decide) (by decide),
      shared 0x09 rfl (by decide) (by decide), shared 0x0A rfl (by decide) (by decide), shared 0x0D rfl (by decide) (by decide),
      shared 0x0E rfl (by decide) (by decide), shared 0x10 rfl (by decide) (by decide), shared 0x15 rfl (by decide) (by decide),
      shared 0x16 rfl (by decide) (by decide), ?_, ?_⟩
    · exact ssr_completes hg hd rfl (fun _ => rfl) (setClockHi_shared _ _ (setSr_shared _ _)) (fun _ => rfl)
    · exact ssr_completes hg hd rfl (fun _ => rfl)
        (setClockHi_shared _ _ (setSr_of_shared _ _ fun _ _ e => by rw [clockHi_of_shared e])) (fun _ => rfl)

end Sys2Proof.Machine

/-! ### SUPPORT: transfers, lane by lane (R268, R327 to R329, R379) -/

namespace Sys2Proof.Machine

/-- What an effect says of the threads is about those that stand in their lanes. -/
theorem Effect.threadsEq {s b r : State} {F G : Nat → Thread → Thread} {M : Team → Team} (h : UnitEffect s b r F M)
    (hF : ∀ l ∈ s.subset, ∀ x, s.thread? s.cur.core s.cur.team l = some x → F l (movedOn s x) = G l (movedOn s x)) :
    UnitEffect s b r G M := by
  refine ⟨fun l hl => ?_, h.others, h.team, h.teams, h.groups, h.rest⟩
  rw [h.threads l hl]
  cases hx : s.thread? s.cur.core s.cur.team l with
  | none => rfl
  | some x => exact congrArg some (hF l hl x hx)

/-- One lane of a fold changes by what the function makes of its own thread. -/
theorem one_lanes_at {s b r : State} {M : Team → Team} {f : Nat → Thread → Thread} {D : List Nat} (l : Nat) (hl : l ∉ D)
    (hs : l ∈ s.subset) (hc : r.cur = s.cur) (h : UnitEffect s b r (lanesWith D f) M) (g : Nat → Thread → Thread)
    (hg : ∀ x, s.thread? s.cur.core s.cur.team l = some x → g l (movedOn s x) = f l (movedOn s x)) :
    UnitEffect s (b.onLanes [l] g) r (lanesWith (D ++ [l]) f) M := by
  have e := Effect.lanes h hc [l] (by simpa using hs) g
  refine Effect.threadsEq e fun i _ x hx => ?_
  by_cases hi : i = l
  · subst hi
    simp only [lanesWith, List.mem_append, List.mem_singleton, hl, if_false, or_true, if_true]
    exact hg x hx
  · simp only [lanesWith, List.mem_append, List.mem_singleton, hi, or_false, if_false]

/-- One lane traps alone. -/
theorem trapLanes_one (b : State) (l code : Nat) (v : Word) :
    b.trapLanes [l] code v false false false = b.trapEach [(l, v)] code false false := rfl

/-- The threads of a list that stand in their lanes outside the handler trap one after the other. -/
theorem traps_each_fold {s : State} (step : State → Nat → State) (r : State) (hk : SameMap s r) {gl : List Nat} (hn : gl.Nodup)
    (hgl : ∀ l ∈ gl, l ∈ s.subset) (ho : outsideHandler s gl) (code : Nat → Nat) (tval : Nat → Word)
    (hstep : ∀ b l x, l ∈ gl → b.thread? b.cur.core b.cur.team l = some (movedOn s x) → s.lane l = x → b.hdr = s.hdr → b.cur = s.cur →
      step b l = b.trapEach [(l, tval l)] (code l) false false)
    (b : State) (h : UnitEffect s b r (fun _ x => x) id) :
    UnitEffect s (gl.foldl step b) r
      (lanesWith gl (fun l => entered s (tval l) (tcause (code l) s.cur.pfx.isPrefix false false false) s.cur.pc)) id := by
  refine fold_vary step (fun _ => r) _ gl hn (fun b l D R e hl h => ?_) b (by rw [lanesWith_nil]; exact h)
  have hg : l ∈ gl := by rw [e]; simp
  obtain ⟨x, hx, hi⟩ := ho.2 l hg
  rw [hstep b l x hg (thread_of_effect h hk.cur l (hgl l hg) hl x hx) (lane_of_thread s l x hx)
    (funext (hdr_effect h hk.launches)) (Effect.cur_eq h hk.cur)]
  exact one_trap l tval code false hl (hgl l hg) hk.cur hk.launches ho.1 ⟨x, hx, hi⟩ h

theorem transfer_trap {s : State} {ls : List Nat} {x : DWord} {u : Bool} {c : Nat} (h : targetTrap x = some c) :
    s.transfer ls x u = s.trapLanes ls c (loWord x) u false false := by
  unfold State.transfer; rw [h]

/-- R268: the two checks of a target. -/
theorem targetTrap_eq (y : DWord) : targetTrap y = if y.toNat % 4 ≠ 0 then some 0x03
    else if 2 ^ 57 ≤ y.toNat ∨ y.toNat / 2 ^ 48 = 0x1FF then some 0x04 else none := by
  have hy := y.isLt
  have hcond : (nbits y.toNat 63 57 ≠ 0 || nbits y.toNat 56 48 = 0x1FF) = decide (2 ^ 57 ≤ y.toNat ∨ y.toNat / 2 ^ 48 = 0x1FF) := by
    rw [← Bool.decide_or]
    refine decide_eq_decide.2 ?_
    simp only [nbits]
    omega
  unfold targetTrap
  rw [hcond]
  simp only [decide_eq_true_eq]

/-! ### O15 -/

/-- Settles O15: a transfer to a code address changes the PCs of its threads, JMPR's lane by lane. -/
theorem branches : Obligations.Branches := by
  unfold Obligations.Branches
  intro s g off a goto x
  refine ⟨fun hx => ⟨?_, fun hg => ?_⟩, fun ha ht => ?_, ?_⟩
  · refine laneUnit_completes s s _ (s.guarded g) (fun t => t.transfer (s.guarded g) x false) _ _ rfl rfl ?_
    rw [transfer_ok _ _ _ _ hx]
    exact Effect.lanes (Effect.advance s) rfl _ (mem_guarded s g) _
  · refine unifUnit_completes s s _ (fun t => t.transfer s.subset x true) _ _ ?_ rfl ?_
    · show Host.Outcome.next (s.unifUnit _ (s.guardU g) none false _) = _
      rw [hg]
      rfl
    · rw [transfer_ok _ _ _ _ hx]
      exact Effect.lanes (Effect.advance s) rfl _ (fun _ h => h) _
  · refine laneUnit_completes s s _ (s.guarded g)
      (fun t => (s.guarded g).foldl (fun s l => s.transfer [l] ((s.lane l).v2 a.toNat) false) t) _ _ ?_ rfl ?_
    · show Host.Outcome.next (s.laneUnit _ _ _ (firstBad [(v2Ok s.curAlloc a, 1, a.toNat)]) _ _) = _
      rw [ha]
      rfl
    · refine fold_vary _ (fun _ => s) _ _ (guarded_nodup s g) (fun b l D R e hl h => ?_) _ (by rw [lanesWith_nil]; exact Effect.advance s)
      have hg : l ∈ s.guarded g := by rw [e]; simp
      have hv : (b.lane l).v2 a.toNat = (s.lane l).v2 a.toNat := by
        simp only [Thread.v2, lane_of_effect h rfl l (mem_guarded s g l hg) hl]
      rw [hv, transfer_ok _ _ _ _ (ht l hg)]
      exact one_lanes l hl (mem_guarded s g l hg) rfl h _ (fun _ => rfl)
  · exact laneUnit_completes s s _ (s.guarded g) _ _ _ rfl rfl (Effect.advance s)

/-! ### O17 -/

/-- A lane unit each of whose threads traps by itself. -/
theorem laneUnit_trapsEach {s : State} {i : Instr} {n : Nat} {gl : List Nat} {code : Nat → Nat} {tval : Nat → Word}
    {body : State → State} (e : exec i s = .next (s.laneUnit i gl false none false body)) (hw : i.wf = true)
    (h : outsideHandler s gl → UnitEffect s (body s.advance) { s with nextSeq := s.nextSeq + n }
      (lanesWith gl (fun l => entered s (tval l) (tcause (code l) s.cur.pfx.isPrefix false false false) s.cur.pc)) id) :
    TrapsEach s i n gl code tval false :=
  fun ho => laneUnit_completes s _ i gl body _ _ e hw (h ho)

/-- The state but for the names given out reads its places as before. -/
theorem sameMap_nextSeq (s : State) (n : Nat) : SameMap s { s with nextSeq := s.nextSeq + n } := ⟨rfl, rfl, rfl, rfl, rfl, rfl, rfl, rfl⟩

theorem Effect.loads_eq {s b r : State} {F : Nat → Thread → Thread} {M : Team → Team} (h : UnitEffect s b r F M) : b.loads = r.loads := by
  rw [← h.rest]

theorem Effect.writes_eq {s b r : State} {F : Nat → Thread → Thread} {M : Team → Team} (h : UnitEffect s b r F M) : b.writes = r.writes := by
  rw [← h.rest]

/-- No load was made: nothing counts in LD. -/
theorem ldIssued_none {s : State} {n tok : Nat} (h : s.loads.length = n) : s.ldIssued n tok = s := by
  rw [State.ldIssued, if_neg (by omega)]

/-- No store was made: nothing counts in ST. -/
theorem stIssued_none {s : State} {n tok : Nat} (h : s.writes.length = n) : s.stIssued n tok = s := by
  rw [State.stIssued, if_neg (by omega)]

/-- RET in a lane that traps: an empty stack, or a top that is no code address. -/
theorem retLane_traps {b : State} {l tok code : Nat} {tval : Word} {t : Thread}
    (ht : b.thread? b.cur.core b.cur.team l = some t)
    (h : (t.depth = 0 ∧ code = 0x09 ∧ tval = 0xFFFFFFF8)
      ∨ (0 < t.depth ∧ targetTrap (t.rstack.headD 0) = some code ∧ tval = loWord (t.rstack.headD 0))) :
    b.retLane l tok = b.trapEach [(l, tval)] code false false := by
  unfold State.retLane
  simp only [ht]
  obtain ⟨hd, rfl, rfl⟩ | ⟨hd, hc, rfl⟩ := h
  · rw [if_pos hd]
    rfl
  · rw [if_neg (by omega), hc]
    rfl

/-- CALL in a lane whose spill passes STKSIZE. -/
theorem callLane_limit {b : State} {l tok : Nat} {x : DWord} {t : Thread} (ht : b.thread? b.cur.core b.cur.team l = some t)
    (hd : 8 ≤ t.depth) (hs : (b.hdr b.cur.core).stkSize < 8 * (t.depth - 8) + 8) :
    b.callLane l x tok = b.trapEach [(l, BitVec.ofNat 32 (8 * (t.depth - 8)))] 0x09 false false := by
  unfold State.callLane
  simp only [ht]
  rw [if_neg (by omega), if_pos hs]
  rfl

theorem guarded_any_outside {s : State} {ls : List Nat} (ho : outsideHandler s ls) (hne : ls ≠ []) :
    ls.any (fun l => !(s.lane l).inHandler) = true := by
  obtain ⟨l, hl⟩ := List.exists_mem_of_ne_nil ls hne
  obtain ⟨x, hx, hi⟩ := ho.2 l hl
  exact List.any_eq_true.2 ⟨l, hl, by rw [lane_of_thread s l x hx, hi]; rfl⟩

/-- Settles O17: traps of the whole subset at once, and lane by lane those of a thread's own target or stack. -/
theorem transferTraps : Obligations.TransferTraps := by
  unfold Obligations.TransferTraps
  intro s g off a gl x top
  have hn := guarded_nodup s g
  have hgl := mem_guarded s g
  refine ⟨targetTrap_eq, fun c hc => ⟨?_, ?_, fun hg => ?_⟩, fun ha code hcode => ?_, fun code tval hret => ?_,
    fun hx hdeep => ?_, fun hg ha hne => ?_⟩
  · refine laneUnit_traps s _ gl hn hgl c _ false ?_
    refine congrArg Host.Outcome.next ((laneUnit_ok s _ gl _ rfl).trans ?_)
    exact congrArg State.endIssue (transfer_trap hc)
  · refine laneUnit_traps s _ gl hn hgl c _ false ?_
    refine congrArg Host.Outcome.next ((laneUnit_ok s _ gl _ rfl).trans (congrArg State.endIssue ?_))
    have hc' : targetTrap (branchTarget s.advance.cur.pc off) = some c := hc
    simp only [hc']
    rfl
  · refine unif_trapsLanes ?_
    show Host.Outcome.next (s.unifUnit _ (s.guardU g) none false _) = _
    rw [hg, unifUnit_ok _ _ _ rfl]
    exact congrArg (fun t => Host.Outcome.next (State.endIssue t)) (transfer_trap hc)
  · refine laneUnit_trapsEach (n := 0) (body := fun t => gl.foldl (fun s l => s.transfer [l] ((s.lane l).v2 a.toNat) false) t)
      ?_ rfl fun ho => ?_
    · show Host.Outcome.next (s.laneUnit _ _ _ (firstBad [(v2Ok s.curAlloc a, 1, a.toNat)]) _ _) = _
      rw [ha]
      rfl
    · refine traps_each_fold _ s (sameMap_nextSeq s 0) hn hgl ho code _ (fun b l x hl ht hx _ _ => ?_) _ (Effect.advance s)
      have hv : (b.lane l).v2 a.toNat = (s.lane l).v2 a.toNat := by
        rw [lane_of_thread b l _ ht, hx]
        rfl
      rw [hv, transfer_trap (hcode l hl)]
      rfl
  · refine laneUnit_trapsEach (n := 1) rfl rfl fun ho => ?_
    have h := traps_each_fold (fun b l => b.retLane l s.advance.nextSeq) _ (sameMap_nextSeq s 1) hn hgl ho code tval
      (fun b l x hl ht hx _ _ => retLane_traps ht (by have := hret l hl; simp only [top, hx] at this; exact this))
      s.advance.bump (Effect.outside (Effect.advance s) _ rfl)
    exact (ldIssued_none (congrArg List.length (Effect.loads_eq h))).symm ▸ h
  · refine laneUnit_trapsEach (n := 1)
      (body := fun t => (gl.foldl (fun b l => b.callLane l x t.nextSeq) t.bump).stIssued t.writes.length t.nextSeq) ?_ rfl fun ho => ?_
    · refine congrArg Host.Outcome.next ((laneUnit_ok s _ gl _ rfl).trans ((congrArg State.endIssue ?_).trans (laneUnit_ok s _ gl _ rfl).symm))
      have hx' : targetTrap (branchTarget s.advance.cur.pc off) = none := hx
      simp only [hx']
      rfl
    · have h := traps_each_fold (fun b l => b.callLane l x s.advance.nextSeq) _ (sameMap_nextSeq s 1) hn hgl ho (fun _ => 0x09)
        (fun l => BitVec.ofNat 32 (8 * ((s.lane l).depth - 8)))
        (fun b l t hl ht hx hh hc => by
          obtain ⟨hd, hs⟩ := hdeep l hl
          rw [hx] at hd hs ⊢
          exact callLane_limit (t := movedOn s t) ht hd (by rw [hh, hc]; exact hs))
        s.advance.bump (Effect.outside (Effect.advance s) _ rfl)
      exact (stIssued_none (congrArg List.length (Effect.writes_eq h))).symm ▸ h
  · intro ho
    refine unif_trapsLanes ?_ ho
    show Host.Outcome.next (s.unifUnit _ (s.guardU g) (firstBad [(sOk a, 1, a.toNat)]) _ _) = _
    rw [hg, ha, guarded_any_outside ho hne]
    rfl

end Sys2Proof.Machine

/-! ### SUPPORT: the accesses of a return stack (R113, R327 to R329, R379) -/

namespace Sys2Proof.Machine

/-- A store put into a thread's buffer, in a state that a unit's effect has left. -/
theorem addStore_effect {s b r : State} {F : Nat → Thread → Thread} (h : UnitEffect s b r F id) (k : SameMap s r)
    (agent key : Nat) (data : List Byte) (red : Option (Nat × Nat)) (tok : Nat) (va : DWord) :
    let w : WEntry := ⟨r.nextSeq, s.cur.core, agent, .team (((s.wg? s.cur.core).map (·.launch)).getD 0) s.team.uid tok (s.team.stCount + 1),
      key, data, red, some (s.ctxOf s.cur.core), va, false⟩
    UnitEffect s (b.addStore agent key data red tok va)
      { r with stbuf := r.stbuf ++ [w], writes := r.writes ++ [tracked w], nextSeq := r.nextSeq + 1 } F id := by
  intro w
  have hw : w = ⟨b.nextSeq, b.cur.core, agent, .team (((b.wg? b.cur.core).map (·.launch)).getD 0) b.team.uid tok (b.team.stCount + 1),
      key, data, red, some (b.ctxOf b.cur.core), va, false⟩ := by
    rw [Effect.cur_eq h k.cur, launch_of_effect h, ctxOf_effect h k, team_of_effect h k.cur (fun m => m.uid) (fun _ => rfl),
      team_of_effect h k.cur (fun m => m.stCount) (fun _ => rfl), show b.nextSeq = r.nextSeq by rw [← h.rest]]
  have e : b.addStore agent key data red tok va
      = { b with stbuf := b.stbuf ++ [w], writes := b.writes ++ [tracked w], nextSeq := b.nextSeq + 1 } := by
    rw [hw]
    rfl
  rw [e]
  exact Effect.map h (fun x => { x with stbuf := x.stbuf ++ [w], writes := x.writes ++ [tracked w], nextSeq := x.nextSeq + 1 })
    (fun _ => rfl) (fun _ _ => rfl)

/-- The same of a load put in flight. -/
theorem addLoad_effect {s b r : State} {F : Nat → Thread → Thread} (h : UnitEffect s b r F id) (k : SameMap s r)
    (agent key n scope tok : Nat) (dst : LoadDst) (va : DWord) :
    UnitEffect s (b.addLoad agent key n scope tok dst va)
      { r with loads := r.loads ++ [⟨r.nextSeq, s.cur.core, s.cur.team, s.team.uid, agent, key, n, scope, dst, tok, va⟩]
               nextSeq := r.nextSeq + 1 } F id := by
  have e : b.addLoad agent key n scope tok dst va
      = { b with loads := b.loads ++ [⟨r.nextSeq, s.cur.core, s.cur.team, s.team.uid, agent, key, n, scope, dst, tok, va⟩]
                 nextSeq := b.nextSeq + 1 } := by
    rw [← Effect.cur_eq h k.cur, ← team_of_effect h k.cur (fun m => m.uid) (fun _ => rfl), show r.nextSeq = b.nextSeq by rw [← h.rest]]
    rfl
  rw [e]
  exact Effect.map h (fun x => { x with
    loads := x.loads ++ [⟨r.nextSeq, s.cur.core, s.cur.team, s.team.uid, agent, key, n, scope, dst, tok, va⟩], nextSeq := x.nextSeq + 1 })
    (fun _ => rfl) (fun _ _ => rfl)

/-- Stores that were made count once in ST. -/
theorem stIssued_effect {s b r : State} {F : Nat → Thread → Thread} (h : UnitEffect s b r F id) (hc : r.cur = s.cur) (ls : List Nat)
    (hl : r.writes.length = s.writes.length + ls.length) (tok : Nat) : UnitEffect s (b.stIssued s.writes.length tok) r F
      (fun m => if ls = [] then m else { m with st := m.st ++ [⟨tok, false⟩], stCount := m.stCount + 1 }) := by
  rw [State.stIssued, Effect.writes_eq h, hl]
  cases ls with
  | nil =>
    rw [if_neg (by simp)]
    exact Effect.teamEq h (fun m => (if_pos rfl).symm)
  | cons l ls =>
    rw [if_pos (by simp)]
    exact Effect.teamWith h hc (fun m => { m with st := m.st ++ [⟨tok, false⟩], stCount := m.stCount + 1 }) (fun _ => rfl)
      (fun x y e => by simp only [teamShared, Team.mk.injEq] at e ⊢; simp_all)

/-- Loads that were made count once in LD. -/
theorem ldIssued_effect {s b r : State} {F : Nat → Thread → Thread} (h : UnitEffect s b r F id) (hc : r.cur = s.cur) (ls : List Nat)
    (hl : r.loads.length = s.loads.length + ls.length) (tok : Nat) : UnitEffect s (b.ldIssued s.loads.length tok) r F
      (fun m => if ls = [] then m else { m with ld := m.ld ++ [⟨tok, false⟩] }) := by
  rw [State.ldIssued, Effect.loads_eq h, hl]
  cases ls with
  | nil =>
    rw [if_neg (by simp)]
    exact Effect.teamEq h (fun m => (if_pos rfl).symm)
  | cons l ls =>
    rw [if_pos (by simp)]
    exact Effect.teamWith h hc (fun m => { m with ld := m.ld ++ [⟨tok, false⟩] }) (fun _ => rfl)
      (fun x y e => by simp only [teamShared, Team.mk.injEq] at e ⊢; simp_all)

/-! #### CALL -/

/-- The address of the stack slot that a thread's oldest entry spills to (`k` = 8), or that its next refill comes from (`k` = 9). -/
def stackSlot (s : State) (k l : Nat) : DWord := (s.lane l).stackBase + BitVec.ofNat 64 (8 * ((s.lane l).depth - k))

/-- The lanes of a list whose threads spill, or refill. -/
def deepLanes (s : State) (k : Nat) (ls : List Nat) : List Nat := ls.filter (fun l => decide (k ≤ (s.lane l).depth))

/-- The entries that the spills of a list of lanes make. -/
def spills (s : State) (ls : List Nat) : List WEntry :=
  storeEntries s (deepLanes s 8 ls) (stackSlot s 8) 8 (fun l => toBytes 8 ((s.lane l).rstack.getLastD 0).toNat) none

/-- What CALL has left beside the workgroups once the lanes `ls` are done. -/
def afterSpills (s : State) (ls : List Nat) : State :=
  { s with stbuf := s.stbuf ++ spills s ls, writes := s.writes ++ (spills s ls).map tracked
           nextSeq := s.nextSeq + 1 + (deepLanes s 8 ls).length }

theorem sameMap_afterSpills (s : State) (ls : List Nat) : SameMap s (afterSpills s ls) := ⟨rfl, rfl, rfl, rfl, rfl, rfl, rfl, rfl⟩

theorem afterSpills_nil (s : State) : afterSpills s [] = { s with nextSeq := s.nextSeq + 1 } := by
  simp [afterSpills, spills, deepLanes, storeEntries]

theorem deepLanes_snoc (s : State) (k : Nat) (D : List Nat) (l : Nat) :
    deepLanes s k (D ++ [l]) = if k ≤ (s.lane l).depth then deepLanes s k D ++ [l] else deepLanes s k D := by
  unfold deepLanes
  rw [List.filter_append]
  by_cases h : k ≤ (s.lane l).depth
  · rw [if_pos h, List.filter_cons_of_pos (by simpa using h), List.filter_nil]
  · rw [if_neg h, List.filter_cons_of_neg (by simpa using h), List.filter_nil, List.append_nil]

/-- The entry that the spill of one lane makes, with its name. -/
def spillEntry (s : State) (name l : Nat) : WEntry :=
  ⟨name, s.cur.core, (s.lane l).tid, .team (((s.wg? s.cur.core).map (·.launch)).getD 0) s.team.uid s.nextSeq (s.team.stCount + 1),
    (reaches s (stackSlot s 8 l) 8 true).getD 0, toBytes 8 ((s.lane l).rstack.getLastD 0).toNat, none, some (s.ctxOf s.cur.core),
    stackSlot s 8 l, false⟩

theorem afterSpills_shallow {s : State} {D : List Nat} {l : Nat} (hd : ¬ 8 ≤ (s.lane l).depth) :
    afterSpills s (D ++ [l]) = afterSpills s D := by
  unfold afterSpills spills
  rw [deepLanes_snoc, if_neg hd]

theorem afterSpills_deep {s : State} {D : List Nat} {l : Nat} (hd : 8 ≤ (s.lane l).depth) :
    let w := spillEntry s (afterSpills s D).nextSeq l
    afterSpills s (D ++ [l]) = { afterSpills s D with
      stbuf := (afterSpills s D).stbuf ++ [w], writes := (afterSpills s D).writes ++ [tracked w]
      nextSeq := (afterSpills s D).nextSeq + 1 } := by
  intro w
  have hes : spills s (D ++ [l]) = spills s D ++ [w] := by
    rw [spills, deepLanes_snoc, if_pos hd, entries_snoc]
    rfl
  unfold afterSpills
  rw [hes, deepLanes_snoc, if_pos hd, List.map_append, List.length_append, ← List.append_assoc, ← List.append_assoc]
  rfl

/-- The push that CALL makes in a lane. -/
def pushed (s : State) (x : DWord) (t : Thread) : Thread := t.push (s.cur.next.zeroExtend 64) (BitVec.ofNat 57 x.toNat)

theorem callLane_shallow {b : State} {l tok : Nat} {x : DWord} {t : Thread} (ht : b.thread? b.cur.core b.cur.team l = some t)
    (hd : t.depth < 8) : b.callLane l x tok = b.onLanes [l] (fun _ => pushed b x) := by
  unfold State.callLane
  simp only [ht]
  rw [if_pos hd]
  rfl

theorem callLane_spill {b : State} {l tok key : Nat} {x : DWord} {t : Thread} (ht : b.thread? b.cur.core b.cur.team l = some t)
    (hd : 8 ≤ t.depth) (hs : 8 * (t.depth - 8) + 8 ≤ (b.hdr b.cur.core).stkSize)
    (hk : reaches b (t.stackBase + BitVec.ofNat 64 (8 * (t.depth - 8))) 8 true = some key) :
    b.callLane l x tok = (b.addStore t.tid key (toBytes 8 (t.rstack.getLastD 0).toNat) none tok
      (t.stackBase + BitVec.ofNat 64 (8 * (t.depth - 8)))).onLanes [l] (fun _ => pushed b x) := by
  unfold State.callLane
  simp only [ht]
  rw [if_neg (by omega), if_neg (by omega)]
  exact laneAccess_ok b l _ 8 true false _ t key (fun _ => rfl) ht hk

/-- One lane of a CALL, where its spill, if it makes one, reaches a place. -/
theorem callLane_effect {s b : State} {D : List Nat} {l : Nat} {x : DWord} (hl : l ∉ D) (hs : l ∈ s.subset)
    (ht : (s.thread? s.cur.core s.cur.team l).isSome = true)
    (hk : 8 ≤ (s.lane l).depth → 8 * ((s.lane l).depth - 8) + 8 ≤ (s.hdr s.cur.core).stkSize ∧ (reaches s (stackSlot s 8 l) 8 true).isSome = true)
    (h : UnitEffect s b (afterSpills s D) (lanesWith D (fun _ => pushed s x)) id) :
    UnitEffect s (b.callLane l x s.nextSeq) (afterSpills s (D ++ [l])) (lanesWith (D ++ [l]) (fun _ => pushed s x)) id := by
  have k := sameMap_afterSpills s D
  have hcur := Effect.cur_eq h k.cur
  have hpush : pushed b x = pushed s x := by unfold pushed; rw [hcur]
  obtain ⟨t, ht⟩ := Option.isSome_iff_exists.1 ht
  have hlane := lane_of_thread s l t ht
  have hb := thread_of_effect h k.cur l hs hl t ht
  by_cases hd : 8 ≤ t.depth
  · obtain ⟨hlim, hreach⟩ := hk (by rw [hlane]; exact hd)
    obtain ⟨key, hkey⟩ := Option.isSome_iff_exists.1 hreach
    have hslot : stackSlot s 8 l = t.stackBase + BitVec.ofNat 64 (8 * (t.depth - 8)) := by rw [stackSlot, hlane]
    rw [callLane_spill (t := movedOn s t) (key := key) hb hd
      (by rw [hcur, hdr_effect h k.launches, ← hlane]; exact hlim) (by rw [reaches_effect h k]; exact hslot ▸ hkey), hpush]
    have hstore := addStore_effect h k t.tid key (toBytes 8 (t.rstack.getLastD 0).toNat) none s.nextSeq (stackSlot s 8 l)
    rw [afterSpills_deep (by rw [hlane]; exact hd), spillEntry, hkey, hlane]
    rw [hslot] at hstore ⊢
    exact one_lanes (hc := by exact rfl) l hl hs hstore _ (fun _ => rfl)
  · rw [callLane_shallow (t := movedOn s t) hb (by show t.depth < 8; omega), hpush]
    rw [afterSpills_shallow (by rw [hlane]; exact hd)]
    exact one_lanes l hl hs k.cur h _ (fun _ => rfl)

/-! #### RET -/

/-- The loads that the refills of a list of lanes make. -/
def refills (s : State) (ls : List Nat) : List LoadReq := loadReqs s (deepLanes s 9 ls) (stackSlot s 9) 8 0 false (fun _ => .refill)

/-- What RET has left beside the workgroups once the lanes `ls` are done. -/
def afterRefills (s : State) (ls : List Nat) : State :=
  { s with loads := s.loads ++ refills s ls, nextSeq := s.nextSeq + 1 + (deepLanes s 9 ls).length }

theorem sameMap_afterRefills (s : State) (ls : List Nat) : SameMap s (afterRefills s ls) := ⟨rfl, rfl, rfl, rfl, rfl, rfl, rfl, rfl⟩

theorem afterRefills_nil (s : State) : afterRefills s [] = { s with nextSeq := s.nextSeq + 1 } := by
  simp [afterRefills, refills, deepLanes, loadReqs]

/-- What RET makes of a thread, the refills named in the order of the lanes `ls`. -/
def returned (s : State) (ls : List Nat) (l : Nat) (t : Thread) : Thread :=
  if 9 ≤ t.depth then heldAt s (.refill (s.nextSeq + 1 + (deepLanes s 9 ls).idxOf l)) t
  else { t with rstack := t.rstack.tail, depth := t.depth - 1, pc := BitVec.ofNat 57 (t.rstack.headD 0).toNat, wait := .ready }

theorem returned_deep {s : State} {ls : List Nat} {l : Nat} {t : Thread} (h : 9 ≤ t.depth) :
    returned s ls l t = heldAt s (.refill (s.nextSeq + 1 + (deepLanes s 9 ls).idxOf l)) t := if_pos h

theorem returned_shallow {s : State} {ls : List Nat} {l : Nat} {t : Thread} (h : ¬ 9 ≤ t.depth) : returned s ls l t
    = { t with rstack := t.rstack.tail, depth := t.depth - 1, pc := BitVec.ofNat 57 (t.rstack.headD 0).toNat, wait := .ready } := if_neg h

theorem afterRefills_shallow {s : State} {D : List Nat} {l : Nat} (hd : ¬ 9 ≤ (s.lane l).depth) :
    afterRefills s (D ++ [l]) = afterRefills s D := by
  unfold afterRefills refills
  rw [deepLanes_snoc, if_neg hd]

theorem afterRefills_deep {s : State} {D : List Nat} {l : Nat} (hd : 9 ≤ (s.lane l).depth) :
    afterRefills s (D ++ [l]) = { afterRefills s D with
      loads := (afterRefills s D).loads ++ [⟨(afterRefills s D).nextSeq, s.cur.core, s.cur.team, s.team.uid, (s.lane l).tid,
        (reaches s (stackSlot s 9 l) 8 false).getD 0, 8, 0, .refill, s.nextSeq, stackSlot s 9 l⟩]
      nextSeq := (afterRefills s D).nextSeq + 1 } := by
  unfold afterRefills refills
  rw [deepLanes_snoc, if_pos hd, loads_snoc, List.length_append, ← List.append_assoc]
  rfl

/-- The refill of a lane bears the name that comes next. -/
theorem idxOf_deepLanes {s : State} {D R : List Nat} {l : Nat} (hl : l ∉ D) (hd : 9 ≤ (s.lane l).depth) :
    (deepLanes s 9 (D ++ l :: R)).idxOf l = (deepLanes s 9 D).length := by
  unfold deepLanes
  rw [List.filter_append, List.filter_cons_of_pos (by simpa using hd), List.idxOf_append_of_notMem (fun h => hl (List.mem_filter.1 h).1),
    List.idxOf_cons_self, Nat.add_zero]

theorem retLane_shallow {b : State} {l tok : Nat} {t : Thread} (ht : b.thread? b.cur.core b.cur.team l = some t) (h0 : 0 < t.depth)
    (hd : t.depth < 9) (hx : targetTrap (t.rstack.headD 0) = none) : b.retLane l tok = b.onLanes [l] (fun _ t => t.pop []) := by
  unfold State.retLane
  simp only [ht]
  rw [if_neg (by omega), hx]
  exact if_pos hd

theorem retLane_refill {b : State} {l tok key : Nat} {t : Thread} (ht : b.thread? b.cur.core b.cur.team l = some t)
    (hd : 9 ≤ t.depth) (hx : targetTrap (t.rstack.headD 0) = none)
    (hk : reaches b (t.stackBase + BitVec.ofNat 64 (8 * (t.depth - 9))) 8 false = some key) :
    b.retLane l tok = (b.addLoad t.tid key 8 0 tok .refill (t.stackBase + BitVec.ofNat 64 (8 * (t.depth - 9)))).hold [l] (.refill b.nextSeq) := by
  unfold State.retLane
  simp only [ht]
  rw [if_neg (by omega), hx]
  simp only
  rw [if_neg (by omega)]
  exact laneAccess_ok b l _ 8 false false _ t key (fun h => nomatch h) ht hk

/-- One lane of a RET that does not trap, where its refill, if it makes one, reaches a place. -/
theorem retLane_effect {s b : State} {D R : List Nat} {l : Nat} (hl : l ∉ D) (hs : l ∈ s.subset)
    (ht : (s.thread? s.cur.core s.cur.team l).isSome = true) (h0 : 0 < (s.lane l).depth)
    (hx : targetTrap ((s.lane l).rstack.headD 0) = none)
    (hk : 9 ≤ (s.lane l).depth → (reaches s (stackSlot s 9 l) 8 false).isSome = true)
    (h : UnitEffect s b (afterRefills s D) (lanesWith D (returned s (D ++ l :: R))) id) :
    UnitEffect s (b.retLane l s.nextSeq) (afterRefills s (D ++ [l])) (lanesWith (D ++ [l]) (returned s (D ++ l :: R))) id := by
  have k := sameMap_afterRefills s D
  obtain ⟨t, ht⟩ := Option.isSome_iff_exists.1 ht
  have hlane := lane_of_thread s l t ht
  have hb := thread_of_effect h k.cur l hs hl t ht
  have hthis : ∀ y, s.thread? s.cur.core s.cur.team l = some y → y = t := fun y hy => Option.some.inj (hy.symm.trans ht)
  by_cases hd : 9 ≤ t.depth
  · obtain ⟨key, hkey⟩ := Option.isSome_iff_exists.1 (hk (by rw [hlane]; exact hd))
    have hslot : stackSlot s 9 l = t.stackBase + BitVec.ofNat 64 (8 * (t.depth - 9)) := by rw [stackSlot, hlane]
    have hname : b.nextSeq = s.nextSeq + 1 + (deepLanes s 9 D).length := congrArg State.nextSeq h.rest
    rw [retLane_refill (t := movedOn s t) (key := key) hb hd (by rw [← hlane] at *; exact hx) (by rw [reaches_effect h k]; exact hslot ▸ hkey)]
    have hload := addLoad_effect h k t.tid key 8 0 s.nextSeq .refill (stackSlot s 9 l)
    rw [afterRefills_deep (by rw [hlane]; exact hd), hkey, hlane]
    rw [hslot] at hload ⊢
    refine one_lanes_at (hc := by exact rfl) l hl hs hload _ (fun y hy => ?_)
    rw [hthis y hy, returned_deep (t := movedOn s t) hd, idxOf_deepLanes hl (by rw [hlane]; exact hd), ← hname, heldAt, ← Effect.cur_eq h k.cur]
    rfl
  · rw [retLane_shallow (t := movedOn s t) hb (by rw [← hlane] at *; exact h0) (by show t.depth < 9; omega) (by rw [← hlane] at *; exact hx),
      afterRefills_shallow (by rw [hlane]; exact hd)]
    refine one_lanes_at l hl hs k.cur h _ (fun y hy => ?_)
    rw [hthis y hy, returned_shallow (t := movedOn s t) hd, Thread.pop, List.append_nil]

/-! ### O16 -/

/-- Settles O16: CALL and RET lane by lane, each lane by what its thread's depth asks for. -/
theorem callsAndReturns : Obligations.CallsAndReturns := by
  unfold Obligations.CallsAndReturns
  intro s g off gl x slot there
  have hn := guarded_nodup s g
  have hgl := mem_guarded s g
  constructor
  · intro hx hthere deep hdeep es
    refine laneUnit_completes s _ _ gl
      (body := fun t => (gl.foldl (fun b l => b.callLane l x t.nextSeq) t.bump).stIssued t.writes.length t.nextSeq) _ _ ?_ rfl ?_
    · refine congrArg Host.Outcome.next ((laneUnit_ok s _ gl _ rfl).trans ((congrArg State.endIssue ?_).trans (laneUnit_ok s _ gl _ rfl).symm))
      have hx' : targetTrap (branchTarget s.advance.cur.pc off) = none := hx
      simp only [hx']
      rfl
    · have h := fold_vary (fun b l => b.callLane l x s.nextSeq) (afterSpills s) (fun _ => pushed s x) gl hn
        (fun b l D R e hl h => by
          have hg : l ∈ gl := by rw [e]; simp
          exact callLane_effect hl (hgl l hg) (hthere l hg) (fun hd => hdeep l (List.mem_filter.2 ⟨hg, by simpa using hd⟩)) h)
        s.advance.bump (by rw [lanesWith_nil, afterSpills_nil]; exact Effect.outside (Effect.advance s) _ rfl)
      exact stIssued_effect h rfl deep (by simp [afterSpills, spills, storeEntries, deep, deepLanes, gl]) s.nextSeq
  · intro hall deep hdeep
    refine laneUnit_completes s _ _ gl
      (body := fun t => (gl.foldl (fun b l => b.retLane l t.nextSeq) t.bump).ldIssued t.loads.length t.nextSeq) _ _ rfl rfl ?_
    have h := fold_vary (fun b l => b.retLane l s.nextSeq) (afterRefills s) (returned s gl) gl hn
      (fun b l D R e hl h => by
        have hg : l ∈ gl := by rw [e]; simp
        obtain ⟨ht, h0, hx⟩ := hall l hg
        rw [e] at h ⊢
        exact retLane_effect hl (hgl l hg) ht h0 hx (fun hd => hdeep l (List.mem_filter.2 ⟨hg, by simpa using hd⟩)) h)
      s.advance.bump (by rw [lanesWith_nil, afterRefills_nil]; exact Effect.outside (Effect.advance s) _ rfl)
    exact ldIssued_effect h rfl deep (by simp [afterRefills, refills, loadReqs, deep, deepLanes, gl]) s.nextSeq

end Sys2Proof.Machine

/-! ### O11 -/

namespace Sys2Proof.Machine

theorem sldForm_completes {s : State} {i : Instr} {g : BitVec 3} {d a imm : BitVec 7} {n key : Nat}
    (e : exec i s = .next (s.sldForm i g d a imm n)) (hw : i.wf = true) (hg : s.guardU g = true) (ha : s2Ok a = true)
    (hd : (if n = 8 then s2Ok d else sOk d) = true) (hk : reaches s (s.ulAddr a imm) n false = some key) :
    Completes i s { s with
        loads := s.loads ++ [⟨s.nextSeq + 1, s.cur.core, s.cur.team, s.team.uid, s.team.uid, key, n, 0, .unif d.toNat, s.nextSeq,
          s.ulAddr a imm⟩]
        nextSeq := s.nextSeq + 2 }
      (fun _ x => x) (fun m => { m with ld := m.ld ++ [⟨s.nextSeq, false⟩] }) := by
  refine unifUnit_completes s _ i (fun t => t.unifAccess (s.ulAddr a imm) n false
    (fun t key => t.unifLoad key n (.unif d.toNat) (s.ulAddr a imm))) _ _ ?_ hw ?_
  · rw [e, State.sldForm, hg, firstBad_two hd ha]
  · rw [unifAccess_ok s.advance _ n false _ key (by rw [reaches_advance]; exact hk)]
    exact unifLoad_effect s key n _ _

theorem sstForm_completes {s : State} {i : Instr} {g : BitVec 3} {d a imm : BitVec 7} {n key : Nat}
    (e : exec i s = .next (s.sstForm i g d a imm n)) (hw : i.wf = true) (hg : s.guardU g = true) (ha : s2Ok a = true)
    (hd : (if n = 8 then s2Ok d else sOk d) = true) (hk : reaches s (s.ulAddr a imm) n true = some key) :
    let w : WEntry := ⟨s.nextSeq + 1, s.cur.core, s.team.uid,
      .team (((s.wg? s.cur.core).map (·.launch)).getD 0) s.team.uid s.nextSeq (s.team.stCount + 1), key,
      (toBytes 8 (s.team.sr2 d.toNat).toNat).take n, none, some (s.ctxOf s.cur.core), s.ulAddr a imm, false⟩
    Completes i s { s with stbuf := s.stbuf ++ [w], writes := s.writes ++ [tracked w], nextSeq := s.nextSeq + 2 }
      (fun _ x => x) (fun m => { m with st := m.st ++ [⟨s.nextSeq, false⟩], stCount := m.stCount + 1 }) := by
  intro w
  refine unifUnit_completes s _ i (fun t => t.unifAccess (s.ulAddr a imm) n true
    (fun t key => t.unifStore key ((toBytes 8 (s.team.sr2 d.toNat).toNat).take n) (s.ulAddr a imm))) _ _ ?_ hw ?_
  · rw [e, State.sstForm, hg, firstBad_two hd ha]
  · rw [unifAccess_ok s.advance _ n true _ key (by rw [reaches_advance]; exact hk)]
    exact unifStore_effect s key _ _

/-- Settles O11: one access of the uniform agent, of four or of eight bytes. -/
theorem uniformMemory : Obligations.UniformMemory := by
  unfold Obligations.UniformMemory
  refine fun s g d a imm hg ha => ⟨fun hd => ⟨fun key hk => ?_, fun key hk => ?_⟩, fun hd => ⟨fun key hk => ?_, fun key hk => ?_⟩⟩
  · exact sldForm_completes (n := 4) rfl rfl hg ha hd hk
  · exact sstForm_completes (n := 4) rfl rfl hg ha hd hk
  · exact sldForm_completes (n := 8) rfl rfl hg ha hd hk
  · exact sstForm_completes (n := 8) rfl rfl hg ha hd hk

end Sys2Proof.Machine

/-! ### SUPPORT: prefetches (R276, R370) -/

namespace Sys2Proof.Machine

/-- What a prefetch may change: messages on Span, and the counts of names and of free values. -/
def Sent (s r : State) : Prop := ({ r with chans := s.chans, chanSeq := s.chanSeq, nextSeq := s.nextSeq, freeCtr := s.freeCtr } : State) = s

theorem sent_trans {s r t : State} (h1 : Sent s r) (h2 : Sent r t) : Sent s t := by
  have e := congrArg (fun x : State => { x with chans := s.chans, chanSeq := s.chanSeq, nextSeq := s.nextSeq, freeCtr := s.freeCtr }) h2
  exact Eq.trans e h1

theorem sendRead_sent (s : State) (die id line : Nat) : Sent s (s.sendRead die id line) := by
  unfold State.sendRead
  split <;> rfl

theorem prefetch_sent (s : State) (addr : DWord) : Sent s (s.prefetch addr) := by
  unfold State.prefetch
  split
  · dsimp only
    split
    · split
      · exact sent_trans (r := { s with freeCtr := s.freeCtr + 1, nextSeq := s.nextSeq + 1 }) rfl (sendRead_sent _ _ _ _)
      · rfl
    · rfl
  · rfl

theorem sendRead_setWgs (s : State) (W : List (Nat × Workgroup)) (die id line : Nat) :
    ({ s with wgs := W } : State).sendRead die id line = { s.sendRead die id line with wgs := W } := by
  show (if s.readGoing die line || s.replyComing die line then _ else _) = _
  unfold State.sendRead
  split <;> rfl

/-- Does a prefetch that translates to `key` ask for its line (R114, R370)? -/
def prefetchAsks (s : State) (key : Nat) : Bool :=
  s.takeBit.1 && isDevice key && memExists s.part key && s.firewallOk (s.ctxOf s.cur.core) key && !s.dieReadable (coreDie s.cur.core) key

/-- What a prefetch that translates to `key` does. -/
def prefetchAt (s : State) (key : Nat) : State :=
  if prefetchAsks s key then s.takeBit.2.bump.sendRead (coreDie s.cur.core) s.nextSeq (lineOf key) else s.takeBit.2

theorem prefetch_eq (s : State) (addr : DWord) : s.prefetch addr = match s.place s.cur.core addr 1 with
    | .virt va => (match s.translateNow s.cur.core (s.ctxOf s.cur.core) va false false with
      | .ok key => prefetchAt s key
      | _ => s)
    | _ => s := rfl

theorem prefetchAt_setWgs (s : State) (W : List (Nat × Workgroup)) (key : Nat)
    (hc : ({ s with wgs := W } : State).ctxOf s.cur.core = s.ctxOf s.cur.core) :
    prefetchAt { s with wgs := W } key = { prefetchAt s key with wgs := W } := by
  have hask : prefetchAsks { s with wgs := W } key = prefetchAsks s key := by
    show (_ && isDevice key && _ && State.firewallOk _ (({ s with wgs := W } : State).ctxOf s.cur.core) key && _) = _
    rw [hc]
    rfl
  unfold prefetchAt
  rw [hask]
  cases prefetchAsks s key with
  | true => exact sendRead_setWgs s.takeBit.2.bump W _ _ _
  | false => rfl

/-- A prefetch reads of the workgroups only where its address lies and whose its context is. -/
theorem prefetch_setWgs (s : State) (W : List (Nat × Workgroup)) (addr : DWord)
    (hp : ({ s with wgs := W } : State).place s.cur.core addr 1 = s.place s.cur.core addr 1)
    (hc : ({ s with wgs := W } : State).ctxOf s.cur.core = s.ctxOf s.cur.core) :
    ({ s with wgs := W } : State).prefetch addr = { s.prefetch addr with wgs := W } := by
  have ht : ∀ c x v, ({ s with wgs := W } : State).translateNow c x v false false = s.translateNow c x v false false := fun _ _ _ => rfl
  rw [prefetch_eq, prefetch_eq, hp, hc]
  cases s.place s.cur.core addr 1 with
  | invalid => rfl
  | window k => rfl
  | virt va =>
    simp only [ht]
    cases s.translateNow s.cur.core (s.ctxOf s.cur.core) va false false with
    | ok key => exact prefetchAt_setWgs s W key hc
    | miss => rfl
    | fault k => rfl
    | sealed => rfl
    | refused => rfl

/-- A prefetch after a unit's effect. -/
theorem prefetch_effect {s b r : State} {F : Nat → Thread → Thread} {M : Team → Team} (h : UnitEffect s b r F M) (hr : Sent s r)
    (addr : DWord) : UnitEffect s (b.prefetch addr) (r.prefetch addr) F M := by
  have hs : ∀ {α : Type} (f : State → α), f { r with chans := s.chans, chanSeq := s.chanSeq, nextSeq := s.nextSeq, freeCtr := s.freeCtr }
      = f s := fun f => congrArg f hr
  have hcur : r.cur = s.cur := hs State.cur
  have hbcur := Effect.cur_eq h hcur
  have hplace : r.place s.cur.core addr 1 = b.place s.cur.core addr 1 := by
    rw [place_effect h (hs State.launches) (hs State.part) (hs State.contexts)]
    exact hs (fun x => x.place s.cur.core addr 1)
  have hctx : r.ctxOf s.cur.core = b.ctxOf s.cur.core := by
    simp only [State.ctxOf]
    rw [wgLaunch?_of_groups (show b.launches = s.launches by rw [← hs State.launches, ← h.rest]) h.groups]
    exact hs (fun x => ((x.wgLaunch? s.cur.core).map (·.ctx)).getD 0)
  have e : r.prefetch addr = { b.prefetch addr with wgs := s.wgs } := by
    rw [← h.rest] at hplace hctx ⊢
    exact prefetch_setWgs b s.wgs addr (by rw [hbcur]; exact hplace) (by rw [hbcur]; exact hctx)
  rw [e]
  have hsent := prefetch_sent b addr
  unfold Sent at hsent
  have hwgs := congrArg State.wgs hsent
  exact Effect.outside h _ hwgs

/-- The prefetches of a list of lanes after a unit's effect. -/
theorem prefetches_effect {s : State} {F : Nat → Thread → Thread} {M : Team → Team} (addr : Nat → DWord) (gl : List Nat) :
    ∀ {b r : State}, UnitEffect s b r F M → Sent s r →
      UnitEffect s (gl.foldl (fun t l => t.prefetch (addr l)) b) (gl.foldl (fun t l => t.prefetch (addr l)) r) F M := by
  induction gl with
  | nil => exact fun h _ => h
  | cons l gl ih => exact fun h hr => ih (prefetch_effect h hr (addr l)) (sent_trans hr (prefetch_sent _ _))

/-! ### O10 -/

theorem ldForm_issues {s : State} {i : Instr} {g : BitVec 3} {d a sb : BitVec 7} {n : Nat} {signed ok : Bool}
    (e : exec i s = .next (s.ldForm i g d a sb n signed)) (hw : i.wf = true)
    (hok : (if n = 16 then v4Ok s.curAlloc d else if n = 8 then v2Ok s.curAlloc d else vOk s.curAlloc d) = ok)
    (hb : badLm s.curAlloc ok d a sb = none) :
    IssuesLoads s i (s.guarded g) (fun l => s.lmAddr l a sb) n 0 false (fun _ => .lane d.toNat signed) := by
  refine laneUnit_loads s i _ _ n 0 false _ ?_ hw
  rw [e, State.ldForm, hok, hb]

theorem stForm_issues {s : State} {i : Instr} {g : BitVec 3} {d a sb : BitVec 7} {n : Nat} {ok : Bool}
    (e : exec i s = .next (s.stForm i g d a sb n)) (hw : i.wf = true)
    (hok : (if n = 16 then v4Ok s.curAlloc d else if n = 8 then v2Ok s.curAlloc d else vOk s.curAlloc d) = ok)
    (hb : badLm s.curAlloc ok d a sb = none) :
    IssuesStores s i (s.guarded g) (fun l => s.lmAddr l a sb) n (fun l => (s.lane l).dataBytes d.toNat n) none := by
  refine laneUnit_stores s i _ _ n _ none ?_ hw
  rw [e, State.stForm, hok, hb]

theorem atomForm_issues {s : State} {i : Instr} {sc : BitVec 2} {d a b : BitVec 7} {op : Nat}
    (e : exec i s = .next (s.atomForm i sc d a b op)) (hw : i.wf = true)
    (hb : firstBad [(vOk s.curAlloc d, 0, d.toNat), (v2Ok s.curAlloc a, 1, a.toNat), (vOk s.curAlloc b, 2, b.toNat)] = none) :
    IssuesLoads s i s.subset (fun l => (s.lane l).v2 a.toNat) 4 sc.toNat true (fun l => .atom d.toNat op ((s.lane l).v b.toNat)) := by
  refine laneUnit_loads s i _ _ 4 sc.toNat true _ ?_ hw
  rw [e, State.atomForm, hb]

theorem casForm_issues {s : State} {i : Instr} {sc : BitVec 2} {d a b : BitVec 7} {n : Nat}
    (e : exec i s = .next (s.casForm i sc d a b n)) (hw : i.wf = true)
    (hb : firstBad [(if n = 8 then v2Ok s.curAlloc d else vOk s.curAlloc d, 0, d.toNat), (v2Ok s.curAlloc a, 1, a.toNat),
      (if n = 8 then v2Ok s.curAlloc b else vOk s.curAlloc b, 2, b.toNat)] = none) :
    IssuesLoads s i s.subset (fun l => (s.lane l).v2 a.toNat) n sc.toNat true (fun l =>
      .cas d.toNat (if n = 8 then (s.lane l).v2 d.toNat else ((s.lane l).v d.toNat).zeroExtend 64)
        (if n = 8 then (s.lane l).v2 b.toNat else ((s.lane l).v b.toNat).zeroExtend 64)) := by
  refine laneUnit_loads s i _ _ n sc.toNat true _ ?_ hw
  rw [e]
  simp only [State.casForm, hb]

/-- Settles O10: each form by the lemma of its accesses, PRF by what its prefetches may change. -/
theorem laneLoadsStoresAndAtomics : Obligations.LaneLoadsStoresAndAtomics := by
  unfold Obligations.LaneLoadsStoresAndAtomics
  refine ⟨⟨fun s g d a sb => ⟨fun hb => ?_, fun hb => ?_, fun hb => ?_, fun hb => ?_, prefetch_sent s⟩,
    fun s g d a sb => ⟨fun hb => ?_, fun hb => ?_, fun hb => ?_⟩⟩, fun s sc op d a b => 
      ⟨fun hb => ?_, fun hb => ?_, fun hb => ?_⟩⟩
  · exact ⟨ldForm_issues (n := 1) rfl rfl rfl hb, ldForm_issues (n := 1) rfl rfl rfl hb, ldForm_issues (n := 2) rfl rfl rfl hb,
      ldForm_issues (n := 2) rfl rfl rfl hb, ldForm_issues (n := 4) rfl rfl rfl hb⟩
  · exact ldForm_issues (n := 8) rfl rfl rfl hb
  · exact ldForm_issues (n := 16) rfl rfl rfl hb
  · refine laneUnit_completes s _ _ (s.guarded g) (fun t => (s.guarded g).foldl (fun t l => t.prefetch (s.lmAddr l a sb)) t) _ _ ?_ rfl
      (prefetches_effect _ _ (Effect.advance s) rfl)
    show Host.Outcome.next (s.laneUnit _ _ _ (badLm s.curAlloc true 0 a sb) _ _) = _
    rw [hb]
  · exact ⟨stForm_issues (n := 1) rfl rfl rfl hb, stForm_issues (n := 2) rfl rfl rfl hb, stForm_issues (n := 4) rfl rfl rfl hb⟩
  · exact stForm_issues (n := 8) rfl rfl rfl hb
  · exact stForm_issues (n := 16) rfl rfl rfl hb
  · exact ⟨atomForm_issues rfl rfl hb, atomForm_issues rfl rfl hb, atomForm_issues rfl rfl hb, atomForm_issues rfl rfl hb,
      atomForm_issues rfl rfl hb, atomForm_issues rfl rfl hb, atomForm_issues rfl rfl hb, atomForm_issues rfl rfl hb,
      casForm_issues (n := 4) rfl rfl hb⟩
  · exact casForm_issues (n := 8) rfl rfl hb
  · refine laneUnit_stores s _ _ _ 4 _ _ ?_ rfl
    show Host.Outcome.next (s.laneUnit _ _ _ (firstBad [(v2Ok s.curAlloc a, 1, a.toNat), (vOk s.curAlloc b, 2, b.toNat)]) _ _) = _
    rw [hb]

end Sys2Proof.Machine

/-! ### SUPPORT: the words that a step fetches (R186, R267) -/

namespace Sys2Proof.Machine

/-- The bytes of a word at a place, as a context reads them. -/
def wordBytes (s : State) (ctx key : Nat) : List Byte := s.crypt ctx key (s.readBytes key 4)

theorem length_wordBytes (s : State) (ctx key : Nat) : (wordBytes s ctx key).length = 4 := by
  unfold wordBytes State.crypt
  split
  · simp [State.readBytes, memBytes]
  · simp [State.readBytes, memBytes]

/-- Four bytes at the head of a list are a word. -/
theorem takeWord_four {bs : List Byte} (h : bs.length = 4) (rest : List Byte) : takeWord (bs ++ rest) = some (ofBytes bs, rest) := by
  match bs, h with
  | [b0, b1, b2, b3], _ =>
    simp only [List.cons_append, List.nil_append, takeWord, ofBytes, Option.some.injEq, Prod.mk.injEq, and_true]
    omega

theorem ofBytes_four_lt {bs : List Byte} (h : bs.length = 4) : ofBytes bs < 2 ^ 32 := by
  match bs, h with
  | [b0, b1, b2, b3], _ =>
    have := b0.isLt; have := b1.isLt; have := b2.isLt; have := b3.isLt
    simp only [ofBytes]
    omega

/-- The word that is fetched from a place. -/
def fetched (s : State) (ctx key : Nat) : Word := BitVec.ofNat 32 (ofBytes (wordBytes s ctx key))

theorem fetched_toNat (s : State) (ctx key : Nat) : (fetched s ctx key).toNat = ofBytes (wordBytes s ctx key) :=
  (BitVec.toNat_ofNat _ _).trans (Nat.mod_eq_of_lt (ofBytes_four_lt (length_wordBytes s ctx key)))

theorem fetchWord_ok {s : State} {core key : Nat} {pc : PC} (hpc : nbits pc.toNat 56 48 ≠ 0x1FF)
    (ht : s.translate core (s.ctxOf core) pc.toNat false false = .ok key) (hm : memExists s.part key = true) :
    s.fetchWord core pc = if s.firewallOk (s.ctxOf core) key then .word (fetched s (s.ctxOf core) key) else .refused := by
  unfold State.fetchWord
  rw [if_neg hpc, ht]
  simp only [hm]
  cases s.firewallOk (s.ctxOf core) key <;> rfl

/-- A word that is neither EXT nor PAT is a unit. -/
theorem fetchUnit_one {s : State} {core : Nat} {pc : PC} {w : Word} (h : s.fetchWord core pc = .word w)
    (hp : isPrefixWord w.toNat = false) : s.fetchUnit core pc = .unit w 0 := by
  unfold State.fetchUnit
  rw [h]
  exact if_neg (by rw [hp]; exact Bool.false_ne_true)

/-- EXT or PAT and the word after it are a unit. -/
theorem fetchUnit_two {s : State} {core : Nat} {pc : PC} {w w1 : Word} (h : s.fetchWord core pc = .word w)
    (hp : isPrefixWord w.toNat = true) (h1 : s.fetchWord core (pc + 4) = .word w1) : s.fetchUnit core pc = .unit w w1 := by
  unfold State.fetchUnit
  rw [h]
  simp only [hp, if_true, h1]

/-- Bytes that decode to a unit of one word. -/
theorem decode_four {bs : List Byte} {i : Instr} (hb : bs.length = 4) (h : decode bs = .unit i []) :
    isPrefixWord (ofBytes bs) = false ∧ decodeUnit (ofBytes bs) 0 = some i := by
  have ht := takeWord_four hb []
  rw [List.append_nil] at ht
  unfold decode at h
  simp only [ht] at h
  cases hp : isPrefixWord (ofBytes bs) with
  | true => simp [hp, takeWord] at h
  | false =>
    simp only [hp, Bool.false_eq_true, if_false] at h
    cases hd : decodeUnit (ofBytes bs) 0 with
    | none => simp [hd] at h
    | some j => simp only [hd, Decoded.unit.injEq, and_true] at h; exact ⟨rfl, congrArg some h⟩

/-- Bytes that decode to a unit of two words. -/
theorem decode_eight {bs cs : List Byte} {i : Instr} (hb : bs.length = 4) (hc : cs.length = 4) (hp : isPrefixWord (ofBytes bs) = true)
    (h : decode (bs ++ cs) = .unit i []) : decodeUnit (ofBytes bs) (ofBytes cs) = some i := by
  have ht := takeWord_four hc []
  rw [List.append_nil] at ht
  unfold decode at h
  simp only [takeWord_four hb cs, hp, if_true, ht] at h
  cases hd : decodeUnit (ofBytes bs) (ofBytes cs) with
  | none => simp [hd] at h
  | some j => simp only [hd, Decoded.unit.injEq, and_true] at h; exact congrArg some h

/-- A turn of a slot whose entry is ready runs the unit at its PC. -/
theorem step_issue {s : State} {rest : List Turn} {core part : Nat} {unif : Bool} {team : Nat} {pc : PC}
    (ha : s.agenda = .issue core part unif :: rest) (hp : ({ s with agenda := rest } : State).pick core part unif = some (team, pc)) :
    step s = runUnit (({ s with agenda := rest } : State).beginIssue core team pc unif) := by
  unfold step
  rw [ha]
  show runSlot core part unif _ = _
  unfold runSlot
  rw [hp]

theorem runUnit_fetches {v : State} (hd : v.hasDeferred = false) : runUnit v = match v.fetchUnit v.cur.core v.cur.pc with
    | .unit w0 w1 => (match decodeUnit w0.toNat w1.toNat with
      | some i => exec i v
      | none => .next (v.illegalWord w0))
    | .invalid => .next v.badFetch
    | .noMem k => .fault (.noSuchMemory k)
    | .miss _ => .next v
    | .fault _ _ => .next v
    | .refused va => .next (v.firewallFault v.cur.core va.toNat none) := by
  unfold runUnit
  rw [hd]
  rfl

theorem runUnit_of_decoded {v : State} {w0 w1 : Word} {i : Instr} (hd : v.hasDeferred = false)
    (hf : v.fetchUnit v.cur.core v.cur.pc = .unit w0 w1) (hi : decodeUnit w0.toNat w1.toNat = some i) : runUnit v = exec i v := by
  rw [runUnit_fetches hd, hf]
  simp only [hi]

theorem runUnit_of_reserved {v : State} {w0 w1 : Word} (hd : v.hasDeferred = false)
    (hf : v.fetchUnit v.cur.core v.cur.pc = .unit w0 w1) (hi : decodeWord w0.toNat = none) : runUnit v = .next (v.illegalWord w0) := by
  rw [runUnit_fetches hd, hf]
  simp only [decodeUnit, hi]

/-! ### O58 -/

/-- Settles O58: the turn begins the issue, the fetch gives the words, and the decoder the instruction that `exec` runs. -/
theorem stepRunsTheDecodedInstruction : Obligations.StepRunsTheDecodedInstruction := by
  unfold Obligations.StepRunsTheDecodedInstruction
  refine ⟨?_, fun s rest i n ha hi => ?_, fun s core part unif ha hr => ?_⟩
  · intro s rest core part unif team pc ha t hpick v hdef hpc ctx word key htr hmem
    have hstep : step s = runUnit v := step_issue ha hpick
    have hcore : v.cur.core = core := rfl
    have hcurpc : v.cur.pc = pc := rfl
    have hfetch := fetchWord_ok hpc htr hmem
    have hlen : (word key).length = 4 := length_wordBytes v ctx key
    have hw : (fetched v (v.ctxOf core) key).toNat = ofBytes (word key) := fetched_toNat v ctx key
    refine ⟨fun hfw => ?_, fun hfw => ⟨fun i hi => ?_, fun hp hd => ?_, fun hp hpc1 key1 htr1 hmem1 hfw1 i hi => ?_⟩⟩
    · rw [hstep, runUnit_fetches hdef, hcore, hcurpc, State.fetchUnit, hfetch, if_neg (by rw [hfw]; exact Bool.false_ne_true)]
      simp only [BitVec.zeroExtend, BitVec.toNat_setWidth]
      rw [Nat.mod_eq_of_lt (by have := pc.isLt; omega)]
    · obtain ⟨hp, hd⟩ := decode_four hlen hi
      rw [hstep]
      rw [if_pos hfw] at hfetch
      exact runUnit_of_decoded hdef (fetchUnit_one hfetch (by rw [hw]; exact hp)) (by rw [hw]; exact hd)
    · rw [if_pos hfw] at hfetch
      rw [hstep]
      have hp' : isPrefixWord (fetched v (v.ctxOf core) key).toNat = false := by rw [hw]; exact hp
      have hd' : decodeWord (fetched v (v.ctxOf core) key).toNat = none := by rw [hw]; exact hd
      rw [runUnit_of_reserved hdef (fetchUnit_one hfetch hp') hd', ← hw, BitVec.ofNat_toNat, BitVec.setWidth_eq]
    · have hfetch1 := fetchWord_ok hpc1 htr1 hmem1
      rw [if_pos hfw] at hfetch
      rw [if_pos hfw1] at hfetch1
      have hlen1 : (word key1).length = 4 := length_wordBytes v ctx key1
      rw [hstep]
      refine runUnit_of_decoded hdef (fetchUnit_two hfetch (by rw [hw]; exact hp) hfetch1) ?_
      rw [hw, fetched_toNat v ctx key1]
      exact decode_eight hlen hlen1 hp hi
  · unfold step
    rw [ha]
    exact if_pos hi
  · unfold step
    rw [ha, hr]
    show runSlot core part unif s = runSlot core part unif { s with agenda := [] }
    rw [← ha]

end Sys2Proof.Machine

/-! ### Register fields that fail their check (R273) -/

namespace Sys2Proof.Machine

/-- The first failure is the one with no failure before it: by induction on the fields. -/
theorem firstBad_eq_some_iff (fs : List (Bool × Nat × Nat)) (v : Word) : firstBad fs = some v ↔
    ∃ pre place x post, fs = pre ++ (false, place, x) :: post ∧ (∀ f ∈ pre, f.1 = true) ∧ v = BitVec.ofNat 32 (x + 256 * place) := by
  induction fs with
  | nil => simp [firstBad]
  | cons f fs ih =>
    obtain ⟨ok, place, x⟩ := f
    cases ok with
    | false =>
      constructor
      · intro h
        exact ⟨[], place, x, fs, rfl, by simp, by rw [Nat.mul_comm]; exact (Option.some.inj h).symm⟩
      · rintro ⟨pre, place', x', post, hfs, hpre, rfl⟩
        cases pre with
        | nil =>
          cases hfs
          rw [Nat.mul_comm]
          rfl
        | cons p pre =>
          obtain ⟨rfl, -⟩ := List.cons.inj hfs
          cases hpre _ List.mem_cons_self
    | true =>
      show firstBad fs = some v ↔ _
      rw [ih]
      constructor
      · rintro ⟨pre, place', x', post, rfl, hpre, hv⟩
        exact ⟨(true, place, x) :: pre, place', x', post, rfl, by simpa using hpre, hv⟩
      · rintro ⟨pre, place', x', post, hfs, hpre, hv⟩
        cases pre with
        | nil => simp at hfs
        | cons p pre =>
          obtain ⟨-, rfl⟩ := List.cons.inj hfs
          exact ⟨pre, place', x', post, rfl, fun f hf => hpre f (List.mem_cons_of_mem _ hf), hv⟩

theorem regFields_of_event (al accs : Nat) {i : Instr} (h : i.isEvent = true) : regFields al accs i = [] := by
  cases i <;> first | (cases h; done) | rfl

section
variable {s : State} {i : Instr} {v : Word}

theorem laneWord_badRegister (hu : isUniform i = false) (he : i.isEvent = false) (hext : ∀ imm w, i ≠ .ext imm w)
    (hpat : ∀ a b w, i ≠ .pat a b w) (hwill : ∀ g a b, i ≠ .will g a b) (hw : i.wf = true) (hp : unitPresent s i = true)
    (hv : firstBad (regFields s.curAlloc (s.hdr s.cur.core).accs i) = some v) :
    TrapsLanes s i (executing s i) 0x02 v false false := by
  obtain ⟨bad, pr, body, hx, hbad⟩ := exec_lane s i hu he hext hpat
  rw [hbad hwill, hv, hp, Bool.not_true] at hx
  refine laneUnit_traps s i _ (executing_nodup s i) (executing_subset s i) _ _ false (hx.trans ?_)
  simp [State.laneUnit, hw]

theorem unifWord_badRegister (hu : isUniform i = true) (hs : s.stop = none) (hx : executes s i = true)
    (hqry : ∀ g l n d, i ≠ .barQry g l n d) (hw : i.wf = true)
    (hv : firstBad (regFields s.curAlloc (s.hdr s.cur.core).accs i) = some v) :
    TrapsLanes s i (executing s i) 0x02 v true false := by
  rw [executing_of_uniform s hu]
  intro ho
  obtain ⟨bad, pr, body, hexec, hbad⟩ := exec_unif s i hu
  rw [hx, hbad hqry, hv, unifUnit_bad _ _ _ _ _ hw] at hexec
  have effect := trapUnif_effect s 0x02 v ho
  refine ⟨_, ?_, effect⟩
  obtain h | h := hexec
  · exact h
  · exact h hs ((stop_of_effect effect).trans hs)

end

/-- WILL checks its count, then its registers, in its own steps (R138). -/
theorem will_badRegister {s : State} {g : BitVec 3} {a b : BitVec 7} {v : Word} (hb : b.toNat ≤ 8)
    (hv : firstBad [(decide (a.toNat < s.curAlloc ∧ a.toNat + b.toNat ≤ s.curAlloc), 1, a.toNat)] = some v) :
    TrapsLanes s (.will g a b) (s.guarded g) 0x02 v false false := by
  have hbad : ¬ (a.toNat < s.curAlloc ∧ a.toNat + b.toNat ≤ s.curAlloc) := by
    intro h
    rw [decide_eq_true h] at hv
    cases hv
  have hval : v = BitVec.ofNat 32 (a.toNat + 256) := by
    rw [decide_eq_false hbad] at hv
    exact (Option.some.inj hv).symm
  refine laneUnit_traps s _ _ (guarded_nodup s g) (mem_guarded s g) _ _ false ?_
  show execWill g a b s = _
  unfold execWill
  dsimp only
  rw [laneUnit_ok _ _ _ _ rfl, if_neg (by omega), if_pos (by simp only [Bool.or_eq_true, decide_eq_true_eq]; omega), hval]

/-- BAR.QRY checks its register after its level (R316). -/
theorem barQry_badRegister {s : State} {g : BitVec 3} {lvl : BitVec 2} {n : BitVec 5} {d : BitVec 7} {v : Word}
    (hg : s.guardU g = true) (hn : barNumOk lvl n = true) (hl : (lvl.toNat ≠ 2 || (s.hdr s.cur.core).cluster) = true)
    (hv : firstBad [(sOk d, 0, d.toNat)] = some v) : TrapsLanes s (.barQry g lvl n d) s.subset 0x02 v true false := by
  refine unif_trapsLanes ?_
  show execBarQry g lvl n d s = _
  unfold execBarQry
  dsimp only
  rw [hg, unifUnit_ok _ (.barQry g lvl n d) _ hn, if_neg, show badS1 d = some v from hv]
  · rfl
  · rw [cur_advance, hdr_advance]
    simpa [Classical.or_iff_not_imp_left] using hl

/-- Settles O19: the check reports the first failure of its list, and every word traps with what its list reports. -/
theorem registerFieldTraps : Obligations.RegisterFieldTraps := by
  unfold Obligations.RegisterFieldTraps
  refine ⟨firstBad_eq_some_iff, fun s i v hs hw hp hf hx hv => ?_⟩
  by_cases hwill : ∃ g a b, i = .will g a b
  · obtain ⟨g, a, b, rfl⟩ := hwill
    exact will_badRegister (by simpa [entryFirst] using hf) hv
  by_cases hqry : ∃ g l n d, i = .barQry g l n d
  · obtain ⟨g, l, n, d, rfl⟩ := hqry
    exact barQry_badRegister hx hw hf hv
  have noFields : regFields s.curAlloc (s.hdr s.cur.core).accs i ≠ [] := by
    intro h
    rw [h] at hv
    cases hv
  cases hu : isUniform i with
  | true => exact unifWord_badRegister hu hs hx (fun g l n d h => hqry ⟨g, l, n, d, h⟩) hw hv
  | false =>
    refine laneWord_badRegister hu ?_ ?_ ?_ (fun g a b h => hwill ⟨g, a, b, h⟩) hw hp hv
    · exact Bool.eq_false_iff.2 fun he => noFields (regFields_of_event _ _ he)
    · rintro imm w rfl
      exact noFields rfl
    · rintro a b w rfl
      exact noFields rfl

end Sys2Proof.Machine

/-! ### Words that no thread executes (R271) -/

namespace Sys2Proof.Machine

/-- The unit under way has done nothing but give out `n` names. -/
def StaysBut (s t : State) (n : Nat) : Prop := UnitEffect s t { s with nextSeq := s.nextSeq + n } (fun _ x => x) id

theorem staysBut_advance (s : State) : StaysBut s s.advance 0 := Effect.advance s

theorem staysBut_bump (s : State) : StaysBut s s.advance.bump 1 :=
  Effect.map (Effect.advance s) State.bump (fun _ => rfl) (fun _ _ => rfl)

theorem StaysBut.onLanes_nil {s t : State} {n : Nat} (h : StaysBut s t n) (f : Nat → Thread → Thread) :
    StaysBut s (t.onLanes [] f) n :=
  Effect.lanesEq (Effect.lanes h rfl [] (fun _ hl => nomatch hl) f) fun _ _ => if_neg List.not_mem_nil

theorem StaysBut.raise_zero {s t : State} {n : Nat} (h : StaysBut s t n) : StaysBut s (t.raise 0) n :=
  Effect.teamEq (Effect.teamWith h rfl (withFlags 0) (fun _ => rfl) (withFlags_shared 0)) fun m => by
    show ({ m with mode := m.mode ||| 0#9 } : Team) = m
    rw [BitVec.or_zero]

/-- No value combines with no value to none, and raises nothing (R418). -/
theorem redStage_none (m : BitVec 9) (code : Nat) (l : List (Option Word)) (h : ∀ x ∈ l, x = none) :
    (∀ x ∈ (redStage m code l).1, x = none) ∧ (redStage m code l).2 = 0 := by
  induction l using redStage.induct m code with
  | case1 x y r ih =>
    obtain ⟨hvals, hflags⟩ := ih fun z hz => h z (List.mem_cons_of_mem _ (List.mem_cons_of_mem _ hz))
    obtain rfl := h x List.mem_cons_self
    obtain rfl := h y (List.mem_cons_of_mem _ List.mem_cons_self)
    refine ⟨fun z hz => ?_, ?_⟩
    · obtain rfl | hz := List.mem_cons.1 hz
      · rfl
      · exact hvals z hz
    · show (0 : FlagSet) ||| (redStage m code r).2 = 0
      rw [hflags]
      rfl
  | case2 l hl =>
    rw [redStage.eq_2 _ _ _ hl]
    exact ⟨h, rfl⟩

theorem redVals_none (m : BitVec 9) (code n : Nat) : ∀ (l : List (Option Word)), (∀ x ∈ l, x = none) → (redVals m code n l).2 = 0 := by
  induction n with
  | zero => exact fun _ _ => rfl
  | succ n ih =>
    intro l h
    obtain ⟨hvals, hflags⟩ := redStage_none m code l h
    show (redStage m code l).2 ||| (redVals m code n (redStage m code l).1).2 = 0
    rw [hflags, ih _ hvals]
    rfl

/-- A lane word that runs, and changes no thread and nothing beside them. -/
def IdleWord (s : State) (i : Instr) : Prop := ∃ n, Completes i s { s with nextSeq := s.nextSeq + n } (fun _ x => x) id

section
variable {s : State} {i : Instr} {g : BitVec 3} {absent priv : Bool} {bad : Option Word} (hg : s.guarded g = [])
include hg

/-- Whichever check fails, no thread traps; where all pass, the body runs. -/
theorem idle_of_laneUnit {body : State → State} (e : exec i s = .next (s.laneUnit i (s.guarded g) absent bad priv body)) {n : Nat}
    (h : s.guarded g = [] → StaysBut s (body s.advance) n) : IdleWord s i := by
  rw [hg] at e
  have hbody := h hg
  have traps : ∀ {code v}, exec i s = .next (s.advance.trapLanes [] code v false false false).endIssue → IdleWord s i :=
    fun hx => ⟨0, _, hx, Effect.ends (staysBut_advance s)⟩
  unfold State.laneUnit at e
  dsimp only at e
  split at e
  · exact traps e
  split at e
  · exact traps e
  split at e
  · exact traps e
  split at e
  · exact traps e
  · exact ⟨n, _, e, Effect.ends hbody⟩

theorem idle_of_laneSet {f : State → Nat → Thread → Thread} (e : exec i s = .next (s.laneSet i (s.guarded g) absent bad f)) :
    IdleWord s i := by
  refine idle_of_laneUnit hg e (n := 0) fun h => ?_
  rw [h]
  exact (staysBut_advance s).onLanes_nil _

theorem idle_of_laneFp {f : State → BitVec 9 → Nat → Thread → Thread × FlagSet}
    (e : exec i s = .next (s.laneFp i (s.guarded g) absent bad f)) : IdleWord s i := by
  refine idle_of_laneUnit hg e (n := 0) fun h => ?_
  rw [h]
  exact ((staysBut_advance s).onLanes_nil _).raise_zero

theorem idle_of_ldForm {d a sb : BitVec 7} {n : Nat} {signed : Bool} (e : exec i s = .next (s.ldForm i g d a sb n signed)) :
    IdleWord s i := by
  unfold State.ldForm at e
  dsimp only at e
  refine idle_of_laneUnit hg e (n := 1) fun h => ?_
  rw [h]
  show StaysBut s (s.advance.bump.ldIssued s.advance.loads.length s.advance.nextSeq) 1
  rw [ldIssued_none (s := s.advance.bump) (n := s.advance.loads.length) rfl]
  exact staysBut_bump s

theorem idle_of_stForm {d a sb : BitVec 7} {n : Nat} (e : exec i s = .next (s.stForm i g d a sb n)) : IdleWord s i := by
  unfold State.stForm at e
  dsimp only at e
  refine idle_of_laneUnit hg e (n := 1) fun h => ?_
  rw [h]
  show StaysBut s (s.advance.bump.stIssued s.advance.writes.length s.advance.nextSeq) 1
  rw [stIssued_none (s := s.advance.bump) (n := s.advance.writes.length) rfl]
  exact staysBut_bump s

theorem idle_vscan (d a k : BitVec 7) : IdleWord s (.vscan g d a k) := by
  refine idle_of_laneUnit hg (e := rfl) (n := 0) fun h => ?_
  rw [h]
  exact ((staysBut_advance s).onLanes_nil _).raise_zero

theorem idle_vred (d a k : BitVec 7) : IdleWord s (.vred g d a k) := by
  refine idle_of_laneUnit hg (e := rfl) (n := 0) fun h => ?_
  rw [h]
  have hflags := redVals_none s.advance.team.mode k.toNat 6
    ((List.range teamWidth).map (fun l => if ([] : List Nat).contains l then some ((s.advance.lane l).v a.toNat) else none)) (by simp)
  dsimp only
  rw [hflags]
  exact ((staysBut_advance s).onLanes_nil _).raise_zero

theorem idle_call (off : BitVec 23) : IdleWord s (.call g off) := by
  cases ht : targetTrap (branchTarget s.cur.pc off) with
  | some c =>
    refine idle_of_laneUnit hg (e := rfl) (n := 0) fun h => ?_
    rw [h, cur_advance]
    dsimp only
    rw [ht]
    exact staysBut_advance s
  | none =>
    refine idle_of_laneUnit hg (e := rfl) (n := 1) fun h => ?_
    rw [h, cur_advance]
    dsimp only
    rw [ht]
    show StaysBut s (s.advance.bump.stIssued s.advance.writes.length s.advance.nextSeq) 1
    rw [stIssued_none (s := s.advance.bump) (n := s.advance.writes.length) rfl]
    exact staysBut_bump s

theorem idle_ret : IdleWord s (.ret g) := by
  refine idle_of_laneUnit hg (e := rfl) (n := 1) fun h => ?_
  rw [h]
  show StaysBut s (s.advance.bump.ldIssued s.advance.loads.length s.advance.nextSeq) 1
  rw [ldIssued_none (s := s.advance.bump) (n := s.advance.loads.length) rfl]
  exact staysBut_bump s

theorem idle_bra (off : BitVec 23) : IdleWord s (.bra g off) := by
  refine idle_of_laneUnit hg (e := rfl) (n := 0) fun h => ?_
  rw [h]
  unfold State.transfer
  split
  · exact staysBut_advance s
  · exact (staysBut_advance s).onLanes_nil _

theorem idle_reform : IdleWord s (.reform g) := by
  refine idle_of_laneUnit hg (e := rfl) (n := 0) fun h => ?_
  rw [h]
  split
  · exact staysBut_advance s
  · exact staysBut_advance s

theorem idle_sfwait (mask : BitVec 16) : IdleWord s (.sfwait g mask) := by
  refine idle_of_laneUnit hg (e := rfl) (n := 0) fun h => ?_
  rw [h]
  dsimp only
  split
  · exact staysBut_advance s
  · exact (staysBut_advance s).onLanes_nil _

theorem idle_will (a b : BitVec 7) : IdleWord s (.will g a b) := by
  refine idle_of_laneUnit hg (e := rfl) (n := 0) fun h => ?_
  rw [h]
  split
  · exact staysBut_advance s
  split
  · exact staysBut_advance s
  split
  · exact staysBut_advance s
  · exact (staysBut_advance s).onLanes_nil _

/-- The words whose body, over no lane, is none. -/
theorem idle_of_noBody {body : State → State} (e : exec i s = .next (s.laneUnit i (s.guarded g) absent bad priv body))
    (h : s.guarded g = [] → body s.advance = s.advance) : IdleWord s i :=
  idle_of_laneUnit hg e (n := 0) fun hg => by rw [h hg]; exact staysBut_advance s

end

/-- Each lane word over no lane, by the shape of its unit. -/
theorem idle_laneWord {s : State} {i : Instr} {g : BitVec 3} (hi : laneGuard i = some g) (h0 : s.guarded g = [])
    (hsfq : ∀ d a k, i ≠ .sfq g d a k) : IdleWord s i := by
  have hg : ∀ g', laneGuard i = some g' → s.guarded g' = [] := fun g' h => by
    rw [hi] at h
    rw [← Option.some.inj h, h0]
  cases i with
  | iadd | isub | imul | imulh | imulhu | imad | imin | imax | iminu | imaxu | iabsd | and | or | xor | andn | shl | shr | shra
  | rotl | popc | clz | brev | bfx | bfi | mov | movi | iaddi | vnbr | vvote | vdq | heirq | pand | por | pxor | pnand =>
    exact idle_of_laneSet (hg _ rfl) rfl
  | fadd | fsub | fmul | ffma | fmin | fmax | frnd | fcvt | icmp | fcmp | hadd2 | hmul2 | hfma2 | hmax2 | badd2 | bmul2 | bfma2
  | bmax2 | dadd | dmul | dfma | dcvt => exact idle_of_laneFp (hg _ rfl) rfl
  | ldB | ldSb | ldH | ldSh | ldW | ldD | ldQ => exact idle_of_ldForm (hg _ rfl) rfl
  | stB | stH | stW | stD | stQ => exact idle_of_stForm (hg _ rfl) rfl
  | vscan => exact idle_vscan (hg _ rfl) _ _ _
  | vred => exact idle_vred (hg _ rfl) _ _ _
  | vqnsE2m1 | vqnsI4h | vqnsI8h | prf | jmpr | exit | join | trapl =>
    refine idle_of_noBody (hg _ rfl) rfl fun h => ?_
    rw [h]
    rfl
  | sread =>
    refine idle_of_laneUnit (hg _ rfl) (e := rfl) (n := 0) fun h => ?_
    rw [h]
    exact (staysBut_advance s).onLanes_nil _
  | sfq g' d a k => exact absurd rfl (Option.some.inj hi ▸ hsfq d a k)
  | nop => exact idle_of_noBody (hg _ rfl) rfl fun _ => rfl
  | will => exact idle_will (hg _ rfl) _ _
  | bra => exact idle_bra (hg _ rfl) _
  | call => exact idle_call (hg _ rfl) _
  | ret => exact idle_ret (hg _ rfl)
  | reform => exact idle_reform (hg _ rfl)
  | sfwait => exact idle_sfwait (hg _ rfl) _
  | _ => cases hi

/-- Settles O18: a lane unit over no lane traps and changes none; a uniform unit without its guard only moves its subset. -/
theorem falseGuardsDoNothing : Obligations.FalseGuardsDoNothing := by
  unfold Obligations.FalseGuardsDoNothing
  refine fun s i g hs => ⟨idle_laneWord, fun hi hg => ?_⟩
  have hu : isUniform i = true := by simp [isUniform, hi]
  have hx : executes s i = false := by simp [executes, hi, hg]
  obtain ⟨bad, pr, body, hexec, -⟩ := exec_unif s i hu
  rw [hx, unifUnit_idle] at hexec
  refine ⟨_, ?_, idle_effect s⟩
  obtain h | h := hexec
  · exact h
  · exact h hs hs

end Sys2Proof.Machine

/-! ### MODE and the join masks (R356, R357, R397) -/

namespace Sys2Proof.Machine

/-! #### Which threads a team's joins may wait for -/

/-- Every thread of a team that waits at a JOIN waits at that of mask `n`. -/
def JoinsOnly (n : Nat) (m : Team) : Prop := ∀ e ∈ m.lanes, ∀ k, e.2.wait = .join k → k = n

/-- The same of a team, if it stands. -/
def JoinsOnlyAt (n core team : Nat) (s : State) : Prop := ∀ m, s.team? core team = some m → JoinsOnly n m

/-- A team of another state with the same workgroups. -/
theorem team?_of_wgs {s t : State} (h : t.wgs = s.wgs) (c n : Nat) : t.team? c n = s.team? c n := by
  simp only [State.team?, State.wg?, h]

theorem JoinsOnlyAt.of_wgs {n c k : Nat} {s t : State} (h : JoinsOnlyAt n c k s) (hw : t.wgs = s.wgs) : JoinsOnlyAt n c k t :=
  fun m hm => h m (by rwa [← team?_of_wgs hw])

theorem JoinsOnlyAt.setWaits {n c k : Nat} {s : State} (h : JoinsOnlyAt n c k s) (core : Nat) (p : Thread → Bool) {w : Wait}
    (hw : ∀ j, w ≠ .join j) : JoinsOnlyAt n c k (s.setWaits core p w) := by
  intro m hm
  unfold State.setWaits at hm
  rw [State.team?, wg?_modWg] at hm
  split at hm
  · cases hg : s.wg? c with
    | none =>
      rw [hg] at hm
      cases hm
    | some g =>
      rw [hg] at hm
      have hget := kvGet_map g.teams k (fun _ (m : Team) =>
        { m with lanes := m.lanes.map (fun (l : Nat × Thread) => if p l.2 then (l.1, { l.2 with wait := w }) else l) })
      obtain ⟨m0, hm0, rfl⟩ := Option.map_eq_some_iff.1 (hget.symm.trans hm)
      have h0 : JoinsOnly n m0 := h m0 (by rw [State.team?, hg]; exact hm0)
      intro e he j hj
      obtain ⟨e0, he0, rfl⟩ := List.mem_map.1 he
      split at hj
      · exact absurd hj (hw j)
      · exact h0 e0 he0 j hj
  · exact h m hm

/-- An acquire makes its threads ready, or leaves them waiting for its fence. -/
theorem JoinsOnlyAt.acquire {n c k : Nat} {s : State} (h : JoinsOnlyAt n c k s) (core uid : Nat) (tids : List Nat) (scope : Nat)
    (v : List Word) : JoinsOnlyAt n c k (s.acquire core uid tids scope v) := by
  have hstart : JoinsOnlyAt n c k (s.startFence core uid tids scope false true v) :=
    JoinsOnlyAt.setWaits (s := { s.bump with fences := s.fences ++ [⟨s.nextSeq, core, uid, tids ++ [uid], scope, false, true, v⟩] })
      (h.of_wgs rfl) core (fun t => tids.contains t.tid) (w := .fence s.nextSeq) fun _ => nofun
  rw [acquire_eq]
  split
  · refine JoinsOnlyAt.setWaits (hstart.of_wgs ?_) _ _ (fun _ => nofun)
    split
    · split <;> rfl
    · rw [mergeStamp_wgs]
      split <;> rfl
  · exact hstart

/-! #### The test of the masks -/

/-- The names of a team's threads that wait at the JOIN of mask `n`. -/
def Team.joiners (m : Team) (n : Nat) : List Nat := m.lanes.filterMap (fun e => if e.2.wait = .join n then some e.2.tid else none)

/-- The test of one mask (R356). -/
def State.joinStep (core team : Nat) (s : State) (n : Nat) : State :=
  match s.team? core team with
  | none => s
  | some m => if !(m.joiners n).isEmpty && m.joinMet n then s.acquire core m.uid (m.joiners n) 0 [] else s

theorem joinTest_eq (s : State) (core team : Nat) : s.joinTest core team = (List.range 8).foldl (State.joinStep core team) s := rfl

theorem joiners_other {m : Team} {n k : Nat} (h : JoinsOnly n m) (hk : k ≠ n) : m.joiners k = [] := by
  refine List.filterMap_eq_nil_iff.2 fun e he => if_neg fun hw => hk (h e he k hw)

theorem joinStep_other {s : State} {core team n k : Nat} (h : JoinsOnlyAt n core team s) (hk : k ≠ n) :
    s.joinStep core team k = s := by
  unfold State.joinStep
  cases ht : s.team? core team with
  | none => rfl
  | some m =>
    dsimp only
    rw [joiners_other (h m ht) hk]
    rfl

theorem JoinsOnlyAt.joinStep {s : State} {core team n : Nat} (h : JoinsOnlyAt n core team s) (k : Nat) :
    JoinsOnlyAt n core team (s.joinStep core team k) := by
  unfold State.joinStep
  cases s.team? core team with
  | none => exact h
  | some m =>
    dsimp only
    split
    · exact h.acquire _ _ _ _ _
    · exact h

/-- A fold in which one element alone acts. -/
theorem foldl_once {α β : Type} {f : α → β → α} {P : α → Prop} {y : β} (hother : ∀ s, P s → ∀ x, x ≠ y → f s x = s)
    (hkeeps : ∀ s, P s → P (f s y)) (l : List β) (hn : l.Nodup) (hy : y ∈ l) (s : α) (hs : P s) : l.foldl f s = f s y := by
  induction l with
  | nil => cases hy
  | cons x r ih =>
    obtain ⟨hx, hr⟩ := List.nodup_cons.1 hn
    rw [List.foldl_cons]
    by_cases hxy : x = y
    · subst hxy
      exact foldl_fixed f _ r fun z hz => hother _ (hkeeps s hs) z fun hzx => hx (hzx ▸ hz)
    · rw [hother s hs x hxy]
      exact ih hr ((List.mem_cons.1 hy).resolve_left fun h => hxy h.symm)

/-- Where the threads that wait all wait at one JOIN, the test is that of its mask. -/
theorem joinTest_once {s : State} {core team n : Nat} (h : JoinsOnlyAt n core team s) (hn : n < 8) :
    s.joinTest core team = s.joinStep core team n :=
  foldl_once (P := JoinsOnlyAt n core team) (fun _ hs _ hk => joinStep_other hs hk) (fun _ hs => hs.joinStep n) _ List.nodup_range
    (List.mem_range.2 hn) s h

theorem joinMet_iff (m : Team) (n : Nat) : m.joinMet n = true ↔
    ∀ l, l < 64 → (m.k n).getLsbD l = true → ∀ x, kvGet m.lanes l = some x → x.wait = .join n := by
  unfold Team.joinMet lanesOf
  rw [List.all_eq_true]
  simp only [List.mem_filter, List.mem_range, and_imp]
  refine forall_congr' fun l => imp_congr_right fun _ => imp_congr_right fun _ => ?_
  cases kvGet m.lanes l with
  | none => simp
  | some x => simp

/-! #### The mask instructions -/

/-- What stands in the issuing team's lanes once its subset has moved on. -/
theorem lanes_advance_onTeam {s : State} {M : Team → Team} (hM : ∀ m, (M m).lanes = m.lanes) {m : Team}
    (hm : (s.advance.onTeam M).team? s.cur.core s.cur.team = some m) {e : Nat × Thread} (he : e ∈ m.lanes) :
    (e.1 ∈ s.subset ∧ e.2.wait = .ready) ∨ (e.1 ∉ s.subset ∧ e ∈ s.team.lanes) := by
  unfold State.onTeam State.advance State.onLanes State.modLanes at hm
  rw [team?_modTeam, if_pos ⟨rfl, rfl⟩, team?_modTeam, if_pos ⟨rfl, rfl⟩] at hm
  cases ht : s.team? s.cur.core s.cur.team with
  | none =>
    rw [ht] at hm
    cases hm
  | some m0 =>
    rw [ht] at hm
    obtain rfl := Option.some.inj hm
    rw [hM] at he
    obtain ⟨e0, he0, rfl⟩ := List.mem_map.1 he
    have hteam : s.team = m0 := by rw [State.team, ht]; rfl
    by_cases h0 : e0.1 ∈ s.subset
    · rw [if_pos (List.contains_iff_mem.2 h0)]
      exact Or.inl ⟨h0, rfl⟩
    · rw [if_neg (fun hc => h0 (List.contains_iff_mem.1 hc))]
      exact Or.inr ⟨h0, hteam ▸ he0⟩

section
variable {s : State} {i : Instr} {g : BitVec 3} {f : State → Team → Team} {M : Team → Team} (hg : s.guardU g = true)
  (hw : i.wf = true) (e : exec i s = .next (s.maskSet i g f)) (hf : f s.advance = M) (hM : ∀ m, (M m).lanes = m.lanes)
include hg hw e hf

theorem maskSet_eq : exec i s = .next ((s.advance.onTeam M).joinTest s.cur.core s.cur.team).endIssue := by
  rw [e]
  unfold State.maskSet
  rw [hg, unifUnit_ok _ _ _ hw, hf]
  rfl

include hM

theorem maskSet_writes (hS : ∀ x y, teamShared x = teamShared y → teamShared (M x) = teamShared (M y))
    (hj : ∀ e ∈ s.team.lanes, e.1 ∉ s.subset → ∀ n, e.2.wait ≠ .join n) : WritesTeam s i M := by
  refine ⟨_, maskSet_eq hg hw e hf, ?_⟩
  rw [joinTest_none]
  · exact Effect.ends (Effect.teamWith (Effect.advance s) rfl M hM hS)
  · intro m hm e he n hn
    obtain ⟨-, hready⟩ | ⟨hout, hin⟩ := lanes_advance_onTeam hM hm he
    · rw [hready] at hn
      cases hn
    · exact hj e hin hout n hn

theorem maskSet_releases {n : Nat} (hn : n < 8) (hj : ∀ e ∈ s.team.lanes, e.1 ∉ s.subset → ∀ k, e.2.wait = .join k → k = n) :
    let u := s.advance.onTeam M
    let names := u.team.lanes.filterMap (fun e => if e.2.wait = .join n then some e.2.tid else none)
    ((names ≠ [] ∧ u.team.joinMet n = true) → exec i s = .next (u.acquire s.cur.core u.team.uid names 0 []).endIssue)
    ∧ (¬ (names ≠ [] ∧ u.team.joinMet n = true) → exec i s = .next u.endIssue) := by
  intro u names
  have honly : JoinsOnlyAt n s.cur.core s.cur.team u := by
    intro m hm e he k hk
    obtain ⟨-, hready⟩ | ⟨hout, hin⟩ := lanes_advance_onTeam hM hm he
    · rw [hready] at hk
      cases hk
    · exact hj e hin hout k hk
  have hexec : exec i s = .next (u.joinStep s.cur.core s.cur.team n).endIssue := by
    rw [maskSet_eq hg hw e hf, joinTest_once honly hn]
  have hstep : u.joinStep s.cur.core s.cur.team n
      = if names ≠ [] ∧ u.team.joinMet n = true then u.acquire s.cur.core u.team.uid names 0 [] else u := by
    unfold State.joinStep
    cases ht : u.team? s.cur.core s.cur.team with
    | none =>
      have hteam : u.team = Team.empty := by
        show (u.team? s.cur.core s.cur.team).getD Team.empty = _
        rw [ht]
        rfl
      have hnames : names = [] := by
        show u.team.joiners n = []
        rw [hteam]
        rfl
      rw [if_neg fun h => h.1 hnames]
    | some m =>
      have hteam : u.team = m := by
        show (u.team? s.cur.core s.cur.team).getD Team.empty = _
        rw [ht]
        rfl
      have hnames : names = m.joiners n := by
        show u.team.joiners n = _
        rw [hteam]
      rw [hnames, hteam]
      simp
  rw [hexec, hstep]
  exact ⟨fun h => by rw [if_pos h], fun h => by rw [if_neg h]⟩

end

theorem setK_of_shared (n : Nat) (f : Team → BitVec 64) (hf : ∀ x y, teamShared x = teamShared y → f x = f y) :
    ∀ x y, teamShared x = teamShared y → teamShared (x.setK n (f x)) = teamShared (y.setK n (f y)) := by
  intro x y h
  rw [hf x y h]
  exact (congrArg (fun m : Team => teamShared (m.setK n (f y))) h :)

theorem k_of_shared {x y : Team} (h : teamShared x = teamShared y) (n : Nat) : x.k n = y.k n :=
  (congrArg (fun m : Team => m.k n) h :)

/-- Settles O14: a mask is written, then tested; where the threads that wait all wait at one JOIN, the test is that of its mask. -/
theorem modeAndMasks : Obligations.ModeAndMasks := by
  unfold Obligations.ModeAndMasks
  refine ⟨fun s g a hg ha => ?_, fun s g d a b hg hj => ?_, fun s g d a b n hg hn hj => ?_, joinMet_iff⟩
  · refine unifSet_completes (i := .smode g a) rfl rfl hg (by rw [ha]; rfl) (fun _ => rfl) fun x y h => ?_
    rw [sr_of_shared h]
    exact (congrArg (fun m : Team => teamShared { m with mode := BitVec.ofNat 9 (y.sr a.toNat).toNat }) h :)
  · have two : ∀ (o : BitVec 64 → BitVec 64 → BitVec 64) (x y : Team), teamShared x = teamShared y →
        teamShared (x.setK d.toNat (o (x.k a.toNat) (x.k b.toNat))) = teamShared (y.setK d.toNat (o (y.k a.toNat) (y.k b.toNat))) :=
      fun o => setK_of_shared _ (fun m => o (m.k a.toNat) (m.k b.toNat)) fun x y h => by rw [k_of_shared h, k_of_shared h]
    exact ⟨maskSet_writes hg (i := .kset g d) rfl rfl rfl (fun _ => rfl) (setK_of_shared _ _ fun _ _ _ => rfl) hj,
      maskSet_writes hg (i := .kand g d a b) rfl rfl rfl (fun _ => rfl) (two _) hj,
      maskSet_writes hg (i := .kor g d a b) rfl rfl rfl (fun _ => rfl) (two _) hj,
      maskSet_writes hg (i := .kmov g d a) rfl rfl rfl (fun _ => rfl) (setK_of_shared _ _ fun x y h => k_of_shared h _) hj⟩
  · exact ⟨maskSet_releases hg (i := .kset g d) rfl rfl rfl (fun _ => rfl) hn hj,
      maskSet_releases hg (i := .kand g d a b) rfl rfl rfl (fun _ => rfl) hn hj,
      maskSet_releases hg (i := .kor g d a b) rfl rfl rfl (fun _ => rfl) hn hj,
      maskSet_releases hg (i := .kmov g d a) rfl rfl rfl (fun _ => rfl) hn hj⟩

end Sys2Proof.Machine

/-! ### Cross-lane work (R417 to R419) -/

namespace Sys2Proof.Machine

/-- A lane unit that writes its threads and raises flags of its own. -/
theorem raises_completes {s : State} {i : Instr} {gl : List Nat} {bad : Option Word} {f : State → Nat → Thread → Thread}
    {fl : State → FlagSet} {F : Nat → Thread → Thread} {K : FlagSet}
    (e : exec i s = .next (s.laneUnit i gl false bad false (fun t => (t.onLanes gl (f t)).raise (fl t)))) (hw : i.wf = true)
    (hb : bad = none) (hgl : ∀ l ∈ gl, l ∈ s.subset) (hF : f s.advance = F) (hK : fl s.advance = K) :
    Completes i s s (lanesWith gl F) (withFlags K) := by
  subst hF hK
  rw [hb] at e
  exact laneUnit_completes s s i gl _ _ _ e hw (Effect.teamWith (Effect.lanes (Effect.advance s) rfl gl hgl (f s.advance)) rfl
    (withFlags _) (fun _ => rfl) (withFlags_shared _))

/-- Settles O6: each unit reads its lanes, which moving on leaves as they were, and writes what they give. -/
theorem crossLaneResults : Obligations.CrossLaneResults := by
  unfold Obligations.CrossLaneResults
  intro s g p d a k gl
  refine ⟨fun hb hk => ?_, fun hb hk => ?_, fun hb hk => ?_, fun hb hk => ?_⟩
  · refine laneSet_completes (i := .vnbr g d a k) rfl (decide_eq_true hk) hb (mem_guarded s g) fun l x => ?_
    rw [neighbourReg_advance]
  · have hscan : scanVals s.advance.team.mode k.toNat none 0 (gl.map (fun l => (s.advance.lane l).v a.toNat))
        = scanVals s.team.mode k.toNat none 0 (gl.map (fun l => (s.lane l).v a.toNat)) := by
      simp only [mode_team_advance, v_lane_advance]
    refine raises_completes (i := .vscan g d a k) rfl (decide_eq_true hk) hb (mem_guarded s g) ?_ ?_
    · funext l x
      exact congrArg (fun r : List Word × FlagSet => x.setV d.toNat (r.1.getD (gl.idxOf l) 0)) hscan
    · exact congrArg Prod.snd hscan
  · have hred : redVals s.advance.team.mode k.toNat 6
          ((List.range 64).map (fun l => if gl.contains l then some ((s.advance.lane l).v a.toNat) else none))
        = redVals s.team.mode k.toNat 6 ((List.range 64).map (fun l => if gl.contains l then some ((s.lane l).v a.toNat) else none)) := by
      simp only [mode_team_advance, v_lane_advance]
    refine raises_completes (i := .vred g d a k) rfl (decide_eq_true hk) hb (mem_guarded s g) ?_ ?_
    · funext l x
      exact congrArg (fun r : Option Word × FlagSet => x.setV d.toNat (r.1.getD 0)) hred
    · exact congrArg Prod.snd hred
  · refine laneSet_completes (i := .vvote g d p k) rfl (decide_eq_true hk) hb (mem_guarded s g) fun l x => ?_
    simp only [p_lane_advance, gl]

end Sys2Proof.Machine

/-! ### Arrivals, waits and the barriers (R43, R314, R315, R355, R392, R421, R425) -/

namespace Sys2Proof.Machine

/-- The subset has moved on, some threads have arrived, and some of the subset wait until the arrival is counted (R43). -/
theorem arrives_effect (s : State) (ls wl : List Nat) (hwl : ∀ l ∈ wl, l ∈ s.subset) (bar : Option BarKey) (join : Option Nat)
    (sync : Bool) : UnitEffect s ((s.advance.arrive ls bar join sync).onLanes wl (fun _ x => { x with wait := .arrive s.nextSeq }))
      { s with arrivals := s.arrivals ++ [arrivalOf s (ls.map (fun l => (s.lane l).tid)) bar join sync]
               nextSeq := s.nextSeq + 1 }
      (lanesWith wl (fun _ x => { x with wait := .arrive s.nextSeq })) id := by
  rw [arrive_advance]
  have harrived := Effect.map (Effect.advance s) (fun x => { x with
    arrivals := s.arrivals ++ [arrivalOf s (ls.map (fun l => (s.lane l).tid)) bar join sync]
    nextSeq := s.nextSeq + 1 }) (fun _ => rfl) (fun _ _ => rfl)
  exact Effect.lanes harrived rfl wl hwl (fun _ x => { x with wait := .arrive s.nextSeq })

/-- Some of a subset that has moved on change. -/
theorem lanes_effect (s : State) {wl : List Nat} (hwl : ∀ l ∈ wl, l ∈ s.subset) (f : Nat → Thread → Thread) :
    UnitEffect s (s.advance.onLanes wl f) s (lanesWith wl f) id :=
  Effect.lanes (Effect.advance s) rfl wl hwl f

/-! #### WAITC, SFWAIT, JOIN, YIELD and SIBCHK -/

theorem sfwait_completes (s : State) (g : BitVec 3) (mask : BitVec 16) :
    let nos := (sfTokens s.team.sfNo mask).filter (fun n => s.sfqs.any (fun x => x.uid = s.team.uid && x.no = n))
    Completes (.sfwait g mask) s s (lanesWith (s.guarded g) (fun _ x => if nos = [] then x else { x with wait := .sfwait nos })) id := by
  intro nos
  have hnos : (sfTokens s.advance.team.sfNo mask).filter (fun n => s.sfqs.any (fun x => x.uid = s.advance.team.uid && x.no = n)) = nos := by
    rw [sfNo_team_advance, uid_team_advance]
  have hexec : exec (.sfwait g mask) s = .next (if nos.isEmpty then s.advance
      else s.advance.onLanes (s.guarded g) (fun _ x => { x with wait := .sfwait nos })).endIssue := by
    show execSfwait g mask s = _
    unfold execSfwait
    dsimp only
    rw [laneUnit_ok _ _ _ _ rfl]
    exact congrArg (fun ns : List Nat => Host.Outcome.next (if ns.isEmpty then s.advance
      else s.advance.onLanes (s.guarded g) (fun _ x => { x with wait := .sfwait ns })).endIssue) hnos
  refine ⟨_, hexec, Effect.ends ?_⟩
  by_cases h : nos = []
  · rw [if_pos (List.isEmpty_iff.2 h)]
    refine Effect.lanesEq (Effect.advance s) fun l x => ?_
    simp only [h, if_true, lanesWith, ite_self]
  · rw [if_neg (mt List.isEmpty_iff.1 h)]
    simp only [h, if_false]
    exact lanes_effect s (mem_guarded s g) _

theorem join_completes (s : State) (g k : BitVec 3) :
    let ls := (s.guarded g).filter (fun l => (s.team.k k.toNat).getLsbD l)
    Completes (.join g k) s
      (if ls = [] then s else
        { s with arrivals := s.arrivals ++ [arrivalOf s (ls.map (fun l => (s.lane l).tid)) none (some k.toNat) true]
                 nextSeq := s.nextSeq + 1 })
      (lanesWith ls (fun _ x => { x with wait := .arrive s.nextSeq })) id := by
  intro ls
  have hexec : exec (.join g k) s = .next (if ls.isEmpty then s.advance
      else (s.advance.arrive ls none (some k.toNat) true).onLanes ls (fun _ x => { x with wait := .arrive s.nextSeq })).endIssue := by
    show execJoin g k s = _
    unfold execJoin
    dsimp only
    rw [laneUnit_ok _ _ _ _ rfl, k_team_advance]
    rfl
  refine ⟨_, hexec, Effect.ends ?_⟩
  by_cases h : ls = []
  · rw [if_pos (List.isEmpty_iff.2 h), if_pos h, h]
    exact Effect.lanesEq (Effect.advance s) fun _ _ => (if_neg List.not_mem_nil).symm
  · rw [if_neg (mt List.isEmpty_iff.1 h), if_neg h]
    exact arrives_effect s ls ls (fun l hl => mem_guarded s g l (List.mem_of_mem_filter hl)) none (some k.toNat) true

/-- A uniform unit of a body of its own, with no register to check. -/
theorem unifBody_completes {s r : State} {i : Instr} {guard : Bool} {body : State → State} {F : Nat → Thread → Thread} {M : Team → Team}
    (e : exec i s = .next (s.unifUnit i guard none false body)) (hg : guard = true) (hw : i.wf = true)
    (h : UnitEffect s (body s.advance) r F M) : Completes i s r F M :=
  unifUnit_completes s r i body F M (hg ▸ e) hw h

theorem yield_completes {s : State} {g : BitVec 3} (hg : s.guardU g = true) (ht : s.told = false) :
    Completes (.yield g) s s (fun _ x => x) (fun m => { m with rank := 0 }) := by
  refine unifBody_completes (i := .yield g) rfl hg rfl ?_
  have hstay : ¬ ((s.advance.wg? s.advance.cur.core).map (·.told)).getD false = true :=
    Bool.eq_false_iff.1 ((told_advance s).trans ht)
  rw [if_neg hstay]
  exact Effect.teamWith (Effect.advance s) rfl _ (fun _ => rfl) fun x y h =>
    (congrArg (fun m : Team => teamShared { m with rank := 0 }) h :)

/-- Settles O23: each wait is left in the threads that the word names. -/
theorem waitsAndYield : Obligations.WaitsAndYield := by
  unfold Obligations.WaitsAndYield
  refine fun s g k ld st cp mx mask => ⟨fun hg => ?_, sfwait_completes s g mask, join_completes s g k, yield_completes, fun hg hv => ?_⟩
  · exact unifBody_completes (i := .waitc g ld st cp mx) rfl hg rfl (lanes_effect s (fun _ h => h) _)
  · refine unifBody_completes (i := .sibchk g) rfl hg rfl ?_
    rw [votes_advance, told_advance, hv]
    exact Effect.advance s

/-! #### BAR -/

/-- A barrier instruction that passes its checks and meets no cancellation. -/
theorem barBody_completes {s r : State} {i : Instr} {g : BitVec 3} {lvl : BitVec 2} {body : State → State} {F : Nat → Thread → Thread}
    {M : Team → Team} (e : exec i s = .next (s.barUnit i g lvl body)) (hw : i.wf = true) (hg : s.guardU g = true)
    (hc : lvl = 2 → (s.hdr s.cur.core).cluster = true) (ht : lvl ≠ 0 → s.told = false) (h : UnitEffect s (body s.advance) r F M) :
    Completes i s r F M :=
  ⟨_, e.trans (congrArg _ (barUnit_ok s i g lvl body hw hg hc ht)), Effect.ends h⟩

theorem lastArrival_lane_advance (s : State) (l : Nat) (k : BarKey) : (s.advance.lane l).lastArrival k = (s.lane l).lastArrival k := by
  simp only [Thread.lastArrival, arrived_lane_advance]

/-- The threads of the issuing subset with an arrival in the phase under way, or one not counted yet (R43, R314). -/
def State.rearriving (s : State) (k : BarKey) : List Nat :=
  s.subset.filter (fun l =>
    (match (s.lane l).lastArrival k with | some (p, _) => p = (s.barrier s.cur.core s.cur.team k).phase | none => false)
      || s.arrivals.any (fun (a : Arrival) => a.bar = some k && a.agents.contains (s.lane l).tid))

theorem rearriving_advance (s : State) (k : BarKey) : s.advance.rearriving k = s.rearriving k := by
  unfold State.rearriving
  simp only [lastArrival_lane_advance, tid_lane_advance, barrier_advance, cur_advance, subset_advance]
  rfl

theorem rearrives_effect (s : State) (k : BarKey) : UnitEffect s
    ((s.advance.arrive s.subset (some k) none false).onLanes (s.advance.rearriving k) (fun _ x => { x with wait := .arrive s.nextSeq }))
    { s with arrivals := s.arrivals ++ [arrivalOf s (s.subset.map (fun l => (s.lane l).tid)) (some k) none false]
             nextSeq := s.nextSeq + 1 }
    (lanesWith (s.rearriving k) (fun _ x => { x with wait := .arrive s.nextSeq })) id := by
  rw [rearriving_advance]
  exact arrives_effect s s.subset _ (fun l hl => List.mem_of_mem_filter hl) (some k) none false

/-- Settles O24: the arrivals and waits of the three, which read what moving on leaves as it was. -/
theorem barrierArrivalsAndWaits : Obligations.BarrierArrivalsAndWaits := by
  unfold Obligations.BarrierArrivalsAndWaits
  intro s g lvl n hg hn hc ht k phase arr again
  have hall : ∀ l ∈ s.subset, l ∈ s.subset := fun _ h => h
  refine ⟨?_, ?_, fun hp => ?_⟩
  · exact barBody_completes (i := .barSync g lvl n) rfl hn hg hc ht (arrives_effect s s.subset s.subset hall (some k) none true)
  · refine barBody_completes (i := .barArv g lvl n) rfl hn hg hc ht ?_
    exact rearrives_effect s k
  · refine barBody_completes (i := .barWait g lvl n) rfl hn hg hc ht ?_
    have hpass : s.advance.subset.filter (fun l => (s.advance.lane l).waitPasses k
        (s.advance.barrier s.advance.cur.core s.advance.cur.team k).phase) = [] := by
      refine List.filter_eq_nil_iff.2 fun l hl => ?_
      rw [waitPasses_lane_advance, cur_advance, barrier_advance, hp l hl]
      exact Bool.false_ne_true
    dsimp only
    rw [hpass, cur_advance, barrier_advance]
    exact lanes_effect s hall _

theorem setSr_effect (s : State) (d : Nat) (r : Word) :
    UnitEffect s (s.advance.onTeam (fun m => m.setSr d r)) s (fun _ x => x) (fun m => m.setSr d r) :=
  Effect.teamWith (Effect.advance s) rfl _ (fun _ => rfl) (setSr_shared d r)

/-- Settles O25: the barrier is read as it stands at the issue. -/
theorem barrierQuery : Obligations.BarrierQuery := by
  unfold Obligations.BarrierQuery
  intro s g lvl n d hg hn hc hd b
  refine unifBody_completes (i := .barQry g lvl n d) rfl hg hn ?_
  have hcluster : ¬ (decide (lvl.toNat = 2) && !(s.advance.hdr s.advance.cur.core).cluster) = true := by
    rw [cur_advance, hdr_advance]
    intro h
    simp only [Bool.and_eq_true, decide_eq_true_eq, Bool.not_eq_true'] at h
    rw [hc (BitVec.eq_of_toNat_eq h.1)] at h
    exact absurd h.2 (by decide)
  have hbad : badS1 d = none := if_pos (decide_eq_true hd)
  rw [if_neg hcluster, hbad, cur_advance, barrier_advance]
  exact setSr_effect s d.toNat b.query

end Sys2Proof.Machine

/-! ### Arrival words and WAITM (R305 to R309, R422, R423) -/

namespace Sys2Proof.Machine

/-! #### Arrival words -/

section
variable {s : State} {g : BitVec 3} {a : BitVec 7} (hg : s.guardU g = true) (ha : sOk a = true)
  (h8 : (s.team.sr a.toNat).toNat % 8 = 0) (hs : (s.team.sr a.toNat).toNat + 8 ≤ s.scratchBytes s.cur.core)
include hg h8 hs

/-- An instruction of an arrival word whose checks pass acts at the word. -/
theorem awBody_completes {r : State} {i : Instr} {bad : Option Word} {body : State → Nat → State} {F : Nat → Thread → Thread}
    {M : Team → Team} (e : exec i s = .next (s.awUnit i g a bad body)) (hb : bad = none) (hw : i.wf = true)
    (h : UnitEffect s (body s.advance (scratchKey s.cur.core (s.team.sr a.toNat).toNat)) r F M) : Completes i s r F M := by
  rw [hb] at e
  exact ⟨_, e.trans (congrArg _ (awUnit_ok s i g a body hw hg h8 hs)), Effect.ends h⟩

include ha

theorem awinit_completes {b : BitVec 7} (hb : sOk b = true) :
    let w : WEntry := ⟨s.nextSeq + 1, s.cur.core, s.team.uid,
      .team (((s.wg? s.cur.core).map (·.launch)).getD 0) s.team.uid s.nextSeq (s.team.stCount + 1),
      scratchKey s.cur.core (s.team.sr a.toNat).toNat,
      toBytes 8 ((s.team.sr b.toNat).toNat % 0x1000000 * 0x100000000), none, some (s.ctxOf s.cur.core),
      (s.team.sr a.toNat).zeroExtend 64, false⟩
    Completes (.awinit g a b) s
      { s with stbuf := s.stbuf ++ [w], writes := s.writes ++ [tracked w], nextSeq := s.nextSeq + 2 }
      (fun _ x => x) (fun m => { m with st := m.st ++ [⟨s.nextSeq, false⟩], stCount := m.stCount + 1 }) :=
  awBody_completes hg h8 hs (i := .awinit g a b) rfl (firstBad_two ha hb _ _ _ _) rfl (unifStore_effect s _ _ _)

theorem awqry_completes {d : BitVec 7} (hd : sOk d = true) :
    Completes (.awqry g a d) s { s with
        loads := s.loads ++ [⟨s.nextSeq + 1, s.cur.core, s.cur.team, s.team.uid, s.team.uid,
          scratchKey s.cur.core (s.team.sr a.toNat).toNat, 8, 0, .awqry d.toNat, s.nextSeq, (s.team.sr a.toNat).zeroExtend 64⟩]
        nextSeq := s.nextSeq + 2 }
      (fun _ x => x) (fun m => { m with ld := m.ld ++ [⟨s.nextSeq, false⟩] }) := by
  refine awBody_completes hg h8 hs (i := .awqry g a d) rfl (firstBad_two hd ha _ _ _ _) rfl ?_
  rw [sr_team_advance]
  exact unifLoad_effect s _ 8 _ _

theorem awwait_completes {b : BitVec 7} (hb : sOk b = true)
    (hgen : ((s.unifView s.team.uid (scratchKey s.cur.core (s.team.sr a.toNat).toNat) 8).getD 7 0).toNat
      = (s.team.sr b.toNat).toNat % 256) :
    Completes (.awwait g a b) s s (lanesWith s.subset (fun _ x =>
      { x with wait := .awwait (s.team.sr a.toNat).toNat ((s.team.sr b.toNat).toNat % 256) })) id := by
  refine awBody_completes hg h8 hs (i := .awwait g a b) rfl (firstBad_two ha hb _ _ _ _) rfl ?_
  have hstands : ¬ ((s.advance.unifView s.advance.team.uid (scratchKey s.cur.core (s.team.sr a.toNat).toNat) 8).getD 7 0).toNat
      ≠ (s.team.sr b.toNat).toNat % 256 := by
    rw [uid_team_advance]
    exact not_not.2 hgen
  dsimp only
  rw [if_neg hstands]
  exact lanes_effect s (fun _ h => h) _

end

/-! #### WAITM -/

/-- The test of a WAITM whose subset has moved on reads what it read before. -/
theorem waitmStart_advance (s : State) (addr : DWord) (key cond : Nat) (y : Word) : s.advance.waitmStart addr key cond y =
    if intCond cond (BitVec.ofNat 32 (s.homeNat (s.ctxOf s.cur.core) key 4)) y
    then s.advance.acquire s.cur.core s.team.uid s.subsetTids 2 (s.stampFrom s.cur.core key)
    else s.advance.onLanes s.subset (fun _ x => { x with wait := .waitm addr key cond y }) := by
  unfold State.waitmStart
  rw [cur_advance, ctxOf_advance, homeNat_advance, uid_team_advance, subsetTids_advance]
  rfl

/-- The body of WAITM's unit makes its test where its access reaches a word (R422, R423). -/
theorem execWaitm_reaching (g : BitVec 3) (c : BitVec 4) (a b : BitVec 7) (s : State) : ∃ body,
    execWaitm g c a b s = finish (s.unifUnit (.waitm g c a b) (s.guardU g) (firstBad [(s2Ok a, 1, a.toNat), (sOk b, 2, b.toNat)])
      false body)
    ∧ ∀ (t : State) (key : Nat), reaches t (s.team.sr2 a.toNat) 4 false = some key → t.firewallOk (t.ctxOf t.cur.core) key = true →
      (∀ va, t.place t.cur.core (s.team.sr2 a.toNat) 4 = .virt va → memExists t.part key = true) →
      body t = t.waitmStart (s.team.sr2 a.toNat) key c.toNat (s.team.sr b.toNat) := by
  refine ⟨_, rfl, fun t key hr hf hm => ?_⟩
  unfold reaches at hr
  split at hr
  · cases hr
  next h4 =>
    cases hp : t.place t.cur.core (s.team.sr2 a.toNat) 4 with
    | invalid =>
      rw [hp] at hr
      cases hr
    | window k =>
      rw [hp] at hr
      obtain rfl := Option.some.inj hr
      exact (if_neg h4).trans (if_pos hf)
    | virt va =>
      rw [hp] at hr
      dsimp only at hr
      refine (if_neg h4).trans ?_
      show (match t.translate t.cur.core (t.ctxOf t.cur.core) va false false with
        | .ok key => if t.firewallOk (t.ctxOf t.cur.core) key then
            (t.checkMem key).waitmStart (s.team.sr2 a.toNat) key c.toNat (s.team.sr b.toNat) else t.firewallFault t.cur.core va none
        | .sealed => _
        | .refused => _
        | .miss => _
        | .fault k => _) = _
      cases ht : t.translate t.cur.core (t.ctxOf t.cur.core) va false false with
      | ok k =>
        rw [ht] at hr
        obtain rfl := Option.some.inj hr
        exact (if_pos hf).trans (by rw [checkMem_ok t k (hm va hp)])
      | _ =>
        rw [ht] at hr
        cases hr

theorem execWaitm_reached {s : State} {g : BitVec 3} {c : BitVec 4} {a b : BitVec 7} {key : Nat} (hg : s.guardU g = true)
    (hc : intCondOk c = true) (ha : s2Ok a = true) (hb : sOk b = true) (hr : reaches s (s.team.sr2 a.toNat) 4 false = some key)
    (hf : s.firewallOk (s.ctxOf s.cur.core) key = true)
    (hm : ∀ va, s.place s.cur.core (s.team.sr2 a.toNat) 4 = .virt va → memExists s.part key = true) :
    execWaitm g c a b s = finish (s.advance.waitmStart (s.team.sr2 a.toNat) key c.toNat (s.team.sr b.toNat)).endIssue := by
  obtain ⟨body, he, hbody⟩ := execWaitm_reaching g c a b s
  have hstart := hbody s.advance key ((reaches_advance s _ 4 false).trans hr) (by rw [cur_advance, ctxOf_advance]; exact hf)
    (fun va hp => hm va (by rwa [cur_advance, place_advance] at hp))
  rw [he, hg, firstBad_two ha hb, unifUnit_ok _ (.waitm g c a b) _ hc, hstart]

/-- Settles O27: the arrival words' checks pass and their accesses are made; WAITM's test decides between its wait and an
acquire. -/
theorem arrivalWordsAndWaitOnWord : Obligations.ArrivalWordsAndWaitOnWord := by
  unfold Obligations.ArrivalWordsAndWaitOnWord
  refine ⟨fun s g a b d hg ha => ?_, fun s g c a b key hg hc ha hb hs => ?_⟩
  · dsimp only
    intro h8 hbytes
    exact ⟨awinit_completes hg ha h8 hbytes, awqry_completes hg ha h8 hbytes, fun hb => awwait_completes hg ha h8 hbytes hb⟩
  · intro addr y hr hf hm holds
    have hexec : exec (.waitm g c a b) s = finish (s.advance.waitmStart addr key c.toNat y).endIssue :=
      execWaitm_reached hg (decide_eq_true hc) ha hb hr hf hm
    rw [waitmStart_advance] at hexec
    refine ⟨fun h => ?_, fun h => ?_⟩
    · rw [if_neg (Bool.eq_false_iff.1 h)] at hexec
      exact ⟨_, finish_next _ _ hexec (by rw [stop_endIssue, stop_onLanes, stop_advance]; exact hs), Effect.ends (lanes_effect s (fun _ hl => hl) _)⟩
    · rw [if_pos h] at hexec
      exact finish_next _ _ hexec (by rw [stop_endIssue, stop_acquire, stop_advance]; exact hs)

end Sys2Proof.Machine

/-! ### SEAL and UNSEAL (R386 to R388) -/

namespace Sys2Proof.Machine

theorem walk_advance (s : State) (ctx va : Nat) : s.advance.walk ctx va = s.walk ctx va := rfl

theorem regionFault_advance (s : State) (ctx : Nat) (needW : Bool) (stop fuel : Nat) : ∀ va,
    s.advance.regionFault ctx needW stop fuel va = s.regionFault ctx needW stop fuel va := by
  induction fuel with
  | zero => exact fun _ => rfl
  | succ fuel ih =>
    intro va
    unfold State.regionFault
    rw [walk_advance]
    simp only [ih]

/-- The state with one request of the Keystone controller more, and its fence (R388). -/
def State.withSeal (s : State) (r : SealReq) (tids : List Nat) : State :=
  { s with seals := s.seals ++ [r]
           fences := s.fences ++ [⟨r.id, r.core, r.uid, tids ++ [r.uid], 2, true, true, []⟩]
           nextSeq := s.nextSeq + 1 }

/-- The request of the unit under way. -/
def sealRequest (s : State) (base : DWord) (pages : Nat) (unsl : Bool) : SealReq :=
  ⟨s.nextSeq, s.cur.core, s.team.uid, s.ctxOf s.cur.core, base, pages, unsl, false, []⟩

/-- A region inside the address space passes the check of R387. -/
theorem region_inside {base pages : Nat} (hin : nbits base 63 57 = 0) (hdev : nbits base 56 48 ≠ 0x1FF)
    (hend : base + 0x20000 * pages ≤ 2 ^ 57) :
    ¬ (nbits base 63 57 ≠ 0 || nbits base 56 48 = 0x1FF || 2 ^ 57 < base + 131072 * pages) = true := by
  simp only [Bool.or_eq_true, decide_eq_true_eq]
  omega

section
variable {s : State} {i : Instr} {g : BitVec 3} {a b : BitVec 7} {unsl : Bool} (hg : s.guardU g = true) (ha : s2Ok a = true)
  (hb : sOk b = true) (hw : i.wf = true) (h17 : (s.team.sr2 a.toNat).toNat % 0x20000 = 0)
  (hin : nbits (s.team.sr2 a.toNat).toNat 63 57 = 0) (hdev : nbits (s.team.sr2 a.toNat).toNat 56 48 ≠ 0x1FF)
  (hend : (s.team.sr2 a.toNat).toNat + 0x20000 * (s.team.sr b.toNat).toNat ≤ 2 ^ 57)
include hg ha hb hw h17 hin hdev hend

theorem sealForm_none (hp : (s.team.sr b.toNat).toNat = 0) : s.sealForm i g a b unsl = s.advance.endIssue := by
  unfold State.sealForm
  dsimp only
  rw [hg, firstBad_two ha hb, unifUnit_ok _ _ _ hw, if_neg (by omega), if_neg (region_inside hin hdev hend), if_pos hp]

theorem sealForm_sends (hp : (s.team.sr b.toNat).toNat ≠ 0)
    (hr : s.regionFault (s.ctxOf s.cur.core) (!unsl) ((s.team.sr2 a.toNat).toNat + 0x20000 * (s.team.sr b.toNat).toNat)
      (s.team.sr b.toNat).toNat (s.team.sr2 a.toNat).toNat = none) :
    s.sealForm i g a b unsl = ((s.advance.withSeal (sealRequest s (s.team.sr2 a.toNat) (s.team.sr b.toNat).toNat unsl)
      s.subsetTids).onLanes s.subset (fun _ x => { x with wait := .seal s.nextSeq })).endIssue := by
  unfold State.sealForm
  dsimp only
  rw [hg, firstBad_two ha hb, unifUnit_ok _ _ _ hw, if_neg (by omega), if_neg (region_inside hin hdev hend), if_neg hp, cur_advance, ctxOf_advance,
    regionFault_advance, hr]
  dsimp only
  rw [uid_team_advance, subsetTids_advance]
  rfl

theorem sealForm_completes (e : exec i s = .next (s.sealForm i g a b unsl)) :
    ((s.team.sr b.toNat).toNat = 0 → Completes i s s (fun _ x => x) id)
    ∧ ((s.team.sr b.toNat).toNat ≠ 0 →
      s.regionFault (s.ctxOf s.cur.core) (!unsl) ((s.team.sr2 a.toNat).toNat + 0x20000 * (s.team.sr b.toNat).toNat)
        (s.team.sr b.toNat).toNat (s.team.sr2 a.toNat).toNat = none →
      Completes i s (s.withSeal (sealRequest s (s.team.sr2 a.toNat) (s.team.sr b.toNat).toNat unsl) s.subsetTids)
        (lanesWith s.subset (fun _ x => { x with wait := .seal s.nextSeq })) id) := by
  refine ⟨fun hp => ?_, fun hp hr => ?_⟩
  · rw [sealForm_none hg ha hb hw h17 hin hdev hend hp] at e
    exact ⟨_, e, idle_effect s⟩
  · rw [sealForm_sends hg ha hb hw h17 hin hdev hend hp hr] at e
    have hsent := Effect.map (Effect.advance s)
      (fun x => x.withSeal (sealRequest s (s.team.sr2 a.toNat) (s.team.sr b.toNat).toNat unsl) s.subsetTids) (fun _ => rfl) (fun _ _ => rfl)
    exact ⟨_, e, Effect.ends (Effect.lanes hsent rfl s.subset (fun _ h => h) (fun _ x => { x with wait := .seal s.nextSeq }))⟩

end

/-- Settles O33: past the checks, no page asks for nothing, and a region without a fault sends its request. -/
theorem sealRequests : Obligations.SealRequests := by
  unfold Obligations.SealRequests
  intro s g a b hg ha hb base pages h17 hin hdev hend
  exact ⟨sealForm_completes (i := .seal g a b) hg ha hb rfl h17 hin hdev hend rfl,
    sealForm_completes (i := .unseal g a b) hg ha hb rfl h17 hin hdev hend rfl⟩

end Sys2Proof.Machine

/-! ### Queue operations (R372 to R375) -/

namespace Sys2Proof.Machine

/-- Is a hardware queue full of entries and of pushes on their way to it? -/
def State.queueFull (s : State) (n : Nat) : Bool :=
  match kvGet s.hwqs n with
  | some q => decide (2 ^ q.logcap ≤ s.queueLoad n q)
  | none => false

theorem queueFull_iff (s : State) (n : Nat) :
    s.queueFull n = true ↔ ∃ q, kvGet s.hwqs n = some q ∧ 2 ^ q.logcap ≤ s.queueLoad n q := by
  unfold State.queueFull
  cases kvGet s.hwqs n with
  | none => simp
  | some q => simp

/-- A push's entry, as it stands at the issue (R373). -/
def State.queueEntry (s : State) (a op : Nat) (long : Bool) : List Byte :=
  if op ≠ 0 then [] else if long then s.readBytes (scratchKey s.cur.core (s.team.sr a).toNat) 64 else toBytes 8 (s.team.sr2 a).toNat

theorem queueEntry_advance (s : State) (a op : Nat) (long : Bool) : s.advance.queueEntry a op long = s.queueEntry a op long := by
  unfold State.queueEntry
  rw [sr_team_advance, sr2_team_advance, cur_advance]
  rfl

/-- The operation of the unit under way. -/
def queueOpOf (s : State) (d a op : Nat) (long : Bool) : QOp :=
  ⟨s.nextSeq, op, (s.team.sr d).toNat % 2 ^ 31, s.cur.core, s.cur.team, s.team.uid, s.subsetTids ++ [s.team.uid], d,
    if long then (s.team.sr a).toNat else a, s.queueEntry a op long, s.team.stCount⟩

/-- A push counts in ST, a pop or a try in LD (R373 to R375). -/
def Team.countQueueOp (op tok : Nat) (m : Team) : Team :=
  if op = 0 then { m with st := m.st ++ [⟨tok, false⟩] } else { m with ld := m.ld ++ [⟨tok, false⟩] }

theorem countQueueOp_lanes (op tok : Nat) (m : Team) : (m.countQueueOp op tok).lanes = m.lanes := by
  unfold Team.countQueueOp
  split <;> rfl

theorem teamShared_countQueueOp (op tok : Nat) (m : Team) :
    teamShared (m.countQueueOp op tok) = (teamShared m).countQueueOp op tok := by
  unfold Team.countQueueOp
  split <;> rfl

theorem queueForm_sends {s : State} {i : Instr} {g : BitVec 3} {d a : BitVec 7} {op : Nat} {long w : Bool} (hg : s.guardU g = true)
    (hd : sOk d = true) (ha : (if long then sOk a else s2Ok a) = true) (hw : i.wf = true)
    (hwaits : (op = 1 || (op = 0 && s.queueFull ((s.team.sr d.toNat).toNat % 2 ^ 31))) = w)
    (hk : s.queueTrap (s.team.sr d.toNat) (s.team.sr a.toNat).toNat long = none) :
    let u := State.onTeam { s.advance with
      qops := s.qops ++ [queueOpOf s d.toNat a.toNat op long], nextSeq := s.nextSeq + 1 } (Team.countQueueOp op s.nextSeq)
    s.queueForm i g d a op long
      = (if w then u.onLanes s.subset (fun _ x => { x with wait := .queue s.nextSeq }) else u).endIssue := by
  subst hwaits
  intro u
  unfold State.queueForm
  dsimp only
  rw [hg, firstBad_two hd ha, unifUnit_ok _ _ _ hw, queueTrap_advance, hk]
  dsimp only
  rw [uid_team_advance, subsetTids_advance, stCount_team_advance, sr2_team_advance]
  rfl

/-- What a queue instruction in scope does: it sends its operation, counts it, and leaves its subset waiting where it waits. -/
theorem queueForm_completes {s : State} {i : Instr} {g : BitVec 3} {d a : BitVec 7} {op : Nat} {long w : Bool}
    (e : exec i s = .next (s.queueForm i g d a op long)) (hg : s.guardU g = true) (hd : sOk d = true)
    (ha : (if long then sOk a else s2Ok a) = true) (hw : i.wf = true)
    (hwaits : (op = 1 || (op = 0 && s.queueFull ((s.team.sr d.toNat).toNat % 2 ^ 31))) = w)
    (hk : s.queueTrap (s.team.sr d.toNat) (s.team.sr a.toNat).toNat long = none) :
    Completes i s { s with qops := s.qops ++ [queueOpOf s d.toNat a.toNat op long], nextSeq := s.nextSeq + 1 }
      (lanesWith s.subset (fun _ x => if w then { x with wait := .queue s.nextSeq } else x)) (Team.countQueueOp op s.nextSeq) := by
  have hsent := Effect.map (Effect.advance s) (fun x => { x with
    qops := s.qops ++ [queueOpOf s d.toNat a.toNat op long], nextSeq := s.nextSeq + 1 }) (fun _ => rfl) (fun _ _ => rfl)
  have hcounted := Effect.teamWith hsent rfl (Team.countQueueOp op s.nextSeq) (countQueueOp_lanes _ _) fun x y h => by
    rw [teamShared_countQueueOp, teamShared_countQueueOp, h]
  rw [queueForm_sends hg hd ha hw hwaits hk] at e
  refine ⟨_, e, Effect.ends ?_⟩
  cases w with
  | true => exact Effect.lanes hcounted rfl s.subset (fun _ h => h) (fun _ x => { x with wait := .queue s.nextSeq })
  | false => exact Effect.lanesEq hcounted fun l x => (ite_self _).symm

/-- Settles O34: the six instructions are one form, of a push, a pop or a try, each with eight bytes or with a line. -/
theorem queueOperationsSent : Obligations.QueueOperationsSent := by
  unfold Obligations.QueueOperationsSent
  intro s g d a hg hd h n off names full sent
  have pushWaits : ∀ w : Bool, (w = true ↔ full) → s.queueFull n = w := fun w hw =>
    Bool.eq_iff_iff.2 ((queueFull_iff s n).trans hw.symm)
  refine ⟨fun ha => ⟨fun w hw => ?_, ?_, ?_⟩, fun ha => ⟨fun w hw => ?_, ?_, ?_⟩⟩
  · exact queueForm_completes (i := .qpushD g d a) (op := 0) (long := false) rfl hg hd ha rfl (pushWaits w hw)
  · exact queueForm_completes (i := .qpopD g d a) (op := 1) (long := false) rfl hg hd ha rfl rfl
  · exact queueForm_completes (i := .qtryD g d a) (op := 2) (long := false) rfl hg hd ha rfl rfl
  · exact queueForm_completes (i := .qpushL g d a) (op := 0) (long := true) rfl hg hd ha rfl (pushWaits w hw)
  · exact queueForm_completes (i := .qpopL g d a) (op := 1) (long := true) rfl hg hd ha rfl rfl
  · exact queueForm_completes (i := .qtryL g d a) (op := 2) (long := true) rfl hg hd ha rfl rfl

end Sys2Proof.Machine

/-! ### Prefixes (R276 to R279, R339, R368) -/

namespace Sys2Proof.Machine

/-! #### The words that EXT and PAT may govern -/

/-- The instructions that take an EXT: MOVI and the lane accesses (R276, R277). -/
def extGoverned : Instr → Bool
  | .movi _ _ _ | .ldB _ _ _ _ | .ldSb _ _ _ _ | .ldH _ _ _ _ | .ldSh _ _ _ _ | .ldW _ _ _ _ | .ldD _ _ _ _ | .ldQ _ _ _ _
    | .prf _ _ _ | .stB _ _ _ _ | .stH _ _ _ _ | .stW _ _ _ _ | .stD _ _ _ _ | .stQ _ _ _ _ => true
  | _ => false

/-- The instructions that take a PAT: those of lane groups 0x00 to 0x0B (R278). -/
def patGoverned : Instr → Bool
  | .iadd _ _ _ _ | .isub _ _ _ _ | .imul _ _ _ _ | .imulh _ _ _ _ | .imulhu _ _ _ _ | .imad _ _ _ _ | .imin _ _ _ _
    | .imax _ _ _ _ | .iminu _ _ _ _ | .imaxu _ _ _ _ | .isel _ _ _ _ | .iabsd _ _ _ _ | .and _ _ _ _ | .or _ _ _ _
    | .xor _ _ _ _ | .andn _ _ _ _ | .shl _ _ _ _ | .shr _ _ _ _ | .shra _ _ _ _ | .rotl _ _ _ _ | .popc _ _ _ | .clz _ _ _
    | .brev _ _ _ | .bfx _ _ _ _ | .bfi _ _ _ _ | .icmp _ _ _ _ _ | .fcmp _ _ _ _ _ | .mov _ _ _ | .fadd _ _ _ _
    | .fsub _ _ _ _ | .fmul _ _ _ _ | .ffma _ _ _ _ | .fmin _ _ _ _ | .fmax _ _ _ _ | .frnd _ _ _ _ | .fcvt _ _ _ _
    | .hadd2 _ _ _ _ | .hmul2 _ _ _ _ | .hfma2 _ _ _ _ | .hmax2 _ _ _ _ | .badd2 _ _ _ _ | .bmul2 _ _ _ _ | .bfma2 _ _ _ _
    | .bmax2 _ _ _ _ | .dadd _ _ _ _ | .dmul _ _ _ _ | .dfma _ _ _ _ | .dcvt _ _ _ _ => true
  | _ => false

theorem fld_of_setGroup {w : Word} {n : Nat} (h : setGroup w = n) (hn : n < 32) : fld w.toNat 31 1 = 0 ∧ fld w.toNat 26 5 = n := by
  unfold setGroup at h
  simp only [fld, Nat.reducePow]
  omega

theorem extGoverned_of_decode {w : Word} {i : Instr} {imm : BitVec 25} (hg : extGoverns imm w = true)
    (h : decodeWord w.toNat = some i) : extGoverned i = true := by
  have hgroup : setGroup w = 0x10 ∨ 0x12 ≤ setGroup w ∧ setGroup w ≤ 0x15 := by
    simp only [extGoverns, Bool.or_eq_true, Bool.and_eq_true, decide_eq_true_eq] at hg
    omega
  obtain hn | hn := hgroup
  · obtain ⟨h31, h26⟩ := fld_of_setGroup hn (by decide)
    rw [decodeWord_lane10 _ h31 h26] at h
    cases h
    rfl
  · obtain ⟨h31, h26⟩ := fld_of_setGroup (n := setGroup w) rfl (by omega)
    obtain ⟨hlo, hhi⟩ := hn
    interval_cases hn : setGroup w
    all_goals
      simp only [decodeWord, h31, h26, decodeLane12, decodeLane13, decodeLane14, decodeLane15] at h
      split_ifs at h <;> cases h <;> rfl

theorem patGoverned_of_decode {w : Word} {i : Instr} {pa pb : BitVec 8} (hg : patGoverns pa pb w = true)
    (h : decodeWord w.toNat = some i) : patGoverned i = true := by
  have hle : setGroup w ≤ 0x0B := by
    simp only [patGoverns, Bool.and_eq_true, decide_eq_true_eq] at hg
    exact hg.1.1.1
  obtain ⟨h31, h26⟩ := fld_of_setGroup (n := setGroup w) rfl (by omega)
  interval_cases hn : setGroup w
  all_goals
    simp only [decodeWord, h31, h26, decodeLane00, decodeLane01, decodeLane02, decodeLane03, decodeLane04, decodeLane05,
      decodeLane06, decodeLane07, decodeLane08, decodeLane09, decodeLane0A, decodeLane0B] at h
    split_ifs at h <;> cases h <;> rfl

/-! #### A governed word runs with its EXT or PAT -/

/-- The issue under way, with another EXT, another PAT or none. -/
def State.withPfx (s : State) (p : Pfx) : State := { s with cur := { s.cur with pfx := p } }

theorem execExt_governs {s : State} {imm : BitVec 25} {w : Word} {i : Instr} (hg : extGoverns imm w = true)
    (h : decodeWord w.toNat = some i) : exec (.ext imm w) s = exec i (s.withPfx (.ext imm)) := by
  have hi := extGoverned_of_decode hg h
  show execExt imm w s = _
  unfold execExt
  rw [hg, if_neg (by decide), h]
  cases i with
  | movi | ldB | ldSb | ldH | ldSh | ldW | ldD | ldQ | prf | stB | stH | stW | stD | stQ => rfl
  | _ => cases hi

theorem execPat_governs {s : State} {pa pb : BitVec 8} {w : Word} {i : Instr} (hg : patGoverns pa pb w = true)
    (h : decodeWord w.toNat = some i) : exec (.pat pa pb w) s = exec i (s.withPfx (.pat pa pb)) := by
  have hi := patGoverned_of_decode hg h
  show execPat pa pb w s = _
  unfold execPat
  rw [hg, if_neg (by decide), h]
  cases i with
  | iadd | isub | imul | imulh | imulhu | imad | imin | imax | iminu | imaxu | isel | iabsd | and | or | xor | andn | shl | shr
  | shra | rotl | popc | clz | brev | bfx | bfi | icmp | fcmp | mov | fadd | fsub | fmul | ffma | fmin | fmax | frnd | fcvt
  | hadd2 | hmul2 | hfma2 | hmax2 | badd2 | bmul2 | bfma2 | bmax2 | dadd | dmul | dfma | dcvt => rfl
  | _ => cases hi

/-- An EXT that governs MOVI holds the upper half of its immediate (R277). -/
theorem extGoverns_movi {w : Word} {imm : BitVec 25} {g : BitVec 3} {d : BitVec 7} {k : BitVec 16} (hg : extGoverns imm w = true)
    (h : decodeWord w.toNat = some (.movi g d k)) : imm.toNat < 65536 := by
  have hword := encodeWord_of_decodeWord w.isLt h
  rw [encodeWord_movi] at hword
  have := g.isLt
  have := d.isLt
  have := k.isLt
  have hgroup : setGroup w = 0x10 := by
    unfold setGroup
    omega
  simp only [extGoverns, hgroup, Bool.or_eq_true, Bool.and_eq_true, decide_eq_true_eq] at hg
  omega

theorem extOff_half {imm : BitVec 25} (h : imm.toNat < 65536) : (imm.signExtend 64).toNat % 65536 = imm.toNat := by
  have hmsb : imm.msb = false := by
    rw [BitVec.msb_eq_decide]
    simp
    omega
  rw [BitVec.signExtend_eq_setWidth_of_msb_false hmsb, BitVec.toNat_setWidth]
  omega

/-! #### An EXT or PAT that governs nothing -/

/-- Every thread of the subset traps at an EXT or PAT that may not govern the word after it (R279, R339). -/
theorem badPrefix_effect (s : State) (w : Word) (ho : outsideHandler s s.subset) :
    UnitEffect (s.withPfx .none) (s.badPrefix w) (s.withPfx .none)
      (lanesWith s.subset (fun _ => entered s w 0x101 s.cur.pc)) id :=
  Effect.ends (takeTraps_from (s.withPfx .none) (s.withPfx .none).advance (Effect.advance _) s.subset (subset_nodup s) (fun _ h => h) ho
    0x01 w (tcause 0x01 true false false false) s.cur.pc)

/-- Settles O36: a governed word is one of those that the meaning of EXT or PAT runs, with it in the issue under way; one that
governs nothing traps its subset. -/
theorem prefixes : Obligations.Prefixes := by
  unfold Obligations.Prefixes
  intro s imm pa pb w e p n
  refine ⟨fun i h => ⟨fun hg => execExt_governs hg h, fun hg => execPat_governs hg h⟩, fun g d k h hg hb => ?_,
    fun g d a b h hg hb => ?_, fun hg ho => ?_, fun hg ho => ?_⟩
  · obtain ⟨t, ht, heffect⟩ := ((laneIntegersAndMoves.2 e g d 0 0 k 0).2.1) hb
    refine ⟨t, (execExt_governs hg h).trans ht, Effect.lanesEq heffect fun l x => ?_⟩
    have hoff : e.cur.extOff.toNat % 65536 = imm.toNat := extOff_half (extGoverns_movi hg h)
    rw [hoff]
    rfl
  · obtain ⟨t, ht, heffect⟩ := (laneIntegersAndMoves.1 p g d a b hb).1
    exact ⟨t, (execPat_governs hg h).trans ht, heffect⟩
  · refine ⟨_, ?_, badPrefix_effect s _ ho⟩
    show execExt imm w s = _
    unfold execExt
    rw [hg]
    rfl
  · refine ⟨_, ?_, badPrefix_effect s _ ho⟩
    show execPat pa pb w s = _
    unfold execPat
    rw [hg]
    rfl

end Sys2Proof.Machine
